-- ==== Sys2Proof/Word.lean ====
section
/-!
DEFINITION. The word types of the Kekor 4096 (R4, R10, R11, R17).
-/

namespace Sys2Proof

/-- One byte of a memory. -/
abbrev Byte := BitVec 8

/-- A syllable: 32 bits (R11). -/
abbrev Syllable := BitVec 32

/-- A bundle: four syllables, 128 bits (R11). -/
abbrev Bundle := BitVec 128

/-- The contents of an x register or of a result-queue entry (R17). -/
abbrev XWord := BitVec 64

/-- The contents of a v register (R17). -/
abbrev VWord := BitVec 1024

/-- The contents of a lane mask (R17). -/
abbrev MWord := BitVec 128

/-- The contents of a tile register: 4 KiB (R17). -/
abbrev TileWord := BitVec 32768

end Sys2Proof
end

