-- ==== Sys2Proof/Config.lean ====
section
/-!
DEFINITION. What an implementation fixes and the values the spec leaves free. An opaque constant here has no value that
Lean can compute or a proof can use: what is stated of a result that holds one holds for every value.
-/

namespace Sys2Proof.Config

/-- A value that the spec leaves undefined (R7), by what draws it (a core's number, or 5000 for the package), a count of
that drawer's draws, and an index within the draw (log entry 11). -/
opaque freeValue : Nat → Nat → Nat → Nat

/-- Whether a piece of traffic that may proceed in a cycle does so in that cycle, drawn by a number that is not drawn twice
(R245, R303; log entry 2). -/
opaque proceeds : Nat → Bool

/-- Which of several leaves that disagree gives the physical address of an access, drawn by a number (R241; log entry 12). -/
opaque leafChoice : Nat → Nat

/-- Whether the unit that a repair names still has a spare for it: the kind of repair, its target, and how many repairs of
that kind have been accepted before (R426; log entry 26). -/
opaque spareLeft : Nat → Nat → Nat → Bool

end Sys2Proof.Config
end

