-- ==== Sys2Proof/Syntax.lean ====
section
/-!
DEFINITION. The instructions of the Kekor 4096 as data: one constructor for each row of spec/opcode_table.json.

A syllable form (R65 to R99) carries its operand fields as the encoding gives them, and the nine bits a header lends it
(R67): `l : Lend` for the lend kinds G, M, F and O, where a bundle without a header gives the kind's stated default;
`l : Option Lend` for kind I, where the presence of a header changes the width of the immediate (R69); no lend operand
for a form that requires all nine bits to be zero. A device step (95_what_each_step_holds.md) carries what the step is
about: a core, a partition, a port, the value written to a register.
-/

namespace Sys2Proof

/-- The nine bits that a header lends a syllable (R67). -/
abbrev Lend := BitVec 9

/-- What memory outside this package returns (host memory, R408; another package, R388): the data, the numbers of the bytes
that are poisoned (R226), and whether an aperture fault was found there instead (R249). -/
structure Reply where
  bytes : List Byte
  bad : List Nat
  fault : Bool
deriving DecidableEq, Repr

/-- A copy of a waggle packet (R394, R399): its key (stamp, source node, source sequence), the partition, the node it goes
to, the sender's user word and core, its payload, the numbers of the payload bytes that are poisoned (R226), and the hops it
has made (R388). -/
structure Packet where
  stamp : Nat
  node : Nat
  seq : Nat
  part : Nat
  dest : Nat
  user : XWord
  x : Nat
  y : Nat
  payload : List Byte
  bad : List Nat
  hops : Nat
deriving DecidableEq, Repr

/-- What a request from another package asks of this package's memory (R387, R388); `bad` numbers the bytes of a write that are
poisoned. -/
inductive RemoteKind where
  | read (bytes : Nat)
  | write (data : List Byte) (bad : List Nat)
  | amo (op size : Nat) (b c : Nat) (k s : BitVec 32) (va : Nat)
deriving DecidableEq, Repr

/-- A bulk request from another package: its destination and source node, partition, hop count, the number by which its answer
finds it, physical address and what it asks. -/
structure RemoteRequest where
  dest : Nat
  src : Nat
  part : Nat
  hops : Nat
  id : Nat
  pa : Nat
  kind : RemoteKind
deriving DecidableEq, Repr

/-- A contribution or partial sum of a collective on a link (R406): the fields by which it matches, its block, the ranks it
covers, and its elements: exponents for `coll.mx` (none when no element counts), and for each element of `coll.bs`, or once
for `coll.mx`, a sum with its status NAN, PINF, NINF and poison. -/
structure CollItem where
  op : Nat
  part : Nat
  ident : BitVec 64
  count : Nat
  parts : List (BitVec 32)
  block : Nat
  ranks : List Nat
  exps : List (Option Int)
  sums : List (Int × BitVec 4)
deriving DecidableEq, Repr

/-- What a rank of a collective sends to a participant on another package (R402, R405): the fields by which commands match, the
rank, its source bytes, and the numbers of those that are poisoned. -/
structure Contribution where
  op : Nat
  part : Nat
  ident : BitVec 64
  count : Nat
  parts : List (BitVec 32)
  rank : Nat
  bytes : List Byte
  bad : List Nat
deriving DecidableEq, Repr

/-- What a bulk flit carries (R387): a request, the answer to one by its number, a contribution, an item of a switch (R406), the
acknowledgement of a contribution by rank `by'` (R407), or that of a waggle copy by its source sequence (R399). -/
inductive BulkBody where
  | request (src id pa : Nat) (kind : RemoteKind)
  | answer (id : Nat) (r : Reply)
  | contribution (c : Contribution)
  | item (i : CollItem)
  | taken (ident : BitVec 64) (op rank by' : Nat)
  | delivered (seq : Nat)
deriving DecidableEq, Repr

/-- A bulk flit (R387, R388): its destination node, partition, hop count and contents. -/
structure Flit where
  dest : Nat
  part : Nat
  hops : Nat
  body : BulkBody
deriving DecidableEq, Repr

/-- A host access to BAR4 (R409): an address in the concatenated ranges, the bytes of a write or the count of a read, whether a
write is poisoned, and whether it is an AtomicOp instead (R408). -/
structure HostAccess where
  addr : Nat
  write : Bool
  bytes : List Byte
  poisoned : Bool
  atomic : Bool
deriving DecidableEq, Repr

/-- Where a host access to registers goes (R409, R414, R421): a register BAR, the MSI-X structure, or configuration space. -/
inductive HostSpace where
  | bar0 | bar2 | msix | config
deriving DecidableEq, Repr

/-- What a host access to registers is (R408, R409). -/
inductive HostOp where
  | write | read | atomic
deriving DecidableEq, Repr

/-- A host access to registers (R409): the function, the offset, whether it is 64 bits wide, where it goes and what it is. -/
structure HostReg where
  fn : Nat
  offset : Nat
  wide : Bool
  space : HostSpace
  op : HostOp
deriving DecidableEq, Repr

/-- An error of the device that some check finds (R226, R425, R427): in a word of a core's comb, at a fetch of instruction memory,
in another store of a core (0 x, 1 a, 2 v, 3 tiles, 4 banks, 5 table slots, 6 streams), in a word of memory, or on a lane or
link, with its KIND, unit and address. `double` marks an error that cannot be corrected. -/
inductive Upset where
  | comb (core word : Nat) (double : Bool)
  | fetch (core pc : Nat)
  | store (core file n : Nat)
  | memory (word : Nat) (double : Bool)
  | lane (kind unit : BitVec 8) (addr : BitVec 64)
deriving DecidableEq, Repr

/-- What power-on finds outside the modelled machine (R421): whether both signatures verify, the 16 measurements, the time
that PTM gives, the columns of each frame in which self-test finds a failed core (R375), the GiB of super tier that firmware
finds fitted (R2), for each pod port the input ports that route to it (R395), and the errors that the device will meet, each
with the package cycle in which it is found. -/
structure BootInput where
  signaturesOk : Bool
  measurements : List (BitVec 384)
  ptm : BitVec 48
  failed : List (BitVec 16)
  gib : BitVec 16
  feeds : List (BitVec 16)
  upsets : List (Nat × Upset)
deriving DecidableEq, Repr

/-- Every instruction and every device step of the Kekor: one constructor per row of the opcode table. -/
inductive Instr where
  -- SX, major 0x01: scalar integer, R74, R110 to R113
  /-- R110. Adds two scalars mod 2^64. -/
  | add (d : BitVec 6) (a : BitVec 6) (b : BitVec 6) (l : Lend)
  /-- R110. Subtracts two scalars. -/
  | sub (d : BitVec 6) (a : BitVec 6) (b : BitVec 6) (l : Lend)
  /-- R110. Low 64 bits of a product. -/
  | mul (d : BitVec 6) (a : BitVec 6) (b : BitVec 6) (l : Lend)
  /-- R110. High 64 bits of a signed product. -/
  | mulh (d : BitVec 6) (a : BitVec 6) (b : BitVec 6) (l : Lend)
  /-- R110. High 64 bits of an unsigned product. -/
  | mulhn (d : BitVec 6) (a : BitVec 6) (b : BitVec 6) (l : Lend)
  /-- R111. Signed quotient truncated toward zero. -/
  | div (d : BitVec 6) (a : BitVec 6) (b : BitVec 6) (l : Lend)
  /-- R111. Unsigned quotient. -/
  | divn (d : BitVec 6) (a : BitVec 6) (b : BitVec 6) (l : Lend)
  /-- R111. Signed remainder. -/
  | rem (d : BitVec 6) (a : BitVec 6) (b : BitVec 6) (l : Lend)
  /-- R111. Unsigned remainder. -/
  | remn (d : BitVec 6) (a : BitVec 6) (b : BitVec 6) (l : Lend)
  /-- R110. Bitwise and. -/
  | and (d : BitVec 6) (a : BitVec 6) (b : BitVec 6) (l : Lend)
  /-- R110. Bitwise or. -/
  | or (d : BitVec 6) (a : BitVec 6) (b : BitVec 6) (l : Lend)
  /-- R110. Bitwise exclusive or. -/
  | xor (d : BitVec 6) (a : BitVec 6) (b : BitVec 6) (l : Lend)
  /-- R110. A and not B. -/
  | andn (d : BitVec 6) (a : BitVec 6) (b : BitVec 6) (l : Lend)
  /-- R110. A or not B. -/
  | orn (d : BitVec 6) (a : BitVec 6) (b : BitVec 6) (l : Lend)
  /-- R112. Shift left by B[5:0]. -/
  | shl (d : BitVec 6) (a : BitVec 6) (b : BitVec 6) (l : Lend)
  /-- R112. Logical shift right. -/
  | shr (d : BitVec 6) (a : BitVec 6) (b : BitVec 6) (l : Lend)
  /-- R112. Arithmetic shift right. -/
  | sra (d : BitVec 6) (a : BitVec 6) (b : BitVec 6) (l : Lend)
  /-- R112. Rotate left. -/
  | rol (d : BitVec 6) (a : BitVec 6) (b : BitVec 6) (l : Lend)
  /-- R112. Rotate right. -/
  | ror (d : BitVec 6) (a : BitVec 6) (b : BitVec 6) (l : Lend)
  /-- R110. Signed minimum. -/
  | min (d : BitVec 6) (a : BitVec 6) (b : BitVec 6) (l : Lend)
  /-- R110. Signed maximum. -/
  | max (d : BitVec 6) (a : BitVec 6) (b : BitVec 6) (l : Lend)
  /-- R110. Unsigned minimum. -/
  | minn (d : BitVec 6) (a : BitVec 6) (b : BitVec 6) (l : Lend)
  /-- R110. Unsigned maximum. -/
  | maxn (d : BitVec 6) (a : BitVec 6) (b : BitVec 6) (l : Lend)
  /-- R110. Counts leading zero bits. -/
  | clz (d : BitVec 6) (a : BitVec 6) (l : Lend)
  /-- R110. Counts trailing zero bits. -/
  | ctz (d : BitVec 6) (a : BitVec 6) (l : Lend)
  /-- R110. Counts one bits. -/
  | popc (d : BitVec 6) (a : BitVec 6) (l : Lend)
  /-- R110. Reverses the eight bytes. -/
  | bswap (d : BitVec 6) (a : BitVec 6) (l : Lend)
  /-- R70. Selects A or B by its guard, and always writes. -/
  | sel (d : BitVec 6) (a : BitVec 6) (b : BitVec 6) (l : Lend)
  /-- R110. 32-bit add, sign-extended. -/
  | addw (d : BitVec 6) (a : BitVec 6) (b : BitVec 6) (l : Lend)
  /-- R110. 32-bit subtract, sign-extended. -/
  | subw (d : BitVec 6) (a : BitVec 6) (b : BitVec 6) (l : Lend)
  /-- R110. 32-bit multiply, sign-extended. -/
  | mulw (d : BitVec 6) (a : BitVec 6) (b : BitVec 6) (l : Lend)
  /-- R110. Sign-extends 8, 16 or 32 bits, chosen by a literal. -/
  | sext (d : BitVec 6) (a : BitVec 6) (w : BitVec 6) (l : Lend)
  /-- R112. Extracts a bit field. -/
  | bext (d : BitVec 6) (a : BitVec 6) (b : BitVec 6) (l : Lend)
  /-- R112. Inserts a bit field into X[d]. -/
  | bins (d : BitVec 6) (a : BitVec 6) (b : BitVec 6) (l : Lend)
  /-- R113. 1 if A = B. -/
  | cmpEq (d : BitVec 6) (a : BitVec 6) (b : BitVec 6) (l : Lend)
  /-- R113. 1 if A ≠ B. -/
  | cmpNe (d : BitVec 6) (a : BitVec 6) (b : BitVec 6) (l : Lend)
  /-- R113. Signed less-than. -/
  | cmpLt (d : BitVec 6) (a : BitVec 6) (b : BitVec 6) (l : Lend)
  /-- R113. Signed greater-or-equal. -/
  | cmpGe (d : BitVec 6) (a : BitVec 6) (b : BitVec 6) (l : Lend)
  /-- R113. Unsigned less-than. -/
  | cmpLtn (d : BitVec 6) (a : BitVec 6) (b : BitVec 6) (l : Lend)
  /-- R113. Unsigned greater-or-equal. -/
  | cmpGen (d : BitVec 6) (a : BitVec 6) (b : BitVec 6) (l : Lend)
  /-- R113. 1 if (A and B) ≠ 0. -/
  | cmpTst (d : BitVec 6) (a : BitVec 6) (b : BitVec 6) (l : Lend)
  -- SI, major 0x02: scalar immediate, R75, R114
  /-- R114. Adds an immediate. -/
  | addi (d : BitVec 6) (a : BitVec 6) (i : BitVec 11) (l : Option Lend)
  /-- R114. And with an immediate. -/
  | andi (d : BitVec 6) (a : BitVec 6) (i : BitVec 11) (l : Option Lend)
  /-- R114. Or with an immediate. -/
  | ori (d : BitVec 6) (a : BitVec 6) (i : BitVec 11) (l : Option Lend)
  /-- R114. Xor with an immediate. -/
  | xori (d : BitVec 6) (a : BitVec 6) (i : BitVec 11) (l : Option Lend)
  /-- R114. Shift left by an immediate. -/
  | shli (d : BitVec 6) (a : BitVec 6) (i : BitVec 11) (l : Option Lend)
  /-- R114. Logical shift right by an immediate. -/
  | shri (d : BitVec 6) (a : BitVec 6) (i : BitVec 11) (l : Option Lend)
  /-- R114. Arithmetic shift right by an immediate. -/
  | srai (d : BitVec 6) (a : BitVec 6) (i : BitVec 11) (l : Option Lend)
  /-- R114. Multiplies by an immediate. -/
  | muli (d : BitVec 6) (a : BitVec 6) (i : BitVec 11) (l : Option Lend)
  /-- R114. 1 if A equals the immediate. -/
  | cmpiEq (d : BitVec 6) (a : BitVec 6) (i : BitVec 11) (l : Option Lend)
  /-- R114. 1 if A differs from the immediate. -/
  | cmpiNe (d : BitVec 6) (a : BitVec 6) (i : BitVec 11) (l : Option Lend)
  /-- R114. Signed compare with the immediate. -/
  | cmpiLt (d : BitVec 6) (a : BitVec 6) (i : BitVec 11) (l : Option Lend)
  /-- R114. Unsigned compare with the immediate. -/
  | cmpiLtn (d : BitVec 6) (a : BitVec 6) (i : BitVec 11) (l : Option Lend)
  -- SL, major 0x03: long immediate, R76, R115
  /-- R115. Loads a sign-extended immediate. -/
  | li (d : BitVec 6) (i : BitVec 20) (l : Option Lend)
  /-- R115. Shifts X[d] left and inserts an unsigned immediate. -/
  | lic (d : BitVec 6) (i : BitVec 20) (l : Option Lend)
  -- SF, major 0x04: scalar floating point, R77, R116 to R122
  /-- R117. Scalar floating add. -/
  | fadd (d : BitVec 6) (a : BitVec 6) (b : BitVec 6) (t : BitVec 4) (l : Lend)
  /-- R117. Scalar floating subtract. -/
  | fsub (d : BitVec 6) (a : BitVec 6) (b : BitVec 6) (t : BitVec 4) (l : Lend)
  /-- R117. Scalar floating multiply. -/
  | fmul (d : BitVec 6) (a : BitVec 6) (b : BitVec 6) (t : BitVec 4) (l : Lend)
  /-- R117. Fused multiply-add into d. -/
  | fma (d : BitVec 6) (a : BitVec 6) (b : BitVec 6) (t : BitVec 4) (l : Lend)
  /-- R117. Correctly rounded divide. -/
  | fdiv (d : BitVec 6) (a : BitVec 6) (b : BitVec 6) (t : BitVec 4) (l : Lend)
  /-- R117. Correctly rounded square root. -/
  | fsqrt (d : BitVec 6) (a : BitVec 6) (t : BitVec 4) (l : Lend)
  /-- R118. Floating minimum. -/
  | fmin (d : BitVec 6) (a : BitVec 6) (b : BitVec 6) (t : BitVec 4) (l : Lend)
  /-- R118. Floating maximum. -/
  | fmax (d : BitVec 6) (a : BitVec 6) (b : BitVec 6) (t : BitVec 4) (l : Lend)
  /-- R118. Absolute value. -/
  | fabs (d : BitVec 6) (a : BitVec 6) (t : BitVec 4) (l : Lend)
  /-- R118. Negation. -/
  | fneg (d : BitVec 6) (a : BitVec 6) (t : BitVec 4) (l : Lend)
  /-- R119. Floating equality compare. -/
  | fcmpEq (d : BitVec 6) (a : BitVec 6) (b : BitVec 6) (t : BitVec 4) (l : Lend)
  /-- R120. Writes a class word. -/
  | fclass (d : BitVec 6) (a : BitVec 6) (t : BitVec 4) (l : Lend)
  /-- R121. Converts between floating types. -/
  | fcvt (d : BitVec 6) (a : BitVec 6) (u : BitVec 6) (t : BitVec 4) (l : Lend)
  /-- R121. Converts to a 64-bit integer under a literal mode. -/
  | fcvti (d : BitVec 6) (a : BitVec 6) (m : BitVec 6) (t : BitVec 4) (l : Lend)
  /-- R121. Converts a 64-bit integer to floating point. -/
  | fcvtf (d : BitVec 6) (a : BitVec 6) (t : BitVec 4) (l : Lend)
  /-- R119. Floating less-than compare. -/
  | fcmpLt (d : BitVec 6) (a : BitVec 6) (b : BitVec 6) (t : BitVec 4) (l : Lend)
  /-- R119. Floating less-or-equal compare. -/
  | fcmpLe (d : BitVec 6) (a : BitVec 6) (b : BitVec 6) (t : BitVec 4) (l : Lend)
  /-- R119. Unordered compare. -/
  | fcmpUn (d : BitVec 6) (a : BitVec 6) (b : BitVec 6) (t : BitVec 4) (l : Lend)
  -- SB, major 0x05: branches, R78, R123
  /-- R123. Unconditional branch after three delay bundles. -/
  | br (o : BitVec 23)
  /-- R123. Branches on a predicate after three delay bundles. -/
  | brc (p : BitVec 3) (n : Bool) (o : BitVec 23)
  -- SC, major 0x06: control, R79
  /-- R130. Does nothing. -/
  | nop
  /-- R124. Calls an absolute target and links into x31. -/
  | call (t : BitVec 12) (l : Lend)
  /-- R124. Returns to X[31][11:0]. -/
  | ret (l : Lend)
  /-- R124. Jumps to a register target. -/
  | jr (a : BitVec 6) (l : Lend)
  /-- R28. Starts a counted zero-overhead loop. -/
  | loop (a : BitVec 6) (e : BitVec 12)
  /-- R215. A safe point at which a pending request gives up the core. -/
  | safe (m : BitVec 9)
  /-- R215. A safe point that also gives up the core to a ready card. -/
  | yield (m : BitVec 9)
  /-- R220. Ends the task. -/
  | endTask (l : Lend)
  /-- R204. Posts a card from the comb to a queue and pushes its status. -/
  | post (a : BitVec 6) (y : BitVec 6) (x : BitVec 6) (k : BitVec 2) (l : Lend)
  /-- R219. Arrives at a group barrier and freezes until release. -/
  | gbar (s : BitVec 2) (l : Lend)
  /-- R291. Waits until a cell is FULL or DRAINING. -/
  | wait (c : BitVec 6) (l : Lend)
  /-- R128. Raises a fatal trap fault with a code. -/
  | trap (c : BitVec 15) (l : Lend)
  /-- R129. Raises a held breakpoint fault. -/
  | brk (c : BitVec 15) (l : Lend)
  /-- R127. Branches if a scalar is poisoned. -/
  | chk (a : BitVec 6) (o : BitVec 15)
  /-- R127. Branches if a v register is poisoned. -/
  | chkv (v : BitVec 6) (o : BitVec 15)
  -- SM, major 0x07: global scalar memory, R80, R273 to R275
  /-- R273. Global load, zero-extended, with an immediate offset. -/
  | ldImm (r : BitVec 6) (h : BitVec 4) (s : BitVec 2) (i : BitVec 12) (l : Option Lend)
  /-- R273. Global load, zero-extended, with an index register. -/
  | ldIndexed (r : BitVec 6) (h : BitVec 4) (s : BitVec 2) (x : BitVec 6) (i : BitVec 6) (l : Lend)
  /-- R273. Global load, sign-extended, with an immediate offset. -/
  | ldxImm (r : BitVec 6) (h : BitVec 4) (s : BitVec 2) (i : BitVec 12) (l : Option Lend)
  /-- R273. Global load, sign-extended, with an index register. -/
  | ldxIndexed (r : BitVec 6) (h : BitVec 4) (s : BitVec 2) (x : BitVec 6) (i : BitVec 6) (l : Lend)
  /-- R275. Posted global store with an immediate offset. -/
  | stImm (r : BitVec 6) (h : BitVec 4) (s : BitVec 2) (i : BitVec 12) (l : Option Lend)
  /-- R275. Posted global store with an index register. -/
  | stIndexed (r : BitVec 6) (h : BitVec 4) (s : BitVec 2) (x : BitVec 6) (i : BitVec 6) (l : Lend)
  /-- R274. Speculative load with deferred faults and an immediate offset. -/
  | ldSImm (r : BitVec 6) (h : BitVec 4) (s : BitVec 2) (i : BitVec 12) (l : Option Lend)
  /-- R274. Speculative load with deferred faults and an index register. -/
  | ldSIndexed (r : BitVec 6) (h : BitVec 4) (s : BitVec 2) (x : BitVec 6) (i : BitVec 6) (l : Lend)
  -- SA, major 0x08: atomics, fences and translation, R81
  /-- R278. Atomic integer add. -/
  | amoAdd (d : BitVec 6) (h : BitVec 4) (b : BitVec 6) (c : BitVec 2) (z : BitVec 2) (o : BitVec 2) (l : Lend)
  /-- R278. Atomic and. -/
  | amoAnd (d : BitVec 6) (h : BitVec 4) (b : BitVec 6) (c : BitVec 2) (z : BitVec 2) (o : BitVec 2) (l : Lend)
  /-- R278. Atomic or. -/
  | amoOr (d : BitVec 6) (h : BitVec 4) (b : BitVec 6) (c : BitVec 2) (z : BitVec 2) (o : BitVec 2) (l : Lend)
  /-- R278. Atomic xor. -/
  | amoXor (d : BitVec 6) (h : BitVec 4) (b : BitVec 6) (c : BitVec 2) (z : BitVec 2) (o : BitVec 2) (l : Lend)
  /-- R278. Atomic signed minimum. -/
  | amoMin (d : BitVec 6) (h : BitVec 4) (b : BitVec 6) (c : BitVec 2) (z : BitVec 2) (o : BitVec 2) (l : Lend)
  /-- R278. Atomic signed maximum. -/
  | amoMax (d : BitVec 6) (h : BitVec 4) (b : BitVec 6) (c : BitVec 2) (z : BitVec 2) (o : BitVec 2) (l : Lend)
  /-- R278. Atomic unsigned minimum. -/
  | amoMinn (d : BitVec 6) (h : BitVec 4) (b : BitVec 6) (c : BitVec 2) (z : BitVec 2) (o : BitVec 2) (l : Lend)
  /-- R278. Atomic unsigned maximum. -/
  | amoMaxn (d : BitVec 6) (h : BitVec 4) (b : BitVec 6) (c : BitVec 2) (z : BitVec 2) (o : BitVec 2) (l : Lend)
  /-- R278. Atomic swap. -/
  | amoSwap (d : BitVec 6) (h : BitVec 4) (b : BitVec 6) (c : BitVec 2) (z : BitVec 2) (o : BitVec 2) (l : Lend)
  /-- R278. Atomic compare-and-swap. -/
  | amoCas (d : BitVec 6) (h : BitVec 4) (b : BitVec 6) (c : BitVec 2) (z : BitVec 2) (o : BitVec 2) (l : Lend)
  /-- R279. Atomic floating add under RNE. -/
  | amoFadd (d : BitVec 6) (h : BitVec 4) (b : BitVec 6) (c : BitVec 2) (z : BitVec 2) (o : BitVec 2) (l : Lend)
  /-- R280. Atomic bfloat16 add with stochastic rounding. -/
  | amoAddsr (d : BitVec 6) (h : BitVec 4) (b : BitVec 6) (c : BitVec 2) (o : BitVec 2) (l : Lend)
  /-- R282. Holds the core until the ordered accesses are performed within scope. -/
  | fence (c : BitVec 2) (o : BitVec 2)
  /-- R283. Holds the core until every engine command it has issued is complete. -/
  | fenceE
  /-- R285. Walks translation and binds a handle with a permission. -/
  | probe (d : BitVec 6) (h : BitVec 4) (b : BitVec 6) (p : BitVec 2)
  /-- R286. Binds a handle from TLB entries already present, or invalidates it. -/
  | xlat (d : BitVec 6) (h : BitVec 4) (b : BitVec 6) (p : BitVec 2)
  /-- R287. Invalidates a handle. -/
  | hinv (h : BitVec 4)
  /-- R288. Reads an item of a handle's binding. -/
  | hinfo (d : BitVec 6) (h : BitVec 4) (b : BitVec 6)
  -- SS, major 0x09: system registers, R82
  /-- R131. Reads a system register. -/
  | mfsr (r : BitVec 6) (s : BitVec 12) (l : Lend)
  /-- R132. Writes a system register, effective from the next bundle. -/
  | mtsr (r : BitVec 6) (s : BitVec 12) (l : Lend)
  -- SCM, major 0x0A: comb scalar access, R83
  /-- R135. Comb load, zero-extended, with an immediate offset. -/
  | ldcImm (r : BitVec 6) (c : BitVec 6) (z : BitVec 2) (i : BitVec 10) (l : Option Lend)
  /-- R135. Comb load, zero-extended, with an index register. -/
  | ldcIndexed (r : BitVec 6) (c : BitVec 6) (z : BitVec 2) (x : BitVec 6) (i : BitVec 4) (l : Lend)
  /-- R135. Comb load, sign-extended, with an immediate offset. -/
  | ldcxImm (r : BitVec 6) (c : BitVec 6) (z : BitVec 2) (i : BitVec 10) (l : Option Lend)
  /-- R135. Comb load, sign-extended, with an index register. -/
  | ldcxIndexed (r : BitVec 6) (c : BitVec 6) (z : BitVec 2) (x : BitVec 6) (i : BitVec 4) (l : Lend)
  /-- R136. Comb store with an immediate offset. -/
  | stcImm (r : BitVec 6) (c : BitVec 6) (z : BitVec 2) (i : BitVec 10) (l : Option Lend)
  /-- R136. Comb store with an index register. -/
  | stcIndexed (r : BitVec 6) (c : BitVec 6) (z : BitVec 2) (x : BitVec 6) (i : BitVec 4) (l : Lend)
  -- VI, major 0x0C: vector integer, R85
  /-- R142. Lane-wise integer add. -/
  | vadd (w : BitVec 2) (d : BitVec 6) (a : BitVec 6) (b : BitVec 6) (t : BitVec 3) (l : Lend)
  /-- R142. Lane-wise integer subtract. -/
  | vsub (w : BitVec 2) (d : BitVec 6) (a : BitVec 6) (b : BitVec 6) (t : BitVec 3) (l : Lend)
  /-- R142. Lane-wise low product. -/
  | vmul (w : BitVec 2) (d : BitVec 6) (a : BitVec 6) (b : BitVec 6) (t : BitVec 3) (l : Lend)
  /-- R142. Lane-wise high product. -/
  | vmulh (w : BitVec 2) (d : BitVec 6) (a : BitVec 6) (b : BitVec 6) (t : BitVec 3) (l : Lend)
  /-- R142. Lane-wise minimum. -/
  | vmin (w : BitVec 2) (d : BitVec 6) (a : BitVec 6) (b : BitVec 6) (t : BitVec 3) (l : Lend)
  /-- R142. Lane-wise maximum. -/
  | vmax (w : BitVec 2) (d : BitVec 6) (a : BitVec 6) (b : BitVec 6) (t : BitVec 3) (l : Lend)
  /-- R142. Lane-wise and. -/
  | vand (w : BitVec 2) (d : BitVec 6) (a : BitVec 6) (b : BitVec 6) (t : BitVec 3) (l : Lend)
  /-- R142. Lane-wise or. -/
  | vor (w : BitVec 2) (d : BitVec 6) (a : BitVec 6) (b : BitVec 6) (t : BitVec 3) (l : Lend)
  /-- R142. Lane-wise xor. -/
  | vxor (w : BitVec 2) (d : BitVec 6) (a : BitVec 6) (b : BitVec 6) (t : BitVec 3) (l : Lend)
  /-- R142. Lane-wise shift left. -/
  | vshl (w : BitVec 2) (d : BitVec 6) (a : BitVec 6) (b : BitVec 6) (t : BitVec 3) (l : Lend)
  /-- R142. Lane-wise shift right. -/
  | vshr (w : BitVec 2) (d : BitVec 6) (a : BitVec 6) (b : BitVec 6) (t : BitVec 3) (l : Lend)
  /-- R142. Lane-wise absolute value. -/
  | vabs (w : BitVec 2) (d : BitVec 6) (a : BitVec 6) (t : BitVec 3) (l : Lend)
  /-- R142. Saturating add. -/
  | vadds (w : BitVec 2) (d : BitVec 6) (a : BitVec 6) (b : BitVec 6) (t : BitVec 3) (l : Lend)
  /-- R142. Saturating subtract. -/
  | vsubs (w : BitVec 2) (d : BitVec 6) (a : BitVec 6) (b : BitVec 6) (t : BitVec 3) (l : Lend)
  /-- R143. Integer compare into a mask. -/
  | vcmp (w : BitVec 2) (d : BitVec 3) (a : BitVec 6) (b : BitVec 6) (t : BitVec 3) (l : Lend)
  /-- R144. Four-way byte dot product accumulated into 32-bit lanes. -/
  | vdot4 (w : BitVec 2) (d : BitVec 6) (a : BitVec 6) (b : BitVec 6) (t : BitVec 3) (l : Lend)
  -- VF, major 0x0D: vector floating point, R86
  /-- R146. Vector floating add. -/
  | vfadd (w : BitVec 2) (d : BitVec 6) (a : BitVec 6) (b : BitVec 6) (t : BitVec 3) (l : Lend)
  /-- R146. Vector floating subtract. -/
  | vfsub (w : BitVec 2) (d : BitVec 6) (a : BitVec 6) (b : BitVec 6) (t : BitVec 3) (l : Lend)
  /-- R146. Vector floating multiply. -/
  | vfmul (w : BitVec 2) (d : BitVec 6) (a : BitVec 6) (b : BitVec 6) (t : BitVec 3) (l : Lend)
  /-- R146. Vector fused multiply-add. -/
  | vfma (w : BitVec 2) (d : BitVec 6) (a : BitVec 6) (b : BitVec 6) (t : BitVec 3) (l : Lend)
  /-- R146. Vector fused c − a × b. -/
  | vfnma (w : BitVec 2) (d : BitVec 6) (a : BitVec 6) (b : BitVec 6) (t : BitVec 3) (l : Lend)
  /-- R147. Vector floating minimum. -/
  | vfmin (w : BitVec 2) (d : BitVec 6) (a : BitVec 6) (b : BitVec 6) (t : BitVec 3) (l : Lend)
  /-- R147. Vector floating maximum. -/
  | vfmax (w : BitVec 2) (d : BitVec 6) (a : BitVec 6) (b : BitVec 6) (t : BitVec 3) (l : Lend)
  /-- R147. Vector absolute value. -/
  | vfabs (w : BitVec 2) (d : BitVec 6) (a : BitVec 6) (t : BitVec 3) (l : Lend)
  /-- R147. Vector negation. -/
  | vfneg (w : BitVec 2) (d : BitVec 6) (a : BitVec 6) (t : BitVec 3) (l : Lend)
  /-- R148. Floating compare into a mask. -/
  | vfcmp (w : BitVec 2) (d : BitVec 3) (a : BitVec 6) (b : BitVec 6) (t : BitVec 3) (l : Lend)
  /-- R148. Class word per lane. -/
  | vfclass (w : BitVec 2) (d : BitVec 6) (a : BitVec 6) (t : BitVec 3) (l : Lend)
  /-- R146. Scales by a power of two. -/
  | vfscl (w : BitVec 2) (d : BitVec 6) (a : BitVec 6) (b : BitVec 6) (t : BitVec 3) (l : Lend)
  /-- R149. Selects lanes of va or vb by mask. -/
  | vfsel (w : BitVec 2) (d : BitVec 6) (a : BitVec 6) (b : BitVec 6) (t : BitVec 3) (l : Lend)
  -- VX, major 0x0E: vector conversions, R87
  /-- R151. Converts lanes between formats. -/
  | vcvt (w : BitVec 2) (d : BitVec 6) (a : BitVec 6) (f : BitVec 5) (s : Bool) (m : BitVec 3) (l : Lend)
  /-- R152. Quantises to MX blocks. -/
  | vqnt (w : BitVec 2) (d : BitVec 6) (a : BitVec 6) (f : BitVec 5) (s : Bool) (m : BitVec 3) (l : Lend)
  /-- R153. Dequantises from MX blocks. -/
  | vdeq (w : BitVec 2) (d : BitVec 6) (a : BitVec 6) (f : BitVec 5) (s : Bool) (m : BitVec 3) (l : Lend)
  /-- R154. Block quantises with binary32 scales. -/
  | vbq (w : BitVec 2) (d : BitVec 6) (a : BitVec 6) (f : BitVec 5) (s : Bool) (m : BitVec 3) (l : Lend)
  /-- R155. Block dequantises with binary32 scales. -/
  | vbdq (w : BitVec 2) (d : BitVec 6) (a : BitVec 6) (f : BitVec 5) (s : Bool) (m : BitVec 3) (l : Lend)
  /-- R156. Writes generator values per lane. -/
  | vrng (w : BitVec 2) (d : BitVec 6) (l : Lend)
  -- VS, major 0x0F: special functions, R88
  /-- R157. Correctly rounded reciprocal. -/
  | vrecip (w : BitVec 2) (d : BitVec 6) (a : BitVec 6) (t : BitVec 3) (l : Lend)
  /-- R157. Correctly rounded reciprocal square root. -/
  | vrsqrt (w : BitVec 2) (d : BitVec 6) (a : BitVec 6) (t : BitVec 3) (l : Lend)
  /-- R157. Correctly rounded square root. -/
  | vsqrt (w : BitVec 2) (d : BitVec 6) (a : BitVec 6) (t : BitVec 3) (l : Lend)
  /-- R157. Correctly rounded divide. -/
  | vdiv (w : BitVec 2) (d : BitVec 6) (a : BitVec 6) (b : BitVec 6) (t : BitVec 3) (l : Lend)
  /-- R157. Correctly rounded 2^a. -/
  | vexp2 (w : BitVec 2) (d : BitVec 6) (a : BitVec 6) (t : BitVec 3) (l : Lend)
  /-- R157. Correctly rounded log2. -/
  | vlog2 (w : BitVec 2) (d : BitVec 6) (a : BitVec 6) (t : BitVec 3) (l : Lend)
  /-- R157. Correctly rounded e^a. -/
  | vexp (w : BitVec 2) (d : BitVec 6) (a : BitVec 6) (t : BitVec 3) (l : Lend)
  -- VP, major 0x10: permutes, moves and masks, R89
  /-- R158. Moves lanes. -/
  | vmov (w : BitVec 2) (d : BitVec 6) (a : BitVec 6) (t : BitVec 3) (l : Lend)
  /-- R158. Broadcasts a scalar. -/
  | vbcst (w : BitVec 2) (d : BitVec 6) (a : BitVec 6) (t : BitVec 3) (l : Lend)
  /-- R158. Broadcasts an immediate. -/
  | vli (w : BitVec 2) (d : BitVec 6) (t : BitVec 3) (l : Lend)
  /-- R159. Permutes lanes by an index vector. -/
  | vperm (w : BitVec 2) (d : BitVec 6) (a : BitVec 6) (b : BitVec 6) (t : BitVec 3) (l : Lend)
  /-- R159. Shuffles lanes by a literal pattern. -/
  | vshuf (w : BitVec 2) (d : BitVec 6) (a : BitVec 6) (p : BitVec 6) (t : BitVec 3) (l : Lend)
  /-- R159. Rotates lanes. -/
  | vrot (w : BitVec 2) (d : BitVec 6) (a : BitVec 6) (c : BitVec 6) (t : BitVec 3) (l : Lend)
  /-- R160. Horizontal reduction into lane 0. -/
  | vred (w : BitVec 2) (d : BitVec 6) (a : BitVec 6) (t : BitVec 3) (l : Lend)
  /-- R161. Mask logic, pushing the popcount. -/
  | vmsk (w : BitVec 2) (d : BitVec 3) (a : BitVec 3) (b : BitVec 3) (l : Lend)
  /-- R162. Pushes a lane to the last-result queue. -/
  | vxtr (w : BitVec 2) (a : BitVec 6) (n : BitVec 6) (t : BitVec 3)
  /-- R162. Inserts a scalar into a lane. -/
  | vins (w : BitVec 2) (d : BitVec 6) (a : BitVec 6) (n : BitVec 6) (t : BitVec 3)
  /-- R161. Copies bits of a vector into a mask. -/
  | vbitx (w : BitVec 2) (d : BitVec 3) (a : BitVec 6)
  /-- R163. Compresses active lanes. -/
  | vcmpr (w : BitVec 2) (d : BitVec 6) (a : BitVec 6) (t : BitVec 3) (l : Lend)
  /-- R163. Expands into active lanes. -/
  | vexpd (w : BitVec 2) (d : BitVec 6) (a : BitVec 6) (t : BitVec 3) (l : Lend)
  -- VM, major 0x11: vector memory, R90
  /-- R166. Contiguous comb vector load. -/
  | vld (w : BitVec 2) (v : BitVec 6) (c : BitVec 6) (x : BitVec 6) (i : BitVec 4) (l : Option Lend)
  /-- R166. Contiguous comb vector store. -/
  | vst (w : BitVec 2) (v : BitVec 6) (c : BitVec 6) (x : BitVec 6) (i : BitVec 4) (l : Option Lend)
  /-- R167. Comb gather. -/
  | vgat (w : BitVec 2) (v : BitVec 6) (c : BitVec 6) (x : BitVec 6) (i : BitVec 4) (l : Lend)
  /-- R167. Comb scatter. -/
  | vsct (w : BitVec 2) (v : BitVec 6) (c : BitVec 6) (x : BitVec 6) (i : BitVec 4) (l : Lend)
  /-- R289. Global vector load. -/
  | vldg (w : BitVec 2) (v : BitVec 6) (h : BitVec 4) (x : BitVec 6) (i : BitVec 4) (l : Option Lend)
  /-- R289. Posted global vector store. -/
  | vstg (w : BitVec 2) (v : BitVec 6) (h : BitVec 4) (x : BitVec 6) (i : BitVec 4) (l : Option Lend)
  /-- R290. Global vector load with deferred faults. -/
  | vldS (w : BitVec 2) (v : BitVec 6) (h : BitVec 4) (x : BitVec 6) (i : BitVec 4) (l : Option Lend)
  -- VQ, major 0x12: vector and quire, R91
  /-- R193. Adds a vector into a quire row. -/
  | vqadd (q : BitVec 1) (r : BitVec 6) (v : BitVec 6) (f : BitVec 5) (l : Lend)
  /-- R193. Rounds a quire row into a vector. -/
  | vqr (q : BitVec 1) (r : BitVec 6) (v : BitVec 6) (f : BitVec 5) (m : BitVec 3) (l : Lend)
  /-- R194. Clears eight full quires. -/
  | vqz (q : BitVec 1) (r : BitVec 6) (l : Lend)
  -- MM, major 0x14: multiply-accumulate, R92
  /-- R181. Tile multiply-accumulate into a quire bank. -/
  | mma (q : BitVec 1) (a : BitVec 4) (b : BitVec 4) (f : BitVec 5) (z : Bool) (t : Bool)
  /-- R181. Negated tile multiply-accumulate. -/
  | mmn (q : BitVec 1) (a : BitVec 4) (b : BitVec 4) (f : BitVec 5) (z : Bool) (t : Bool)
  /-- R182. MX-scaled multiply-accumulate using the latches. -/
  | mmx (q : BitVec 1) (a : BitVec 4) (b : BitVec 4) (f : BitVec 5) (z : Bool) (t : Bool)
  /-- R184. Structured-sparse multiply-accumulate. -/
  | mms (q : BitVec 1) (a : BitVec 4) (b : BitVec 4) (c : BitVec 4) (f : BitVec 5) (z : Bool) (t : Bool)
  /-- R185. Multiply-accumulate with B drawn from a decode stream. -/
  | mmz (q : BitVec 1) (a : BitVec 4) (s : BitVec 1) (f : BitVec 5) (z : Bool)
  -- MQ, major 0x15: quire operations, R93
  /-- R186. Clears a bank. -/
  | qzero (q : BitVec 1)
  /-- R187. Rounds a bank into a tile. -/
  | qrnd (q : BitVec 1) (t : BitVec 4) (f : BitVec 5) (m : BitVec 3) (s : Bool)
  /-- R190. Stores a bank to a cell. -/
  | qst (q : BitVec 1) (c : BitVec 6) (l : Lend)
  /-- R190. Loads a bank from a cell. -/
  | qld (q : BitVec 1) (c : BitVec 6) (l : Lend)
  /-- R189. Masks slots with NINF from a bitmap tile. -/
  | qmsk (q : BitVec 1) (t : BitVec 4)
  /-- R186. Adds the other bank exactly. -/
  | qadd (q : BitVec 1)
  /-- R186. Scales a bank by a power of two. -/
  | qscl (q : BitVec 1) (e : BitVec 10)
  /-- R188. Replaces a bank from a tile. -/
  | qtl (q : BitVec 1) (t : BitVec 4) (f : BitVec 5)
  -- MT, major 0x16: tile moves, R94
  /-- R191. Loads a tile from a cell. -/
  | tld (d : BitVec 4) (c : BitVec 6) (i : BitVec 9) (l : Option Lend)
  /-- R191. Stores a tile to a cell. -/
  | tst (a : BitVec 4) (c : BitVec 6) (i : BitVec 9) (l : Option Lend)
  /-- R192. Copies tile bytes. -/
  | tmov (d : BitVec 4) (a : BitVec 4)
  /-- R192. Transposes a tile. -/
  | ttr (d : BitVec 4) (a : BitVec 4)
  /-- R192. Converts tile elements. -/
  | tcvt (d : BitVec 4) (a : BitVec 4) (s : Bool) (m : BitVec 3)
  /-- R192. Zeroes a tile. -/
  | tzero (d : BitVec 4)
  -- ML, major 0x17: latches and row statistics, R95
  /-- R183. Loads the MX scale latches from scale tiles. -/
  | msl (h : BitVec 1) (a : BitVec 4) (b : BitVec 4) (r : BitVec 4) (f : BitVec 5)
  /-- R312. Row statistics of a bank into a vector. -/
  | rstat (d : BitVec 6) (q : BitVec 1) (f : BitVec 5) (s : BitVec 2)
  -- CG, major 0x19: copies with global memory, R96
  /-- R331. Copies global rows into a cell (fill). -/
  | cpG2c (c : BitVec 6) (h : BitVec 4) (o : BitVec 6) (n : BitVec 6) (t : Bool) (l : Lend)
  /-- R332. Copies a cell out to global rows. -/
  | cpC2g (c : BitVec 6) (h : BitVec 4) (o : BitVec 6) (n : BitVec 6) (k : Bool)
  /-- R333. Gathers indexed global elements into a cell. -/
  | cpGat (c : BitVec 6) (h : BitVec 4) (o : BitVec 6) (n : BitVec 6) (t : Bool) (l : Lend)
  /-- R333. Scatters cell rows to indexed global elements. -/
  | cpSct (c : BitVec 6) (h : BitVec 4) (o : BitVec 6) (n : BitVec 6)
  /-- R334. Gathers bitmap-selected rows into a cell. -/
  | cpBmg (c : BitVec 6) (h : BitVec 4) (o : BitVec 6) (n : BitVec 6) (t : Bool) (l : Lend)
  /-- R335. Copies global rows to global rows. -/
  | cpG2g (h : BitVec 4) (o : BitVec 6) (n : BitVec 6) (l : Lend)
  /-- R337. Loads an instruction-memory overlay region. -/
  | cpOvl (r : BitVec 4) (h : BitVec 4) (o : BitVec 6)
  -- CR, major 0x1A: remote writes and cells, R97
  /-- R339. Writes a whole cell into another core's cell. -/
  | cpC2r (c : BitVec 6) (a : BitVec 6) (b : BitVec 6)
  /-- R294. Creates a cell in EMPTY. -/
  | cellArm (c : BitVec 6) (a : BitVec 6) (b : BitVec 6)
  /-- R294. Seals a cell with a tag. -/
  | cellSeal (c : BitVec 6) (t : BitVec 6) (l : Lend)
  /-- R294. Frees a cell. -/
  | cellFree (c : BitVec 6)
  /-- R294. Sets the expected tag. -/
  | cellExpect (c : BitVec 6) (a : BitVec 6)
  /-- R294. Opens a cell to one remote writer. -/
  | cellOpen (c : BitVec 6) (a : BitVec 6)
  -- CD, major 0x1B: decoder commands, R98
  /-- R318. Loads a decoder table slot from a tables cell. -/
  | decTab (c : BitVec 6) (s : BitVec 2)
  /-- R320. Opens a decode stream on a tile. -/
  | decOpen (c : BitVec 6) (t : BitVec 2) (s : BitVec 2) (i : BitVec 12) (l : Lend)
  /-- R320. Restarts a stream at a segment. -/
  | decSeek (s : BitVec 2) (k : BitVec 12)
  /-- R325. Writes a stream image to a cell. -/
  | decSave (c : BitVec 6) (s : BitVec 2) (o : BitVec 12)
  /-- R325. Restores a stream from an image. -/
  | decLoad (c : BitVec 6) (s : BitVec 2) (o : BitVec 12)
  -- CO, major 0x1C: collective and ordered commands, R99
  /-- R401. Sends a cell as a pod-ordered waggle packet. -/
  | osend (c : BitVec 6) (a : BitVec 6) (b : BitVec 6) (k : Bool)
  /-- R404. Reproducible-sum phase one: block maximum exponents. -/
  | collMx (c : BitVec 6) (a : BitVec 6) (b : BitVec 6) (e : BitVec 6)
  /-- R404. Reproducible-sum phase two: exact integer block sum. -/
  | collBs (c : BitVec 6) (a : BitVec 6) (b : BitVec 6) (e : BitVec 6)
  /-- R405. Broadcasts the root's bytes. -/
  | collBc (c : BitVec 6) (a : BitVec 6) (b : BitVec 6)
  /-- R405. All-gathers every participant's bytes. -/
  | collAg (c : BitVec 6) (a : BitVec 6) (b : BitVec 6)
  -- Device steps, 95_what_each_step_holds.md
  /-- R15. The sequencer fetches a bundle, checks it, issues it and commits all its syllables, or commits nothing if any syllable faults. -/
  | bundleIssue (c : Nat)
  /-- R19. A syllable's result, its poison bit and its flags land at its latency bound, counted in unfrozen cycles. -/
  | resultLanding (c : Nat)
  /-- R175. When a matrix or VQ busy state ends, the operation's results, tag and flags take effect. -/
  | busyStateEnd (c : Nat)
  /-- R177. The MAC array performs one reduction step of the current MM syllable and reads its scale latches or decode symbols. -/
  | matrixStep (c : Nat)
  /-- R273. A global load value arrives from memory and lands, ending any freeze that waits for it. -/
  | globalLoadReturn (c : Nat) (id : Nat) (r : Option Reply)
  /-- R277. The old value of an atomic returns and lands in its destination register. -/
  | atomicReturn (c : Nat) (id : Nat) (r : Option Reply)
  /-- R258. A load or store reaches the memory controller that owns its location, which is the point of order. -/
  | memoryAccessPerformed (c : Nat) (id : Nat)
  /-- R277. An atomic is performed as one indivisible step at the controller that owns its address. -/
  | amoPerformed (c : Nat) (id : Nat)
  /-- R249. An aperture fault that a base die finds reaches the requester, ending a core's task or faulting an engine stream. -/
  | apertureFaultReport (c : Nat) (id : Nat)
  /-- R275. The destination memory acknowledges a posted store or atomic to its core. -/
  | postedWriteAck (c : Nat) (id : Nat)
  /-- R251. A write of MCTL.EN = 1 sets P to 0 and starts copying the run, unless the runs break the rules. -/
  | migrationStart (n : Nat)
  /-- R251. A write of MCTL.EN = 0 retires the migration entry. -/
  | migrationRetire (n : Nat)
  /-- R252. The controllers copy line P from the old run to the new run and advance P. -/
  | migrationLineCopy (n : Nat)
  /-- R252. An engine request that is held on the line being copied for longer than LIMIT raises an automatic retryable fault. -/
  | migrationHoldTimeout (c : Nat) (e : Nat)
  /-- R244. TLBICMD with REFRESH = 0 removes matching TLB entries and invalidates the handles that depend on them. -/
  | tlbRevoke (p : Nat) (pages : BitVec 32)
  /-- R244. TLBICMD with REFRESH = 1 walks matching entries again, and keeps or revokes the dependent handles. -/
  | tlbRefresh (p : Nat) (pages : BitVec 32)
  /-- R244. TLBISTAT.BUSY clears once every core of the partition has completed the command. -/
  | tlbiComplete (p : Nat)
  /-- R246. An aperture configuration write takes effect for later requests, and an overlapping or out-of-range enable leaves EN at 0. -/
  | apcfgWrite (n : Nat) (v : BitVec 64)
  /-- R285. The probe's walk finishes, and the probe either installs and pins entries and binds the handle or faults. -/
  | translationWalkDone (c : Nat)
  /-- R236. A cp.c2r header is injected at the writer's slot cycle, and its data flits follow. -/
  | remoteWriteInjection (c : Nat) (e : Nat)
  /-- R235. A remote write header arrives at the receiving core and is decoded, held or refused. -/
  | remoteWriteHeaderArrival (id : Nat)
  /-- R235. A header is accepted once its cell is FILLING remote for the writer; its data is then written and the cell becomes FULL. -/
  | remoteWriteAccept (id : Nat)
  /-- R235. The acknowledgement of a remote write reaches the writer, which completes its cp.c2r. -/
  | remoteWriteAckArrival (id : Nat)
  /-- R302. An engine begins the command at its queue head once no hazard holds it back. -/
  | engineCommandBegin (c : Nat) (e : Nat)
  /-- R303. A copy engine issues one 64-byte request of a command. -/
  | engineRequestSend (c : Nat) (e : Nat)
  /-- R303. A response to an engine request arrives and takes effect, including fill writes into the comb. -/
  | engineResponseArrival (c : Nat) (e : Nat) (k : Nat) (r : Option Reply)
  /-- R304. A command completes, frees its queue entry and takes its final cell transition. -/
  | engineCommandComplete (c : Nat) (e : Nat)
  /-- R292. A cell command that the hazard unit held takes effect once the earlier commands on the cell have done so. -/
  | cellCommandTakesEffect (c : Nat) (e : Nat)
  /-- R308. An engine fault stops issue and new requests while the traffic already sent settles. -/
  | engineFault (c : Nat) (e : Nat) (code : BitVec 8) (cause : BitVec 4)
  /-- R308. Once the traffic has settled, the stop record is written and the outcome is decided. -/
  | stopRecordWrite (c : Nat)
  /-- R311. Firmware resumes a core after an automatic retryable fault, or reports it after 16 link resumptions. -/
  | automaticResume (c : Nat)
  /-- R383. A queen-core bound command is delivered to its frame engine D package cycles after issue. -/
  | boundCommandDelivery (k : Nat)
  /-- R319. A decode stream restarts at a segment by loading its 32 initial states. -/
  | loadSegment (c : Nat) (d : Nat)
  /-- R321. The decoder decodes the demanded symbols of one round in a cycle. -/
  | decodeRound (c : Nat) (d : Nat)
  /-- R406. A switch combines matching collective items with disjoint rank sets, or forwards them unreduced. -/
  | collectiveCombine (i : CollItem) (j : CollItem) (full : Bool)
  /-- R211. In each hub cycle the scheduler orders the ready cards and places those whose replicas all fit on free cores. -/
  | schedulerDecision (p : Nat)
  /-- R214. A pre-emption request expires without a safe point, lapses, and raises the deadline-miss count. -/
  | requestLapse (c : Nat)
  /-- R212. A dispatched replica's core binds h0-h7, loads overlays and data, and issues its first bundle. -/
  | taskStart (c : Nat)
  /-- R206. The hub fetches the card at the ring's read index into the partition queue and advances R. -/
  | ringFetch (p : Nat) (k : Nat)
  /-- R224. When every card of an instance has retired, the descriptor writes one record and may signal. -/
  | graphInstanceComplete (p : Nat) (g : Nat)
  /-- R207. A doorbell write sets the ring's write index and checks it for overrun. -/
  | doorbell (p : Nat) (k : Nat) (v : BitVec 32)
  /-- R208. A write to RRST sets W and R to VAL and clears OVERRUN. -/
  | ringReset (p : Nat) (k : Nat) (v : BitVec 32)
  /-- R208. A completion queue configuration write sets its size and enable, and refuses an enable that leaves the partition's ranges. -/
  | cqcfgWrite (p : Nat) (q : Nat) (v : BitVec 64)
  /-- R221. An ended replica waits for busy states, engine queues and acknowledgements, then signals and frees its core. -/
  | retirement (c : Nat)
  /-- R208. A completion record is written once the queue has room, then CQWIDX advances and the vector is raised. -/
  | completionRecordWrite (p : Nat) (q : Nat)
  /-- R358. After the drain, the context engine writes the live state to the save area and frees the core. -/
  | contextSave (c : Nat)
  /-- R359. Before a resumed task runs, the context engine rebinds handles, loads overlays and restores its state, cells and decoder. -/
  | contextRestore (c : Nat)
  /-- R219. The north hub records a member's gbar arrival for the group's current generation. -/
  | barrierArrival (p : Nat) (k : Nat)
  /-- R219. The release signal reaches a member, which leaves its freeze. -/
  | releaseArrival (c : Nat)
  /-- R217. A group table write sets SIZE, unless a member is live or the value is above 4,096. -/
  | grpWrite (p : Nat) (g : Nat) (v : BitVec 64)
  /-- R413. The host writes an event counter atomically, ahead of a signal increment in the same hub cycle. -/
  | eventCounterWrite (p : Nat) (i : Nat) (v : BitVec 64)
  /-- R353. A resume command restarts a held core from its stop record. -/
  | stopcmdResume (p : Nat)
  /-- R353. An end command discards the engine queues of a held core and retires its task with the given status. -/
  | stopcmdEnd (p : Nat) (code : BitVec 8)
  /-- R365. A ring's watchdog counter reaches LIMIT, and its partition begins to drain. -/
  | watchdogExpiry (p : Nat) (k : Nat)
  /-- R366. At cycle G + 1, every task of the partition that still holds a core is force-stopped. -/
  | drainDeadline (p : Nat)
  /-- R366. Once the traffic has settled, the partition is reset, STOPPED is set and the fault interrupt is raised. -/
  | partitionReset (p : Nat)
  /-- R364. A GO write while STOPPED clears the watchdog status and restarts dispatch and the rings. -/
  | wdclrGo (p : Nat)
  /-- R362. A partition configuration write, subject to the disjointness and live rules; enabling draws a fresh memory key. -/
  | pcfgWrite (n : Nat) (v : BitVec 64)
  /-- R362. A partition memory range write, subject to the disjointness and live rules. -/
  | pmemWrite (n : Nat) (k : Nat) (v : BitVec 64)
  /-- R362. A range limit write, ignored whole if it would create an overlap. -/
  | plimWrite (n : Nat) (k : Nat) (v : BitVec 64)
  /-- R376. The frame repair maps are applied now, if the frame belongs to no enabled partition. -/
  | frapplyGo (f : Nat)
  /-- R381. The queen core's owner and enable are set, unless a package task is live. -/
  | qownWrite (v : BitVec 64)
  /-- R390. A pod port trains and aligns pod time forward to its neighbour before it reports UP. -/
  | portTraining (k : Nat) (t : BitVec 48) (lanes : BitVec 4)
  /-- R390. Each microsecond an enabled port exchanges timestamps with its neighbour. -/
  | timeExchange (k : Nat) (t : BitVec 48)
  /-- R395. A waggle-enabled port sends its watermark or beacon. -/
  | watermarkSend (k : Nat)
  /-- R396. A received watermark updates its input and is checked for regression. -/
  | watermarkReceive (k : Nat) (v : Nat)
  /-- R396. A waggle packet arrives, is held, and is checked against the port's watermark. -/
  | wagglePacketArrival (k : Nat) (w : Packet)
  /-- R394. The injector stamps an osend packet, gives it a source sequence and sends its copies. -/
  | injectorAccept (p : Nat)
  /-- R397. The held packet with the smallest key is delivered once every input's watermark exceeds its stamp and the mailbox has room. -/
  | waggleDelivery (p : Nat)
  /-- R399. Once a record is written whole, WIDX advances, SIG is incremented and the copy is acknowledged. -/
  | mailboxRecordComplete (p : Nat)
  /-- R398. A watermark or mailbox wait beyond LIMIT ticks suspends delivery with a watermark stall. -/
  | deliveryStall (p : Nat)
  /-- R398. A GO write resumes suspended waggle delivery. -/
  | wclrGo (p : Nat)
  /-- R388. A flit for another node is forwarded by RTAB, or discarded and counted in MISR. -/
  | flitForward (k : Nat) (f : Flit)
  /-- R240. A bulk request arrives at its node and is checked against the partition's ranges, or discarded. -/
  | remoteRequestArrival (k : Nat) (q : RemoteRequest)
  /-- R389. A port control write; a WAG change takes effect at a watermark boundary. -/
  | ppctlWrite (k : Nat) (v : BitVec 64)
  /-- R419. IMGCMD op 1 loads, checks and, if it is portable, translates an image from IMGPA. -/
  | imageLoad (p : Nat)
  /-- R419. IMGCMD op 2 unloads an image id and clears its overlay tags. -/
  | imageUnload (p : Nat) (id : BitVec 16)
  /-- R426. REPCMD kind 1 repairs an HBM row. -/
  | hbmRowRepair (v : BitVec 64)
  /-- R426. REPCMD kind 2 repairs an HBM bank. -/
  | hbmBankRepair (v : BitVec 64)
  /-- R426. REPCMD kind 3 repairs a UCIe lane. -/
  | ucieLaneRepair (v : BitVec 64)
  /-- R426. REPCMD kind 4 repairs a pod lane. -/
  | podLaneRepair (v : BitVec 64)
  /-- R426. REPCMD kind 5 applies a super-tier chip-kill remap. -/
  | superTierRemap (v : BitVec 64)
  /-- R376. A package reset applies the written repair maps and the deferred repairs. -/
  | packageReset
  /-- R421. At power-on the trust die verifies firmware, measures the dies, loads keys and seeds pod time. -/
  | powerOnBoot (b : BootInput)
  /-- R424. In recovery mode, a verified replacement image is written to flash and the package resets. -/
  | recoveryImage (image : List (BitVec 8)) (ok : Bool)
  /-- R422. The trust die's SPDM responder answers a DOE request with signed measurements. -/
  | spdmRequest (fn : Nat)
  /-- R428. The package power limit is set, effective from the next boundary. -/
  | pwrlimWrite (v : BitVec 64)
  /-- R428. At each 1,024-cycle boundary, the controller raises or lowers the power-limit duty D. -/
  | dutyBoundary (watts : Nat)
  /-- R429. The task clock is selected, unless any partition is enabled. -/
  | clkselWrite (v : BitVec 64)
  /-- R430. TMAX reaching WARN sets WARNED and raises vector 28. -/
  | thermalWarning (t : BitVec 8)
  /-- R430. At 110 °C, power is removed, through THERMTRIP on a KEKOR-P. -/
  | thermalTrip
  /-- R431. Loss of power loses every register, log, key and memory content. -/
  | powerLoss
  /-- R409. The host reads or writes the partition's memory through BAR4 as a system-scope agent. -/
  | hostMemoryAccess (fn : Nat) (a : HostAccess)
  /-- R393. A mailbox base write that would place the ring outside the partition's ranges keeps the old value. -/
  | mbbaseWrite (p : Nat) (v : BitVec 64)
  /-- R393. A mailbox configuration write sets the ring size and counter, or keeps the old value when it is invalid. -/
  | mbcfgWrite (p : Nat) (v : BitVec 64)
  /-- R393. A read-index pointer write that would leave the partition's ranges keeps the old value. -/
  | mbrptrWrite (p : Nat) (v : BitVec 64)
  /-- R5. A write to a register with no behaviour of its own, following its field access codes. -/
  | registerWrite (r : HostReg) (v : BitVec 64)
  /-- R214. A pre-emption request reaches its task, and every running replica of its swarm, in cycle q, becoming pending with expiry q + DEADLINE. -/
  | preemptionRequestArrival (c : Nat)
  /-- R389. A trained pod port loses its link to its neighbour, so PPSTAT.UP no longer holds. -/
  | podPortLinkLoss (k : Nat)
  /-- R423. A TDISP message moves a VF's TDI into or out of the LOCKED or RUN state, which decides whether PF writes to its partition's PCFG, PMEM, PLIM and apertures are ignored. -/
  | tdispRequest (n : Nat) (locked : Bool)
deriving DecidableEq, Repr

end Sys2Proof
end

