-- ==== Sys2Proof/WellFormed.lean ====
section
/-!
DEFINITION. The checks that make an encoding legal: group 1 of R100, the illegal-syllable conditions that the encoding
alone decides (a reserved type, format, condition or size, a width of 3, a literal outside its set, a lend or a field
that must be zero). An instruction that fails one names the first it fails.
-/

namespace Sys2Proof

/-- Why an encoding is no instruction (R100, group 1). -/
inductive Problem where
  /-- A major, func or op that no form has (R65, R66). -/
  | reservedOpcode
  /-- A header syllable, which is no instruction of its own (R67). -/
  | header
  /-- A lend aimed at a form that takes none (R68). -/
  | lendUnused
  /-- Lend bits that the form requires to be zero (R68, R71). -/
  | lendBits
  /-- A vector width of 3 (R84). -/
  | width
  /-- A type, size, scope, permission, condition, stream or item code outside the form's list. -/
  | code
  /-- A format or pair of formats that the form does not accept (R34, R150). -/
  | format
  /-- A literal or an immediate outside its set. -/
  | literal
  /-- A field that the form requires to be zero. -/
  | field
deriving DecidableEq, Repr

/-- The name of a problem, if the condition does not hold. -/
def Problem.unless (p : Problem) (ok : Bool) : Option Problem := if ok then none else some p

/-- A code below a limit. -/
def below {n : Nat} (v : BitVec n) (k : Nat) : Option Problem := Problem.code.unless (v.toNat < k)

/-- The lend bits from `k` up are zero. -/
def zeroFrom (l : Lend) (k : Nat) : Option Problem := Problem.lendBits.unless (l.toNat < 2 ^ k)

/-- R84: a width of 3 is illegal. -/
def widthOk (w : BitVec 2) : Option Problem := Problem.width.unless (w != 3#2)

/-- The width in bits that a width code names (R84). -/
def widthBits (w : BitVec 2) : Nat := 256 * 2 ^ w.toNat

/-- R69: the immediate of an I-kind form as an unsigned number of its width, the lend above the field. -/
def immBits {n : Nat} (i : BitVec n) (l : Option Lend) : Nat :=
  match l with
  | none => i.toNat
  | some h => h.toNat * 2 ^ n + i.toNat

/-- R69: the width of the immediate of an I-kind form. -/
def immWidth (n : Nat) (l : Option Lend) : Nat := if l.isSome then n + 9 else n

/-- R69: the immediate of an I-kind form, sign-extended. -/
def immSigned {n : Nat} (i : BitVec n) (l : Option Lend) : Int :=
  (BitVec.ofNat (immWidth n l) (immBits i l)).toInt

/-- R114: the amount of an immediate shift lies in 0 to 63. -/
def shiftOk (i : BitVec 11) (l : Option Lend) : Option Problem :=
  Problem.literal.unless (0 ≤ immSigned i l && immSigned i l ≤ 63)

/-- R77: the types of the SF forms are d, f and t32. -/
def scalarType (t : BitVec 4) : Option Problem := Problem.code.unless (t == 0 || t == 1 || t == 9)

/-- R77: the destination literal of `fcvt`. -/
def scalarTypeLit (t : BitVec 6) : Option Problem := Problem.literal.unless (t == 0 || t == 1 || t == 9)

/-- R78: p = 0 and n = 0 is `br`, every other form is `brc`. -/
def brcOk (p : BitVec 3) (n : Bool) : Option Problem := Problem.field.unless (p != 0 || n)

/-- R79: dx and dy of `post` are zero unless the target kind is 1. -/
def postOk (y x : BitVec 6) (k : BitVec 2) : Option Problem :=
  Problem.field.unless (k == 1 || (y == 0 && x == 0))

/-- R85: `vdot4` takes i8 and n8 only. -/
def dotType (t : BitVec 3) : Option Problem := Problem.code.unless (t == 0 || t == 4)

/-- The lane count of a width for an element of `8 * 2 ^ t` bits (R137). -/
def laneCount (w : BitVec 2) (t : BitVec 3) : Nat := widthBits w / (8 * 2 ^ t.toNat)

/-- R89: a literal lane or lane count below the number of lanes. -/
def laneOk (w : BitVec 2) (t : BitVec 3) (n : BitVec 6) : Option Problem :=
  Problem.literal.unless (n.toNat < laneCount w t)

/-- R159: the patterns of `vshuf` and their limits. -/
def shuffleOk (w : BitVec 2) (t : BitVec 3) (p : BitVec 6) : Option Problem :=
  Problem.literal.unless
    (if p.toNat ≤ 6 then 2 ^ p.toNat < laneCount w t else p.toNat ≤ 10)

/-- R161: `not` and `move` of `vmsk` require the second mask to be 0. -/
def maskOneOk (b : BitVec 3) (l : Lend) : Option Problem :=
  Problem.field.unless (l.extractLsb' 0 3 != 4 && l.extractLsb' 0 3 != 5 || b == 0)

/-- R85: the lend of `vcmp`, with a condition from 0 to 5 and bits 5:4 zero. -/
def cmpLend (l : Lend) : Option Problem :=
  (Problem.lendBits.unless (l.extractLsb' 4 2 == 0)).or (below (l.extractLsb' 6 3) 6)

/-- R86: the lend of `vfcmp`. -/
def fcmpLend (l : Lend) : Option Problem :=
  (Problem.lendBits.unless (!l.getLsbD 3 && l.extractLsb' 7 2 == 0)).or (below (l.extractLsb' 4 3) 4)

/-- SR and SR-SAT (R52). -/
def isStochastic (m : BitVec 3) : Bool := m == 5 || m == 7

/-- R71: the SR base bit may be 1 when the encoding names no mode, or names SR or SR-SAT. -/
def roundLend (l : Lend) : Option Problem :=
  Problem.lendBits.unless (!l.getLsbD 8 || !l.getLsbD 4 || isStochastic (l.extractLsb' 5 3))

/-- R91, R71: the lend of `vqr`. -/
def quireLend (l : Lend) (m : BitVec 3) : Option Problem :=
  Problem.lendBits.unless (l.extractLsb' 4 4 == 0 && (!l.getLsbD 8 || isStochastic m))

/-- The bits of an element of a format (R33); 0 for a reserved code. -/
def fmtBits (f : BitVec 5) : Nat :=
  match f.toNat with
  | 0 => 64 | 1 => 32 | 2 => 16 | 3 => 16 | 4 => 8 | 5 => 8 | 6 => 8 | 7 => 8 | 8 => 4
  | 9 => 32 | 10 => 16 | 11 => 8 | 12 => 8 | 13 => 8 | 14 => 16 | 15 => 32 | _ => 0

/-- The formats 0 to 5 and 9 to 15 (R150, R187). -/
def isElementFormat (f : BitVec 5) : Bool := f.toNat ≤ 5 || (9 ≤ f.toNat && f.toNat ≤ 15)
/-- f, bf or h. -/
def isWideFloat (f : BitVec 5) : Bool := f == 1 || f == 2 || f == 3
/-- mx8e4, mx8e5 or mx4. -/
def isBlockFormat (f : BitVec 5) : Bool := f == 6 || f == 7 || f == 8
/-- i8, e4, e5 or t8. -/
def isScaledFormat (f : BitVec 5) : Bool := f == 12 || f == 4 || f == 5 || f == 11

def elementFormat (f : BitVec 5) : Option Problem := Problem.format.unless (isElementFormat f)
/-- R193: `vqadd` and `vqr` accept 0 to 5 and 9 to 12. -/
def quireRowFormat (f : BitVec 5) : Option Problem :=
  Problem.format.unless (f.toNat ≤ 5 || (9 ≤ f.toNat && f.toNat ≤ 12))
/-- R92: `mma` and `mmn` accept 0 to 5 and 9 to 12. -/
def plainMacFormat (f : BitVec 5) : Option Problem := quireRowFormat f
/-- R92: `mmx` accepts 6 to 8. -/
def blockMacFormat (f : BitVec 5) : Option Problem := Problem.format.unless (isBlockFormat f)
/-- R92: `mms` accepts 2 to 8 and 10 to 12. -/
def sparseMacFormat (f : BitVec 5) : Option Problem :=
  Problem.format.unless ((2 ≤ f.toNat && f.toNat ≤ 8) || (10 ≤ f.toNat && f.toNat ≤ 12))
/-- R92: `mmz` accepts 2 to 5 and 10 to 12. -/
def codedMacFormat (f : BitVec 5) : Option Problem :=
  Problem.format.unless ((2 ≤ f.toNat && f.toNat ≤ 5) || (10 ≤ f.toNat && f.toNat ≤ 12))

/-- R150: the lane count of a VX form between two formats. -/
def groupLanes (w : BitVec 2) (f g : BitVec 5) : Nat := widthBits w / min (fmtBits f) (fmtBits g)

/-- R150: the registers of the wider side of a VX form. -/
def groupSize (w : BitVec 2) (f g : BitVec 5) : Nat :=
  (groupLanes w f g * max (fmtBits f) (fmtBits g) + 1023) / 1024

/-- R150: a group holds at most four registers. -/
def groupOk (w : BitVec 2) (f g : BitVec 5) : Option Problem :=
  Problem.literal.unless (groupSize w f g ≤ 4)

/-- The source format in the lend of a VX form (R87). -/
def lendFormat (l : Lend) : BitVec 5 := l.extractLsb' 0 5
/-- The BLK field in the lend of a VX form (R87). -/
def lendBlock (l : Lend) : BitVec 2 := l.extractLsb' 5 2
/-- R154: the block size in elements of `vbq` and `vbdq`. -/
def scaledBlock (l : Lend) : Nat := 16 * 2 ^ (lendBlock l).toNat

/-- R87, R71: lend bit 7 is zero, and the SR base bit is zero unless the mode is stochastic. -/
def convertLend (m : BitVec 3) (l : Lend) : Option Problem :=
  Problem.lendBits.unless (!l.getLsbD 7 && (!l.getLsbD 8 || isStochastic m))

def convertOk (w : BitVec 2) (f : BitVec 5) (m : BitVec 3) (l : Lend) : Option Problem :=
  ((convertLend m l).or (Problem.lendBits.unless (lendBlock l == 0))).or
    ((Problem.format.unless (isElementFormat f && isElementFormat (lendFormat l))).or (groupOk w f (lendFormat l)))

def toBlocksOk (w : BitVec 2) (f : BitVec 5) (m : BitVec 3) (l : Lend) : Option Problem :=
  ((convertLend m l).or (below (lendBlock l) 2)).or
    ((Problem.format.unless (isBlockFormat f && isWideFloat (lendFormat l))).or (groupOk w f (lendFormat l)))

def fromBlocksOk (w : BitVec 2) (f : BitVec 5) (m : BitVec 3) (l : Lend) : Option Problem :=
  ((convertLend m l).or (below (lendBlock l) 2)).or
    ((Problem.format.unless (isWideFloat f && isBlockFormat (lendFormat l))).or (groupOk w f (lendFormat l)))

def toScaledOk (w : BitVec 2) (f : BitVec 5) (m : BitVec 3) (l : Lend) : Option Problem :=
  (convertLend m l).or
    (((Problem.format.unless (isScaledFormat f && isWideFloat (lendFormat l))).or (groupOk w f (lendFormat l))).or
      (Problem.literal.unless (scaledBlock l ≤ groupLanes w f (lendFormat l))))

def fromScaledOk (w : BitVec 2) (f : BitVec 5) (m : BitVec 3) (l : Lend) : Option Problem :=
  (convertLend m l).or
    (((Problem.format.unless (isWideFloat f && isScaledFormat (lendFormat l))).or (groupOk w f (lendFormat l))).or
      (Problem.literal.unless (scaledBlock l ≤ groupLanes w f (lendFormat l))))

/-- R156: the format of `vrng` is one of 0 to 5 or 9 to 15, and the rest of the lend but the SR base bit is zero. -/
def generateOk (l : Lend) : Option Problem :=
  (Problem.lendBits.unless (!l.getLsbD 7 && lendBlock l == 0)).or (elementFormat (lendFormat l))

/-- R183: one `msl` never crosses a column page. -/
def latchRunOk (r : BitVec 4) (f : BitVec 5) : Option Problem :=
  Problem.literal.unless (f.toNat + r.toNat + 1 ≤ 32)

/-- R96: without T the lend is zero. -/
def tagLendOk (t : Bool) (l : Lend) : Option Problem := Problem.lendBits.unless (t || l == 0)

/-- The first check of R100's group 1 that an instruction's encoding fails. A device step has no encoding and fails
none. -/
def Instr.problem (i : Instr) : Option Problem :=
  match i with
  | .add _ _ _ l => zeroFrom l 4
  | .sub _ _ _ l => zeroFrom l 4
  | .mul _ _ _ l => zeroFrom l 4
  | .mulh _ _ _ l => zeroFrom l 4
  | .mulhn _ _ _ l => zeroFrom l 4
  | .div _ _ _ l => zeroFrom l 4
  | .divn _ _ _ l => zeroFrom l 4
  | .rem _ _ _ l => zeroFrom l 4
  | .remn _ _ _ l => zeroFrom l 4
  | .and _ _ _ l => zeroFrom l 4
  | .or _ _ _ l => zeroFrom l 4
  | .xor _ _ _ l => zeroFrom l 4
  | .andn _ _ _ l => zeroFrom l 4
  | .orn _ _ _ l => zeroFrom l 4
  | .shl _ _ _ l => zeroFrom l 4
  | .shr _ _ _ l => zeroFrom l 4
  | .sra _ _ _ l => zeroFrom l 4
  | .rol _ _ _ l => zeroFrom l 4
  | .ror _ _ _ l => zeroFrom l 4
  | .min _ _ _ l => zeroFrom l 4
  | .max _ _ _ l => zeroFrom l 4
  | .minn _ _ _ l => zeroFrom l 4
  | .maxn _ _ _ l => zeroFrom l 4
  | .clz _ _ l => zeroFrom l 4
  | .ctz _ _ l => zeroFrom l 4
  | .popc _ _ l => zeroFrom l 4
  | .bswap _ _ l => zeroFrom l 4
  | .sel _ _ _ l => zeroFrom l 4
  | .addw _ _ _ l => zeroFrom l 4
  | .subw _ _ _ l => zeroFrom l 4
  | .mulw _ _ _ l => zeroFrom l 4
  | .sext _ _ w l => (below w 3).or (zeroFrom l 4)
  | .bext _ _ _ l => zeroFrom l 4
  | .bins _ _ _ l => zeroFrom l 4
  | .cmpEq _ _ _ l => zeroFrom l 4
  | .cmpNe _ _ _ l => zeroFrom l 4
  | .cmpLt _ _ _ l => zeroFrom l 4
  | .cmpGe _ _ _ l => zeroFrom l 4
  | .cmpLtn _ _ _ l => zeroFrom l 4
  | .cmpGen _ _ _ l => zeroFrom l 4
  | .cmpTst _ _ _ l => zeroFrom l 4
  | .addi _ _ _ _ => none
  | .andi _ _ _ _ => none
  | .ori _ _ _ _ => none
  | .xori _ _ _ _ => none
  | .shli _ _ i l => shiftOk i l
  | .shri _ _ i l => shiftOk i l
  | .srai _ _ i l => shiftOk i l
  | .muli _ _ _ _ => none
  | .cmpiEq _ _ _ _ => none
  | .cmpiNe _ _ _ _ => none
  | .cmpiLt _ _ _ _ => none
  | .cmpiLtn _ _ _ _ => none
  | .li _ _ _ => none
  | .lic _ _ _ => none
  | .fadd _ _ _ t l => (scalarType t).or (zeroFrom l 4)
  | .fsub _ _ _ t l => (scalarType t).or (zeroFrom l 4)
  | .fmul _ _ _ t l => (scalarType t).or (zeroFrom l 4)
  | .fma _ _ _ t l => (scalarType t).or (zeroFrom l 4)
  | .fdiv _ _ _ t l => (scalarType t).or (zeroFrom l 4)
  | .fsqrt _ _ t l => (scalarType t).or (zeroFrom l 4)
  | .fmin _ _ _ t l => (scalarType t).or (zeroFrom l 4)
  | .fmax _ _ _ t l => (scalarType t).or (zeroFrom l 4)
  | .fabs _ _ t l => (scalarType t).or (zeroFrom l 4)
  | .fneg _ _ t l => (scalarType t).or (zeroFrom l 4)
  | .fcmpEq _ _ _ t l => (scalarType t).or (zeroFrom l 4)
  | .fclass _ _ t l => (scalarType t).or (zeroFrom l 4)
  | .fcvt _ _ u t l => ((scalarType t).or (scalarTypeLit u)).or (zeroFrom l 4)
  | .fcvti _ _ m t l => ((scalarType t).or (below m 8)).or (zeroFrom l 4)
  | .fcvtf _ _ t l => (scalarType t).or (zeroFrom l 4)
  | .fcmpLt _ _ _ t l => (scalarType t).or (zeroFrom l 4)
  | .fcmpLe _ _ _ t l => (scalarType t).or (zeroFrom l 4)
  | .fcmpUn _ _ _ t l => (scalarType t).or (zeroFrom l 4)
  | .br _ => none
  | .brc p n _ => brcOk p n
  | .nop => none
  | .call _ l => zeroFrom l 4
  | .ret l => zeroFrom l 4
  | .jr _ l => zeroFrom l 4
  | .loop _ _ => none
  | .safe _ => none
  | .yield _ => none
  | .endTask l => zeroFrom l 4
  | .post _ y x k l => (postOk y x k).or (zeroFrom l 4)
  | .gbar _ l => zeroFrom l 4
  | .wait _ l => zeroFrom l 4
  | .trap _ l => zeroFrom l 4
  | .brk _ l => zeroFrom l 4
  | .chk _ _ => none
  | .chkv _ _ => none
  | .ldImm _ _ _ _ _ => none
  | .ldIndexed _ _ _ _ _ l => zeroFrom l 4
  | .ldxImm _ _ _ _ _ => none
  | .ldxIndexed _ _ _ _ _ l => zeroFrom l 4
  | .stImm _ _ _ _ _ => none
  | .stIndexed _ _ _ _ _ l => zeroFrom l 4
  | .ldSImm _ _ _ _ _ => none
  | .ldSIndexed _ _ _ _ _ l => zeroFrom l 4
  | .amoAdd _ _ _ c z _ l => ((below c 3).or (below z 2)).or (zeroFrom l 6)
  | .amoAnd _ _ _ c z _ l => ((below c 3).or (below z 2)).or (zeroFrom l 6)
  | .amoOr _ _ _ c z _ l => ((below c 3).or (below z 2)).or (zeroFrom l 6)
  | .amoXor _ _ _ c z _ l => ((below c 3).or (below z 2)).or (zeroFrom l 6)
  | .amoMin _ _ _ c z _ l => ((below c 3).or (below z 2)).or (zeroFrom l 6)
  | .amoMax _ _ _ c z _ l => ((below c 3).or (below z 2)).or (zeroFrom l 6)
  | .amoMinn _ _ _ c z _ l => ((below c 3).or (below z 2)).or (zeroFrom l 6)
  | .amoMaxn _ _ _ c z _ l => ((below c 3).or (below z 2)).or (zeroFrom l 6)
  | .amoSwap _ _ _ c z _ l => ((below c 3).or (below z 2)).or (zeroFrom l 6)
  | .amoCas _ _ _ c z _ l => ((below c 3).or (below z 2)).or (zeroFrom l 6)
  | .amoFadd _ _ _ c z _ l => ((below c 3).or (below z 2)).or (zeroFrom l 6)
  | .amoAddsr _ _ _ c _ l => (below c 3).or (zeroFrom l 6)
  | .fence c _ => below c 3
  | .fenceE => none
  | .probe _ _ _ p => below p 3
  | .xlat _ _ _ p => below p 3
  | .hinv _ => none
  | .hinfo _ _ b => below b 3
  | .mfsr _ _ l => zeroFrom l 4
  | .mtsr _ _ l => zeroFrom l 4
  | .ldcImm _ _ _ _ _ => none
  | .ldcIndexed _ _ _ _ _ l => zeroFrom l 4
  | .ldcxImm _ _ _ _ _ => none
  | .ldcxIndexed _ _ _ _ _ l => zeroFrom l 4
  | .stcImm _ _ _ _ _ => none
  | .stcIndexed _ _ _ _ _ l => zeroFrom l 4
  | .vadd w _ _ _ _ l => (widthOk w).or (zeroFrom l 4)
  | .vsub w _ _ _ _ l => (widthOk w).or (zeroFrom l 4)
  | .vmul w _ _ _ _ l => (widthOk w).or (zeroFrom l 4)
  | .vmulh w _ _ _ _ l => (widthOk w).or (zeroFrom l 4)
  | .vmin w _ _ _ _ l => (widthOk w).or (zeroFrom l 4)
  | .vmax w _ _ _ _ l => (widthOk w).or (zeroFrom l 4)
  | .vand w _ _ _ _ l => (widthOk w).or (zeroFrom l 4)
  | .vor w _ _ _ _ l => (widthOk w).or (zeroFrom l 4)
  | .vxor w _ _ _ _ l => (widthOk w).or (zeroFrom l 4)
  | .vshl w _ _ _ _ l => (widthOk w).or (zeroFrom l 4)
  | .vshr w _ _ _ _ l => (widthOk w).or (zeroFrom l 4)
  | .vabs w _ _ _ l => (widthOk w).or (zeroFrom l 4)
  | .vadds w _ _ _ _ l => (widthOk w).or (zeroFrom l 4)
  | .vsubs w _ _ _ _ l => (widthOk w).or (zeroFrom l 4)
  | .vcmp w _ _ _ _ l => (widthOk w).or (cmpLend l)
  | .vdot4 w _ _ _ t l => ((widthOk w).or (dotType t)).or (zeroFrom l 4)
  | .vfadd w _ _ _ t l => ((widthOk w).or (below t 6)).or (roundLend l)
  | .vfsub w _ _ _ t l => ((widthOk w).or (below t 6)).or (roundLend l)
  | .vfmul w _ _ _ t l => ((widthOk w).or (below t 6)).or (roundLend l)
  | .vfma w _ _ _ t l => ((widthOk w).or (below t 6)).or (roundLend l)
  | .vfnma w _ _ _ t l => ((widthOk w).or (below t 6)).or (roundLend l)
  | .vfmin w _ _ _ t l => ((widthOk w).or (below t 6)).or (zeroFrom l 4)
  | .vfmax w _ _ _ t l => ((widthOk w).or (below t 6)).or (zeroFrom l 4)
  | .vfabs w _ _ t l => ((widthOk w).or (below t 6)).or (zeroFrom l 4)
  | .vfneg w _ _ t l => ((widthOk w).or (below t 6)).or (zeroFrom l 4)
  | .vfcmp w _ _ _ t l => ((widthOk w).or (below t 6)).or (fcmpLend l)
  | .vfclass w _ _ t l => ((widthOk w).or (below t 6)).or (zeroFrom l 4)
  | .vfscl w _ _ _ t l => ((widthOk w).or (below t 6)).or (roundLend l)
  | .vfsel w _ _ _ t l => ((widthOk w).or (below t 6)).or (zeroFrom l 3)
  | .vcvt w _ _ f _ m l => (widthOk w).or (convertOk w f m l)
  | .vqnt w _ _ f _ m l => (widthOk w).or (toBlocksOk w f m l)
  | .vdeq w _ _ f _ m l => (widthOk w).or (fromBlocksOk w f m l)
  | .vbq w _ _ f _ m l => (widthOk w).or (toScaledOk w f m l)
  | .vbdq w _ _ f _ m l => (widthOk w).or (fromScaledOk w f m l)
  | .vrng w _ l => (widthOk w).or (generateOk l)
  | .vrecip w _ _ t l => ((widthOk w).or (below t 4)).or (roundLend l)
  | .vrsqrt w _ _ t l => ((widthOk w).or (below t 4)).or (roundLend l)
  | .vsqrt w _ _ t l => ((widthOk w).or (below t 4)).or (roundLend l)
  | .vdiv w _ _ _ t l => ((widthOk w).or (below t 4)).or (roundLend l)
  | .vexp2 w _ _ t l => ((widthOk w).or (below t 4)).or (roundLend l)
  | .vlog2 w _ _ t l => ((widthOk w).or (below t 4)).or (roundLend l)
  | .vexp w _ _ t l => ((widthOk w).or (below t 4)).or (roundLend l)
  | .vmov w _ _ t l => ((widthOk w).or (below t 4)).or (zeroFrom l 4)
  | .vbcst w _ _ t l => ((widthOk w).or (below t 4)).or (zeroFrom l 4)
  | .vli w _ t _ => (widthOk w).or (below t 4)
  | .vperm w _ _ _ t l => ((widthOk w).or (below t 4)).or (zeroFrom l 4)
  | .vshuf w _ _ p t l => (((widthOk w).or (below t 4)).or (shuffleOk w t p)).or (zeroFrom l 4)
  | .vrot w _ _ c t l => (((widthOk w).or (below t 4)).or (laneOk w t c)).or (zeroFrom l 4)
  | .vred w _ _ t l => (((widthOk w).or (below t 6)).or (below (l.extractLsb' 0 2) 3)).or (zeroFrom l 2)
  | .vmsk w _ _ b l => (((widthOk w).or (below (l.extractLsb' 0 3) 6)).or (zeroFrom l 3)).or (maskOneOk b l)
  | .vxtr w _ n t => ((widthOk w).or (below t 4)).or (laneOk w t n)
  | .vins w _ _ n t => ((widthOk w).or (below t 4)).or (laneOk w t n)
  | .vbitx w _ _ => widthOk w
  | .vcmpr w _ _ t l => ((widthOk w).or (below t 4)).or (zeroFrom l 4)
  | .vexpd w _ _ t l => ((widthOk w).or (below t 4)).or (zeroFrom l 4)
  | .vld w _ _ _ _ _ => widthOk w
  | .vst w _ _ _ _ _ => widthOk w
  | .vgat w _ _ _ _ l => (widthOk w).or (zeroFrom l 6)
  | .vsct w _ _ _ _ l => (widthOk w).or (zeroFrom l 5)
  | .vldg w _ _ _ _ _ => widthOk w
  | .vstg w _ _ _ _ _ => widthOk w
  | .vldS w _ _ _ _ _ => widthOk w
  | .vqadd _ _ _ f l => (zeroFrom l 4).or (quireRowFormat f)
  | .vqr _ _ _ f m l => (quireLend l m).or (quireRowFormat f)
  | .vqz _ _ l => zeroFrom l 4
  | .mma _ _ _ f _ _ => plainMacFormat f
  | .mmn _ _ _ f _ _ => plainMacFormat f
  | .mmx _ _ _ f _ _ => blockMacFormat f
  | .mms _ _ _ _ f _ _ => sparseMacFormat f
  | .mmz _ _ _ f _ => codedMacFormat f
  | .qzero _ => none
  | .qrnd _ _ f _ _ => elementFormat f
  | .qst _ _ _ => none
  | .qld _ _ _ => none
  | .qmsk _ _ => none
  | .qadd _ => none
  | .qscl _ _ => none
  | .qtl _ _ f => elementFormat f
  | .tld _ _ _ _ => none
  | .tst _ _ _ _ => none
  | .tmov _ _ => none
  | .ttr _ _ => none
  | .tcvt _ _ _ _ => none
  | .tzero _ => none
  | .msl _ _ _ r f => latchRunOk r f
  | .rstat _ _ _ s => below s 3
  | .cpG2c _ _ _ _ t l => tagLendOk t l
  | .cpC2g _ _ _ _ _ => none
  | .cpGat _ _ _ _ t l => tagLendOk t l
  | .cpSct _ _ _ _ => none
  | .cpBmg _ _ _ _ t l => tagLendOk t l
  | .cpG2g _ _ _ _ => none
  | .cpOvl _ _ _ => none
  | .cpC2r _ _ _ => none
  | .cellArm _ _ _ => none
  | .cellSeal _ _ _ => none
  | .cellFree _ => none
  | .cellExpect _ _ => none
  | .cellOpen _ _ => none
  | .decTab _ _ => none
  | .decOpen _ _ s _ _ => below s 2
  | .decSeek s _ => below s 2
  | .decSave _ s _ => below s 2
  | .decLoad _ s _ => below s 2
  | .osend _ _ _ _ => none
  | .collMx _ _ _ _ => none
  | .collBs _ _ _ _ => none
  | .collBc _ _ _ => none
  | .collAg _ _ _ => none
  | .bundleIssue _ => none
  | .resultLanding _ => none
  | .busyStateEnd _ => none
  | .matrixStep _ => none
  | .globalLoadReturn _ _ _ => none
  | .atomicReturn _ _ _ => none
  | .memoryAccessPerformed _ _ => none
  | .amoPerformed _ _ => none
  | .apertureFaultReport _ _ => none
  | .postedWriteAck _ _ => none
  | .migrationStart _ => none
  | .migrationRetire _ => none
  | .migrationLineCopy _ => none
  | .migrationHoldTimeout _ _ => none
  | .tlbRevoke _ _ => none
  | .tlbRefresh _ _ => none
  | .tlbiComplete _ => none
  | .apcfgWrite _ _ => none
  | .translationWalkDone _ => none
  | .remoteWriteInjection _ _ => none
  | .remoteWriteHeaderArrival _ => none
  | .remoteWriteAccept _ => none
  | .remoteWriteAckArrival _ => none
  | .engineCommandBegin _ _ => none
  | .engineRequestSend _ _ => none
  | .engineResponseArrival _ _ _ _ => none
  | .engineCommandComplete _ _ => none
  | .cellCommandTakesEffect _ _ => none
  | .engineFault _ _ _ _ => none
  | .stopRecordWrite _ => none
  | .automaticResume _ => none
  | .boundCommandDelivery _ => none
  | .loadSegment _ _ => none
  | .decodeRound _ _ => none
  | .collectiveCombine _ _ _ => none
  | .schedulerDecision _ => none
  | .requestLapse _ => none
  | .taskStart _ => none
  | .ringFetch _ _ => none
  | .graphInstanceComplete _ _ => none
  | .doorbell _ _ _ => none
  | .ringReset _ _ _ => none
  | .cqcfgWrite _ _ _ => none
  | .retirement _ => none
  | .completionRecordWrite _ _ => none
  | .contextSave _ => none
  | .contextRestore _ => none
  | .barrierArrival _ _ => none
  | .releaseArrival _ => none
  | .grpWrite _ _ _ => none
  | .eventCounterWrite _ _ _ => none
  | .stopcmdResume _ => none
  | .stopcmdEnd _ _ => none
  | .watchdogExpiry _ _ => none
  | .drainDeadline _ => none
  | .partitionReset _ => none
  | .wdclrGo _ => none
  | .pcfgWrite _ _ => none
  | .pmemWrite _ _ _ => none
  | .plimWrite _ _ _ => none
  | .frapplyGo _ => none
  | .qownWrite _ => none
  | .portTraining _ _ _ => none
  | .timeExchange _ _ => none
  | .watermarkSend _ => none
  | .watermarkReceive _ _ => none
  | .wagglePacketArrival _ _ => none
  | .injectorAccept _ => none
  | .waggleDelivery _ => none
  | .mailboxRecordComplete _ => none
  | .deliveryStall _ => none
  | .wclrGo _ => none
  | .flitForward _ _ => none
  | .remoteRequestArrival _ _ => none
  | .ppctlWrite _ _ => none
  | .imageLoad _ => none
  | .imageUnload _ _ => none
  | .hbmRowRepair _ => none
  | .hbmBankRepair _ => none
  | .ucieLaneRepair _ => none
  | .podLaneRepair _ => none
  | .superTierRemap _ => none
  | .packageReset => none
  | .powerOnBoot _ => none
  | .recoveryImage _ _ => none
  | .spdmRequest _ => none
  | .pwrlimWrite _ => none
  | .dutyBoundary _ => none
  | .clkselWrite _ => none
  | .thermalWarning _ => none
  | .thermalTrip => none
  | .powerLoss => none
  | .hostMemoryAccess _ _ => none
  | .mbbaseWrite _ _ => none
  | .mbcfgWrite _ _ => none
  | .mbrptrWrite _ _ => none
  | .registerWrite _ _ => none
  | .preemptionRequestArrival _ => none
  | .podPortLinkLoss _ => none
  | .tdispRequest _ _ => none

/-- An instruction is well formed when no check of R100's group 1 refuses it. -/
def Instr.wf (i : Instr) : Bool := i.problem.isNone

end Sys2Proof
end

