-- ==== Sys2Proof/Machine/Bits.lean ====
section
/-!
DEFINITION. Bit-field, lane, byte-order and address helpers that every family uses (R4, R137).
-/

namespace Sys2Proof.Machine

/-- Field of `n` bits at `lo` of a natural number. -/
def natField (v lo n : Nat) : Nat := (v >>> lo) % 2 ^ n

/-- Bit `i` of a natural number. -/
def natBit (v i : Nat) : Bool := v.testBit i

/-- The natural number `v` of `n` bits read as two's complement. -/
def signedOf (n v : Nat) : Int := if 2 ^ n ≤ 2 * (v % 2 ^ n) then (v % 2 ^ n : Int) - 2 ^ n else (v % 2 ^ n : Int)

/-- The low `n` bits of an integer, in two's complement. -/
def wrapTo (n : Nat) (v : Int) : Nat := (v % (2 ^ n : Int)).toNat

/-- The number of bits of a natural number: 0 for 0. -/
def bitLength (v : Nat) : Nat := if v = 0 then 0 else Nat.log2 v + 1

/-- The quotient rounded up. -/
def ceilDiv (a b : Nat) : Nat := (a + b - 1) / b

/-- Lane `i` of `n` bits of a vector register, lane 0 in the low bits (R137). -/
def lane (v : VWord) (n i : Nat) : Nat := natField v.toNat (n * i) n

/-- The value whose lanes of `n` bits are the given ones, lane 0 lowest. -/
def packLanes (n : Nat) : List Nat → Nat
  | [] => 0
  | x :: xs => x % 2 ^ n + 2 ^ n * packLanes n xs

/-- The lanes of `n` bits of a natural number, lowest first. -/
def lanesOf (n count v : Nat) : List Nat := (List.range count).map fun i => natField v (n * i) n

/-- `v` with its low `w` bits replaced (R138). -/
def replaceLow (v : VWord) (w : Nat) (low : Nat) : VWord :=
  BitVec.ofNat 1024 (v.toNat / 2 ^ w * 2 ^ w + low % 2 ^ w)

/-- `v` with the `n` bits from `lo` up replaced. -/
def replaceField (v lo n x : Nat) : Nat :=
  v / 2 ^ (lo + n) * 2 ^ (lo + n) + (x % 2 ^ n) * 2 ^ lo + v % 2 ^ lo

/-- The bytes of a number, least significant first (R4). -/
def toBytes : Nat → Nat → List Byte
  | 0, _ => []
  | k + 1, v => BitVec.ofNat 8 v :: toBytes k (v / 256)

/-- The number whose bytes are the given ones, least significant first (R4). -/
def ofBytes : List Byte → Nat
  | [] => 0
  | b :: bs => b.toNat + 256 * ofBytes bs

/-- A little-endian field of `n` bytes at byte `at` of a byte list. -/
def bytesField (bs : List Byte) (pos n : Nat) : Nat := ofBytes ((bs.drop pos).take n)

/-- The greatest natural number whose square is at most `v`, from its leading bit down. -/
def isqrtFrom : Nat → Nat → Nat → Nat
  | 0, v, r => if (r + 1) * (r + 1) ≤ v then r + 1 else r
  | k + 1, v, r =>
    let r' := r + 2 ^ (k + 1)
    isqrtFrom k v (if r' * r' ≤ v then r' else r)

/-- The integer square root. -/
def isqrt (v : Nat) : Nat := isqrtFrom (bitLength v / 2 + 1) v 0

/-- Rotation of a 32-bit value to the left (R54). -/
def rotl32 (v : BitVec 32) (n : Nat) : BitVec 32 := v.rotateLeft n

/-- The index of the first element that satisfies a test. -/
def indexWhere {α : Type} (p : α → Bool) (l : List α) : Option Nat := l.findIdx? p

/-- Replace the element at an index, when there is one. -/
def setAt {α : Type} (l : List α) (i : Nat) (x : α) : List α := l.set i x

/-- Change the element at an index, when there is one. -/
def modifyAt {α : Type} (l : List α) (i : Nat) (f : α → α) : List α := l.modify i f

end Sys2Proof.Machine
end

