-- ==== Sys2Proof/Machine/Formats.lean ====
section
/-!
DEFINITION. The number formats of R33 to R44: what a bit pattern of each format stands for.
-/

namespace Sys2Proof.Machine

/-- How a format is laid out. -/
inductive Layout where
  /-- Sign, `eb` biased exponent bits, `fb` fraction bits, with infinities and NaNs in the top exponent (R35, R37). -/
  | ieee (eb fb : Nat)
  /-- FP8 E4M3: no infinity, one NaN magnitude (R37). -/
  | e4m3
  /-- E2M1: neither infinity nor NaN (R38). -/
  | e2m1
  /-- Tapered, of `n` bits with exponent size `es` (R41). -/
  | taper (n es : Nat)
  /-- Integer of `n` bits (R44). -/
  | int (signed : Bool) (n : Nat)
deriving DecidableEq, Repr

/-- The layout of an element of a format code (R33); `es` serves the tapered formats. -/
def layoutOf (f : BitVec 5) (es : Nat) : Layout :=
  match f.toNat with
  | 0 => .ieee 11 52 | 1 => .ieee 8 23 | 2 => .ieee 8 7 | 3 => .ieee 5 10
  | 4 => .e4m3 | 5 => .ieee 5 2 | 6 => .e4m3 | 7 => .ieee 5 2 | 8 => .e2m1
  | 9 => .taper 32 es | 10 => .taper 16 es | 11 => .taper 8 es
  | 12 => .int true 8 | 13 => .int false 8 | 14 => .int true 16 | _ => .int true 32

/-- The exponent and fraction bits of a layout with sign, exponent and fraction. -/
def Layout.fields : Layout → Nat × Nat
  | .ieee eb fb => (eb, fb)
  | .e4m3 => (4, 3)
  | .e2m1 => (2, 1)
  | _ => (0, 0)

/-- The width of an element in bits. -/
def Layout.bits : Layout → Nat
  | .ieee eb fb => 1 + eb + fb
  | .e4m3 => 8
  | .e2m1 => 4
  | .taper n _ => n
  | .int _ n => n

/-- The bytes of an element; a 4-bit element counts one (R152). -/
def Layout.bytes (l : Layout) : Nat := max 1 (l.bits / 8)

def Layout.isTaper : Layout → Bool
  | .taper _ _ => true
  | _ => false

def Layout.isInt : Layout → Bool
  | .int _ _ => true
  | _ => false

/-- The pattern of the largest finite magnitude (R35, R37, R38). -/
def Layout.maxBits (l : Layout) : Nat :=
  match l with
  | .e4m3 => 0x7E
  | .e2m1 => 7
  | _ => (2 ^ l.fields.1 - 1) * 2 ^ l.fields.2 - 1

/-- The exponent of the least significant bit of a subnormal: the smallest subnormal is 2 to this power. -/
def Layout.minLsb (l : Layout) : Int := 2 - (2 ^ (l.fields.1 - 1) : Int) - l.fields.2

/-- The default NaN (R35, R37), NaR for a tapered layout (R41), 0 for an integer (R50) and for E2M1. -/
def Layout.defaultNan (l : Layout) : Nat :=
  match l with
  | .ieee eb fb => (2 ^ (eb + 1) - 1) * 2 ^ (fb - 1)
  | .e4m3 => 0x7F
  | .taper n _ => 2 ^ (n - 1)
  | _ => 0

/-- The pattern of an infinity of a layout that has infinities, without its sign. -/
def Layout.infBits (l : Layout) : Nat := (2 ^ l.fields.1 - 1) * 2 ^ l.fields.2

/-- What a pattern stands for: a NaN with its sign, whether it signals, and its fraction placed in 52 bits; an infinity;
a finite number (−1)^neg × m × 2^e; or NaR. -/
inductive Num where
  | nan (neg signalling : Bool) (payload : Nat)
  | inf (neg : Bool)
  | fin (neg : Bool) (m : Nat) (e : Int)
  | nar
deriving DecidableEq, Repr

/-- Whether a value is a NaN. -/
def Num.isNan : Num → Bool
  | .nan _ _ _ => true
  | _ => false

/-- Whether a value is a signalling NaN (R35). -/
def Num.signals : Num → Bool
  | .nan _ s _ => s
  | _ => false

/-- Whether a value is neither a NaN, an infinity nor NaR. -/
def Num.isFinite : Num → Bool
  | .fin _ _ _ => true
  | _ => false

/-- The number of leading bits equal to the first, from bit `i - 1` of `v` down (R41). -/
def runLength : Nat → Nat → Bool → Nat
  | 0, _, _ => 0
  | i + 1, v, b => if v.testBit i == b then runLength i v b + 1 else 0

/-- R41: a tapered pattern. -/
def decodeTaper (n es bits : Nat) : Num :=
  if bits = 0 then .fin false 0 0
  else if bits = 2 ^ (n - 1) then .nar
  else
    let neg := bits.testBit (n - 1)
    let v := if neg then 2 ^ n - bits else bits
    let b := v.testBit (n - 2)
    let run := runLength (n - 1) v b
    let k : Int := if b then (run : Int) - 1 else -(run : Int)
    let left := n - 1 - run - 1        -- bits below the terminating bit
    let rest := v % 2 ^ left
    let ex := if es ≤ left then rest / 2 ^ (left - es) else rest * 2 ^ (es - left)
    let fw := left - es
    let f := rest % 2 ^ fw
    .fin neg (2 ^ fw + f) (k * 2 ^ es + ex - fw)

/-- What a pattern of a layout stands for (R35 to R44). -/
def decodeNum (l : Layout) (bits : Nat) : Num :=
  match l with
  | .taper n es => decodeTaper n es (bits % 2 ^ n)
  | .int signed n =>
    let v := bits % 2 ^ n
    if signed && v.testBit (n - 1) then .fin true (2 ^ n - v) 0 else .fin false v 0
  | _ =>
    let eb := l.fields.1
    let fb := l.fields.2
    let neg := bits.testBit (eb + fb)
    let ex := natField bits fb eb
    let f := bits % 2 ^ fb
    if l == .e4m3 && ex == 15 && f == 7 then .nan neg false 0
    else if l != .e4m3 && l != .e2m1 && ex == 2 ^ eb - 1 then
      if f = 0 then .inf neg else .nan neg (!f.testBit (fb - 1)) (f * 2 ^ (52 - fb))
    else if ex = 0 then .fin neg f l.minLsb
    else .fin neg (2 ^ fb + f) (l.minLsb + (ex - 1 : Int))

/-- R39: an E8M0 scale byte; 0xFF is NaN. -/
def decodeScale (b : Nat) : Num := if b % 256 = 255 then .nan false false 0 else .fin false 1 ((b % 256 : Nat) - 127 : Int)

/-- The exact product of two finite values, with the sign rule; NaN where one is 0 and the other infinite. -/
def mulNum (a b : Num) : Num :=
  match a, b with
  | .nar, _ => .nar
  | _, .nar => .nar
  | .nan n s p, _ => .nan n s p
  | _, .nan n s p => .nan n s p
  | .inf n, .inf m => .inf (n != m)
  | .inf n, .fin m k _ => if k = 0 then .nan false false 0 else .inf (n != m)
  | .fin n k _, .inf m => if k = 0 then .nan false false 0 else .inf (n != m)
  | .fin n k e, .fin m j f => .fin (n != m) (k * j) (e + f)

/-- A value with its sign changed; NaN and NaR as they are. -/
def negNum : Num → Num
  | .fin n m e => .fin (!n) m e
  | .inf n => .inf (!n)
  | x => x

/-- The exact value of a finite number as an integer multiple of 2^`e`, when no bit lies below. -/
def scaledInt (neg : Bool) (m : Nat) (e base : Int) : Int :=
  let v : Int := if base ≤ e then (m : Int) * 2 ^ (e - base).toNat else (m : Int) / 2 ^ (base - e).toNat
  if neg then -v else v

/-- Comparison of two finite magnitudes `m × 2^e`. -/
def magLt (m : Nat) (e : Int) (k : Nat) (f : Int) : Bool :=
  let b := min e f
  m * 2 ^ (e - b).toNat < k * 2 ^ (f - b).toNat

/-- The order of two finite values, signed zeros equal. -/
def finLt (a : Bool × Nat × Int) (b : Bool × Nat × Int) : Bool :=
  let za := a.2.1 == 0
  let zb := b.2.1 == 0
  if za && zb then false
  else if za then !b.1
  else if zb then a.1
  else match a.1, b.1 with
    | true, false => true
    | false, true => false
    | false, false => magLt a.2.1 a.2.2 b.2.1 b.2.2
    | true, true => magLt b.2.1 b.2.2 a.2.1 a.2.2

/-- Whether a < b for values that are neither NaN nor NaR, signed zeros equal. -/
def numLt (a b : Num) : Bool :=
  match a, b with
  | .inf n, .inf m => n && !m
  | .inf n, .fin _ _ _ => n
  | .fin _ _ _, .inf m => !m
  | .fin n m e, .fin k j f => finLt (n, m, e) (k, j, f)
  | _, _ => false

/-- Whether a = b for values that are neither NaN nor NaR, signed zeros equal. -/
def numEq (a b : Num) : Bool := 
  match a, b with
  | .inf n, .inf m => n == m
  | .fin n m e, .fin k j f => !finLt (n, m, e) (k, j, f) && !finLt (k, j, f) (n, m, e)
  | _, _ => false

/-- The exponent ⌊log2⌋ of a finite non-zero magnitude. -/
def floorLog2 (m : Nat) (e : Int) : Int := (Nat.log2 m : Int) + e

end Sys2Proof.Machine
end

