-- ==== Sys2Proof/Machine/Flags.lean ====
section
/-!
DEFINITION. The flags of R60, the rounding modes of R52, the generator of R54, and the one rounding of R43, R44 and R53.
-/

namespace Sys2Proof.Machine

/-- The flags of `sys.fflags` (R60). -/
abbrev Flags := BitVec 6

def flagNV : Flags := 1#6
def flagDZ : Flags := 2#6
def flagOF : Flags := 4#6
def flagUF : Flags := 8#6
def flagNX : Flags := 16#6
def flagQO : Flags := 32#6
def noFlags : Flags := 0#6

/-- A flag raised under a condition. -/
def raiseIf (c : Bool) (f : Flags) : Flags := if c then f else noFlags

/-- A pattern and the flags that producing it raises. -/
structure Rounded where
  bits : Nat
  flags : Flags
deriving DecidableEq, Repr

/-- R52: a rounding mode as it acts on the last place; RNE-SAT rounds as RNE and SR-SAT as SR. -/
inductive Rule where
  | nearestEven | zero | up | down | nearestAway | stochastic
deriving DecidableEq, Repr

/-- R52: the rule of a rounding-mode code. -/
def ruleOf (rm : BitVec 3) : Rule :=
  match rm.toNat with
  | 0 => .nearestEven | 1 => .zero | 2 => .up | 3 => .down | 4 => .nearestAway | 5 => .stochastic
  | 6 => .nearestEven | _ => .stochastic

/-- R52: the saturating modes. -/
def modeSaturates (rm : BitVec 3) : Bool := rm == 6 || rm == 7

/-- R54: the rounding generator, 24 bits. -/
def gen (k s : BitVec 32) (a : BitVec 64) : Nat :=
  let h := k ^^^ a.extractLsb' 0 32 ^^^ rotl32 (a.extractLsb' 32 32) 16 ^^^ (s * 0x9E3779B9#32)
  let h := (h ^^^ (h >>> 16)) * 0x7FEB352D#32
  let h := (h ^^^ (h >>> 15)) * 0x846CA68B#32
  let h := h ^^^ (h >>> 16)
  (h >>> 8).toNat

/-- A magnitude to be rounded: (m + δ) × 2^e, where δ is 0, or with `sticky` some value strictly between 0 and 1. -/
structure Exact where
  neg : Bool
  m : Nat
  e : Int
  sticky : Bool
deriving DecidableEq, Repr

/-- The part of a magnitude at and above weight 2^q, and what lies below: the kept integer, the 24 bits below the last
kept one (R55), the comparison of the rest with half a unit, and whether anything lies below. -/
structure Cut where
  kept : Nat
  d : Nat
  aboveHalf : Bool
  half : Bool
  inexact : Bool
deriving DecidableEq, Repr

/-- The cut of a magnitude at weight 2^q. -/
def cutAt (x : Exact) (q : Int) : Cut :=
  if q ≤ x.e then
    { kept := x.m * 2 ^ (x.e - q).toNat, d := 0, aboveHalf := false, half := false, inexact := x.sticky }
  else if bitLength x.m + 26 < (q - x.e).toNat then
    { kept := 0, d := 0, aboveHalf := false, half := false, inexact := x.m != 0 || x.sticky }
  else
    let s := (q - x.e).toNat
    let rest := x.m % 2 ^ s
    { kept := x.m / 2 ^ s
      d := if 24 ≤ s then rest / 2 ^ (s - 24) else rest * 2 ^ (24 - s)
      aboveHalf := 2 ^ s < 2 * rest || (2 * rest == 2 ^ s && x.sticky)
      half := 2 * rest == 2 ^ s && !x.sticky
      inexact := rest != 0 || x.sticky }

/-- R52, R55: whether the magnitude is rounded up by one unit in the last place. -/
def roundsUp (rule : Rule) (neg : Bool) (r : Nat) (c : Cut) : Bool :=
  c.inexact &&
    match rule with
    | .nearestEven => c.aboveHalf || (c.half && c.kept % 2 == 1)
    | .zero => false
    | .up => !neg
    | .down => neg
    | .nearestAway => c.aboveHalf || c.half
    | .stochastic => 2 ^ 24 ≤ c.d + r

/-- The magnitude rounded at weight 2^q, as a multiple of 2^q. -/
def roundCut (rule : Rule) (neg : Bool) (r : Nat) (c : Cut) : Nat :=
  c.kept + (if roundsUp rule neg r c then 1 else 0)

/-- The sign bit of a layout with a sign, above its exponent. -/
def signBit (l : Layout) (neg : Bool) : Nat := if neg then 2 ^ (l.fields.1 + l.fields.2) else 0

/-- R53: the result of a finite overflow. -/
def overflowBits (l : Layout) (rm : BitVec 3) (sat neg : Bool) : Nat :=
  let big := match l with
    | .e4m3 => 0x7F
    | .e2m1 => 7
    | _ => l.infBits
  signBit l neg +
    (if l == .e2m1 || sat || modeSaturates rm then l.maxBits
     else match ruleOf rm with
      | .zero => l.maxBits
      | .up => if neg then l.maxBits else big
      | .down => if neg then big else l.maxBits
      | _ => big)

/-- R53: rounding of a non-zero magnitude to a format with sign, exponent and fraction. Tininess is detected after
rounding (R36). -/
def roundIeee (l : Layout) (rm : BitVec 3) (sat : Bool) (r : Nat) (x : Exact) : Rounded :=
  let fb := l.fields.2
  let rule := ruleOf rm
  let top : Int := floorLog2 x.m x.e
  let qFree : Int := top - fb
  let q := max qFree l.minLsb
  let c := cutAt x q
  let k := roundCut rule x.neg r c
  let pattern := (q - l.minLsb).toNat * 2 ^ fb + k
  if l.maxBits < pattern then
    { bits := overflowBits l rm sat x.neg, flags := flagOF ||| flagNX }
  else
    let kFree := roundCut rule x.neg r (cutAt x qFree)
    -- tiny: rounded with an unbounded exponent range, below 2^(minLsb + fb)
    let tiny := qFree < l.minLsb && !(qFree + 1 == l.minLsb && kFree == 2 ^ (fb + 1))
    { bits := signBit l x.neg + pattern
      flags := raiseIf c.inexact flagNX ||| raiseIf (c.inexact && tiny) flagUF }

/-- R43: the bits after the sign of the unbounded tapered string of a magnitude, as an integer and its length. -/
def taperString (es : Nat) (x : Exact) : Nat × Nat :=
  let top := floorLog2 x.m x.e
  let k := top / (2 ^ es : Int)
  let ex := (top % (2 ^ es : Int)).toNat
  let fw := bitLength x.m - 1
  let f := x.m % 2 ^ fw
  let tail := ex * 2 ^ fw + f
  if 0 ≤ k then
    let ones := k.toNat + 1
    ((2 ^ ones - 1) * 2 ^ (1 + es + fw) + tail, ones + 1 + es + fw)
  else (2 ^ (es + fw) + tail, (-k).toNat + 1 + es + fw)

/-- R43: rounding of a non-zero magnitude to a tapered format. -/
def roundTaper (n es : Nat) (rm : BitVec 3) (r : Nat) (x : Exact) : Rounded :=
  let top := floorLog2 x.m x.e
  let maxE : Int := 2 ^ es * (n - 2 : Nat)
  let signed (p : Nat) : Nat := if x.neg then 2 ^ n - p else p
  let maxpos := 2 ^ (n - 1) - 1
  let fracZero := x.m == 2 ^ (bitLength x.m - 1) && !x.sticky
  if maxE < top || (top == maxE && !fracZero) then
    { bits := signed maxpos, flags := flagOF ||| flagNX }
  else if top < -maxE then { bits := signed 1, flags := flagUF ||| flagNX }
  else
    let s := taperString es x
    -- the first n − 1 bits after the sign are the candidate; the string is an integer of s.2 bits
    let c := cutAt { neg := false, m := s.1, e := 0, sticky := x.sticky } ((s.2 : Int) - (n - 1 : Nat))
    let t := roundCut (ruleOf rm) x.neg r c
    if t = 0 then { bits := signed 1, flags := flagUF ||| flagNX }
    else if maxpos < t then { bits := signed maxpos, flags := flagOF ||| flagNX }
    else { bits := signed t, flags := raiseIf c.inexact flagNX }

/-- R44: rounding of a magnitude to an integer. -/
def roundInt (signed : Bool) (n : Nat) (rm : BitVec 3) (r : Nat) (x : Exact) : Rounded :=
  let c := cutAt x 0
  let k : Int := roundCut (ruleOf rm) x.neg r c
  let v := if x.neg then -k else k
  let lo : Int := if signed then -(2 ^ (n - 1) : Int) else 0
  let hi : Int := if signed then 2 ^ (n - 1) - 1 else 2 ^ n - 1
  if v < lo then { bits := wrapTo n lo, flags := flagNV }
  else if hi < v then { bits := wrapTo n hi, flags := flagNV }
  else { bits := wrapTo n v, flags := raiseIf c.inexact flagNX }

/-- R53: rounding of a non-zero magnitude to a layout. -/
def roundExact (l : Layout) (rm : BitVec 3) (sat : Bool) (r : Nat) (x : Exact) : Rounded :=
  match l with
  | .taper n es => roundTaper n es rm r x
  | .int s n => roundInt s n rm r x
  | _ => roundIeee l rm sat r x

/-- The zero of a layout with a given sign: tapered formats and integers have one zero. -/
def zeroBits (l : Layout) (neg : Bool) : Nat :=
  if l.isTaper || l.isInt then 0 else signBit l neg

/-- R57: a NaN in a format, quieted, with its sign and the payload bits that fit. -/
def nanBits (l : Layout) (neg : Bool) (payload : Nat) : Nat :=
  match l with
  | .ieee eb fb => signBit l neg + (2 ^ eb - 1) * 2 ^ fb + ((payload / 2 ^ (52 - fb)) ||| 2 ^ (fb - 1))
  | .e4m3 => signBit l neg + 0x7F
  | _ => l.defaultNan

/-- R53, R44, R122: the conversion of an infinity. -/
def convertInf (l : Layout) (rm : BitVec 3) (sat neg : Bool) : Rounded :=
  match l with
  | .taper _ _ => { bits := l.defaultNan, flags := flagNV }
  | .int s n => { bits := if neg then (if s then 2 ^ (n - 1) else 0) else (if s then 2 ^ (n - 1) - 1 else 2 ^ n - 1), flags := flagNV }
  | .e2m1 => { bits := signBit l neg + 7, flags := flagNX }
  | .e4m3 =>
    if sat || modeSaturates rm then { bits := signBit l neg + 0x7E, flags := flagNX }
    else { bits := signBit l neg + 0x7F, flags := noFlags }
  | _ =>
    if sat then { bits := signBit l neg + l.maxBits, flags := flagNX }
    else { bits := signBit l neg + l.infBits, flags := noFlags }

/-- R44, R57, R122: the conversion of a NaN. -/
def convertNan (l : Layout) (neg signalling : Bool) (payload : Nat) : Rounded :=
  if l.isTaper || l.isInt then { bits := l.defaultNan, flags := flagNV }
  else { bits := nanBits l neg payload, flags := raiseIf signalling flagNV }

/-- R59: the conversion of NaR. -/
def convertNar (l : Layout) : Rounded :=
  { bits := l.defaultNan, flags := raiseIf (!l.isTaper) flagNV }

/-- R53: `Round(fmt, x, rm, A, S)`, with `r` the generator's value for A and S and `sat` a saturated conversion. A zero keeps its
sign; that of an integer or tapered zero, which has none, is taken as + in every mode, a choice of the model (R36, R151; log entry
67). -/
def roundNum (l : Layout) (rm : BitVec 3) (sat : Bool) (r : Nat) (x : Num) : Rounded :=
  match x with
  | .nan neg s p => convertNan l neg s p
  | .inf neg => convertInf l rm sat neg
  | .nar => convertNar l
  | .fin neg m e =>
    if m = 0 then { bits := zeroBits l neg, flags := noFlags }
    else roundExact l rm sat r { neg := neg, m := m, e := e, sticky := false }

/-- R62: a correctly rounded result given by its exact or truncated magnitude. -/
def roundMag (l : Layout) (rm : BitVec 3) (r : Nat) (x : Exact) : Rounded :=
  if x.m = 0 && !x.sticky then { bits := zeroBits l x.neg, flags := noFlags } else roundExact l rm false r x

end Sys2Proof.Machine
end

