-- ==== Sys2Proof/Machine/State.lean ====
section
/-!
DEFINITION. The state of a Kekor package as plain data, and the state right after reset. One core at a time is in
issue: `core` is that core as the bundle in issue is changing it, `before` the same core as it stood before the bundle
(R15), `here` its number, and `issue` what the syllables of the bundle have recorded so far. The other cores stand in
`cores`, and everything outside the cores in `pkg`.
-/

namespace Sys2Proof.Machine

/-- A register that a syllable reads (R21). -/
inductive Reg where
  | x (n : Nat) | queue (n : Nat) | pred (n : Nat) | v (n : Nat) | m (n : Nat) | sys (n : Nat)
deriving DecidableEq, Repr

/-- An entry of the last-result queue (R18): its value, its poison bit, and the result it awaits, if any. -/
structure QueueEntry where
  value : XWord
  poison : Bool
  awaits : Option Nat
deriving DecidableEq, Repr

/-- The pending transfer of the sequencer (R125): delay bundles still to issue, whether it is taken, its target. -/
structure Transfer where
  count : Nat
  taken : Bool
  target : BitVec 12
deriving DecidableEq, Repr

/-- The region of one quarter slot (R46) with its status field, NAN, PINF, NINF, OVF from bit 0, and its wrap field
(R47). -/
structure Granule where
  q : BitVec 272
  status : BitVec 4
  wrap : BitVec 12
deriving DecidableEq, Repr

/-- A quire bank: 64 full quires of four granules each, and its tag (R174). -/
structure Bank where
  granules : Vector Granule 256
  tag : BitVec 3
deriving DecidableEq, Repr

/-- A tile geometry register (R170). -/
structure Geometry where
  fmt : BitVec 5
  es : BitVec 2
  rows : BitVec 8
  cols : BitVec 10
deriving DecidableEq, Repr

/-- One latch slot: 16 A scales and 8 B scales (R182). -/
structure Latch where
  a : BitVec 128
  b : BitVec 64
deriving DecidableEq, Repr

/-- An entry of the first-level TLB: a run of pages with equal flags (R241, R242). `vpn` counts 64 KiB pages. -/
structure TlbEntry where
  vpn : Nat
  pages : Nat
  pfn : Nat
  w : Bool
  at' : Bool
  hs : Bool
  rm : Bool
  node : Nat
deriving DecidableEq, Repr

/-- A handle (R243, R265): `mode` is the mode of its footprint region, `perm` the permission it was bound with. -/
structure Handle where
  valid : Bool
  base : BitVec 55
  len : BitVec 48
  w : Bool
  at' : Bool
  hs : Bool
  rm : Bool
  ap : Bool
  mode : BitVec 3
  perm : BitVec 2
deriving DecidableEq, Repr

/-- The states of a cell (R228), FILLING divided by its filler. -/
inductive CellState where
  | absent | empty | fillingLocal | fillingRemote | full | draining
deriving DecidableEq, Repr

/-- A cell (R228). `filler` is the number Y*64 + X of the one remote writer, `sealTag` the tag of the sealing command. -/
structure Cell where
  base : Nat
  size : Nat
  state : CellState
  filler : Nat
  tag : BitVec 16
  etag : BitVec 16
  ckp : Bool
  sealed : Bool
  sealTag : BitVec 16
deriving DecidableEq, Repr

/-- Where a result lands (R19): a register, a queue entry by its number, bits of a v register, a system register, a
handle, or the low bits of a v register that the row-statistics engine writes (R312). -/
inductive Dest where
  | none
  | x (n : Nat)
  | pred (n : Nat)
  | queue (id : Nat)
  | v (n lo len : Nat) (keepPoison : Bool)
  | m (n : Nat)
  | sys (n : Nat)
  | handle (n : Nat) (h : Handle)
  | rows (n len : Nat)
deriving DecidableEq, Repr

/-- A result in flight: it lands in the cycle `due` of the core's unfrozen count. `awaits` names the global access that
still has to bring its value (R22). -/
structure Landing where
  dest : Dest
  value : Nat
  poison : Bool
  flags : Flags
  due : Nat
  pc : BitVec 12
  slot : Nat
  awaits : Option Nat
deriving DecidableEq, Repr

/-- What the matrix scoreboard guards (R175 to R177, R312). -/
inductive Resource where
  | tile (n : Nat) | bank (n : Nat) | rowStats
deriving DecidableEq, Repr

/-- What a busy operation does when its busy state ends (R175). A bank's slots and its tag are written apart: most operations
leave the tag (R174, R176). -/
inductive BusyEffect where
  | tile (n : Nat) (w : TileWord)
  | bank (n : Nat) (b : Bank)
  | tag (n : Nat) (t : BitVec 3)
  | comb (addr : Nat) (bytes : List Byte)
  | latches (page first : Nat) (vals : List Latch) (rowsA rowsB : Nat)
deriving DecidableEq, Repr

/-- An operation of the matrix unit in progress. `comb` is the range of comb bytes it reads or writes (R178), `fault` the
code it raises on the matrix stream when it ends. -/
structure BusyOp where
  pc : BitVec 12
  reads : List Resource
  writes : List Resource
  combLo : Nat
  combLen : Nat
  combWrites : Bool
  endsAt : Nat
  effects : List BusyEffect
  flags : Flags
  fault : BitVec 8
  tile : Nat
  qb : Nat
  onBank : Bool
deriving DecidableEq, Repr

/-- The forms of multiply-accumulate (R181). -/
inductive MacForm where
  | mma | mmn | mmx | mms | mmz
deriving DecidableEq, Repr

/-- A multiply-accumulate in the MAC array (R177, R181): its shape, the operands it read at issue by rows of A and by rows
of B, the draw it takes its B from (R185), the steps taken, the cycle of its step 0, and the bank as it stands after them. -/
structure MacOp where
  form : MacForm
  qb : Nat
  fmt : BitVec 5
  rowsN : Nat
  colsN : Nat
  depth : Nat
  a : List Nat
  b : List Nat
  es : Nat
  esB : Nat
  stream : Nat
  step : Nat
  steps : Nat
  start : Nat
  bank : Bank
deriving DecidableEq, Repr

/-- Where the bytes of a global access lie (R240, R245): at a local, host or remote physical address. -/
inductive Place where
  | here (pa : Nat) | host (pa : Nat) | remote (node pa : Nat)
deriving DecidableEq, Repr

/-- The atomic operations (R278 to R280). -/
inductive AmoOp where
  | add | and | or | xor | min | max | minn | maxn | swap | cas | fadd | addsr
deriving DecidableEq, Repr

/-- What a global access of a core does when it is performed. -/
inductive AccessKind where
  | load (signed speculative vector : Bool)
  | store
  | amo (op : AmoOp) (b c : Nat) (k s : BitVec 32) (order : BitVec 2)
deriving DecidableEq, Repr

/-- A global access issued and not yet complete (R275 to R277): its number, virtual address, the place of each byte, the
bytes a store writes, the places of its scope (R255), and how far it has come: the places for whose agents it is performed
before it is performed for all (R260, R263), the aligned 8-byte parts that have been performed (R257), and the bytes read. -/
structure Access where
  id : Nat
  pc : BitVec 12
  kind : AccessKind
  va : Nat
  places : List Place
  data : List Byte
  scope : BitVec 18
  within : BitVec 18
  parts : List Nat
  performed : Bool
  result : List Byte
  poisoned : Bool
  faulted : Bool
deriving DecidableEq, Repr

/-- The kinds of engine command (R301). -/
inductive CmdKind where
  | g2c | c2g | gat | sct | bmg | g2g | ovl | c2r
  | cellArm | cellSeal | cellFree | cellExpect | cellOpen
  | decTab | decOpen | decSeek | decSave | decLoad
  | osend | collMx | collBs | collBc | collAg
deriving DecidableEq, Repr

/-- A request of an engine that has been sent and not finished: its number within the command, the package cycle in which it
was sent, its first virtual address, the comb address or destination virtual address it writes, its length, the bytes it
carries once it has them, which of those are poisoned, and the aligned 8-byte parts that have been read, or written once it
writes (R257), with what the parts of an unfinished read brought. -/
structure Request where
  index : Nat
  since : Nat
  va : Nat
  lo : Nat
  len : Nat
  bytes : List Byte
  bad : List Bool
  parts : List Nat
  got : List Byte
  gotBad : List Bool
deriving DecidableEq, Repr

/-- A command in an engine's queue, with the operands and system registers it read at start (R302, R352) and its
progress: the requests sent so far, those in flight, those to be sent again (R310), the granules done, for a command of
a fixed length the package cycle in which it ends, and for a collective the contributions counted (R404) and the ranks that
have taken its own (R407). `serial` is its place in the core's order of issue; the accesses before `limit` in that order, those
of its own bundle among them, go before its first step (R302). -/
structure Command where
  serial : Nat
  kind : CmdKind
  syl : Syllable
  lend : Lend
  pc : BitVec 12
  pos : Nat
  cell : Nat
  other : Nat
  op1 : XWord
  op2 : XWord
  op3 : XWord
  str0 : BitVec 48
  str1 : BitVec 48
  cidx : BitVec 26
  src : Handle
  dst : Handle
  runs : List TlbEntry
  tag : BitVec 16
  keep : Bool
  sealing : Bool
  slot : Nat
  stream : Nat
  imm : Nat
  target : Nat
  parts : List (BitVec 32)
  rank : Nat
  root : Nat
  count : Nat
  ident : BitVec 64
  limit : Nat
  begun : Bool
  applied : Bool
  sent : Nat
  pending : List Request
  redo : List Request
  done : Nat
  ends : Nat
  items : List CollItem
  acks : List Nat
  carried : Bool
  readDone : Bool
  writeDone : Bool
deriving DecidableEq, Repr

/-- A table slot of the decode engine (R318). -/
structure DecTable where
  cell : Nat
  sfmt : BitVec 5
  es : BitVec 2
  rint : Nat
  ntiles : Nat
  nsym : Nat
  iofs : Nat
  dlen : Nat
  freq : List Nat
  values : List Nat
deriving DecidableEq, Repr

/-- A decode stream (R320). `ready` holds the decoded symbols that no step has taken, each with the package cycle that
decoded it. `work` counts the decoder cycles still to run for the command or load in progress. -/
structure Stream where
  isOpen : Bool
  slot : Nat
  tile : Nat
  base : Nat
  dcell : Nat
  pos : Nat
  wptr : Nat
  segend : Nat
  xs : Vector (BitVec 32) 32
  ipos : Nat
  rst : Bool
  ready : List (Nat × Nat)
  work : Nat
deriving DecidableEq, Repr

/-- A command that the queen core has bound to an engine of a frame (R383): the frame, the KIND, the position, the package
cycle of its delivery, whether it has been delivered, and the command. -/
structure BoundCommand where
  frame : Nat
  kind : Nat
  position : Nat
  due : Nat
  delivered : Bool
  cmd : Command
deriving DecidableEq, Repr

/-- What a core is doing about its task (R211, R215, R220, R308). -/
inductive Mode where
  /-- No task. -/
  | free
  /-- A resumed task is dispatched and its context is not restored yet (R359). -/
  | restoring
  /-- A resumed task's context is restored, and its first bundle has not issued. -/
  | restored
  /-- A task is dispatched and its first bundle has not issued. -/
  | starting
  | running
  /-- The task's `end`, or its fatal fault, has come; it retires with this status (R221). -/
  | ending (status : BitVec 8)
  /-- Step 4 of R221: its completion record waits to be written. -/
  | recording (status : BitVec 8)
  /-- The record is written, or none is due; steps 5 and 6 of R221 are left. -/
  | recorded (status : BitVec 8)
  /-- The task gives up its core with this live mask (R215). -/
  | givingUp (mask : BitVec 9)
  /-- A fault was detected; the traffic settles before the stop record is written (R308). -/
  | stopping
  /-- Stopped with a record: held for the host, or to be resumed by firmware. -/
  | stopped (held : Bool)
  /-- Force-stopped by a watchdog drain (R367). -/
  | forced
deriving DecidableEq, Repr

/-- Why the next bundle waits beyond its own operands (R22). A fence holds the accesses it awaits and the places of its scope
(R255, R282), a full queue the oldest command of that queue (R302). -/
inductive Hold where
  | cell (c : Nat) (pc : BitVec 12)
  | barrier (group : Nat)
  | fence (ids : List Nat) (scope : BitVec 18)
  | fenceE
  | entry (serial : Nat)
deriving DecidableEq, Repr

/-- A fault that a syllable raises at issue. -/
structure SlotFault where
  slot : Nat
  code : BitVec 8
  faddr : BitVec 64
deriving DecidableEq, Repr

/-- A fault on one stream of a stop record (R309, R351). -/
structure StreamFault where
  code : BitVec 8
  cause : BitVec 4
  pc : BitVec 12
  addr : BitVec 64
  tile : Nat
  qb : Nat
  onBank : Bool
  stream : Nat
deriving DecidableEq, Repr

/-- The faults that one stop gathers (R308, R348): the S stream with its slots, or with a code that names no slot; and
the engine, matrix and decode streams. -/
structure Stop where
  slots : List SlotFault
  bundleCode : BitVec 8
  bundleAddr : BitVec 64
  c0 : Option StreamFault
  c1 : Option StreamFault
  m : Option StreamFault
  d : Option StreamFault
deriving DecidableEq, Repr

/-- The stop record of a core (R350 to R352), field by field. -/
structure StopRecord where
  valid : Bool
  fatal : Bool
  held : Bool
  streams : BitVec 5
  code : BitVec 8
  serial : BitVec 24
  replica : BitVec 12
  image : BitVec 16
  cyc : BitVec 64
  frz : BitVec 64
  pc : BitVec 12
  transfer : Transfer
  ended : Bool
  slotMask : BitVec 4
  slotCodes : BitVec 32
  faddr : BitVec 64
  c0 : Option StreamFault
  c1 : Option StreamFault
  m : Option StreamFault
  d : Option StreamFault
  retries0 : Nat
  retries1 : Nat
  dTile : Nat
  dPos : Nat
  dWptr : Nat
  queue0 : List Command
  queue1 : List Command
  queueD : List Command
deriving DecidableEq, Repr

/-- The parts of a footprint region (R195, R199) as a replica has it. -/
structure Region where
  mode : BitVec 3
  base : Nat
  len : Nat
deriving DecidableEq, Repr

/-- Where a card came from, and so where its resumed card goes (R202, R216); `launch` is the launch buffer (R224). -/
inductive Origin where
  | ring (k : Nat) | localQueue (core : Nat) | frameQueue (f : Nat) | partitionQueue | launch (k : Nat)
deriving DecidableEq, Repr

/-- The task on a core (R195): its card's 32 words, its replica, the stamps of its first and latest acceptance, its
queue of origin, the ring whose stream it belongs to, and its card's number. -/
structure Task where
  card : List XWord
  replica : Nat
  part : Nat
  serial : Nat
  stamp : Nat
  origin : Origin
  ring : Nat
  cardId : Nat
deriving DecidableEq, Repr

/-- A pre-emption request (R214): its number, the cycle in which it reaches the task, the cycle in which it expires once it
has, the stamp of the entry that makes it, and whether a drain makes it (R366). -/
structure PreemptRequest where
  id : Nat
  arrives : Nat
  expires : Option Nat
  stamp : Nat
  byDrain : Bool
deriving DecidableEq, Repr

/-- What the walk of a `probe` found (R285): the fault of checks 4 to 6, or 0 and the entries for the range. -/
structure WalkResult where
  code : BitVec 8
  entries : List TlbEntry
deriving DecidableEq, Repr

/-- The walk of a `probe` (R285): its range, its permission, and what it found once it is done. -/
structure Probe where
  va : Nat
  len : Nat
  perm : BitVec 2
  result : Option WalkResult
deriving DecidableEq, Repr

/-- A tag of an overlay region (R223). -/
structure OverlayTag where
  valid : Bool
  image : BitVec 16
  part : Nat
deriving DecidableEq, Repr

/-- One core (R10 to R31). `halted` is the mode in which a stop found it. `trap` is the pc of a syllable whose flags have
landed and trap, until the trap is taken (R61). `dslotBad` and `streamBad` mark decoder state with an uncorrectable error
(R355). `answered` gives for a copy engine the package cycle in which it last accepted a response (R303). `retries0` and the like count the
resumptions after link faults, `rereads0` and the like the retries of a read, since a request of the stream was performed (R311). `clk` counts its unfrozen cycles, by which results land (R19); `mclk` the cycles that no
event freeze stopped, by which the matrix unit runs (R179). -/
structure Core where
  pc : BitVec 12
  transfer : Transfer
  x : Vector XWord 32
  xPoison : BitVec 32
  queue : Vector QueueEntry 16
  p : BitVec 8
  v : Vector VWord 64
  vPoison : BitVec 64
  m : Vector MWord 8
  t : Vector TileWord 16
  latches : Vector Latch 32
  banks : Vector Bank 2
  handles : Vector Handle 16
  cells : Vector Cell 64
  comb : List Host.Cell
  combBad : List Nat
  xBad : BitVec 32
  aBad : BitVec 16
  vBad : BitVec 64
  tileBad : BitVec 16
  bankBad : BitVec 2
  dslotBad : BitVec 4
  streamBad : BitVec 2
  imem : List (Nat × Bundle)
  imemBad : List Nat
  overlays : Vector OverlayTag 16
  strict : Bool
  check : Bool
  cyc : BitVec 64
  frz : BitVec 64
  lc : BitVec 64
  lps : BitVec 12
  lpe : BitVec 12
  rm : BitVec 3
  fflags : Flags
  nve : Bool
  qoe : Bool
  srkey : BitVec 32
  srstep : BitVec 32
  tes : BitVec 6
  tg : Vector Geometry 16
  tpitch : BitVec 16
  dm : BitVec 16
  cstride0 : BitVec 48
  cstride1 : BitVec 48
  cidx : BitVec 26
  bind0 : BitVec 6
  bind1 : BitVec 6
  skew0 : BitVec 10
  skew1 : BitVec 10
  clk : Nat
  mclk : Nat
  landings : List Landing
  trap : Option (BitVec 12)
  busy : List BusyOp
  macs : List MacOp
  arrayFree : Nat
  mistimed : List (BitVec 12)
  accesses : List Access
  tlb : List TlbEntry
  probe : Option Probe
  hold : List Hold
  c0 : List Command
  c1 : List Command
  dq : List Command
  bound : List BoundCommand
  answered : List (Nat × Nat)
  dslots : Vector (Option DecTable) 4
  streams : Vector Stream 2
  mode : Mode
  halted : Mode
  task : Option Task
  ended : Bool
  request : Option PreemptRequest
  stop : Option Stop
  record : StopRecord
  retries0 : Nat
  retries1 : Nat
  rereads0 : Nat
  rereads1 : Nat
  rereadsD : Nat
  relief : BitVec 8
  reliefSlots : BitVec 4
  serial : Nat
  credits : Vector Nat 32
deriving DecidableEq, Repr

/-- Why the bundle in issue cannot issue in this cycle (R22, R307, R291). -/
inductive Wait where
  /-- A tile, a bank or the MAC array is busy, or a busy transfer covers the comb bytes (R175, R177, R178). -/
  | scoreboard
  /-- The row-statistics engine is busy, or reads a bank that the bundle writes (R312). -/
  | rows
  /-- A hazard, a full queue, a missing credit, a decode stream, or a `probe` (R306, R307). -/
  | event
deriving DecidableEq, Repr

/-- Something a bundle sends to the rest of the package when it commits. -/
inductive Post where
  /-- A card for a queue (R204). -/
  | card (words : List XWord) (queue : Origin)
  /-- An arrival at a group's barrier (R219). -/
  | arrival (group : Nat)
deriving DecidableEq, Repr

/-- What the syllables of the bundle in issue have recorded (the model's own, log entry 1): the slot that is issuing, the
copy positions taken, the registers read, the faults found, the reasons to wait, what the bundle sends when it commits, a
next pc that `loop` sets, an `end`, and the live masks of `safe` and `yield`. -/
structure Issue where
  slot : Nat
  copies : Nat
  reads : List (Nat × Reg)
  faults : List SlotFault
  waits : List Wait
  posts : List Post
  nextPc : Option (BitVec 12)
  ends : Bool
  safe : Option (BitVec 9)
  yield : Option (BitVec 9)
  hold : List Hold
deriving DecidableEq, Repr

/-- A submission ring (R206, R208) with its watchdog (R364, R365). -/
structure Ring where
  base : BitVec 64
  log2n : Nat
  en : Bool
  overrun : Bool
  w : BitVec 32
  r : BitVec 32
  limit : BitVec 32
  counter : Nat
deriving DecidableEq, Repr

/-- A completion queue (R208). -/
structure CompQueue where
  base : BitVec 64
  log2n : Nat
  en : Bool
  drop : BitVec 16
  widx : BitVec 32
  ridx : BitVec 32
deriving DecidableEq, Repr

/-- A completion record that is due (R209): its queue, its 128 bits, the ring of its stream, the core that waits for it, and
the counter that it increments once written (R224). -/
structure DueRecord where
  queue : Nat
  bits : BitVec 128
  ring : Nat
  core : Option Nat
  signal : Option Nat
deriving DecidableEq, Repr

/-- An accepted card (R202, R203), in the place its stream gives it: whether it is counter-met (R205),
how many of its replicas have not retired, the statuses of those that have, the graph
instance it belongs to, and the task that posted it. -/
structure Card where
  id : Nat
  words : List XWord
  ring : Nat
  serial : Nat
  met : Bool
  left : Nat
  statuses : List (Nat × BitVec 8)
  graph : Option Nat
  poster : Option (Nat × Nat)
deriving DecidableEq, Repr

/-- A card, or a resumed card, in a queue (R202, R216): its card's number, its stamp, its queue, the replicas it stands for
with the core each was saved on, the cycle in which it became ready, whether its launch conditions were checked (R201), the
request in answer to which its replicas give up their cores (R360), and the posting core (R200). -/
structure Waiting where
  card : Nat
  stamp : Nat
  origin : Origin
  replicas : List (Nat × Nat)
  resumed : Bool
  readyAt : Option Nat
  checked : Bool
  request : Option Nat
  postedBy : Option Nat
deriving DecidableEq, Repr

/-- An entry of the group table (R217, R219): SIZE, GEN, and the cores whose arrival has been recorded in the generation. -/
structure Group where
  size : Nat
  gen : BitVec 32
  arrived : List Nat
deriving DecidableEq, Repr

/-- A loaded image (R415, R419): its id, its entry points, its code, its regions with whether each is start-resident, and its
data section. -/
structure Image where
  id : BitVec 16
  nbv : Nat
  entries : List Nat
  code : List (Nat × Bundle)
  regions : List (Nat × Bool)
  data : List Byte
deriving DecidableEq, Repr

/-- An instance of a graph (R224): its cards in array order, each with its status once it has retired, and what the
descriptor reports to. -/
structure GraphInstance where
  id : Nat
  cards : List (Nat × Option (BitVec 8))
  queue : Nat
  signal : Nat
  ring : Nat
  serial : Nat
deriving DecidableEq, Repr

/-- The drain of a partition (R366): the cycle of expiry, G once it is known, whether the force-stop of step 4 is done, and
the cycle in which the traffic settled. -/
structure Drain where
  expiry : Nat
  last : Option Nat
  forced : Bool
  settled : Option Nat
deriving DecidableEq, Repr

/-- An entry of an error log (R425). -/
structure LogEntry where
  kind : BitVec 8
  unit : BitVec 8
  count : BitVec 16
  addr : BitVec 64
  time : BitVec 64
deriving DecidableEq, Repr

/-- An error log: its entries, its write index and its overflow count (R425). -/
structure ErrorLog where
  entries : List LogEntry
  index : Nat
  overflow : Nat
deriving DecidableEq, Repr

/-- An `osend` packet that has reached the injector of its partition (R394), and the command it came from: the core, the
engine number and the serial number. -/
structure Outgoing where
  core : Nat
  engine : Nat
  serial : Nat
  dests : List Nat
  user : XWord
  payload : List Byte
  bad : List Nat
deriving DecidableEq, Repr

/-- A waggle packet that a receiver holds (R397): the input it came by (16 is the own injector), the pod time at which it
came, the command it came from where that is a core of this package, and the packet. -/
structure Held where
  port : Nat
  since : Nat
  sender : Option (Nat × Nat × Nat)
  packet : Packet
deriving DecidableEq, Repr

/-- A command of IMGCMD that is running (R419). -/
inductive ImageCommand where
  | load | unload (id : BitVec 16)
deriving DecidableEq, Repr

/-- A partition: its registers and what the hive scheduler, the rings, the groups, the images and the waggle receiver hold
for it. `bumps` lists the counters that signals have incremented in this package cycle (R413). -/
structure Partition where
  frames : BitVec 16
  ports : BitVec 16
  en : Bool
  pmem : Vector (BitVec 64) 8
  plim : Vector (BitVec 64) 8
  pmiss : BitVec 32
  ptroot : BitVec 64
  tlbiva : BitVec 64
  tlbiBusy : Bool
  sage : BitVec 32
  rings : Vector Ring 8
  queues : Vector CompQueue 16
  counters : List (Nat × BitVec 64)
  bumps : List Nat
  groups : List (Nat × Group)
  arriving : List (Nat × Nat × Nat)
  releasing : List (Nat × Nat × Nat)
  cards : List Card
  waiting : List Waiting
  reserved : List (Nat × Nat)
  stamp : Nat
  due : List DueRecord
  images : List Image
  graphs : List GraphInstance
  imgpa : BitVec 64
  imgErr : BitVec 8
  imgCmd : Option ImageCommand
  draining : Bool
  stopped : Bool
  wdRing : Nat
  wdForced : BitVec 16
  wdLost : BitVec 16
  drain : Option Drain
  stopsel : BitVec 64
  log : ErrorLog
  wgm : List (Nat × BitVec 64)
  mbbase : BitVec 64
  mbLog2n : Nat
  mbSig : BitVec 16
  mbw : BitVec 32
  mbrptr : BitVec 64
  ordstall : BitVec 32
  stalled : Bool
  stallPort : Nat
  stallCause : Nat
  stallCode : BitVec 8
  seq : BitVec 32
  accepted : Nat
  outgoing : List Outgoing
  held : List Held
  delivering : Option Held
  roomSince : Option Nat
  didx : BitVec 64
  locked : Bool
  keys : Nat
deriving DecidableEq, Repr

/-- A pod port (R386, R389, R395, R396): its registers, with WAG as written and as in effect, the input ports that route to it, the last watermark received and sent, the pod times at which a
watermark last rose, was last sent and a packet was last carried, whether it has joined, the exchanges in a row with an
offset beyond 4 ticks, the packets queued for it, and the bulk flits sent through it so far. -/
structure Port where
  en : Bool
  wagReg : Bool
  wag : Bool
  feeds : BitVec 16
  up : Bool
  terr : Bool
  regr : Bool
  lanes : BitVec 4
  misr : BitVec 16
  received : Nat
  joined : Bool
  rose : Nat
  sent : Nat
  sentAt : Nat
  carried : Nat
  offsets : Nat
  queue : List Packet
  flits : List Flit
deriving DecidableEq, Repr

/-- A frame (R374 to R376): the repair maps as written and in effect, FAILCOL, and the queues of its collective engine and
edge-copy engine, as the core, the engine number and the serial number of each command. -/
structure Frame where
  frepa : BitVec 64
  frepb : BitVec 64
  mapA : BitVec 64
  mapB : BitVec 64
  failcol : BitVec 16
  coll : List (Nat × Nat × Nat)
  edge : List (Nat × Nat × Nat)
deriving DecidableEq, Repr

/-- An aperture (R246). -/
structure Aperture where
  cfg : BitVec 64
  back : BitVec 64
  p0 : BitVec 64
  p1 : BitVec 64
deriving DecidableEq, Repr

/-- A migration entry (R251), and the package cycle since which line P has been the next to copy (R252). -/
structure Migration where
  old : BitVec 64
  new : BitVec 64
  lines : BitVec 32
  p : BitVec 32
  since : Nat
  en : Bool
  done : Bool
deriving DecidableEq, Repr

/-- How far a remote write has come (R235 to R237): its header crosses the meshes of the frames on its path, `at'` the place it
heads for in this one, until a cycle; it stands in the edge buffer before a frame, at a place (R378); it waits on the last link
before a full arrival buffer; it is held; it was accepted in a cycle; its acknowledgement, or its refusal, crosses the frames on its
way back. -/
inductive WriteState where
  | flying (at' : Nat) (due : Nat)
  | edge (at' : Nat) (since : Nat)
  | waiting (since : Nat)
  | held (since : Nat)
  | accepted (cycle : Nat)
  | returning (refused : Bool) (at' : Nat) (due : Nat)
  | returnEdge (refused : Bool) (at' : Nat) (since : Nat)
deriving DecidableEq, Repr

/-- A remote write whose header has been injected (R235); `tenant` is the stamp of the receiving task once a header is held. -/
structure RemoteWrite where
  id : Nat
  src : Nat
  dst : Nat
  engine : Nat
  serial : Nat
  rcell : Nat
  tag : BitVec 16
  data : List Byte
  bad : List Nat
  tenant : Nat
  state : WriteState
deriving DecidableEq, Repr

/-- A repair accepted for the next reset, or a repair in effect (R426): its kind and its target. -/
structure Repair where
  kind : Nat
  target : BitVec 56
deriving DecidableEq, Repr

/-- An answer of the SPDM responder (R422): the function it goes to, the measurements, the partition's configuration where a
virtual function asks, and the two signatures. -/
structure DoeReport where
  fn : Nat
  measurements : List (BitVec 384)
  config : Option (List (BitVec 64))
  ed25519 : Nat
  mldsa : Nat
deriving DecidableEq, Repr

/-- The statuses of a completion: successful, Unsupported Request (R408), Configuration Request Retry Status (R421). -/
inductive CompletionStatus where
  | ok | unsupported | retry
deriving DecidableEq, Repr

/-- What the device returns to a function's host for a read or an AtomicOp: the data, whether its TLP is poisoned (R409), and the
status. -/
structure Completion where
  fn : Nat
  bytes : List Byte
  poisoned : Bool
  status : CompletionStatus
deriving DecidableEq, Repr

/-- The MSI-X structure of a function (R414): Enable, Function Mask, the mask bits and the pending bits of its vectors. -/
structure MsixTable where
  en : Bool
  hush : Bool
  masks : BitVec 64
  pending : BitVec 64
deriving DecidableEq, Repr

/-- Everything outside the cores. `mem` is the memory of HBM and the super tier by physical address, `memBad` its 8-byte
words marked poisoned (R226), `undef` the ranges of it, as first byte, length and draw, whose bytes have been undefined since a key
was drawn (R423), `writers` for each 8-byte word the places of the agents that have written it (R263), `servo` the correction of pod time that is due, faster or
slower, and `servoAt` the time of the last one (R390), `upsets` the errors still to be found, each with its cycle, `trip` the THERMTRIP output (R430), `items` what switches have sent here, each with the ranks of this package that
have taken it (R406), `raised` the MSI-X messages raised so far, newest first, as function and vector (R414); `reports` and `completions` what DOE
and BAR4 have answered so far, newest first. -/
structure Package where
  cycle : Nat
  powered : Bool
  booted : Bool
  recovery : Bool
  measurements : List (BitVec 384)
  flash : List Byte
  time : BitVec 48
  servo : Option Bool
  servoAt : Nat
  supcap : Nat
  mem : List Host.Cell
  memBad : List Nat
  undef : List (Nat × Nat × Nat)
  writers : List (Nat × BitVec 18)
  parts : Vector Partition 16
  frames : Vector Frame 16
  ports : Vector Port 16
  apertures : Vector Aperture 64
  migrations : Vector Migration 16
  mhold : BitVec 32
  pnode : BitVec 8
  ptbound : BitVec 16
  rtab : List (Nat × BitVec 5)
  qown : BitVec 5
  writes : List RemoteWrite
  injected : List (Nat × Nat)
  items : List (CollItem × List Nat)
  upsets : List (Nat × Upset)
  repBusy : Bool
  repErr : BitVec 8
  deferred : List Repair
  repaired : List Repair
  pwrlim : BitVec 12
  power : BitVec 12
  duty : Nat
  clksel : BitVec 2
  tmax : BitVec 8
  trip : Bool
  warn : BitVec 8
  warned : Bool
  log : ErrorLog
  msix : Vector MsixTable 16
  raised : List (Nat × Nat)
  reports : List DoeReport
  completions : List Completion
  nextId : Nat
deriving DecidableEq, Repr

/-- The steps that the package takes of its own accord within a package cycle: those constructors of `Instr` that are no
syllable and come from no agent outside. An answer from memory among them is one from this package. -/
inductive DeviceStep where
  | resultLanding (c : Nat)
  | busyStateEnd (c : Nat)
  | bundleIssue (c : Nat)
  | matrixStep (c : Nat)
  | memoryAccessPerformed (c id : Nat)
  | amoPerformed (c id : Nat)
  | globalLoadReturn (c id : Nat)
  | atomicReturn (c id : Nat)
  | postedWriteAck (c id : Nat)
  | apertureFaultReport (c id : Nat)
  | translationWalkDone (c : Nat)
  | remoteWriteInjection (c e : Nat)
  | cellCommandTakesEffect (c e : Nat)
  | engineCommandBegin (c e : Nat)
  | engineRequestSend (c e : Nat)
  | engineResponseArrival (c e i : Nat)
  | migrationHoldTimeout (c e : Nat)
  | engineCommandComplete (c e : Nat)
  | loadSegment (c d : Nat)
  | decodeRound (c d : Nat)
  | remoteWriteHeaderArrival (id : Nat)
  | remoteWriteAccept (id : Nat)
  | remoteWriteAckArrival (id : Nat)
  | boundCommandDelivery (i : Nat)
  | migrationLineCopy (n : Nat)
  | tlbiComplete (p : Nat)
  | stopRecordWrite (c : Nat)
  | automaticResume (c : Nat)
  | retirement (c : Nat)
  | contextSave (c : Nat)
  | contextRestore (c : Nat)
  | taskStart (c : Nat)
  | releaseArrival (c : Nat)
  | barrierArrival (p i : Nat)
  | graphInstanceComplete (p g : Nat)
  | completionRecordWrite (p q : Nat)
  | ringFetch (p k : Nat)
  | schedulerDecision (p : Nat)
  | preemptionRequestArrival (c : Nat)
  | requestLapse (c : Nat)
  | watchdogExpiry (p k : Nat)
  | drainDeadline (p : Nat)
  | partitionReset (p : Nat)
  | injectorAccept (p : Nat)
  | waggleDelivery (p : Nat)
  | mailboxRecordComplete (p : Nat)
  | deliveryStall (p : Nat)
  | watermarkSend (k : Nat)
  | dutyBoundary (watts : Nat)
  | imageLoad (p : Nat)
  | imageUnload (p : Nat) (id : BitVec 16)
deriving DecidableEq, Repr

/-- The whole machine: the core in issue and its image before the bundle, the other cores, the package, the steps of this
package cycle still to come, the inputs from outside not yet taken, and the counter that free values are drawn by. -/
structure State where
  core : Core
  before : Core
  here : Nat
  issue : Issue
  cores : List (Nat × Core)
  pkg : Package
  agenda : List DeviceStep
  inputs : List Instr
  choice : Nat
deriving DecidableEq, Repr

/-- No bundle in issue. -/
def Issue.reset : Issue :=
  { slot := 0, copies := 0, reads := [], faults := [], waits := [], posts := [], nextPc := none, ends := false
    safe := none, yield := none, hold := [] }

/-- A cell that does not exist. -/
def Cell.reset : Cell :=
  { base := 0, size := 0, state := .absent, filler := 0, tag := 0, etag := 0, ckp := false, sealed := false
    sealTag := 0 }

/-- R30: cell c0 at task start spans the comb and is FULL with tag 0. -/
def Cell.wholeComb : Cell := { Cell.reset with size := 262144, state := .full }

/-- A handle that is not valid. -/
def Handle.reset : Handle :=
  { valid := false, base := 0, len := 0, w := false, at' := false, hs := false, rm := false, ap := false, mode := 0
    perm := 0 }

/-- An empty quire bank with tag 0. -/
def Bank.reset : Bank := { granules := Vector.replicate 256 { q := 0, status := 0, wrap := 0 }, tag := 0 }

/-- A closed stream with every field 0. -/
def Stream.reset : Stream :=
  { isOpen := false, slot := 0, tile := 0, base := 0, dcell := 0, pos := 0, wptr := 0, segend := 0
    xs := Vector.replicate 32 0, ipos := 0, rst := false, ready := [], work := 0 }

/-- A stop record that records no stop. -/
def StopRecord.reset : StopRecord :=
  { valid := false, fatal := false, held := false, streams := 0, code := 0, serial := 0, replica := 0, image := 0
    cyc := 0, frz := 0, pc := 0, transfer := { count := 0, taken := false, target := 0 }, ended := false
    slotMask := 0, slotCodes := 0, faddr := 0, c0 := none, c1 := none, m := none, d := none, retries0 := 0
    retries1 := 0, dTile := 0, dPos := 0, dWptr := 0, queue0 := [], queue1 := [], queueD := [] }

/-- The 64 cells at task start (R30). -/
def startCells : Vector Cell 64 := (Vector.replicate 64 Cell.reset).setIfInBounds 0 Cell.wholeComb

/-- A core that holds no task, with the values of a task's start (R30; log entry 4). -/
def Core.reset : Core :=
  { pc := 0, transfer := { count := 0, taken := false, target := 0 }, x := Vector.replicate 32 0, xPoison := 0
    queue := Vector.replicate 16 { value := 0, poison := false, awaits := none }, p := 1
    v := Vector.replicate 64 0, vPoison := 0
    m := (Vector.replicate 8 0).setIfInBounds 0 (BitVec.allOnes 128)
    t := Vector.replicate 16 0, latches := Vector.replicate 32 { a := 0, b := 0 }
    banks := Vector.replicate 2 Bank.reset, handles := Vector.replicate 16 Handle.reset, cells := startCells
    comb := [], combBad := [], xBad := 0, aBad := 0, vBad := 0, tileBad := 0, bankBad := 0, dslotBad := 0, streamBad := 0
    imem := [], imemBad := [], overlays := Vector.replicate 16 { valid := false, image := 0, part := 0 }
    strict := false, check := false, cyc := 0, frz := 0, lc := 0, lps := 0, lpe := 0, rm := 0, fflags := 0
    nve := false, qoe := false, srkey := 0, srstep := 0, tes := 0
    tg := Vector.replicate 16 { fmt := 0, es := 0, rows := 0, cols := 0 }, tpitch := 0, dm := 0
    cstride0 := 0, cstride1 := 0, cidx := 0, bind0 := 0, bind1 := 0, skew0 := 0, skew1 := 0
    clk := 0, mclk := 0, landings := [], trap := none, busy := [], macs := [], arrayFree := 0, mistimed := [], accesses := []
    tlb := [], probe := none, hold := [], c0 := [], c1 := [], dq := [], bound := [], answered := [], dslots := Vector.replicate 4 none
    streams := Vector.replicate 2 Stream.reset, mode := .free, halted := .running, task := none, ended := false, request := none
    stop := none, record := StopRecord.reset, retries0 := 0, retries1 := 0, rereads0 := 0, rereads1 := 0, rereadsD := 0, relief := 0, reliefSlots := 0, serial := 0
    credits := Vector.replicate 32 4 }

/-- A ring at partition creation (R208, R364). -/
def Ring.reset : Ring :=
  { base := 0, log2n := 4, en := false, overrun := false, w := 0, r := 0, limit := 0, counter := 0 }

/-- A completion queue at partition creation (R208). -/
def CompQueue.reset : CompQueue := { base := 0, log2n := 4, en := false, drop := 0, widx := 0, ridx := 0 }

/-- An empty error log. -/
def ErrorLog.reset : ErrorLog := { entries := [], index := 0, overflow := 0 }

/-- A partition with the reset values of its registers. -/
def Partition.reset : Partition :=
  { frames := 0, ports := 0, en := false, pmem := Vector.replicate 8 0, plim := Vector.replicate 8 0, pmiss := 0
    ptroot := 0, tlbiva := 0, tlbiBusy := false, sage := 0x00100000, rings := Vector.replicate 8 Ring.reset
    queues := Vector.replicate 16 CompQueue.reset, counters := [], bumps := [], groups := [], arriving := [], releasing := []
    cards := [], waiting := [], reserved := [], stamp := 0, due := [], images := [], graphs := [], imgpa := 0
    imgErr := 0, imgCmd := none, draining := false, stopped := false, wdRing := 0, wdForced := 0, wdLost := 0, drain := none
    stopsel := 0, log := ErrorLog.reset, wgm := [], mbbase := 0, mbLog2n := 6, mbSig := 0xFFFF, mbw := 0, mbrptr := 0
    ordstall := 100000, stalled := false, stallPort := 0, stallCause := 0, stallCode := 0, seq := 0, accepted := 0
    outgoing := [], held := [], delivering := none, roomSince := none, didx := 0, locked := false, keys := 0 }

/-- A pod port with the reset values of its registers (R389). -/
def Port.reset : Port :=
  { en := false, wagReg := false, wag := false, feeds := 0, up := false, terr := false, regr := false, lanes := 0, misr := 0, received := 0
    joined := false, rose := 0, sent := 0, sentAt := 0, carried := 0, offsets := 0, queue := []
    flits := [] }

/-- A frame with no repair and no command (R375). -/
def Frame.reset : Frame := { frepa := 0, frepb := 0, mapA := 0, mapB := 0, failcol := 0, coll := [], edge := [] }

/-- An MSI-X structure as the capability resets it: disabled, every vector masked, none pending. -/
def MsixTable.reset : MsixTable := { en := false, hush := false, masks := BitVec.allOnes 64, pending := 0 }

/-- The package right after power-on or a package reset, its dies released and its runtime firmware at work (R421; log
entry 8). -/
def Package.reset : Package :=
  { cycle := 0, powered := true, booted := true, recovery := false, measurements := List.replicate 16 0, flash := []
    time := 0, servo := none, servoAt := 0, supcap := 1536, mem := [], memBad := [], undef := [], writers := [], parts := Vector.replicate 16 Partition.reset
    frames := Vector.replicate 16 Frame.reset, ports := Vector.replicate 16 Port.reset
    apertures := Vector.replicate 64 { cfg := 0, back := 0, p0 := 0, p1 := 0 }
    migrations := Vector.replicate 16 { old := 0, new := 0, lines := 0, p := 0, since := 0, en := false, done := false }
    mhold := 0x00010000, pnode := 0, ptbound := 64, rtab := [], qown := 0, writes := [], injected := [], items := []
    upsets := [], repBusy := false, repErr := 0, deferred := [], repaired := [], pwrlim := 0, power := 0, duty := 0
    clksel := 0, tmax := 0, trip := false, warn := 95, warned := false, log := ErrorLog.reset, msix := Vector.replicate 16 MsixTable.reset
    raised := [], reports := [], completions := []
    nextId := 0 }

/-- The machine right after reset: every core as `Core.reset` has it (an unlisted core is one), core 0 at hand, and
nothing still to do. -/
def State.reset : State :=
  { core := Core.reset, before := Core.reset, here := 0, issue := Issue.reset, cores := [], pkg := Package.reset
    agenda := [], inputs := [], choice := 0 }

/-- Why the model stops with a fault. The Kekor itself never stops so: each of its faults is taken as R346 to R349 lay
down and is a next state. -/
inductive Fault where
  /-- Raised by no instruction: the spec gives every access and every encoding its fate. Safe. -/
  | none
deriving DecidableEq, Repr

/-- Why the model gives no meaning. -/
inductive Refusal where
  /-- An arm of `exec` whose meaning is not written. Safe: nothing can be proved of what the instruction does. -/
  | notModelled (mnemonic : String)
deriving DecidableEq, Repr

end Sys2Proof.Machine
end

