-- ==== Sys2Proof/Machine/Ops.lean ====
section
/-!
DEFINITION. The named operations over registers, comb and memory that every meaning goes through: reading and writing a
register, landing a result (R16, R19, R108, R109), the sparse byte memories, and recording what a bundle does (R15).
-/

namespace Sys2Proof.Machine

/-! ## Vectors by number -/

/-- Element `i` of a vector, or `d` beyond its end. -/
def vget {α : Type} {n : Nat} (v : Vector α n) (i : Nat) (d : α) : α := if h : i < n then v[i] else d

/-- A vector with element `i` replaced; unchanged beyond its end. -/
def vset {α : Type} {n : Nat} (v : Vector α n) (i : Nat) (x : α) : Vector α n := v.setIfInBounds i x

/-! ## Sparse byte memories -/

/-- The byte that an address no entry lists reads as: 0 (R420 for the comb; log entry 3 for the memory tiers). -/
def unlistedByte : Byte := 0

/-- The byte at an address. -/
def memByte (m : List Host.Cell) (a : Nat) : Byte :=
  match m with
  | [] => unlistedByte
  | (b, x) :: rest => if b = a then x else memByte rest a

/-- Store one byte, keeping addresses rising and listing no entry equal to what an unlisted address reads as. -/
def setByte (m : List Host.Cell) (a : Nat) (x : Byte) : List Host.Cell :=
  match m with
  | [] => if x = unlistedByte then [] else [(a, x)]
  | (b, y) :: rest =>
    if a < b then (if x = unlistedByte then (b, y) :: rest else (a, x) :: (b, y) :: rest)
    else if a = b then (if x = unlistedByte then rest else (a, x) :: rest)
    else (b, y) :: setByte rest a x

/-- The `n` bytes from an address up. -/
def memBytes (m : List Host.Cell) (a n : Nat) : List Byte := (List.range n).map fun i => memByte m (a + i)

/-- Store bytes from an address up. -/
def setBytes (m : List Host.Cell) (a : Nat) (bs : List Byte) : List Host.Cell :=
  match bs with
  | [] => m
  | b :: rest => setBytes (setByte m a b) (a + 1) rest

/-- Addresses strictly rising, each above `lo`, and no entry equal to what an unlisted address reads as. -/
def risingFrom : Nat → List Host.Cell → Bool
  | _, [] => true
  | lo, (a, x) :: rest => lo ≤ a && x != unlistedByte && risingFrom (a + 1) rest

/-- The canonical form of a byte memory. -/
def Memory.wf (m : List Host.Cell) : Bool := risingFrom 0 m

/-- Mark or clear the aligned words of `w` bytes that a range touches, in a set of words kept without repeats. -/
def markWords (bad : List Nat) (w a n : Nat) (mark : Bool) : List Nat :=
  let ws := (List.range ((a + n + w - 1) / w - a / w)).map (· + a / w)
  let rest := bad.filter fun k => !ws.contains k
  if mark then rest ++ ws else rest

/-- Whether a range touches a marked word. -/
def anyMarked (bad : List Nat) (w a n : Nat) : Bool := n != 0 && bad.any fun k => a / w ≤ k && k ≤ (a + n - 1) / w

/-! ## Recording what a bundle does -/

/-- Change the core in issue. -/
def State.onCore (s : State) (f : Core → Core) : State := { s with core := f s.core }

/-- Change what the bundle in issue has recorded. -/
def State.onIssue (s : State) (f : Issue → Issue) : State := { s with issue := f s.issue }

/-- The syllable in issue raises a fault (R15, R100). -/
def raiseFault (code : BitVec 8) (faddr : BitVec 64) (s : State) : State :=
  s.onIssue fun i => { i with faults := i.faults ++ [{ slot := i.slot, code := code, faddr := faddr }] }

/-- The bundle in issue must wait (R22). -/
def noteWait (w : Wait) (s : State) : State := s.onIssue fun i => { i with waits := i.waits ++ [w] }

/-- The syllable in issue reads registers (R21). -/
def noteReads (rs : List Reg) (s : State) : State :=
  s.onIssue fun i => { i with reads := i.reads ++ rs.map fun r => (i.slot, r) }

/-- What the bundle sends when it commits. -/
def notePost (p : Post) (s : State) : State := s.onIssue fun i => { i with posts := i.posts ++ [p] }

/-- The fault codes (R347). -/
def codeIllegalSyllable : BitVec 8 := 0x01
def codeBundleForm : BitVec 8 := 0x02
def codeIllegalOperand : BitVec 8 := 0x03
def codeSchedule : BitVec 8 := 0x04
def codeTiming : BitVec 8 := 0x05
def codeCellState : BitVec 8 := 0x06
def codeCellBounds : BitVec 8 := 0x07
def codeHandle : BitVec 8 := 0x08
def codeBounds : BitVec 8 := 0x09
def codePermission : BitVec 8 := 0x0A
def codeTranslation : BitVec 8 := 0x0B
def codeFootprint : BitVec 8 := 0x0C
def codeRace : BitVec 8 := 0x0D
def codeAperture : BitVec 8 := 0x0E
def codeCodedStream : BitVec 8 := 0x0F
def codeMetadata : BitVec 8 := 0x10
def codeTileGeometry : BitVec 8 := 0x11
def codeQuireView : BitVec 8 := 0x12
def codeTrap : BitVec 8 := 0x13
def codeBreakpoint : BitVec 8 := 0x14
def codeArithmetic : BitVec 8 := 0x15
def codePoison : BitVec 8 := 0x16
def codeLink : BitVec 8 := 0x17
def codeWatchdog : BitVec 8 := 0x18
def codeWatermark : BitVec 8 := 0x19
def codeGroup : BitVec 8 := 0x1A
def codeLaunch : BitVec 8 := 0x1B

/-! ## Landing results -/

/-- A bit of a vector of bits replaced. -/
def setBit {n : Nat} (v : BitVec n) (i : Nat) (b : Bool) : BitVec n :=
  if b then v ||| (1#n <<< i) else v &&& ~~~(1#n <<< i)

/-- The entry that awaits a result takes it (R18). -/
def landQueue (q : Vector QueueEntry 16) (id : Nat) (value : XWord) (poison : Bool) : Vector QueueEntry 16 :=
  q.map fun e => if e.awaits = some id then { value := value, poison := poison, awaits := none } else e

/-- R18, R355: the error marks of the last-result queue, moved on with its entries: by a push, and by a value that lands. -/
def shiftMarks (b : BitVec 16) (chain : Nat) : BitVec 16 :=
  (List.range 16).foldl (fun m i => setBit m i
    (if i / 4 = chain then i % 4 != 0 && b.getLsbD (i - 1) else b.getLsbD i)) 0
def landMarks (q : Vector QueueEntry 16) (id : Nat) (b : BitVec 16) : BitVec 16 :=
  q.toList.zipIdx.foldl (fun m e => if e.1.awaits = some id then setBit m e.2 false else m) b

/-- A chain of the last-result queue shifted by one entry, the new entry awaiting the result `id` (R18). -/
def shiftChain (q : Vector QueueEntry 16) (chain id : Nat) : Vector QueueEntry 16 :=
  Vector.ofFn fun (i : Fin 16) =>
    if i.val / 4 = chain then
      (if i.val % 4 = 0 then { value := 0, poison := false, awaits := some id } else vget q (i.val - 1) { value := 0, poison := false, awaits := none })
    else vget q i.val { value := 0, poison := false, awaits := none }

/-- The number a new result, access or command takes. -/
def freshId (s : State) : Nat := s.core.serial

/-- A result is put in flight by the syllable in issue, landing `lat` unfrozen cycles later (R19). -/
def putLanding (d : Dest) (value : Nat) (poison : Bool) (flags : Flags) (lat : Nat) (awaits : Option Nat) (s : State) :
    State :=
  s.onCore fun c =>
    { c with landings := c.landings ++
      [{ dest := d, value := value, poison := poison, flags := flags, due := c.clk + lat, pc := c.pc
         slot := s.issue.slot, awaits := awaits }] }

/-- R18: the syllable in issue pushes onto the chain of its position; the result lands later. -/
def pushResult (value : Nat) (poison : Bool) (flags : Flags) (lat : Nat) (awaits : Option Nat) (s : State) : State :=
  let id := freshId s
  putLanding (.queue id) value poison flags lat awaits
    (s.onCore fun c =>
      { c with queue := shiftChain c.queue s.issue.slot id, aBad := shiftMarks c.aBad s.issue.slot, serial := c.serial + 1 })

end Sys2Proof.Machine
end

