-- ==== Sys2Proof/Machine/Operands.lean ====
section
/-!
DEFINITION. Operand forms: the scalar codes of R72 and R108, guards (R70), masks (R139), poison of operands (R109, R140),
and the shape that every guarded scalar form shares.
-/

namespace Sys2Proof.Machine

/-- A scalar value and its poison bit. -/
structure Val where
  bits : XWord
  poison : Bool
deriving DecidableEq, Repr

/-- R72: a code that may be a source. -/
def srcOk (c : BitVec 6) : Bool := c.toNat < 56

/-- R72: a code that may be a destination. -/
def dstOk (c : BitVec 6) : Bool := c.toNat ≤ 32 || (48 ≤ c.toNat && c.toNat < 56)

/-- R108: a destination that the form also reads must be x1 to x31. -/
def readDstOk (c : BitVec 6) : Bool := 1 ≤ c.toNat && c.toNat ≤ 31

/-- x register `n`; x0 reads 0 (R17). An uncorrectable error of the register file reads as poison (R355). -/
def readX (c : Core) (n : Nat) : Val :=
  if n = 0 then { bits := 0, poison := false }
  else { bits := vget c.x n 0, poison := c.xPoison.getLsbD n || c.xBad.getLsbD n }

/-- Predicate `n`; p0 reads 1 (R17). -/
def readP (c : Core) (n : Nat) : Bool := n == 0 || c.p.getLsbD n

/-- Queue entry `n`; an entry that has not landed reads 0 (R19). -/
def readQueue (c : Core) (n : Nat) : Val :=
  let e := vget c.queue n { value := 0, poison := false, awaits := none }
  if e.awaits.isSome then { bits := 0, poison := false } else { bits := e.value, poison := e.poison || c.aBad.getLsbD n }

/-- R108: a scalar source. -/
def readSource (c : Core) (code : BitVec 6) : Val :=
  let n := code.toNat
  if n ≤ 31 then readX c n
  else if n ≤ 47 then readQueue c (n - 32)
  else { bits := if readP c (n - 48) then 1 else 0, poison := false }

/-- The register that a source code names (R21). -/
def sourceReg (code : BitVec 6) : Reg :=
  let n := code.toNat
  if n ≤ 31 then .x n else if n ≤ 47 then .queue (n - 32) else .pred (n - 48)

/-- v register `n` and its poison. -/
def readV (c : Core) (n : Nat) : VWord := vget c.v n 0

/-- The poison bit of v register `n`. -/
def poisonV (c : Core) (n : Nat) : Bool := c.vPoison.getLsbD n || c.vBad.getLsbD n

/-- Mask register `n`; m0 reads all ones (R17). -/
def readM (c : Core) (n : Nat) : MWord := if n = 0 then BitVec.allOnes 128 else vget c.m n 0

/-- R70: whether a guard is true. -/
def guardHolds (c : Core) (l : Lend) : Bool := readP c (l.extractLsb' 0 3).toNat != l.getLsbD 3

/-- The predicate that a guard reads. -/
def guardReg (l : Lend) : Reg := .pred (l.extractLsb' 0 3).toNat

/-- R108, R109: a scalar result to a destination code. A poisoned value for a predicate is consumed; x0 and p0 discard,
and the flags land all the same. -/
def landScalar (d : BitVec 6) (v : Val) (flags : Flags) (lat : Nat) (awaits : Option Nat) (s : State) : State :=
  let n := d.toNat
  if n = 0 then putLanding .none 0 false flags lat awaits s
  else if n ≤ 31 then putLanding (.x n) v.bits.toNat v.poison flags lat awaits s
  else if n = 32 then pushResult v.bits.toNat v.poison flags lat awaits s
  else if v.poison then raiseFault codePoison 0 s
  else putLanding (if n = 48 then .none else .pred (n - 48)) v.bits.toNat false flags lat awaits s

/-- R70: a syllable whose guard is false still shifts its chain when it pushes, and 0 lands. -/
def suppressed (d : BitVec 6) (lat : Nat) (s : State) : State :=
  if d = 32 then pushResult 0 false noFlags lat none s else s

/-- R70, R100: a guarded form. Illegal operands fault whatever the guard; a false guard suppresses the rest. -/
def guarded (l : Lend) (legal : Bool) (d : BitVec 6) (lat : Nat) (body : State → State) (s : State) : State :=
  let s := noteReads [guardReg l] s
  if !legal then raiseFault codeIllegalOperand 0 s
  else if guardHolds s.before l then body s
  else suppressed d lat s

/-- An unguarded form. -/
def unguarded (legal : Bool) (body : State → State) (s : State) : State :=
  if legal then body s else raiseFault codeIllegalOperand 0 s

/-- A form with two scalar sources and one scalar result, no flags. -/
def binaryForm (f : XWord → XWord → XWord) (lat : Nat) (d a b : BitVec 6) (l : Lend) (s : State) : State :=
  guarded l (dstOk d && srcOk a && srcOk b) d lat
    (fun s =>
      let x := readSource s.before a
      let y := readSource s.before b
      landScalar d { bits := f x.bits y.bits, poison := x.poison || y.poison } noFlags lat none
        (noteReads [sourceReg a, sourceReg b] s)) s

/-- A form with one scalar source and one scalar result, no flags. -/
def unaryForm (f : XWord → XWord) (lat : Nat) (d a : BitVec 6) (l : Lend) (s : State) : State :=
  guarded l (dstOk d && srcOk a) d lat
    (fun s =>
      let x := readSource s.before a
      landScalar d { bits := f x.bits, poison := x.poison } noFlags lat none (noteReads [sourceReg a] s)) s

/-- A form with a scalar source, an immediate and a scalar result, without a guard (R114). -/
def immediateForm (f : XWord → XWord → XWord) (lat : Nat) (d a : BitVec 6) (i : BitVec 11) (l : Option Lend) (s : State) :
    State :=
  unguarded (dstOk d && srcOk a)
    (fun s =>
      let x := readSource s.before a
      landScalar d { bits := f x.bits (BitVec.ofInt 64 (immSigned i l)), poison := x.poison } noFlags lat none
        (noteReads [sourceReg a] s)) s

/-- R139: the mask, and whether inactive lanes are zeroed, of a lend of kind M or F. -/
structure MaskUse where
  n : Nat
  zeroing : Bool
deriving DecidableEq, Repr

/-- The mask of a lend of kind M or F (R68). -/
def maskOf (l : Lend) : MaskUse := { n := (l.extractLsb' 0 3).toNat, zeroing := l.getLsbD 3 }

/-- Whether lane `i` is active. -/
def laneActive (c : Core) (k : MaskUse) (i : Nat) : Bool := (readM c k.n).getLsbD i

/-- R139: a masked form reads its destination when it merges under a mask other than m0. -/
def mergesDest (k : MaskUse) : Bool := !k.zeroing && k.n != 0

/-- The lanes of a masked result: the computed one where active, else zero or the destination's (R139). -/
def laneResults (c : Core) (k : MaskUse) (bits count : Nat) (old : VWord) (f : Nat → Rounded) : List Rounded :=
  (List.range count).map fun i =>
    if laneActive c k i then f i
    else { bits := if k.zeroing then 0 else lane old bits i, flags := noFlags }

/-- The OR of the flags of some results (R141). -/
def allFlags (rs : List Rounded) : Flags := rs.foldl (fun a r => a ||| r.flags) noFlags

/-- The lanes of some results packed, lane 0 lowest. -/
def packResults (bits : Nat) (rs : List Rounded) : Nat := packLanes bits (rs.map (·.bits))

/-- R25: what each further read of a v register beyond two in one bank costs the syllable that makes it. The bundle's
earlier reads count first. -/
def bankPenalty (earlier : List (Nat × Reg)) (regs : List Nat) : Nat :=
  let seen := earlier.filterMap fun r => match r.2 with | .v n => some (n % 4) | _ => none
  (regs.foldl (fun (acc : Nat × List Nat) n =>
    let k := (acc.2.filter (· == n % 4)).length
    (if 2 ≤ k then acc.1 + 1 else acc.1, acc.2 ++ [n % 4])) (0, seen)).1

/-- R138, R140: the result of a vector syllable lands in the low `len` bits of v register `n` from bit `lo`, at its bound
plus the bank penalty of the v registers it reads, in the order of R25. -/
def landVector (n lo len : Nat) (value : Nat) (poison : Bool) (flags : Flags) (lat : Nat) (vreads : List Nat)
    (s : State) : State :=
  let pen := bankPenalty s.issue.reads vreads
  putLanding (.v n lo len false) value poison flags (lat + pen) none (noteReads (vreads.map Reg.v) s)

/-- R143, R148: the result of a syllable whose destination is a mask; m0 discards it. -/
def landMask (n : Nat) (value : Nat) (flags : Flags) (lat : Nat) (vreads : List Nat) (s : State) : State :=
  let pen := bankPenalty s.issue.reads vreads
  putLanding (if n = 0 then .none else .m n) value false flags (lat + pen) none (noteReads (vreads.map Reg.v) s)

/-- Whether any of some v registers is poisoned. -/
def anyPoisonV (c : Core) (ns : List Nat) : Bool := ns.any (poisonV c)

/-- A masked lane-wise form with a v destination: `srcs` are its v sources in the order of R25, `readsD` says whether the
operation itself reads its destination, `extra` poison from a scalar source. -/
def vectorForm (w : BitVec 2) (bits : Nat) (k : MaskUse) (d : BitVec 6) (srcs : List Nat) (readsD extra : Bool) (lat : Nat)
    (f : Nat → Rounded) (s : State) : State :=
  let regs := srcs ++ (if readsD || mergesDest k then [d.toNat] else [])
  let rs := laneResults s.before k bits (widthBits w / bits) (readV s.before d.toNat) f
  landVector d.toNat 0 (widthBits w) (packResults bits rs) (extra || anyPoisonV s.before regs) (allFlags rs) lat regs
    (noteReads [.m k.n] s)

/-- R143, R148: a masked compare into mask register `d`: active lanes take the condition, inactive ones keep their bit or
become 0, and bits from N up become 0. A poisoned source is consumed (R140). -/
def maskForm (w : BitVec 2) (bits : Nat) (k : MaskUse) (d : BitVec 3) (srcs : List Nat) (lat : Nat)
    (f : Nat → Bool × Flags) (s : State) : State :=
  let n := widthBits w / bits
  let old := readM s.before d.toNat
  let rs := (List.range n).map fun i =>
    if laneActive s.before k i then f i else (!k.zeroing && old.getLsbD i, noFlags)
  let s := noteReads ([Reg.m k.n] ++ (if mergesDest k then [Reg.m d.toNat] else [])) s
  if anyPoisonV s.before srcs then raiseFault codePoison 0 s
  else landMask d.toNat (packLanes 1 (rs.map fun r => if r.1 then 1 else 0)) (rs.foldl (fun a r => a ||| r.2) noFlags) lat
    srcs s

end Sys2Proof.Machine
end

