-- ==== Sys2Proof/Machine/Hazard.lean ====
section
/-!
DEFINITION. Cells and the hazard unit on the comb side: the ranges that outstanding commands, open streams and busy
transfers hold (R178, R305, R306, R322), the checks of a local access to a cell (R134, R165, R230, R232), and the bytes
of the comb (R226).
-/

namespace Sys2Proof.Machine

/-- A range of bytes that an item reads or writes. -/
structure Span where
  lo : Nat
  len : Nat
  writes : Bool
deriving DecidableEq, Repr

/-- Whether two byte ranges meet. -/
def meets (a n b k : Nat) : Bool := n != 0 && k != 0 && a < b + k && b < a + n

/-- Whether two ranges meet in 64-byte granules (R305). -/
def meetsGranules (a n b k : Nat) : Bool :=
  n != 0 && k != 0 && a / 64 ≤ (b + k - 1) / 64 && b / 64 ≤ (a + n - 1) / 64

/-- Cell `n` of a core. -/
def cellOf (c : Core) (n : Nat) : Cell := vget c.cells n Cell.reset

/-- R328: bytes per row, and the row count, of a length operand; a count of 0 means one row. -/
def rowBytes (l : XWord) : Nat := natField l.toNat 0 32
def rowCount (l : XWord) : Nat := max (natField l.toNat 32 32) 1

/-- R327: the fields of `sys.cidx`. -/
def indexCell (c : BitVec 26) : Nat := (c.extractLsb' 0 6).toNat
def indexSize (c : BitVec 26) : Nat := (c.extractLsb' 6 2).toNat
def indexOffset (c : BitVec 26) : Nat := (c.extractLsb' 8 18).toNat

/-- R330, R333, R334: the bytes of the index list or bitmap that a command reads. -/
def indexBytes (kind : CmdKind) (cidx : BitVec 26) (rows : Nat) : Nat :=
  match kind with
  | .bmg => (rows + 7) / 8
  | _ => rows * (if indexSize cidx = 0 then 2 else 4)

/-- The whole range of a cell, as read or written. -/
def cellSpan (c : Core) (n : Nat) (writes : Bool) : Span :=
  { lo := (cellOf c n).base, len := (cellOf c n).size, writes := writes }

/-- R322: the tables cell of a decode slot, from the `dec.tab` of serial number below `before'` that loads it last, or as the slot
has it. -/
def tablesCell (c : Core) (slot before' : Nat) : Option Nat :=
  (((c.dq.filter fun j => j.kind == .decTab && j.slot == slot && j.serial < before').getLast?).map (·.cell)).or
    ((vget c.dslots slot none).map (·.cell))

/-- R322: the span of the tables cell that an opening of a stream on a slot holds. -/
def tablesSpan (c : Core) (slot before' : Nat) : List Span :=
  (tablesCell c slot before').toList.map fun n => cellSpan c n false

/-- R322, R325: the span of the tables cell of the slot that the image of a `dec.load` names, if it opens a stream. -/
def imageSpan (c : Core) (k : Command) : List Span :=
  let w := ofBytes (memBytes c.comb ((cellOf c k.cell).base + k.imm + 140) 4)
  if natBit w 31 then
    tablesSpan c (natField w 21 2) k.serial ++ [cellSpan c (natField w 23 6) false]
  else []

/-- R305, R322, R333, R402: the comb ranges of a command. -/
def combSpans (c : Core) (k : Command) : List Span :=
  let index : Span :=
    { lo := (cellOf c (indexCell k.cidx)).base + indexOffset k.cidx
      len := indexBytes k.kind k.cidx (rowCount k.op2), writes := false }
  match k.kind with
  | .g2c => [cellSpan c k.cell true]
  | .gat => [cellSpan c k.cell true, index]
  | .bmg => [cellSpan c k.cell true, index]
  | .c2g => [cellSpan c k.cell false]
  | .sct => [cellSpan c k.cell false, index]
  | .c2r => [cellSpan c k.cell false]
  | .g2g => []
  | .ovl => []
  | .cellArm => [{ lo := k.op1.toNat, len := k.op2.toNat, writes := true }]
  | .cellSeal => [cellSpan c k.cell true]
  | .cellFree => [cellSpan c k.cell true]
  | .cellExpect => [cellSpan c k.cell true]
  | .cellOpen => [cellSpan c k.cell true]
  | .decTab => [cellSpan c k.cell false]
  | .decOpen => cellSpan c k.cell false :: tablesSpan c k.slot k.serial
  | .decSeek => []
  | .decSave => [cellSpan c k.cell true]
  | .decLoad => cellSpan c k.cell false :: imageSpan c k
  | .osend => [cellSpan c k.cell false]
  | .collMx => [cellSpan c k.cell false, cellSpan c k.other true]
  | .collBs => [cellSpan c k.cell false, cellSpan c k.other false]
  | .collBc => [cellSpan c k.cell false]
  | .collAg => [cellSpan c k.cell false]

/-- A command put among others in order of issue. -/
def insertBySerial (k : Command) : List Command → List Command
  | [] => [k]
  | j :: rest => if k.serial < j.serial then k :: j :: rest else j :: insertBySerial k rest

/-- The commands of a core that are not complete, in order of issue; those bound to engines of frames among them (R384). -/
def outstanding (c : Core) : List Command :=
  (c.c0 ++ c.c1 ++ c.dq ++ c.bound.map (·.cmd)).foldr insertBySerial []

/-- R322: the cells that open streams read. -/
def streamSpans (c : Core) : List Span :=
  (c.streams.toList.filter (·.isOpen)).flatMap fun st =>
    cellSpan c st.dcell false ::
      (match vget c.dslots st.slot none with | some t => [cellSpan c t.cell false] | none => [])

/-- R306: whether a later item over a comb range waits for an earlier command. -/
def combConflict (c : Core) (lo len : Nat) (writes : Bool) (k : Command) : Bool :=
  (combSpans c k).any fun sp =>
    meetsGranules lo len sp.lo sp.len && (if sp.writes then !k.writeDone else writes && !k.readDone)

/-- R306, R322: whether an access to a comb range waits for a command or an open stream of the core. -/
def combHazard (c : Core) (lo len : Nat) (writes : Bool) : Bool :=
  (outstanding c).any (combConflict c lo len writes) ||
    (writes && (streamSpans c).any fun sp => meetsGranules lo len sp.lo sp.len)

/-- R178, R305: whether an access to a comb range waits for a busy tile or bank transfer. -/
def combBusy (c : Core) (lo len : Nat) (writes : Bool) : Bool :=
  c.busy.any fun b => meetsGranules lo len b.combLo b.combLen && (b.combWrites || writes)

/-- The waits of a local access to a comb range (R178, R306, R307). -/
def noteCombWaits (lo len : Nat) (writes : Bool) (s : State) : State :=
  let s := if combHazard s.before lo len writes then noteWait .event s else s
  if combBusy s.before lo len writes then noteWait .scoreboard s else s

/-- R230: the states that allow local loads, and those that allow local stores. -/
def loadable (st : CellState) : Bool := st == .full || st == .draining
def storable (st : CellState) : Bool := st == .empty || st == .full

/-- The cell number as a faulting address (R351). -/
def cellAddr (n : Nat) : BitVec 64 := BitVec.ofNat 64 n

/-- R232: whether a local load of a cell finds its tags different. -/
def tagMismatch (k : Cell) : Bool := k.ckp && k.tag != k.etag

/-- R134, R165, R190, R191: the first failing check, after poison, of a local access of some bytes at offset `off`. -/
def cellCheck (c : Core) (n : Nat) (off : Int) (len align : Nat) (store : Bool) : Option (BitVec 8) :=
  let k := cellOf c n
  if !(if store then storable k.state else loadable k.state) then some codeCellState
  else if off < 0 || (k.size : Int) < off + len || off % (align : Int) != 0 then some codeCellBounds
  else if !store && tagMismatch k && c.relief != codeSchedule then some codeSchedule
  else none

/-- R232: the first successful local load of a cell clears its check; a cell command of the bundle takes effect after that
(R292). -/
def clearCheck (n : Nat) (s : State) : State :=
  if cellOf s.core n = cellOf s.before n then
    s.onCore fun c => { c with cells := vset c.cells n { cellOf c n with ckp := false } }
  else s

/-- A local access to a cell: its faults, then its waits, then its effect on the comb address of the offset. -/
def cellAccess (n : Nat) (off : Int) (len align : Nat) (store : Bool) (effect : Nat → State → State) (s : State) :
    State :=
  match cellCheck s.before n off len align store with
  | some code => raiseFault code (cellAddr n) s
  | none =>
    let lo := (cellOf s.before n).base + off.toNat
    let s := noteCombWaits lo len store s
    effect lo (if store then s else clearCheck n s)

/-- The bytes of the comb from an address up, as they stood before the bundle (R15). -/
def combRead (s : State) (lo len : Nat) : List Byte := memBytes s.before.comb lo len

/-- R226, R355: whether a range of the comb holds a word with an uncorrectable error. -/
def combPoison (s : State) (lo len : Nat) : Bool := anyMarked s.before.combBad 8 lo len

/-- The aligned words of 8 bytes that a range covers whole. -/
def wordsWithin (lo len : Nat) : List Nat :=
  (List.range ((lo + len) / 8 - (lo + 7) / 8)).map (· + (lo + 7) / 8)

/-- Store bytes in the comb of the core in issue; a word written whole loses its error mark. -/
def combWrite (lo : Nat) (bs : List Byte) (s : State) : State :=
  s.onCore fun c =>
    { c with comb := setBytes c.comb lo bs
             combBad := c.combBad.filter fun w => !(wordsWithin lo bs.length).contains w }

end Sys2Proof.Machine
end

