-- ==== Sys2Proof/Machine/CombAccess.lean ====
section
/-!
DEFINITION. The scalar comb accesses SCM (R133 to R136).
-/

namespace Sys2Proof.Machine

/-- The bytes of a size code (R80, R83). -/
def sizeBytes (z : BitVec 2) : Nat := 2 ^ z.toNat

/-- A value of some bytes, zero- or sign-extended to 64 bits. -/
def extendBytes (signed : Bool) (bs : List Byte) : XWord :=
  if signed then BitVec.ofInt 64 (signedOf (8 * bs.length) (ofBytes bs)) else BitVec.ofNat 64 (ofBytes bs)

/-- R133: the offset of a form with an index register. -/
def indexedOffset (c : Core) (x : BitVec 6) (i : BitVec 4) (z : BitVec 2) : Int :=
  (readSource c x).bits.toInt + i.toInt * sizeBytes z

/-- R135: a comb load at an offset within a cell. -/
def combLoad (signed : Bool) (r c : BitVec 6) (z : BitVec 2) (off : Int) (s : State) : State :=
  cellAccess c.toNat off (sizeBytes z) (sizeBytes z) false
    (fun lo s =>
      landScalar r { bits := extendBytes signed (combRead s lo (sizeBytes z)), poison := combPoison s lo (sizeBytes z) }
        noFlags 3 none s) s

/-- R136: a comb store at an offset within a cell; poisoned data is consumed (R134). -/
def combStore (r c : BitVec 6) (z : BitVec 2) (off : Int) (s : State) : State :=
  let v := readSource s.before r
  let s := noteReads [sourceReg r] s
  if v.poison then raiseFault codePoison 0 s
  else cellAccess c.toNat off (sizeBytes z) (sizeBytes z) true
    (fun lo s => combWrite lo (toBytes (sizeBytes z) v.bits.toNat) s) s

/-- R134: an index register is read, and its poison consumed, before anything else. -/
def withIndex (x : BitVec 6) (k : State → State) (s : State) : State :=
  let s := noteReads [sourceReg x] s
  if (readSource s.before x).poison then raiseFault codePoison 0 s else k s

/-- R135: `ldc` with an immediate offset. -/
def execLdcImm (r c : BitVec 6) (z : BitVec 2) (i : BitVec 10) (l : Option Lend) (s : State) :
    Host.Outcome State Fault Refusal :=
  .next (unguarded (dstOk r) (combLoad false r c z (immBits i l * sizeBytes z)) s)

/-- R135: `ldc` with an index register. -/
def execLdcIndexed (r c : BitVec 6) (z : BitVec 2) (x : BitVec 6) (i : BitVec 4) (l : Lend) (s : State) :
    Host.Outcome State Fault Refusal :=
  .next (guarded l (dstOk r && srcOk x) r 3
    (withIndex x fun s => combLoad false r c z (indexedOffset s.before x i z) s) s)

/-- R135: `ldcx` with an immediate offset. -/
def execLdcxImm (r c : BitVec 6) (z : BitVec 2) (i : BitVec 10) (l : Option Lend) (s : State) :
    Host.Outcome State Fault Refusal :=
  .next (unguarded (dstOk r) (combLoad true r c z (immBits i l * sizeBytes z)) s)

/-- R135: `ldcx` with an index register. -/
def execLdcxIndexed (r c : BitVec 6) (z : BitVec 2) (x : BitVec 6) (i : BitVec 4) (l : Lend) (s : State) :
    Host.Outcome State Fault Refusal :=
  .next (guarded l (dstOk r && srcOk x) r 3
    (withIndex x fun s => combLoad true r c z (indexedOffset s.before x i z) s) s)

/-- R136: `stc` with an immediate offset. -/
def execStcImm (r c : BitVec 6) (z : BitVec 2) (i : BitVec 10) (l : Option Lend) (s : State) :
    Host.Outcome State Fault Refusal :=
  .next (unguarded (srcOk r) (combStore r c z (immBits i l * sizeBytes z)) s)

/-- R136: `stc` with an index register. -/
def execStcIndexed (r c : BitVec 6) (z : BitVec 2) (x : BitVec 6) (i : BitVec 4) (l : Lend) (s : State) :
    Host.Outcome State Fault Refusal :=
  .next (guarded l (srcOk r && srcOk x) 0 1
    (withIndex x fun s => combStore r c z (indexedOffset s.before x i z) s) s)

end Sys2Proof.Machine
end

