-- ==== Sys2Proof/Machine/Tasks.lean ====
section
/-!
DEFINITION. Cards, tasks, cores and frames by name: the fields of a card (R196 to R199), footprint regions (R195), where a
core lies (R374), and what a task may name (R362).
-/

namespace Sys2Proof.Machine

/-- The number of the queen core (R380). -/
def queenCore : Nat := 4096

/-- The columns and rows of the mesh (R234). -/
def coreX (n : Nat) : Nat := n % 64
def coreY (n : Nat) : Nat := n / 64

/-- R374: the frame of a mesh core. -/
def frameOf (n : Nat) : Nat := coreY n / 16 * 4 + coreX n / 16

/-- R383: the latency of the package barrier tree to a frame. -/
def treeLatency (f : Nat) : Nat := 8 + 4 * (f / 4)

/-- Partition `n`. -/
def partOf (k : Package) (n : Nat) : Partition := vget k.parts n Partition.reset

/-- Change partition `n`. -/
def onPart (n : Nat) (f : Partition → Partition) (k : Package) : Package :=
  { k with parts := vset k.parts n (f (partOf k n)) }

/-- The partition that owns the queen core, if package tasks may run (R381). -/
def queenOwner (k : Package) : Option Nat :=
  if k.qown.getLsbD 4 then some (k.qown.extractLsb' 0 4).toNat else none

/-- Whether frame `f` belongs to partition `n` (R362). -/
def frameIn (k : Package) (n f : Nat) : Bool := (partOf k n).en && f < 16 && (partOf k n).frames.getLsbD f

/-- Whether a core belongs to partition `n`. -/
def coreIn (k : Package) (n c : Nat) : Bool :=
  if c = queenCore then queenOwner k == some n else c < 4096 && frameIn k n (frameOf c)

/-- The core at an offset from a core, if it lies on the mesh. -/
def coreAt (c : Nat) (dx dy : Int) : Option Nat :=
  let x := (coreX c : Int) + dx
  let y := (coreY c : Int) + dy
  if c < 4096 && 0 ≤ x && x < 64 && 0 ≤ y && y < 64 then some (y.toNat * 64 + x.toNat) else none

/-- R234: the core that a packed offset names, if it lies on the mesh and inside a frame of the partition. -/
def neighbourIn (k : Package) (part c : Nat) (dx dy : Int) : Option Nat :=
  match coreAt c dx dy with
  | none => none
  | some n => if coreIn k part n then some n else none

/-- R293: the offsets of a packed offset, if its reserved bits are zero. -/
def packedOffset (v : XWord) : Option (Int × Int) :=
  if v >>> 16 = 0 then some ((v.extractLsb' 0 8).toInt, (v.extractLsb' 8 8).toInt) else none

/-! ## Cards -/

/-- The word of a card at byte offset `8 * i`. -/
def cardWord (w : List XWord) (i : Nat) : XWord := w.getD i 0

/-- A field of a card word. -/
def cardField (w : List XWord) (i lo n : Nat) : Nat := natField (cardWord w i).toNat lo n

/-- R196. -/
def cardImage (w : List XWord) : BitVec 16 := BitVec.ofNat 16 (cardField w 0 0 16)
def cardEntry (w : List XWord) : Nat := cardField w 0 16 12
def cardPrio (w : List XWord) : Nat := cardField w 0 28 3
def cardPreempt (w : List XWord) : Bool := cardField w 0 31 1 == 1
def cardPlace (w : List XWord) : Nat := cardField w 0 36 4
def cardParam (w : List XWord) : Nat := cardField w 0 40 24

/-- R197. -/
def cardReplicas (w : List XWord) : Nat := cardField w 1 0 12 + 1
def cardStrict (w : List XWord) : Bool := cardField w 1 12 1 == 1
def cardCheck (w : List XWord) : Bool := cardField w 1 13 1 == 1
def cardPackage (w : List XWord) : Bool := cardField w 1 14 1 == 1
def cardTes (w : List XWord) : BitVec 6 := BitVec.ofNat 6 (cardField w 1 16 6)
def cardDeadline (w : List XWord) : Nat := cardField w 1 32 32
def cardGroup (w : List XWord) (slot : Nat) : Nat := cardField w 2 (8 * slot) 8
def cardWaitIdx (w : List XWord) : Nat := cardField w 2 32 16
def cardWaitVal (w : List XWord) : Nat := (cardWord w 3).toNat
def cardSignal (w : List XWord) : Nat := cardField w 4 0 16
def cardQueue (w : List XWord) : Nat := cardField w 4 16 8
def cardKey (w : List XWord) : BitVec 32 := BitVec.ofNat 32 (cardField w 5 0 32)

/-- R197: the rank base of a group slot. -/
def cardRank (w : List XWord) (slot : Nat) : Nat :=
  if slot = 3 then cardField w 5 32 12 else cardField w 4 (24 + 12 * slot) 12

/-- R198. -/
def cardArg (w : List XWord) (i : Nat) : XWord := cardWord w (5 + i)
def cardSaveVa (w : List XWord) : Nat := cardField w 14 0 55
def cardSaveSize (w : List XWord) : Nat := cardField w 15 0 32

/-- R199: the parts of footprint region `i`. -/
def regionMode (w : List XWord) (i : Nat) : Nat := cardField w (16 + 2 * i) 56 3
def regionBase (w : List XWord) (i : Nat) : Nat := cardField w (16 + 2 * i) 0 55
def regionLen (w : List XWord) (i : Nat) : Nat := cardField w (17 + 2 * i) 0 32
def regionStride (w : List XWord) (i : Nat) : Nat := cardField w (17 + 2 * i) 32 24

/-- R195: footprint region `i` of replica `r`. -/
def cardRegion (w : List XWord) (r i : Nat) : Region :=
  { mode := BitVec.ofNat 3 (regionMode w i), base := regionBase w i + r * regionStride w i * 64, len := regionLen w i }

/-- The footprint regions of replica `r` that are in use, with their numbers. -/
def cardRegions (w : List XWord) (r : Nat) : List (Nat × Region) :=
  ((List.range 8).map fun i => (i, cardRegion w r i)).filter fun p => p.2.mode != 0

/-- The card of the task on a core. -/
def taskCard (c : Core) : List XWord := (c.task.map (·.card)).getD []

/-- The replica index, and the partition, of the task on a core. -/
def taskReplica (c : Core) : Nat := (c.task.map (·.replica)).getD 0
def taskPart (c : Core) : Nat := (c.task.map (·.part)).getD 0

/-- The footprint modes (R199): 1 R, 2 W, 3 RW, 4 A, 5 N. -/
def modeR : BitVec 3 := 1
def modeW : BitVec 3 := 2
def modeRW : BitVec 3 := 3
def modeA : BitVec 3 := 4
def modeN : BitVec 3 := 5

/-- R265: the fault of a load, a store and an atomic in a region of a mode, if any. -/
def loadFault (mode : BitVec 3) : Option (BitVec 8) :=
  if mode = modeR || mode = modeRW || mode = modeN then none else some codeFootprint
def storeFault (mode : BitVec 3) : Option (BitVec 8) :=
  if mode = modeW || mode = modeRW then none
  else if mode = modeR || mode = modeN then some codePermission
  else some codeFootprint
def atomicFault (mode : BitVec 3) : Option (BitVec 8) := if mode = modeA then none else some codeFootprint

/-- R265: the permissions (0 R, 1 RW, 2 A) that `probe` and `xlat` may ask for inside a region of a mode. -/
def permAllowed (mode : BitVec 3) (perm : BitVec 2) : Bool :=
  if mode = modeR || mode = modeN then perm == 0
  else if mode = modeW then perm == 1
  else if mode = modeRW then perm == 0 || perm == 1
  else if mode = modeA then perm == 2
  else false

/-- Where a queue of origin holds cards, and how many (R202). -/
def queueCapacity : Origin → Nat
  | .ring _ => 1024
  | .localQueue _ => 8
  | .frameQueue _ => 256
  | .partitionQueue => 1024
  | .launch _ => 16384

/-- R202, R224: a ring's cards stand in the partition queue, those of its instances in the launch buffer. -/
def sameQueue : Origin → Origin → Bool
  | .ring _, .ring _ => true
  | .ring _, .partitionQueue => true
  | .partitionQueue, .ring _ => true
  | .launch _, .launch _ => true
  | a, b => a == b

/-- R202, R216: whether a queue holds its capacity; resumed cards are not counted. -/
def queueFull (p : Partition) (o : Origin) : Bool :=
  queueCapacity o ≤ (p.waiting.filter fun w => !w.resumed && sameQueue w.origin o).length

end Sys2Proof.Machine
end

