-- ==== Sys2Proof/Machine/Scopes.lean ====
section
/-!
DEFINITION. The agents and the scopes of the memory model (R254 to R256, R379): places, the places that a scope contains, and
which accesses an ordering operation finds done.
-/

namespace Sys2Proof.Machine

/-- R254: the places of agents: frame `f` is place `f`, the north hub is 16, and the host and other packages are 17. -/
def hubPlace : Nat := 16
def outsidePlace : Nat := 17

/-- R254: the place of a core and its engines. -/
def placeNumber (core : Nat) : Nat := if core = queenCore then hubPlace else frameOf core

/-- A set of one place. -/
def onlyPlace (p : Nat) : BitVec 18 := 1#18 <<< p

/-- Every agent. -/
def everywhere : BitVec 18 := BitVec.allOnes 18

/-- R255, R256, R379: the places that a scope of an agent of a core contains. `dm` is `sys.dm` as it stands at issue. -/
def scopeOf (core : Nat) (code : BitVec 2) (dm : BitVec 16) : BitVec 18 :=
  let near := onlyPlace (placeNumber core) ||| onlyPlace hubPlace
  match code with
  | 0 => near
  | 1 => near ||| dm.setWidth 18
  | _ => everywhere

/-- R255: whether two ordering operations share scope: each one's scope contains the place of the other's agent. -/
def shareScope (p : Nat) (sp : BitVec 18) (q : Nat) (sq : BitVec 18) : Bool := sp.getLsbD q && sq.getLsbD p

/-- Whether one set of places lies within another. -/
def placesWithin (a b : BitVec 18) : Bool := a &&& ~~~b == 0

/-- R260, R263: whether an access is performed for the agents of a scope. -/
def Access.doneIn (a : Access) (scope : BitVec 18) : Bool := a.performed || (a.within != 0 && placesWithin scope a.within)

/-- R263: the places of the agents that have written a word, and a write of it by one more. -/
def writersOf (ws : List (Nat × BitVec 18)) (word : Nat) : BitVec 18 :=
  ((ws.find? fun e => e.1 == word).map (·.2)).getD 0
def noteWriter (p : Nat) (ws : List (Nat × BitVec 18)) (word : Nat) : List (Nat × BitVec 18) :=
  (word, writersOf ws word ||| onlyPlace p) :: ws.filter fun e => e.1 != word

end Sys2Proof.Machine
end

