-- ==== Sys2Proof/Machine/Physical.lean ====
section
/-!
DEFINITION. Physical memory: the tiers (R245), aperture windows and their transforms (R246 to R250), migration (R251, R252),
and reading and writing bytes of it with their poison (R226, R271).
-/

namespace Sys2Proof.Machine

/-- R245: the tiers. The super tier's size is SUPCAP (R2). -/
def inHbm (pa : Nat) : Bool := pa < 0x08000000000
def inSuper (k : Package) (pa : Nat) : Bool := 0x20000000000 ≤ pa && pa < 0x20000000000 + k.supcap * 2 ^ 30
def inWindows (pa : Nat) : Bool := 0x80000000000 ≤ pa && pa < 0x90000000000
def inHostRange (pa : Nat) : Bool := 0xC0000000000 ≤ pa && pa < 0x100000000000

/-- Whether all of a range lies in a tier of this package. -/
def rangeIn (test : Nat → Bool) (lo len : Nat) : Bool := len == 0 || (test lo && test (lo + len - 1))

/-- Whether a range lies in HBM or in the super tier. -/
def rangeInMemory (k : Package) (lo len : Nat) : Bool := rangeIn inHbm lo len || rangeIn (inSuper k) lo len

/-- R362: range `j` of a partition as its first byte and its length, if enabled. -/
def partRange (p : Partition) (j : Nat) : Option (Nat × Nat) :=
  let m := vget p.pmem j 0
  let lo := (m.extractLsb' 16 36).toNat * 65536
  let last := ((vget p.plim j 0).extractLsb' 16 36).toNat * 65536
  if m.getLsbD 0 && lo ≤ last then some (lo, last + 65536 - lo) else none

/-- The enabled ranges of a partition in ascending range number. -/
def partRanges (p : Partition) : List (Nat × Nat) := (List.range 8).filterMap (partRange p)

/-- R240: whether a range of local physical addresses lies within a partition's memory ranges. -/
def inPartition (p : Partition) (lo len : Nat) : Bool :=
  (List.range (ceilDiv (lo % 65536 + len) 65536)).all fun i =>
    (partRanges p).any fun r => r.1 ≤ lo / 65536 * 65536 + i * 65536 && lo / 65536 * 65536 + i * 65536 < r.1 + r.2

/-- R240: whether a range of local physical addresses lies in a tier of R245. -/
def inTier (k : Package) (lo len : Nat) : Bool := rangeInMemory k lo len || rangeIn inWindows lo len

/-! ## Migration -/

/-- The bytes of a migration's runs: their first bytes and their length (R251). -/
def migOld (m : Migration) : Nat := (m.old.extractLsb' 8 44).toNat * 256
def migNew (m : Migration) : Nat := (m.new.extractLsb' 8 44).toNat * 256
def migLen (m : Migration) : Nat := m.lines.toNat * 256

/-- R252: where a byte of memory is served; none while its line is being copied. -/
def migrated (k : Package) (pa : Nat) : Option Nat :=
  match k.migrations.toList.find? fun m => m.en && migOld m ≤ pa && pa < migOld m + migLen m with
  | none => some pa
  | some m =>
    let line := (pa - migOld m) / 256
    if line < m.p.toNat then some (migNew m + (pa - migOld m))
    else if line = m.p.toNat then none
    else some pa

/-- R252: whether a byte is addressed in a new run that is not copied whole yet. -/
def notCopied (k : Package) (pa : Nat) : Bool :=
  k.migrations.toList.any fun m => m.en && !m.done && migNew m ≤ pa && pa < migNew m + migLen m

/-! ## Contents -/

/-- R423: the draw of a byte that is undefined since its key was drawn. -/
def undefinedDraw (k : Package) (pa : Nat) : Option Nat :=
  (k.undef.find? fun r => r.1 ≤ pa && pa < r.1 + r.2.1).map (·.2.2)

/-- The byte that memory holds at a physical address. -/
def memAt (k : Package) (pa : Nat) : Byte :=
  match undefinedDraw k pa with
  | some draw => BitVec.ofNat 8 (Config.freeValue 5000 draw pa)
  | none => memByte k.mem pa

/-- A range less another. -/
def cutRange (lo len : Nat) (r : Nat × Nat × Nat) : List (Nat × Nat × Nat) :=
  if !meets r.1 r.2.1 lo len then [r]
  else
    let left := lo - r.1
    let right := r.1 + r.2.1 - (lo + len)
    (if left = 0 then [] else [(r.1, left, r.2.2)]) ++ (if right = 0 then [] else [(lo + len, right, r.2.2)])

/-- Bytes stored at their addresses; they are defined from then on. -/
def putMemory (k : Package) (ps : List (Nat × Byte)) : Package :=
  { k with mem := ps.foldl (fun m p => setByte m p.1 p.2) k.mem
           undef := ps.foldl (fun u p => u.flatMap (cutRange p.1 1)) k.undef }

/-! ## Apertures -/

/-- The fields of APCFG (R246). -/
def Aperture.en (a : Aperture) : Bool := a.cfg.getLsbD 0
def Aperture.xf (a : Aperture) : Nat := (a.cfg.extractLsb' 1 2).toNat
def Aperture.window (a : Aperture) : Nat := 0x80000000000 + (a.cfg.extractLsb' 16 24).toNat * 65536
def Aperture.size (a : Aperture) : Nat := ((a.cfg.extractLsb' 40 24).toNat + 1) * 65536
def Aperture.backing (a : Aperture) : Nat := (a.back.extractLsb' 6 46).toNat * 64

/-- The enabled aperture whose window holds an address. -/
def apertureAt (k : Package) (pa : Nat) : Option Aperture :=
  k.apertures.toList.find? fun a => a.en && a.window ≤ pa && pa < a.window + a.size

/-- R247: the parameter bits that a transform reserves are zero. -/
def Aperture.paramsOk (a : Aperture) : Bool :=
  match a.xf with
  | 0 => a.p0 == 0 && a.p1 == 0
  | 1 => a.p0 >>> 50 == 0 && a.p1 == 0
  | 2 => a.p0 >>> 52 == 0 && a.p0.extractLsb' 0 3 == 0 && a.p1 == 0
  | _ => a.p0 >>> 52 == 0 && a.p1 >>> 1 == 0

/-- What an address of memory reaches: a byte of HBM or the super tier, one that is addressed in a new run before its copy is done,
an expanded byte with its poison, an aperture fault, or a line whose copy holds the request (R247, R248, R252). -/
inductive Reached where
  | at' (pa : Nat)
  | uncopied (pa : Nat)
  | value (b : Byte) (bad : Bool)
  | fault
  | held
deriving DecidableEq, Repr

/-- A byte of memory through migration. -/
def reachMemory (k : Package) (pa : Nat) : Reached :=
  match migrated k pa with
  | some p => if p = pa && notCopied k pa then .uncopied pa else .at' p
  | none => .held

/-- R252: a byte of memory as firmware and the base die reach it, who do not wait for a line's copy. -/
def reachSoon (k : Package) (pa : Nat) : Reached :=
  match reachMemory k pa with
  | .held => .at' pa
  | r => r

/-- R2, R246: a byte of a backing buffer or a scale array; one that lies in no memory tier is refused (log entry 60). -/
def reachBacking (k : Package) (pa : Nat) : Reached := if inHbm pa || inSuper k pa then reachMemory k pa else .fault

/-- The byte that a reached place holds; one that is not copied yet is undefined (R252). -/
def reachedByte (k : Package) (draw i : Nat) : Reached → Byte
  | .at' pa => memAt k pa
  | .uncopied _ => BitVec.ofNat 8 (Config.freeValue 5000 draw i)
  | .value b _ => b
  | _ => 0

/-- R271: whether a reached place is marked poisoned. -/
def reachedBad (k : Package) : Reached → Bool
  | .at' pa => anyMarked k.memBad 8 pa 1
  | .uncopied pa => anyMarked k.memBad 8 pa 1
  | .value _ bad => bad
  | _ => false

/-- Bytes that the base die reads for itself, little-endian, and whether any word of them is marked poisoned. -/
def dieBytes (k : Package) (pa n : Nat) : Nat × Bool :=
  let rs := (List.range n).map fun i => reachSoon k (pa + i)
  (ofBytes (rs.zipIdx.map fun x => reachedByte k k.cycle (pa + x.2) x.1), rs.any (reachedBad k))

/-- R2, R246: whether bytes that the base die reads for itself lie in a memory tier. -/
def dieReach (k : Package) (pa n : Nat) : Bool := rangeInMemory k pa n

/-- R248: the stored bytes of a sector code, and whether the code exists. -/
def sectorStored (code : Nat) : Nat := if code = 1 then 4 else if code = 2 then 17 else if code = 3 then 18 else if code = 4 then 32 else 0

/-- R248: byte `o` of an expanded sector, from its stored bytes. -/
def sectorByte (code stored o : Nat) : Nat :=
  if code = 0 then 0
  else if code = 1 then natField stored (8 * (o % 4)) 8
  else if code = 2 then (if o % 2 = 1 then natField stored 0 8 else natField stored (8 + 8 * (o / 2)) 8)
  else if code = 3 then
    (if 2 ≤ o % 4 then natField stored (8 * (o % 4 - 2)) 8 else natField stored (16 + 16 * (o / 4) + 8 * (o % 4)) 8)
  else natField stored (8 * o) 8

/-- R248: a byte of a sector-compressed window. -/
def compressedByte (k : Package) (a : Aperture) (w : Nat) : Reached :=
  let table := (a.p0.extractLsb' 3 49).toNat * 8 + 8 * (w / 65536)
  let entry := dieBytes k table 8
  let ofs := natField entry.1 0 40
  let len := natField entry.1 40 17
  let page := a.backing + ofs
  let sector := w % 65536 / 32
  if !dieReach k table 8 || natField entry.1 57 7 ≠ 0 || ofs % 64 ≠ 0 then .fault
  else if len = 0 then .value 0 entry.2
  else if len < 1152 || !dieReach k page len then .fault
  else
    let desc := dieBytes k page 1024
    let code := fun s => natField desc.1 (4 * s) 4
    let group := sector / 64
    let g := dieBytes k (page + 1024 + 4 * group) 4
    let before := (List.range (sector % 64)).foldl (fun n i => n + sectorStored (code (64 * group + i))) 0
    let start := 1152 + g.1 + before
    let c := code sector
    if 4 < c || len < start + sectorStored c then .fault
    else
      let stored := dieBytes k (page + start) (sectorStored c)
      .value (BitVec.ofNat 8 (sectorByte c stored.1 (w % 32))) (entry.2 || desc.2 || g.2 || stored.2)

/-- R247: what a window byte reaches in the backing, before any migration. -/
def windowSpot (k : Package) (a : Aperture) (w : Nat) : Reached :=
  if !a.paramsOk then .fault
  else match a.xf with
    | 0 => .at' (a.backing + w)
    | 1 =>
      let z := 2 ^ (a.p0.extractLsb' 0 2).toNat
      let rw := (a.p0.extractLsb' 2 24).toNat + 1
      let cw := (a.p0.extractLsb' 26 24).toNat + 1
      let q := w / z
      if rw * cw * z ≤ w then .fault
      else .at' (a.backing + (q % rw * cw + q / rw) * z + w % z)
    | 2 => compressedByte k a w
    | _ =>
      let e := if a.p1.getLsbD 0 then 16 else 8
      let o := w % (e + 1)
      let j := w / (e + 1)
      if o < e then .at' (a.backing + j * e + o)
      else .at' ((a.p0.extractLsb' 0 52).toNat + j)

/-- R247, R252: what a window byte reaches. -/
def windowByte (k : Package) (a : Aperture) (w : Nat) : Reached :=
  match windowSpot k a w with
  | .at' pa => reachBacking k pa
  | r => r

/-- R248: the memory that holds a byte of a sector-compressed window: its entry of the offset table, and its stored page. -/
def compressedSource (k : Package) (a : Aperture) (w : Nat) : List (Nat × Nat) :=
  let table := (a.p0.extractLsb' 3 49).toNat * 8 + 8 * (w / 65536)
  let entry := (dieBytes k table 8).1
  [(table, 8), (a.backing + natField entry 0 40, natField entry 40 17)]

/-- R252: the entries that hold a request for a local address: the one whose line in copying the byte, or what backs it, lies
in. -/
def holdingEntries (k : Package) (pa : Nat) : List Migration :=
  let at' := if inWindows pa then (apertureAt k pa).bind fun a => match windowSpot k a (pa - a.window) with
      | .at' q => some q
      | _ => none
    else some pa
  match at' with
  | none => []
  | some q => (k.migrations.toList.find? fun m => m.en && migOld m ≤ q && q < migOld m + migLen m).toList

/-- R257: the ranges of memory, by first byte and length, that an access to a local address touches. -/
def touchedMemory (k : Package) (pa : Nat) : List (Nat × Nat) :=
  if !inWindows pa then [(pa, 1)]
  else match apertureAt k pa with
    | none => []
    | some a => match windowSpot k a (pa - a.window) with
      | .at' q => [(q, 1)]
      | _ => if a.xf = 2 then compressedSource k a (pa - a.window) else []

/-- R246, R247: what a local physical address reaches; a write never goes through a compressed window (R249). -/
def reach (k : Package) (write : Bool) (pa : Nat) : Reached :=
  if inWindows pa then
    match apertureAt k pa with
    | none => .fault
    | some a => if write && a.xf == 2 then .fault else windowByte k a (pa - a.window)
  else reachMemory k pa

/-- Bytes written where their places are, by an agent of place `p`; a word written whole loses its mark, and a poisoned write
marks it (R226). -/
def writeBytes (p : Nat) (k : Package) (rs : List Reached) (bs : List Byte) (bad : Bool) : Package :=
  let ps := (rs.zip bs).filterMap fun x => match x.1 with
    | .at' pa => some (pa, x.2)
    | .uncopied pa => some (pa, x.2)
    | _ => none
  let words := (ps.map fun p => p.1 / 8).eraseDups
  let whole := fun w => (List.range 8).all fun i => ps.any fun p => p.1 == 8 * w + i
  let marks := if bad then k.memBad ++ words.filter (fun w => !k.memBad.contains w)
    else k.memBad.filter fun w => !(words.contains w && whole w)
  { putMemory k ps with memBad := marks, writers := words.foldl (noteWriter p) k.writers }

/-- The bytes of memory from a physical address up, through migration, with their poison: a read by firmware or a hub. -/
def hubRead (k : Package) (pa n : Nat) : List Byte × Bool :=
  let rs := (List.range n).map fun i => reachSoon k (pa + i)
  (rs.zipIdx.map fun x => reachedByte k 0 x.2 x.1, rs.any (reachedBad k))

/-- Bytes stored from a physical address up by a hub. -/
def hubWrite (k : Package) (pa : Nat) (bs : List Byte) : Package :=
  writeBytes hubPlace k ((List.range bs.length).map fun i => reachSoon k (pa + i)) bs false

end Sys2Proof.Machine
end

