-- ==== Sys2Proof/Machine/Global.lean ====
section
/-!
DEFINITION. Global accesses through handles: places of bytes (R238 to R243), the checks at issue (R265, R269), the global side
of the hazard unit (R305, R306), and issuing an access.
-/

namespace Sys2Proof.Machine

/-- Handle `n` of a core. -/
def handleOf (c : Core) (n : Nat) : Handle := vget c.handles n Handle.reset

/-- R241: the TLB entries whose run covers a virtual page. -/
def coveringEntries (tlb : List TlbEntry) (vpn : Nat) : List TlbEntry :=
  tlb.filter fun e => e.vpn ≤ vpn && vpn < e.vpn + e.pages

/-- R240, R408: the place that an entry gives a virtual address; host memory goes by bus address. -/
def entryPlace (e : TlbEntry) (va : Nat) : Place :=
  let pa := (e.pfn + (va / 65536 - e.vpn)) * 65536 + va % 65536
  if e.rm then .remote e.node pa else if e.hs then .host (pa - 0xC0000000000) else .here pa

/-- R241: the place of a byte; where leaves disagree, which of them gives it is undefined. -/
def placeOf (tlb : List TlbEntry) (va : Nat) : Place :=
  let es := coveringEntries tlb (va / 65536)
  match es[Config.leafChoice va % max 1 es.length]? with
  | some e => if es.length = 1 then entryPlace (es.headD e) va else entryPlace e va
  | none => .here va

/-- The places of a range of virtual addresses. -/
def placesOf (tlb : List TlbEntry) (va n : Nat) : List Place := (List.range n).map fun i => placeOf tlb (va + i)

/-! ## Regions of the hazard unit -/

/-- A range of one address space: 0 this package, 1 the host, 2 + n package n (R305). -/
structure Zone where
  space : Nat
  lo : Nat
  len : Nat
  writes : Bool
deriving DecidableEq, Repr

/-- The space and address of a place. -/
def Place.key : Place → Nat × Nat
  | .here pa => (0, pa)
  | .host pa => (1, pa)
  | .remote n pa => (2 + n, pa)

/-- The ranges that the entries of a TLB give a range of virtual addresses. -/
def zonesOf (tlb : List TlbEntry) (va len : Nat) (writes : Bool) : List Zone :=
  tlb.filterMap fun e =>
    let lo := max va (e.vpn * 65536)
    let hi := min (va + len) ((e.vpn + e.pages) * 65536)
    if hi ≤ lo then none
    else
      let k := (entryPlace e lo).key
      some { space := k.1, lo := k.2, len := hi - lo, writes := writes }

/-- The ranges that back a window: its buffer, and the scale array or the offset table beside it (R247; log entry 14). -/
def backingRanges (a : Aperture) : List (Nat × Nat) :=
  (a.backing, a.size) :: match a.xf with
    | 2 => [((a.p0.extractLsb' 3 49).toNat * 8, 8 * (a.size / 65536))]
    | 3 => [((a.p0.extractLsb' 0 52).toNat, a.size / (if a.p1.getLsbD 0 then 17 else 9) + 1)]
    | _ => []

/-- The windows of the enabled apertures, each with a range that backs it. -/
def windowPairs (k : Package) : List ((Nat × Nat) × (Nat × Nat)) :=
  (k.apertures.toList.filter (·.en)).flatMap fun a => (backingRanges a).map fun b => ((a.window, a.size), b)

/-- R305: an access through a window counts as touching its backing buffer and every other window over that buffer. -/
def widenZone (k : Package) (z : Zone) : List Zone :=
  if z.space ≠ 0 then [z]
  else
    let hit := (windowPairs k).filter fun p => meets z.lo z.len p.1.1 p.1.2
    z :: hit.flatMap fun p =>
      { z with lo := p.2.1, len := p.2.2 } ::
        ((windowPairs k).filter fun q => meets p.2.1 p.2.2 q.2.1 q.2.2).map fun q =>
          { z with lo := q.1.1, len := q.1.2 }

/-- R306: whether two zones overlap in 64-byte granules and one of them is written. -/
def zonesMeet (a b : Zone) : Bool :=
  a.space == b.space && (a.writes || b.writes) && meetsGranules a.lo a.len b.lo b.len

/-- R328: the virtual address, from a handle and an offset, that a command starts at. -/
def commandVa (h : Handle) (off : XWord) : Int := (h.base.toNat : Int) + off.toInt

/-- R305, R328: the first byte and the length of the rows of a command on one side. -/
def rowSpan (start stride : Int) (rows bytes : Nat) : Nat × Nat :=
  let last := start + (rows - 1 : Nat) * stride
  ((min start last).toNat, (max start last - min start last).toNat + bytes)

/-- R305, R402: the global ranges of a command, as virtual ranges with whether each is written. -/
def globalSpans (k : Command) : List (Nat × Nat × Bool) :=
  let n := rowCount k.op2
  let b := rowBytes k.op2
  let src := rowSpan (commandVa k.src k.op1) k.str0.toInt n b
  let whole := (k.src.base.toNat, k.src.len.toNat)
  match k.kind with
  | .g2c => [(src.1, src.2, false)]
  | .gat => [(whole.1, whole.2, false)]
  | .bmg => [(whole.1, whole.2, false)]
  | .c2g => [(src.1, src.2, true)]
  | .sct => [(whole.1, whole.2, true)]
  | .g2g =>
    let dst := rowSpan (commandVa k.dst k.op3) k.str1.toInt n b
    [(src.1, src.2, false), (dst.1, dst.2, true)]
  | .ovl => [((commandVa k.src k.op1).toNat, 4096, false)]
  | .collMx => [((commandVa k.src k.op1).toNat, 4 * k.count, false)]
  | .collBs =>
    [((commandVa k.src k.op1).toNat, 4 * k.count, false), ((commandVa k.dst k.op2).toNat, 4 * k.count, true)]
  | .collBc => [((commandVa k.src k.op1).toNat, k.count, false), ((commandVa k.dst k.op2).toNat, k.count, true)]
  | .collAg =>
    [((commandVa k.src k.op1).toNat, k.count, false),
      ((commandVa k.dst k.op2).toNat, k.count * k.parts.length, true)]
  | .c2r => []
  | .cellArm => []
  | .cellSeal => []
  | .cellFree => []
  | .cellExpect => []
  | .cellOpen => []
  | .decTab => []
  | .decOpen => []
  | .decSeek => []
  | .decSave => []
  | .decLoad => []
  | .osend => []

/-- The zones of a command. -/
def commandZones (k : Package) (m : Command) : List Zone :=
  (globalSpans m).flatMap fun r => (zonesOf m.runs r.1 r.2.1 r.2.2).flatMap (widenZone k)

/-- R305: the zones that an access touches by its own addresses, before its windows are followed. -/
def plainZones (a : Access) : List Zone :=
  let writes := match a.kind with | .load _ _ _ => false | _ => true
  (a.places.map fun p => ({ space := p.key.1, lo := p.key.2, len := 1, writes := writes } : Zone)).eraseDups

/-- The zones of a core's access. -/
def accessZones (k : Package) (a : Access) : List Zone := (plainZones a).flatMap (widenZone k)

/-- The places of this package's memory that an access touches (R257). -/
def touchedBy (k : Package) (ps : List Place) : List (Nat × Nat) :=
  ps.flatMap fun p => match p with
    | .here pa => touchedMemory k pa
    | _ => []

/-- Whether some places lie in an aperture window. -/
def anyWindow (ps : List Place) : Bool := ps.any fun p => match p with | .here pa => inWindows pa | _ => false

/-- R257: whether two lists of places have a location in common, whatever windows they go through. -/
def shareLocation (k : Package) (ps qs : List Place) : Bool :=
  ps.any qs.contains || ((anyWindow ps || anyWindow qs) &&
    (touchedBy k ps).any fun x => (touchedBy k qs).any fun y => meets x.1 x.2 y.1 y.2)

/-- R306: whether an access over some zones waits for an earlier command of the core. -/
def commandHazard (k : Package) (c : Core) (zs : List Zone) : Bool :=
  (outstanding c).any fun m => (commandZones k m).any fun z =>
    zs.any fun y => zonesMeet y z && (if z.writes then !m.writeDone else !m.readDone)

/-- R275: whether a store stands behind an earlier access at the addresses of both, in order and without a freeze
(log entry 34). -/
def queuesBehind (a b : Access) : Bool :=
  (match b.kind with | .store => true | _ => false) && (plainZones a).any fun y => (plainZones b).any (zonesMeet y)

/-- R306: whether an access waits for an earlier store or atomic of the core. -/
def accessHazard (k : Package) (c : Core) (b : Access) : Bool :=
  c.accesses.any fun a => !a.performed && !queuesBehind a b && match a.kind with
    | .load _ _ _ => false
    | _ => (accessZones k a).any fun z => (accessZones k b).any (zonesMeet z)

/-! ## The checks of R269 -/

/-- R408: the atomics that AtomicOps of PCI Express carry. -/
def AmoOp.overHost : AmoOp → Bool
  | .add => true
  | .swap => true
  | .cas => true
  | _ => false

/-- R269, checks 2 to 5: the code and the faulting address of the first that fails. -/
def handleCheck (h : Handle) (n : Nat) (va : Int) (z align : Nat) (kind : AccessKind) : Option (BitVec 8 × BitVec 64) :=
  let at' : BitVec 64 := BitVec.ofInt 64 va
  let region := match kind with
    | .load _ _ _ => loadFault h.mode
    | .store => storeFault h.mode
    | .amo _ _ _ _ _ _ => atomicFault h.mode
  if !h.valid then some (codeHandle, BitVec.ofNat 64 n)
  else if va % (align : Int) ≠ 0 || va < h.base.toNat || (h.base.toNat : Int) + h.len.toNat < va + z then
    some (codeBounds, at')
  else match region with
    | some code => some (code, at')
    | none =>
      match kind with
      | .load _ _ _ => none
      | .store => if h.w then none else some (codePermission, at')
      | .amo op _ _ _ _ _ =>
        if !h.at' || (h.hs && !op.overHost) then some (codePermission, at') else none

/-- An access is issued: it waits for what R306 names, then stands among the core's accesses. Its number is handed on. -/
def issueAccess (kind : AccessKind) (va z : Nat) (data : List Byte) (scope : BitVec 18) (k : Nat → State → State)
    (s : State) : State :=
  let id := freshId s
  let a : Access :=
    { id := id, pc := s.before.pc, kind := kind, va := va, places := placesOf s.before.tlb va z, data := data
      scope := scope, within := 0, parts := [], performed := false, result := [], poisoned := false, faulted := false }
  let s := if commandHazard s.pkg s.before (accessZones s.pkg a) || accessHazard s.pkg s.before a then noteWait .event s
    else s
  k id (s.onCore fun c => { c with accesses := c.accesses ++ [a], serial := c.serial + 1 })

/-- R269: an access through handle `n`: its checks, then the access. -/
def globalAccess (n : Nat) (va : Int) (z align : Nat) (kind : AccessKind) (data : List Byte) (scope : BitVec 18)
    (k : Nat → State → State) (s : State) : State :=
  match handleCheck (handleOf s.before n) n va z align kind with
  | some f => raiseFault f.1 f.2 s
  | none => issueAccess kind va.toNat z data scope k s

/-! ## Scalar loads and stores: SM -/

/-- R273: the virtual address of an SM form. -/
def scalarVa (c : Core) (h : BitVec 4) (off : XWord) : Int := commandVa (handleOf c h.toNat) off

/-- R273: the offset of a form with an immediate. -/
def scaledImm (i : BitVec 12) (l : Option Lend) (z : BitVec 2) : XWord := BitVec.ofInt 64 (immSigned i l * sizeBytes z)

/-- R273: the offset of a form with an index register. -/
def indexPlus (c : Core) (x i : BitVec 6) (z : BitVec 2) : XWord :=
  (readSource c x).bits + BitVec.ofNat 64 (i.toNat * sizeBytes z)

/-- R273: a load; its value lands at bound 64 or when it arrives (R22). -/
def globalLoad (signed : Bool) (r : BitVec 6) (h : BitVec 4) (z : BitVec 2) (off : XWord) (s : State) : State :=
  globalAccess h.toNat (scalarVa s.before h off) (sizeBytes z) (sizeBytes z) (.load signed false false) [] 0
    (fun id s => landScalar r { bits := 0, poison := false } noFlags 64 (some id) s) s

/-- R274: the value of a speculative load; a predicate takes no poison, and nothing is raised for what it defers. -/
def landSpeculative (r : BitVec 6) (poison : Bool) (awaits : Option Nat) (s : State) : State :=
  landScalar r { bits := 0, poison := poison && r.toNat < 48 } noFlags 64 awaits s

/-- R274: a speculative load defers the faults of R269 checks 2 to 5 and of the base die. -/
def speculativeLoad (r : BitVec 6) (h : BitVec 4) (z : BitVec 2) (off : XWord) (poison : Bool) (s : State) : State :=
  let va := scalarVa s.before h off
  match handleCheck (handleOf s.before h.toNat) h.toNat va (sizeBytes z) (sizeBytes z) (.load false true false) with
  | some _ => landSpeculative r true none s
  | none =>
    issueAccess (.load false true false) va.toNat (sizeBytes z) [] 0
      (fun id s => landSpeculative r poison (some id) s) s

/-- R273, R275: a posted store; poisoned data is consumed (R269 check 1). -/
def globalStore (r : BitVec 6) (h : BitVec 4) (z : BitVec 2) (off : XWord) (s : State) : State :=
  let v := readSource s.before r
  let s := noteReads [sourceReg r] s
  if v.poison then raiseFault codePoison 0 s
  else globalAccess h.toNat (scalarVa s.before h off) (sizeBytes z) (sizeBytes z) .store
    (toBytes (sizeBytes z) v.bits.toNat) 0 (fun _ s => s) s

/-- R272. -/
def execLdImm (r : BitVec 6) (h : BitVec 4) (z : BitVec 2) (i : BitVec 12) (l : Option Lend) (s : State) :
    Host.Outcome State Fault Refusal :=
  .next (unguarded (dstOk r) (globalLoad false r h z (scaledImm i l z)) s)

/-- R272. -/
def execLdIndexed (r : BitVec 6) (h : BitVec 4) (z : BitVec 2) (x i : BitVec 6) (l : Lend) (s : State) :
    Host.Outcome State Fault Refusal :=
  .next (guarded l (dstOk r && srcOk x) r 64
    (withIndex x fun s => globalLoad false r h z (indexPlus s.before x i z) s) s)

/-- R272. -/
def execLdxImm (r : BitVec 6) (h : BitVec 4) (z : BitVec 2) (i : BitVec 12) (l : Option Lend) (s : State) :
    Host.Outcome State Fault Refusal :=
  .next (unguarded (dstOk r) (globalLoad true r h z (scaledImm i l z)) s)

/-- R272. -/
def execLdxIndexed (r : BitVec 6) (h : BitVec 4) (z : BitVec 2) (x i : BitVec 6) (l : Lend) (s : State) :
    Host.Outcome State Fault Refusal :=
  .next (guarded l (dstOk r && srcOk x) r 64
    (withIndex x fun s => globalLoad true r h z (indexPlus s.before x i z) s) s)

/-- R272. -/
def execStImm (r : BitVec 6) (h : BitVec 4) (z : BitVec 2) (i : BitVec 12) (l : Option Lend) (s : State) :
    Host.Outcome State Fault Refusal :=
  .next (unguarded (srcOk r) (globalStore r h z (scaledImm i l z)) s)

/-- R272. -/
def execStIndexed (r : BitVec 6) (h : BitVec 4) (z : BitVec 2) (x i : BitVec 6) (l : Lend) (s : State) :
    Host.Outcome State Fault Refusal :=
  .next (guarded l (srcOk r && srcOk x) 0 1
    (withIndex x fun s => globalStore r h z (indexPlus s.before x i z) s) s)

/-- R274. -/
def execLdSImm (r : BitVec 6) (h : BitVec 4) (z : BitVec 2) (i : BitVec 12) (l : Option Lend) (s : State) :
    Host.Outcome State Fault Refusal :=
  .next (unguarded (dstOk r) (speculativeLoad r h z (scaledImm i l z) false) s)

/-- R274: a poisoned index makes the result poisoned. -/
def execLdSIndexed (r : BitVec 6) (h : BitVec 4) (z : BitVec 2) (x i : BitVec 6) (l : Lend) (s : State) :
    Host.Outcome State Fault Refusal :=
  .next (guarded l (dstOk r && srcOk x) r 64
    (fun s => speculativeLoad r h z (indexPlus s.before x i z) (readSource s.before x).poison
      (noteReads [sourceReg x] s)) s)

/-! ## Global vector access -/

/-- R289: the offset of a global vector form. -/
def vectorOffset (c : Core) (w : BitVec 2) (x : BitVec 6) (i : BitVec 4) (l : Option Lend) : XWord :=
  (readSource c x).bits + BitVec.ofInt 64 (immSigned i l * (widthBits w / 8 : Nat))

/-- R289. -/
def execVldg (w : BitVec 2) (v : BitVec 6) (h : BitVec 4) (x : BitVec 6) (i : BitVec 4) (l : Option Lend) (s : State) :
    Host.Outcome State Fault Refusal :=
  .next (unguarded (srcOk x)
    (withIndex x fun s =>
      globalAccess h.toNat (scalarVa s.before h (vectorOffset s.before w x i l)) (widthBits w / 8) 32
        (.load false false true) [] 0
        (fun id s => putLanding (.v v.toNat 0 (widthBits w) false) 0 false noFlags 64 (some id) s) s) s)

/-- R289: a poisoned v is consumed. -/
def execVstg (w : BitVec 2) (v : BitVec 6) (h : BitVec 4) (x : BitVec 6) (i : BitVec 4) (l : Option Lend) (s : State) :
    Host.Outcome State Fault Refusal :=
  .next (unguarded (srcOk x)
    (fun s =>
      let s := noteReads [sourceReg x, .v v.toNat] s
      if (readSource s.before x).poison || poisonV s.before v.toNat then raiseFault codePoison 0 s
      else globalAccess h.toNat (scalarVa s.before h (vectorOffset s.before w x i l)) (widthBits w / 8) 32 .store
        (toBytes (widthBits w / 8) (readV s.before v.toNat).toNat) 0 (fun _ s => s) s) s)

/-- R290. -/
def execVldS (w : BitVec 2) (v : BitVec 6) (h : BitVec 4) (x : BitVec 6) (i : BitVec 4) (l : Option Lend) (s : State) :
    Host.Outcome State Fault Refusal :=
  .next (unguarded (srcOk x)
    (fun s =>
      let va := scalarVa s.before h (vectorOffset s.before w x i l)
      let n := widthBits w / 8
      let dest := Dest.v v.toNat 0 (widthBits w) false
      let poison := (readSource s.before x).poison
      let s := noteReads [sourceReg x] s
      match handleCheck (handleOf s.before h.toNat) h.toNat va n 32 (.load false true true) with
      | some _ => putLanding dest 0 true noFlags 64 none s
      | none =>
        issueAccess (.load false true true) va.toNat n [] 0
          (fun id s => putLanding dest 0 poison noFlags 64 (some id) s) s) s)

end Sys2Proof.Machine
end

