-- ==== Sys2Proof/Machine/Handles.lean ====
section
/-!
DEFINITION. Translation walks (R238 to R241), the binding of handles (R242, R243, R285), and `probe`, `xlat`, `hinv` and
`hinfo` (R284 to R288).
-/

namespace Sys2Proof.Machine

/-- R389: whether a node has a valid route through an enabled port of a partition. -/
def routePort (k : Package) (part node : Nat) : Option Nat :=
  match k.rtab.find? fun e => e.1 == node with
  | none => none
  | some e =>
    let port := (e.2.extractLsb' 0 4).toNat
    let p := vget k.ports port Port.reset
    if e.2.getLsbD 4 && p.en && (partOf k part).ports.getLsbD port then some port else none

/-- R226, R240: a table entry or leaf in memory. The walk uses the bytes of a poisoned word and not its mark, a choice of the model
(log entry 63). -/
def tableWord (k : Package) (table i : Nat) : Nat := ofBytes (hubRead k (table * 65536 + 8 * i) 8).1

/-- R238: the table that a table entry points to. -/
def nextTable (w : Nat) : Option Nat :=
  if natBit w 0 && natField w 1 19 = 0 && natField w 56 8 = 0 && inHbm (natField w 20 36 * 65536) then
    some (natField w 20 36)
  else none

/-- R240: the entry that the leaf of a page gives, or none where the leaf fails a check. -/
def leafEntry (k : Package) (part vpn w : Nat) : Option TlbEntry :=
  let hs := natBit w 3
  let rm := natBit w 4
  let pages := natField w 8 12 + 1
  let pfn := natField w 20 36
  let node := natField w 56 8
  let lo := pfn * 65536
  let len := pages * 65536
  let placed :=
    if hs then !rm && rangeIn inHostRange lo len
    else if rm then node != k.pnode.toNat && (routePort k part node).isSome
    else inTier k lo len && inPartition (partOf k part) lo len
  if natBit w 0 && natField w 5 3 = 0 && (rm || node = 0) && placed then
    some { vpn := vpn, pages := pages, pfn := pfn, w := natBit w 1, at' := natBit w 2, hs := hs, rm := rm, node := node }
  else none

/-- R238, R239: the leaf of a virtual page, by the three levels. -/
def walkPage (k : Package) (part vpn : Nat) : Option TlbEntry :=
  let root := (partOf k part).ptroot
  if !root.getLsbD 0 then none
  else
    match nextTable (tableWord k (root.extractLsb' 20 36).toNat (vpn / 2 ^ 26 % 2 ^ 13)) with
    | none => none
    | some l2 =>
      match nextTable (tableWord k l2 (vpn / 2 ^ 13 % 2 ^ 13)) with
      | none => none
      | some l1 => leafEntry k part vpn (tableWord k l1 (vpn % 2 ^ 13))

/-- R241: the runs that cover pages `vpn` to `last`, walked one leaf per run; `fuel` bounds the runs by what a TLB can
hold (R242). -/
def walkRange (k : Package) (part : Nat) : Nat → Nat → Nat → Option (List TlbEntry)
  | 0, _, _ => none
  | fuel + 1, vpn, last =>
    match walkPage k part vpn with
    | none => none
    | some e =>
      if last < vpn + e.pages then some [e]
      else (walkRange k part fuel (vpn + e.pages) last).map (e :: ·)

/-- The pages of a range of virtual addresses. -/
def firstPage (va : Nat) : Nat := va / 65536
def lastPage (va len : Nat) : Nat := (va + len - 1) / 65536

/-- Whether a run meets a range of virtual addresses. -/
def entryMeets (e : TlbEntry) (va len : Nat) : Bool := meets (e.vpn * 65536) (e.pages * 65536) va len

/-- The handles of a core, bound or about to be bound. -/
def allHandles (c : Core) : List Handle :=
  c.handles.toList ++ c.landings.filterMap fun l => match l.dest with | .handle _ h => some h | _ => none

/-- R242: a TLB holds no entry on which no handle depends. -/
def pruneTlb (c : Core) : Core :=
  { c with tlb := c.tlb.filter fun e => (allHandles c).any fun h => h.valid && entryMeets e h.base.toNat h.len.toNat }

/-- R242: the entries of a walk that a TLB does not hold yet. -/
def newEntries (tlb es : List TlbEntry) : List TlbEntry := es.filter fun e => !tlb.contains e

/-- The part of an entry's run, as local addresses, that a range of virtual addresses touches. -/
def entrySpan (e : TlbEntry) (va len : Nat) : Option (Nat × Nat) :=
  if e.hs || e.rm then none
  else
    let lo := max (va / 65536) e.vpn
    let hi := min (lastPage va len + 1) (e.vpn + e.pages)
    if hi ≤ lo then none else some ((e.pfn + (lo - e.vpn)) * 65536, (hi - lo) * 65536)

/-- R243: whether a range maps an aperture window, and whether a page of it lies in a compressed window (R249). -/
def mapsWindow (es : List TlbEntry) (va len : Nat) : Bool :=
  es.any fun e => match entrySpan e va len with | some r => inWindows r.1 | none => false
def mapsCompressed (k : Package) (es : List TlbEntry) (va len : Nat) : Bool :=
  es.any fun e => match entrySpan e va len with
    | some r => k.apertures.toList.any fun a => a.en && a.xf == 2 && meets r.1 r.2 a.window a.size
    | none => false

/-- R285: checks 5 and 6 over the entries of a range; 0 when both pass. -/
def grantCheck (k : Package) (es : List TlbEntry) (va len : Nat) (perm : BitVec 2) : BitVec 8 :=
  if perm != 0 && mapsCompressed k es va len then codeAperture
  else if perm != 0 && es.any (fun e => !e.w) then codePermission
  else if perm == 2 && mapsWindow es va len then codePermission
  else 0

/-- R243: a handle over a range, from the entries that cover it. -/
def bindHandle (es : List TlbEntry) (va len : Nat) (perm : BitVec 2) (mode : BitVec 3) : Handle :=
  { valid := true, base := BitVec.ofNat 55 va, len := BitVec.ofNat 48 len, w := perm != 0 && es.all (·.w)
    at' := es.all (·.at') && !mapsWindow es va len, hs := es.any (·.hs), rm := es.any (·.rm)
    ap := mapsWindow es va len, mode := mode, perm := perm }

/-- R285: checks 4 to 6 of a binding, against a TLB. -/
def walkBinding (k : Package) (part : Nat) (tlb : List TlbEntry) (va len : Nat) (perm : BitVec 2) : WalkResult :=
  match walkRange k part 257 (firstPage va) (lastPage va len) with
  | none => { code := codeTranslation, entries := [] }
  | some es =>
    if 256 < tlb.length + (newEntries tlb es).length then { code := codeTranslation, entries := [] }
    else { code := grantCheck k es va len perm, entries := es }

/-- R265, R285: the lowest-numbered footprint region that holds a range wholly. -/
def holdingRegion (c : Core) (va len : Nat) : Option Region :=
  ((cardRegions (taskCard c) (taskReplica c)).find? fun r => r.2.base ≤ va && va + len ≤ r.2.base + r.2.len).map (·.2)

/-- R285, R286: checks 1 to 3, and then `k` with the range and the mode of its region. -/
def bindingForm (d b : BitVec 6) (perm : BitVec 2) (k : Nat → Nat → BitVec 3 → State → State) (s : State) : State :=
  unguarded (srcOk d && srcOk b)
    (fun s =>
      let va := readSource s.before d
      let len := readSource s.before b
      let v := va.bits.toNat
      let n := len.bits.toNat
      let s := noteReads [sourceReg d, sourceReg b] s
      if va.poison || len.poison then raiseFault codePoison 0 s
      else if n = 0 || 2 ^ 48 ≤ n || 2 ^ 55 < v + n then raiseFault codeBounds va.bits s
      else match holdingRegion s.before v n with
        | none => raiseFault codeFootprint va.bits s
        | some r => if permAllowed r.mode perm then k v n r.mode s else raiseFault codeFootprint va.bits s) s

/-- R285: `probe`. Its bundle waits for the walk; then the walk's fault is raised, or the handle is bound. -/
def execProbe (d : BitVec 6) (h : BitVec 4) (b : BitVec 6) (p : BitVec 2) (s : State) :
    Host.Outcome State Fault Refusal :=
  .next (bindingForm d b p
    (fun va len mode s =>
      match s.before.probe.bind (·.result) with
      | none =>
        noteWait .event (if s.before.probe.isSome then s
          else s.onCore fun c => { c with probe := some { va := va, len := len, perm := p, result := none } })
      | some r =>
        if r.code ≠ 0 then raiseFault r.code (BitVec.ofNat 64 va) s
        else s.onCore fun c =>
          pruneTlb { c with
            tlb := c.tlb ++ newEntries c.tlb r.entries
            handles := vset c.handles h.toNat (bindHandle r.entries va len p mode)
            probe := none }) s)

/-- R286: `xlat` binds from entries already present, or leaves the handle invalid. -/
def execXlat (d : BitVec 6) (h : BitVec 4) (b : BitVec 6) (p : BitVec 2) (s : State) :
    Host.Outcome State Fault Refusal :=
  .next (bindingForm d b p
    (fun va len mode s =>
      let es := s.before.tlb.filter fun e => entryMeets e (firstPage va * 65536)
        ((lastPage va len + 1 - firstPage va) * 65536)
      let covered := (List.range (lastPage va len + 1 - firstPage va)).all fun i =>
        !(coveringEntries es (firstPage va + i)).isEmpty
      let bound := if covered && grantCheck s.pkg es va len p == 0 then bindHandle es va len p mode else Handle.reset
      putLanding (.handle h.toNat bound) 0 false noFlags 2 none s) s)

/-- R287. -/
def execHinv (h : BitVec 4) (s : State) : Host.Outcome State Fault Refusal :=
  .next (putLanding (.handle h.toNat Handle.reset) 0 false noFlags 1 none s)

/-- R288: an item of a handle; an invalid handle reads 0. -/
def handleItem (h : Handle) (item : Nat) : XWord :=
  if !h.valid then 0
  else match item with
    | 0 => h.base.setWidth 64
    | 1 => h.len.setWidth 64
    | _ => BitVec.ofNat 64 (1 + 2 * h.w.toNat + 4 * h.at'.toNat + 8 * h.hs.toNat + 16 * h.rm.toNat + 32 * h.ap.toNat +
        64 * h.mode.toNat)

/-- R288. -/
def execHinfo (d : BitVec 6) (h : BitVec 4) (b : BitVec 6) (s : State) : Host.Outcome State Fault Refusal :=
  .next (unguarded (dstOk d)
    (landScalar d { bits := handleItem (handleOf s.before h.toNat) b.toNat, poison := false } noFlags 2 none) s)

end Sys2Proof.Machine
end

