-- ==== Sys2Proof/Machine/Links.lean ====
section
/-!
DEFINITION. Pod ports and the bulk class as this package sends on it (R386 to R388): the port towards a node, and the requests that
an access to another package makes.
-/

namespace Sys2Proof.Machine

/-! ## Ports -/

/-- Pod port `k`, and a change of it. -/
def portOf (k : Package) (n : Nat) : Port := vget k.ports n Port.reset
def onPort (n : Nat) (f : Port → Port) (k : Package) : Package := { k with ports := vset k.ports n (f (portOf k n)) }

/-- R386: the enabled partition that a port belongs to. -/
def portOwner (k : Package) (n : Nat) : Option Nat :=
  (List.range 16).find? fun p => (partOf k p).en && (partOf k p).ports.getLsbD n

/-- R386, R389: the partition whose traffic an enabled and trained port carries. -/
def carrying (k : Package) (n : Nat) : Option Nat :=
  if n < 16 && (portOf k n).en && (portOf k n).up then portOwner k n else none

/-- R388: a discard is counted at the port it arrived on. -/
def countDiscard (n : Nat) : Package → Package :=
  onPort n fun p => { p with misr := if p.misr = 0xFFFF then p.misr else p.misr + 1 }

/-- R388: the port of a partition by which something for a node goes on, unless it has made fifteen hops. -/
def onwardPort (k : Package) (part node hops : Nat) (waggle : Bool) : Option Nat :=
  if 15 ≤ hops then none else (routePort k part node).filter fun n => !waggle || (portOf k n).wag

/-! ## What this package sends -/

/-- R387, R388: a bulk flit of this package goes out by the route of its node; without a route it is lost. -/
def sendFlit (part dest : Nat) (body : BulkBody) (k : Package) : Package :=
  match onwardPort k part dest 0 false with
  | none => k
  | some out => onPort out (fun p => { p with flits := p.flits ++ [{ dest := dest, part := part, hops := 0, body := body }] }) k

/-- A run of bytes at one node: the node, the first address there, the first byte's number in the access, and the length. -/
structure RemoteRun where
  node : Nat
  pa : Nat
  first : Nat
  len : Nat
deriving DecidableEq, Repr

/-- R387: the bytes of an access that lie in other packages, in runs. -/
def remoteRuns (ps : List Place) : List RemoteRun :=
  (ps.zipIdx.foldl (fun (rs : List RemoteRun) x => match x.1 with
    | .remote node pa =>
      (match rs with
        | r :: rest =>
          if r.node = node && r.pa + r.len = pa && r.first + r.len = x.2 then { r with len := r.len + 1 } :: rest
          else { node := node, pa := pa, first := x.2, len := 1 } :: r :: rest
        | [] => [{ node := node, pa := pa, first := x.2, len := 1 }])
    | _ => rs) []).reverse

/-- R278 to R281: the atomic operations by their numbers. -/
def amoList : List AmoOp := [.add, .and, .or, .xor, .min, .max, .minn, .maxn, .swap, .cas, .fadd, .addsr]
def amoOpOf (n : Nat) : AmoOp := amoList.getD n .add

/-- R387: what an access asks of another package's memory. -/
def remoteKind (a : Access) (r : RemoteRun) : RemoteKind :=
  match a.kind with
  | .load _ _ _ => .read r.len
  | .store => .write ((a.data.drop r.first).take r.len) []
  | .amo op b c k s _ => .amo (amoList.findIdx (· == op)) r.len b c k s a.va

/-- R387: the requests of an access, each to its node; `ask` gives what a run asks. -/
def sendRequests (part id : Nat) (ps : List Place) (ask : RemoteRun → RemoteKind) (k : Package) : Package :=
  (remoteRuns ps).foldl (fun k r => sendFlit part r.node (.request k.pnode.toNat id r.pa (ask r)) k) k

end Sys2Proof.Machine
end

