-- ==== Sys2Proof/Decode.lean ====
section
/-!
DEFINITION. From a syllable's 32 bits and the nine bits a header lends it to an instruction, and back. One row per form
gives the fixed bits of its encoding (R74 to R99) and reads its fields; a pattern that no row has, or that a check of
R100's group 1 refuses, is refused by name. The encoder places the same fields over the same fixed bits.
-/

namespace Sys2Proof

/-- A field of a syllable. -/
def fld (w : Syllable) (lo n : Nat) : BitVec n := w.extractLsb' lo n

/-- A one-bit field of a syllable read as a truth value. -/
def bit (w : Syllable) (lo : Nat) : Bool := w.getLsbD lo

/-- A field's bits in their place in a syllable. -/
def put {n : Nat} (v : BitVec n) (lo : Nat) : Syllable := (v.setWidth 32) <<< lo

/-- A truth value in its place in a syllable. -/
def putBit (b : Bool) (lo : Nat) : Syllable := put (BitVec.ofBool b) lo

/-- One form: the bits of a syllable that are fixed, their values, and how the fields are read. The lend is `none` when
the bundle has no header. `plain` marks a form that takes no lend. -/
structure FormRow where
  mask : Syllable
  pat : Syllable
  plain : Bool
  build : Syllable → Option Lend → Instr

/-- Whether a syllable has a row's fixed bits. -/
def FormRow.fits (r : FormRow) (w : Syllable) : Bool := w &&& r.mask == r.pat

/-- The lend of kinds G, M, F and O: without a header, all nine bits are zero (R68). -/
def lendOr0 (l : Option Lend) : Lend := l.getD 0#9

/-- The lend of a VX form: without a header the source format is f and the rest is zero (R87). -/
def lendOrF (l : Option Lend) : Lend := l.getD 1#9

/-- R78: `br` is the SB form with p = 0 and n = 0. -/
def buildBranch (w : Syllable) : Instr :=
  if fld w 24 3 == 0#3 && !bit w 23 then .br (fld w 0 23) else .brc (fld w 24 3) (bit w 23) (fld w 0 23)

/-- The forms of SX, major 0x01: scalar integer, R74, R110 to R113. -/
def rowsSXA : List FormRow := [
  ⟨0xF80001FF#32, 0x08000000#32, false, fun w l => .add (fld w 21 6) (fld w 15 6) (fld w 9 6) (lendOr0 l)⟩,
  ⟨0xF80001FF#32, 0x08000001#32, false, fun w l => .sub (fld w 21 6) (fld w 15 6) (fld w 9 6) (lendOr0 l)⟩,
  ⟨0xF80001FF#32, 0x08000002#32, false, fun w l => .mul (fld w 21 6) (fld w 15 6) (fld w 9 6) (lendOr0 l)⟩,
  ⟨0xF80001FF#32, 0x08000003#32, false, fun w l => .mulh (fld w 21 6) (fld w 15 6) (fld w 9 6) (lendOr0 l)⟩,
  ⟨0xF80001FF#32, 0x08000004#32, false, fun w l => .mulhn (fld w 21 6) (fld w 15 6) (fld w 9 6) (lendOr0 l)⟩,
  ⟨0xF80001FF#32, 0x08000005#32, false, fun w l => .div (fld w 21 6) (fld w 15 6) (fld w 9 6) (lendOr0 l)⟩,
  ⟨0xF80001FF#32, 0x08000006#32, false, fun w l => .divn (fld w 21 6) (fld w 15 6) (fld w 9 6) (lendOr0 l)⟩,
  ⟨0xF80001FF#32, 0x08000007#32, false, fun w l => .rem (fld w 21 6) (fld w 15 6) (fld w 9 6) (lendOr0 l)⟩,
  ⟨0xF80001FF#32, 0x08000008#32, false, fun w l => .remn (fld w 21 6) (fld w 15 6) (fld w 9 6) (lendOr0 l)⟩,
  ⟨0xF80001FF#32, 0x08000009#32, false, fun w l => .and (fld w 21 6) (fld w 15 6) (fld w 9 6) (lendOr0 l)⟩,
  ⟨0xF80001FF#32, 0x0800000A#32, false, fun w l => .or (fld w 21 6) (fld w 15 6) (fld w 9 6) (lendOr0 l)⟩,
  ⟨0xF80001FF#32, 0x0800000B#32, false, fun w l => .xor (fld w 21 6) (fld w 15 6) (fld w 9 6) (lendOr0 l)⟩,
  ⟨0xF80001FF#32, 0x0800000C#32, false, fun w l => .andn (fld w 21 6) (fld w 15 6) (fld w 9 6) (lendOr0 l)⟩,
  ⟨0xF80001FF#32, 0x0800000D#32, false, fun w l => .orn (fld w 21 6) (fld w 15 6) (fld w 9 6) (lendOr0 l)⟩,
  ⟨0xF80001FF#32, 0x0800000E#32, false, fun w l => .shl (fld w 21 6) (fld w 15 6) (fld w 9 6) (lendOr0 l)⟩,
  ⟨0xF80001FF#32, 0x0800000F#32, false, fun w l => .shr (fld w 21 6) (fld w 15 6) (fld w 9 6) (lendOr0 l)⟩,
  ⟨0xF80001FF#32, 0x08000010#32, false, fun w l => .sra (fld w 21 6) (fld w 15 6) (fld w 9 6) (lendOr0 l)⟩,
  ⟨0xF80001FF#32, 0x08000011#32, false, fun w l => .rol (fld w 21 6) (fld w 15 6) (fld w 9 6) (lendOr0 l)⟩,
  ⟨0xF80001FF#32, 0x08000012#32, false, fun w l => .ror (fld w 21 6) (fld w 15 6) (fld w 9 6) (lendOr0 l)⟩,
  ⟨0xF80001FF#32, 0x08000013#32, false, fun w l => .min (fld w 21 6) (fld w 15 6) (fld w 9 6) (lendOr0 l)⟩,
  ⟨0xF80001FF#32, 0x08000014#32, false, fun w l => .max (fld w 21 6) (fld w 15 6) (fld w 9 6) (lendOr0 l)⟩,
  ⟨0xF80001FF#32, 0x08000015#32, false, fun w l => .minn (fld w 21 6) (fld w 15 6) (fld w 9 6) (lendOr0 l)⟩,
  ⟨0xF80001FF#32, 0x08000016#32, false, fun w l => .maxn (fld w 21 6) (fld w 15 6) (fld w 9 6) (lendOr0 l)⟩,
  ⟨0xF8007FFF#32, 0x08000017#32, false, fun w l => .clz (fld w 21 6) (fld w 15 6) (lendOr0 l)⟩]

/-- The forms of SX, major 0x01: scalar integer, R74, R110 to R113. -/
def rowsSXB : List FormRow := [
  ⟨0xF8007FFF#32, 0x08000018#32, false, fun w l => .ctz (fld w 21 6) (fld w 15 6) (lendOr0 l)⟩,
  ⟨0xF8007FFF#32, 0x08000019#32, false, fun w l => .popc (fld w 21 6) (fld w 15 6) (lendOr0 l)⟩,
  ⟨0xF8007FFF#32, 0x0800001A#32, false, fun w l => .bswap (fld w 21 6) (fld w 15 6) (lendOr0 l)⟩,
  ⟨0xF80001FF#32, 0x0800001B#32, false, fun w l => .sel (fld w 21 6) (fld w 15 6) (fld w 9 6) (lendOr0 l)⟩,
  ⟨0xF80001FF#32, 0x0800001C#32, false, fun w l => .addw (fld w 21 6) (fld w 15 6) (fld w 9 6) (lendOr0 l)⟩,
  ⟨0xF80001FF#32, 0x0800001D#32, false, fun w l => .subw (fld w 21 6) (fld w 15 6) (fld w 9 6) (lendOr0 l)⟩,
  ⟨0xF80001FF#32, 0x0800001E#32, false, fun w l => .mulw (fld w 21 6) (fld w 15 6) (fld w 9 6) (lendOr0 l)⟩,
  ⟨0xF80001FF#32, 0x0800001F#32, false, fun w l => .sext (fld w 21 6) (fld w 15 6) (fld w 9 6) (lendOr0 l)⟩,
  ⟨0xF80001FF#32, 0x08000020#32, false, fun w l => .bext (fld w 21 6) (fld w 15 6) (fld w 9 6) (lendOr0 l)⟩,
  ⟨0xF80001FF#32, 0x08000021#32, false, fun w l => .bins (fld w 21 6) (fld w 15 6) (fld w 9 6) (lendOr0 l)⟩,
  ⟨0xF80001FF#32, 0x08000040#32, false, fun w l => .cmpEq (fld w 21 6) (fld w 15 6) (fld w 9 6) (lendOr0 l)⟩,
  ⟨0xF80001FF#32, 0x08000041#32, false, fun w l => .cmpNe (fld w 21 6) (fld w 15 6) (fld w 9 6) (lendOr0 l)⟩,
  ⟨0xF80001FF#32, 0x08000042#32, false, fun w l => .cmpLt (fld w 21 6) (fld w 15 6) (fld w 9 6) (lendOr0 l)⟩,
  ⟨0xF80001FF#32, 0x08000043#32, false, fun w l => .cmpGe (fld w 21 6) (fld w 15 6) (fld w 9 6) (lendOr0 l)⟩,
  ⟨0xF80001FF#32, 0x08000044#32, false, fun w l => .cmpLtn (fld w 21 6) (fld w 15 6) (fld w 9 6) (lendOr0 l)⟩,
  ⟨0xF80001FF#32, 0x08000045#32, false, fun w l => .cmpGen (fld w 21 6) (fld w 15 6) (fld w 9 6) (lendOr0 l)⟩,
  ⟨0xF80001FF#32, 0x08000046#32, false, fun w l => .cmpTst (fld w 21 6) (fld w 15 6) (fld w 9 6) (lendOr0 l)⟩]

/-- The forms of SI, major 0x02: scalar immediate, R75, R114. -/
def rowsSI : List FormRow := [
  ⟨0xF8007800#32, 0x10000000#32, false, fun w l => .addi (fld w 21 6) (fld w 15 6) (fld w 0 11) l⟩,
  ⟨0xF8007800#32, 0x10000800#32, false, fun w l => .andi (fld w 21 6) (fld w 15 6) (fld w 0 11) l⟩,
  ⟨0xF8007800#32, 0x10001000#32, false, fun w l => .ori (fld w 21 6) (fld w 15 6) (fld w 0 11) l⟩,
  ⟨0xF8007800#32, 0x10001800#32, false, fun w l => .xori (fld w 21 6) (fld w 15 6) (fld w 0 11) l⟩,
  ⟨0xF8007800#32, 0x10002000#32, false, fun w l => .shli (fld w 21 6) (fld w 15 6) (fld w 0 11) l⟩,
  ⟨0xF8007800#32, 0x10002800#32, false, fun w l => .shri (fld w 21 6) (fld w 15 6) (fld w 0 11) l⟩,
  ⟨0xF8007800#32, 0x10003000#32, false, fun w l => .srai (fld w 21 6) (fld w 15 6) (fld w 0 11) l⟩,
  ⟨0xF8007800#32, 0x10003800#32, false, fun w l => .muli (fld w 21 6) (fld w 15 6) (fld w 0 11) l⟩,
  ⟨0xF8007800#32, 0x10004000#32, false, fun w l => .cmpiEq (fld w 21 6) (fld w 15 6) (fld w 0 11) l⟩,
  ⟨0xF8007800#32, 0x10004800#32, false, fun w l => .cmpiNe (fld w 21 6) (fld w 15 6) (fld w 0 11) l⟩,
  ⟨0xF8007800#32, 0x10005000#32, false, fun w l => .cmpiLt (fld w 21 6) (fld w 15 6) (fld w 0 11) l⟩,
  ⟨0xF8007800#32, 0x10005800#32, false, fun w l => .cmpiLtn (fld w 21 6) (fld w 15 6) (fld w 0 11) l⟩]

/-- The forms of SL, major 0x03: long immediate, R76, R115. -/
def rowsSL : List FormRow := [
  ⟨0xF8100000#32, 0x18000000#32, false, fun w l => .li (fld w 21 6) (fld w 0 20) l⟩,
  ⟨0xF8100000#32, 0x18100000#32, false, fun w l => .lic (fld w 21 6) (fld w 0 20) l⟩]

/-- The forms of SF, major 0x04: scalar floating point, R77, R116 to R122. -/
def rowsSF : List FormRow := [
  ⟨0xF80001F0#32, 0x20000000#32, false, fun w l => .fadd (fld w 21 6) (fld w 15 6) (fld w 9 6) (fld w 0 4) (lendOr0 l)⟩,
  ⟨0xF80001F0#32, 0x20000010#32, false, fun w l => .fsub (fld w 21 6) (fld w 15 6) (fld w 9 6) (fld w 0 4) (lendOr0 l)⟩,
  ⟨0xF80001F0#32, 0x20000020#32, false, fun w l => .fmul (fld w 21 6) (fld w 15 6) (fld w 9 6) (fld w 0 4) (lendOr0 l)⟩,
  ⟨0xF80001F0#32, 0x20000030#32, false, fun w l => .fma (fld w 21 6) (fld w 15 6) (fld w 9 6) (fld w 0 4) (lendOr0 l)⟩,
  ⟨0xF80001F0#32, 0x20000040#32, false, fun w l => .fdiv (fld w 21 6) (fld w 15 6) (fld w 9 6) (fld w 0 4) (lendOr0 l)⟩,
  ⟨0xF8007FF0#32, 0x20000050#32, false, fun w l => .fsqrt (fld w 21 6) (fld w 15 6) (fld w 0 4) (lendOr0 l)⟩,
  ⟨0xF80001F0#32, 0x20000060#32, false, fun w l => .fmin (fld w 21 6) (fld w 15 6) (fld w 9 6) (fld w 0 4) (lendOr0 l)⟩,
  ⟨0xF80001F0#32, 0x20000070#32, false, fun w l => .fmax (fld w 21 6) (fld w 15 6) (fld w 9 6) (fld w 0 4) (lendOr0 l)⟩,
  ⟨0xF8007FF0#32, 0x20000080#32, false, fun w l => .fabs (fld w 21 6) (fld w 15 6) (fld w 0 4) (lendOr0 l)⟩,
  ⟨0xF8007FF0#32, 0x20000090#32, false, fun w l => .fneg (fld w 21 6) (fld w 15 6) (fld w 0 4) (lendOr0 l)⟩,
  ⟨0xF80001F0#32, 0x200000A0#32, false, fun w l => .fcmpEq (fld w 21 6) (fld w 15 6) (fld w 9 6) (fld w 0 4) (lendOr0 l)⟩,
  ⟨0xF8007FF0#32, 0x200000B0#32, false, fun w l => .fclass (fld w 21 6) (fld w 15 6) (fld w 0 4) (lendOr0 l)⟩,
  ⟨0xF80001F0#32, 0x200000C0#32, false, fun w l => .fcvt (fld w 21 6) (fld w 15 6) (fld w 9 6) (fld w 0 4) (lendOr0 l)⟩,
  ⟨0xF80001F0#32, 0x200000D0#32, false, fun w l => .fcvti (fld w 21 6) (fld w 15 6) (fld w 9 6) (fld w 0 4) (lendOr0 l)⟩,
  ⟨0xF8007FF0#32, 0x200000E0#32, false, fun w l => .fcvtf (fld w 21 6) (fld w 15 6) (fld w 0 4) (lendOr0 l)⟩,
  ⟨0xF80001F0#32, 0x200000F0#32, false, fun w l => .fcmpLt (fld w 21 6) (fld w 15 6) (fld w 9 6) (fld w 0 4) (lendOr0 l)⟩,
  ⟨0xF80001F0#32, 0x20000100#32, false, fun w l => .fcmpLe (fld w 21 6) (fld w 15 6) (fld w 9 6) (fld w 0 4) (lendOr0 l)⟩,
  ⟨0xF80001F0#32, 0x20000110#32, false, fun w l => .fcmpUn (fld w 21 6) (fld w 15 6) (fld w 9 6) (fld w 0 4) (lendOr0 l)⟩]

/-- The forms of SB, major 0x05: branches, R78, R123. -/
def rowsSB : List FormRow := [
  ⟨0xF8000000#32, 0x28000000#32, true, fun w _ => buildBranch w⟩]

/-- The forms of SC, major 0x06: control, R79. -/
def rowsSC : List FormRow := [
  ⟨0xFFFFFFFF#32, 0x30000000#32, true, fun _ _ => .nop⟩,
  ⟨0xFFFFF000#32, 0x30200000#32, false, fun w l => .call (fld w 0 12) (lendOr0 l)⟩,
  ⟨0xFFFFFFFF#32, 0x30400000#32, false, fun _ l => .ret (lendOr0 l)⟩,
  ⟨0xFFE07FFF#32, 0x30600000#32, false, fun w l => .jr (fld w 15 6) (lendOr0 l)⟩,
  ⟨0xFFE07000#32, 0x30800000#32, true, fun w _ => .loop (fld w 15 6) (fld w 0 12)⟩,
  ⟨0xFFFFFE00#32, 0x30A00000#32, true, fun w _ => .safe (fld w 0 9)⟩,
  ⟨0xFFFFFE00#32, 0x30C00000#32, true, fun w _ => .yield (fld w 0 9)⟩,
  ⟨0xFFFFFFFF#32, 0x30E00000#32, false, fun _ l => .endTask (lendOr0 l)⟩,
  ⟨0xFFE04000#32, 0x31000000#32, false, fun w l => .post (fld w 15 6) (fld w 8 6) (fld w 2 6) (fld w 0 2) (lendOr0 l)⟩,
  ⟨0xFFFFFFFC#32, 0x31200000#32, false, fun w l => .gbar (fld w 0 2) (lendOr0 l)⟩,
  ⟨0xFFFFFFC0#32, 0x31400000#32, false, fun w l => .wait (fld w 0 6) (lendOr0 l)⟩,
  ⟨0xFFFF8000#32, 0x31600000#32, false, fun w l => .trap (fld w 0 15) (lendOr0 l)⟩,
  ⟨0xFFFF8000#32, 0x31800000#32, false, fun w l => .brk (fld w 0 15) (lendOr0 l)⟩,
  ⟨0xFFE00000#32, 0x31A00000#32, true, fun w _ => .chk (fld w 15 6) (fld w 0 15)⟩,
  ⟨0xFFE00000#32, 0x31C00000#32, true, fun w _ => .chkv (fld w 15 6) (fld w 0 15)⟩]

/-- The forms of SM, major 0x07: global scalar memory, R80, R273 to R275. -/
def rowsSM : List FormRow := [
  ⟨0xF8007000#32, 0x38000000#32, false, fun w l => .ldImm (fld w 21 6) (fld w 17 4) (fld w 15 2) (fld w 0 12) l⟩,
  ⟨0xF8007000#32, 0x38001000#32, false, fun w l => .ldIndexed (fld w 21 6) (fld w 17 4) (fld w 15 2) (fld w 6 6) (fld w 0 6) (lendOr0 l)⟩,
  ⟨0xF8007000#32, 0x38002000#32, false, fun w l => .ldxImm (fld w 21 6) (fld w 17 4) (fld w 15 2) (fld w 0 12) l⟩,
  ⟨0xF8007000#32, 0x38003000#32, false, fun w l => .ldxIndexed (fld w 21 6) (fld w 17 4) (fld w 15 2) (fld w 6 6) (fld w 0 6) (lendOr0 l)⟩,
  ⟨0xF8007000#32, 0x38004000#32, false, fun w l => .stImm (fld w 21 6) (fld w 17 4) (fld w 15 2) (fld w 0 12) l⟩,
  ⟨0xF8007000#32, 0x38005000#32, false, fun w l => .stIndexed (fld w 21 6) (fld w 17 4) (fld w 15 2) (fld w 6 6) (fld w 0 6) (lendOr0 l)⟩,
  ⟨0xF8007000#32, 0x38006000#32, false, fun w l => .ldSImm (fld w 21 6) (fld w 17 4) (fld w 15 2) (fld w 0 12) l⟩,
  ⟨0xF8007000#32, 0x38007000#32, false, fun w l => .ldSIndexed (fld w 21 6) (fld w 17 4) (fld w 15 2) (fld w 6 6) (fld w 0 6) (lendOr0 l)⟩]

/-- The forms of SA, major 0x08: atomics, fences and translation, R81. -/
def rowsSA : List FormRow := [
  ⟨0xF80007C0#32, 0x40000000#32, false, fun w l => .amoAdd (fld w 21 6) (fld w 17 4) (fld w 11 6) (fld w 4 2) (fld w 2 2) (fld w 0 2) (lendOr0 l)⟩,
  ⟨0xF80007C0#32, 0x40000040#32, false, fun w l => .amoAnd (fld w 21 6) (fld w 17 4) (fld w 11 6) (fld w 4 2) (fld w 2 2) (fld w 0 2) (lendOr0 l)⟩,
  ⟨0xF80007C0#32, 0x40000080#32, false, fun w l => .amoOr (fld w 21 6) (fld w 17 4) (fld w 11 6) (fld w 4 2) (fld w 2 2) (fld w 0 2) (lendOr0 l)⟩,
  ⟨0xF80007C0#32, 0x400000C0#32, false, fun w l => .amoXor (fld w 21 6) (fld w 17 4) (fld w 11 6) (fld w 4 2) (fld w 2 2) (fld w 0 2) (lendOr0 l)⟩,
  ⟨0xF80007C0#32, 0x40000100#32, false, fun w l => .amoMin (fld w 21 6) (fld w 17 4) (fld w 11 6) (fld w 4 2) (fld w 2 2) (fld w 0 2) (lendOr0 l)⟩,
  ⟨0xF80007C0#32, 0x40000140#32, false, fun w l => .amoMax (fld w 21 6) (fld w 17 4) (fld w 11 6) (fld w 4 2) (fld w 2 2) (fld w 0 2) (lendOr0 l)⟩,
  ⟨0xF80007C0#32, 0x40000180#32, false, fun w l => .amoMinn (fld w 21 6) (fld w 17 4) (fld w 11 6) (fld w 4 2) (fld w 2 2) (fld w 0 2) (lendOr0 l)⟩,
  ⟨0xF80007C0#32, 0x400001C0#32, false, fun w l => .amoMaxn (fld w 21 6) (fld w 17 4) (fld w 11 6) (fld w 4 2) (fld w 2 2) (fld w 0 2) (lendOr0 l)⟩,
  ⟨0xF80007C0#32, 0x40000200#32, false, fun w l => .amoSwap (fld w 21 6) (fld w 17 4) (fld w 11 6) (fld w 4 2) (fld w 2 2) (fld w 0 2) (lendOr0 l)⟩,
  ⟨0xF80007C0#32, 0x40000240#32, false, fun w l => .amoCas (fld w 21 6) (fld w 17 4) (fld w 11 6) (fld w 4 2) (fld w 2 2) (fld w 0 2) (lendOr0 l)⟩,
  ⟨0xF80007C0#32, 0x40000280#32, false, fun w l => .amoFadd (fld w 21 6) (fld w 17 4) (fld w 11 6) (fld w 4 2) (fld w 2 2) (fld w 0 2) (lendOr0 l)⟩,
  ⟨0xF80007CC#32, 0x400002C8#32, false, fun w l => .amoAddsr (fld w 21 6) (fld w 17 4) (fld w 11 6) (fld w 4 2) (fld w 0 2) (lendOr0 l)⟩,
  ⟨0xFFFFFFCC#32, 0x40000400#32, true, fun w _ => .fence (fld w 4 2) (fld w 0 2)⟩,
  ⟨0xFFFFFFFF#32, 0x40000440#32, true, fun _ _ => .fenceE⟩,
  ⟨0xF80007F3#32, 0x40000480#32, true, fun w _ => .probe (fld w 21 6) (fld w 17 4) (fld w 11 6) (fld w 2 2)⟩,
  ⟨0xF80007F3#32, 0x400004C0#32, true, fun w _ => .xlat (fld w 21 6) (fld w 17 4) (fld w 11 6) (fld w 2 2)⟩,
  ⟨0xFFE1FFFF#32, 0x40000500#32, true, fun w _ => .hinv (fld w 17 4)⟩,
  ⟨0xF80007FF#32, 0x40000540#32, true, fun w _ => .hinfo (fld w 21 6) (fld w 17 4) (fld w 11 6)⟩]

/-- The forms of SS, major 0x09: system registers, R82. -/
def rowsSS : List FormRow := [
  ⟨0xF81000FF#32, 0x48000000#32, false, fun w l => .mfsr (fld w 21 6) (fld w 8 12) (lendOr0 l)⟩,
  ⟨0xF81000FF#32, 0x48100000#32, false, fun w l => .mtsr (fld w 21 6) (fld w 8 12) (lendOr0 l)⟩]

/-- The forms of SCM, major 0x0A: comb scalar access, R83. -/
def rowsSCM : List FormRow := [
  ⟨0xF8001C00#32, 0x50000000#32, false, fun w l => .ldcImm (fld w 21 6) (fld w 15 6) (fld w 13 2) (fld w 0 10) l⟩,
  ⟨0xF8001C00#32, 0x50000400#32, false, fun w l => .ldcIndexed (fld w 21 6) (fld w 15 6) (fld w 13 2) (fld w 4 6) (fld w 0 4) (lendOr0 l)⟩,
  ⟨0xF8001C00#32, 0x50000800#32, false, fun w l => .ldcxImm (fld w 21 6) (fld w 15 6) (fld w 13 2) (fld w 0 10) l⟩,
  ⟨0xF8001C00#32, 0x50000C00#32, false, fun w l => .ldcxIndexed (fld w 21 6) (fld w 15 6) (fld w 13 2) (fld w 4 6) (fld w 0 4) (lendOr0 l)⟩,
  ⟨0xF8001C00#32, 0x50001000#32, false, fun w l => .stcImm (fld w 21 6) (fld w 15 6) (fld w 13 2) (fld w 0 10) l⟩,
  ⟨0xF8001C00#32, 0x50001400#32, false, fun w l => .stcIndexed (fld w 21 6) (fld w 15 6) (fld w 13 2) (fld w 4 6) (fld w 0 4) (lendOr0 l)⟩]

/-- The forms of VI, major 0x0C: vector integer, R85. -/
def rowsVI : List FormRow := [
  ⟨0xF8000078#32, 0x60000000#32, false, fun w l => .vadd (fld w 25 2) (fld w 19 6) (fld w 13 6) (fld w 7 6) (fld w 0 3) (lendOr0 l)⟩,
  ⟨0xF8000078#32, 0x60000008#32, false, fun w l => .vsub (fld w 25 2) (fld w 19 6) (fld w 13 6) (fld w 7 6) (fld w 0 3) (lendOr0 l)⟩,
  ⟨0xF8000078#32, 0x60000010#32, false, fun w l => .vmul (fld w 25 2) (fld w 19 6) (fld w 13 6) (fld w 7 6) (fld w 0 3) (lendOr0 l)⟩,
  ⟨0xF8000078#32, 0x60000018#32, false, fun w l => .vmulh (fld w 25 2) (fld w 19 6) (fld w 13 6) (fld w 7 6) (fld w 0 3) (lendOr0 l)⟩,
  ⟨0xF8000078#32, 0x60000020#32, false, fun w l => .vmin (fld w 25 2) (fld w 19 6) (fld w 13 6) (fld w 7 6) (fld w 0 3) (lendOr0 l)⟩,
  ⟨0xF8000078#32, 0x60000028#32, false, fun w l => .vmax (fld w 25 2) (fld w 19 6) (fld w 13 6) (fld w 7 6) (fld w 0 3) (lendOr0 l)⟩,
  ⟨0xF8000078#32, 0x60000030#32, false, fun w l => .vand (fld w 25 2) (fld w 19 6) (fld w 13 6) (fld w 7 6) (fld w 0 3) (lendOr0 l)⟩,
  ⟨0xF8000078#32, 0x60000038#32, false, fun w l => .vor (fld w 25 2) (fld w 19 6) (fld w 13 6) (fld w 7 6) (fld w 0 3) (lendOr0 l)⟩,
  ⟨0xF8000078#32, 0x60000040#32, false, fun w l => .vxor (fld w 25 2) (fld w 19 6) (fld w 13 6) (fld w 7 6) (fld w 0 3) (lendOr0 l)⟩,
  ⟨0xF8000078#32, 0x60000048#32, false, fun w l => .vshl (fld w 25 2) (fld w 19 6) (fld w 13 6) (fld w 7 6) (fld w 0 3) (lendOr0 l)⟩,
  ⟨0xF8000078#32, 0x60000050#32, false, fun w l => .vshr (fld w 25 2) (fld w 19 6) (fld w 13 6) (fld w 7 6) (fld w 0 3) (lendOr0 l)⟩,
  ⟨0xF8001FF8#32, 0x60000058#32, false, fun w l => .vabs (fld w 25 2) (fld w 19 6) (fld w 13 6) (fld w 0 3) (lendOr0 l)⟩,
  ⟨0xF8000078#32, 0x60000060#32, false, fun w l => .vadds (fld w 25 2) (fld w 19 6) (fld w 13 6) (fld w 7 6) (fld w 0 3) (lendOr0 l)⟩,
  ⟨0xF8000078#32, 0x60000068#32, false, fun w l => .vsubs (fld w 25 2) (fld w 19 6) (fld w 13 6) (fld w 7 6) (fld w 0 3) (lendOr0 l)⟩,
  ⟨0xF9C00078#32, 0x60000070#32, false, fun w l => .vcmp (fld w 25 2) (fld w 19 3) (fld w 13 6) (fld w 7 6) (fld w 0 3) (lendOr0 l)⟩,
  ⟨0xF8000078#32, 0x60000078#32, false, fun w l => .vdot4 (fld w 25 2) (fld w 19 6) (fld w 13 6) (fld w 7 6) (fld w 0 3) (lendOr0 l)⟩]

/-- The forms of VF, major 0x0D: vector floating point, R86. -/
def rowsVF : List FormRow := [
  ⟨0xF8000078#32, 0x68000000#32, false, fun w l => .vfadd (fld w 25 2) (fld w 19 6) (fld w 13 6) (fld w 7 6) (fld w 0 3) (lendOr0 l)⟩,
  ⟨0xF8000078#32, 0x68000008#32, false, fun w l => .vfsub (fld w 25 2) (fld w 19 6) (fld w 13 6) (fld w 7 6) (fld w 0 3) (lendOr0 l)⟩,
  ⟨0xF8000078#32, 0x68000010#32, false, fun w l => .vfmul (fld w 25 2) (fld w 19 6) (fld w 13 6) (fld w 7 6) (fld w 0 3) (lendOr0 l)⟩,
  ⟨0xF8000078#32, 0x68000018#32, false, fun w l => .vfma (fld w 25 2) (fld w 19 6) (fld w 13 6) (fld w 7 6) (fld w 0 3) (lendOr0 l)⟩,
  ⟨0xF8000078#32, 0x68000020#32, false, fun w l => .vfnma (fld w 25 2) (fld w 19 6) (fld w 13 6) (fld w 7 6) (fld w 0 3) (lendOr0 l)⟩,
  ⟨0xF8000078#32, 0x68000028#32, false, fun w l => .vfmin (fld w 25 2) (fld w 19 6) (fld w 13 6) (fld w 7 6) (fld w 0 3) (lendOr0 l)⟩,
  ⟨0xF8000078#32, 0x68000030#32, false, fun w l => .vfmax (fld w 25 2) (fld w 19 6) (fld w 13 6) (fld w 7 6) (fld w 0 3) (lendOr0 l)⟩,
  ⟨0xF8001FF8#32, 0x68000038#32, false, fun w l => .vfabs (fld w 25 2) (fld w 19 6) (fld w 13 6) (fld w 0 3) (lendOr0 l)⟩,
  ⟨0xF8001FF8#32, 0x68000040#32, false, fun w l => .vfneg (fld w 25 2) (fld w 19 6) (fld w 13 6) (fld w 0 3) (lendOr0 l)⟩,
  ⟨0xF9C00078#32, 0x68000048#32, false, fun w l => .vfcmp (fld w 25 2) (fld w 19 3) (fld w 13 6) (fld w 7 6) (fld w 0 3) (lendOr0 l)⟩,
  ⟨0xF8001FF8#32, 0x68000050#32, false, fun w l => .vfclass (fld w 25 2) (fld w 19 6) (fld w 13 6) (fld w 0 3) (lendOr0 l)⟩,
  ⟨0xF8000078#32, 0x68000058#32, false, fun w l => .vfscl (fld w 25 2) (fld w 19 6) (fld w 13 6) (fld w 7 6) (fld w 0 3) (lendOr0 l)⟩,
  ⟨0xF8000078#32, 0x68000060#32, false, fun w l => .vfsel (fld w 25 2) (fld w 19 6) (fld w 13 6) (fld w 7 6) (fld w 0 3) (lendOr0 l)⟩]

/-- The forms of VX, major 0x0E: vector conversions, R87. -/
def rowsVX : List FormRow := [
  ⟨0xF800000F#32, 0x70000000#32, false, fun w l => .vcvt (fld w 25 2) (fld w 19 6) (fld w 13 6) (fld w 8 5) (bit w 7) (fld w 4 3) (lendOrF l)⟩,
  ⟨0xF800000F#32, 0x70000001#32, false, fun w l => .vqnt (fld w 25 2) (fld w 19 6) (fld w 13 6) (fld w 8 5) (bit w 7) (fld w 4 3) (lendOrF l)⟩,
  ⟨0xF800000F#32, 0x70000002#32, false, fun w l => .vdeq (fld w 25 2) (fld w 19 6) (fld w 13 6) (fld w 8 5) (bit w 7) (fld w 4 3) (lendOrF l)⟩,
  ⟨0xF800000F#32, 0x70000003#32, false, fun w l => .vbq (fld w 25 2) (fld w 19 6) (fld w 13 6) (fld w 8 5) (bit w 7) (fld w 4 3) (lendOrF l)⟩,
  ⟨0xF800000F#32, 0x70000004#32, false, fun w l => .vbdq (fld w 25 2) (fld w 19 6) (fld w 13 6) (fld w 8 5) (bit w 7) (fld w 4 3) (lendOrF l)⟩,
  ⟨0xF807FFFF#32, 0x70000005#32, false, fun w l => .vrng (fld w 25 2) (fld w 19 6) (lendOrF l)⟩]

/-- The forms of VS, major 0x0F: special functions, R88. -/
def rowsVS : List FormRow := [
  ⟨0xF8001FF8#32, 0x78000000#32, false, fun w l => .vrecip (fld w 25 2) (fld w 19 6) (fld w 13 6) (fld w 0 3) (lendOr0 l)⟩,
  ⟨0xF8001FF8#32, 0x78000008#32, false, fun w l => .vrsqrt (fld w 25 2) (fld w 19 6) (fld w 13 6) (fld w 0 3) (lendOr0 l)⟩,
  ⟨0xF8001FF8#32, 0x78000010#32, false, fun w l => .vsqrt (fld w 25 2) (fld w 19 6) (fld w 13 6) (fld w 0 3) (lendOr0 l)⟩,
  ⟨0xF8000078#32, 0x78000018#32, false, fun w l => .vdiv (fld w 25 2) (fld w 19 6) (fld w 13 6) (fld w 7 6) (fld w 0 3) (lendOr0 l)⟩,
  ⟨0xF8001FF8#32, 0x78000020#32, false, fun w l => .vexp2 (fld w 25 2) (fld w 19 6) (fld w 13 6) (fld w 0 3) (lendOr0 l)⟩,
  ⟨0xF8001FF8#32, 0x78000028#32, false, fun w l => .vlog2 (fld w 25 2) (fld w 19 6) (fld w 13 6) (fld w 0 3) (lendOr0 l)⟩,
  ⟨0xF8001FF8#32, 0x78000030#32, false, fun w l => .vexp (fld w 25 2) (fld w 19 6) (fld w 13 6) (fld w 0 3) (lendOr0 l)⟩]

/-- The forms of VP, major 0x10: permutes, moves and masks, R89. -/
def rowsVP : List FormRow := [
  ⟨0xF8001FF8#32, 0x80000000#32, false, fun w l => .vmov (fld w 25 2) (fld w 19 6) (fld w 13 6) (fld w 0 3) (lendOr0 l)⟩,
  ⟨0xF8001FF8#32, 0x80000008#32, false, fun w l => .vbcst (fld w 25 2) (fld w 19 6) (fld w 13 6) (fld w 0 3) (lendOr0 l)⟩,
  ⟨0xF807FFF8#32, 0x80000010#32, false, fun w l => .vli (fld w 25 2) (fld w 19 6) (fld w 0 3) (lendOr0 l)⟩,
  ⟨0xF8000078#32, 0x80000018#32, false, fun w l => .vperm (fld w 25 2) (fld w 19 6) (fld w 13 6) (fld w 7 6) (fld w 0 3) (lendOr0 l)⟩,
  ⟨0xF8000078#32, 0x80000020#32, false, fun w l => .vshuf (fld w 25 2) (fld w 19 6) (fld w 13 6) (fld w 7 6) (fld w 0 3) (lendOr0 l)⟩,
  ⟨0xF8000078#32, 0x80000028#32, false, fun w l => .vrot (fld w 25 2) (fld w 19 6) (fld w 13 6) (fld w 7 6) (fld w 0 3) (lendOr0 l)⟩,
  ⟨0xF8001FF8#32, 0x80000030#32, false, fun w l => .vred (fld w 25 2) (fld w 19 6) (fld w 13 6) (fld w 0 3) (lendOr0 l)⟩,
  ⟨0xF9C71C7F#32, 0x80000038#32, false, fun w l => .vmsk (fld w 25 2) (fld w 19 3) (fld w 13 3) (fld w 7 3) (lendOr0 l)⟩,
  ⟨0xF9F80078#32, 0x80000040#32, true, fun w _ => .vxtr (fld w 25 2) (fld w 13 6) (fld w 7 6) (fld w 0 3)⟩,
  ⟨0xF8000078#32, 0x80000048#32, true, fun w _ => .vins (fld w 25 2) (fld w 19 6) (fld w 13 6) (fld w 7 6) (fld w 0 3)⟩,
  ⟨0xF9C01FFF#32, 0x80000050#32, true, fun w _ => .vbitx (fld w 25 2) (fld w 19 3) (fld w 13 6)⟩,
  ⟨0xF8001FF8#32, 0x80000058#32, false, fun w l => .vcmpr (fld w 25 2) (fld w 19 6) (fld w 13 6) (fld w 0 3) (lendOr0 l)⟩,
  ⟨0xF8001FF8#32, 0x80000060#32, false, fun w l => .vexpd (fld w 25 2) (fld w 19 6) (fld w 13 6) (fld w 0 3) (lendOr0 l)⟩]

/-- The forms of VM, major 0x11: vector memory, R90. -/
def rowsVM : List FormRow := [
  ⟨0xF8000070#32, 0x88000000#32, false, fun w l => .vld (fld w 25 2) (fld w 19 6) (fld w 13 6) (fld w 7 6) (fld w 0 4) l⟩,
  ⟨0xF8000070#32, 0x88000010#32, false, fun w l => .vst (fld w 25 2) (fld w 19 6) (fld w 13 6) (fld w 7 6) (fld w 0 4) l⟩,
  ⟨0xF8000070#32, 0x88000020#32, false, fun w l => .vgat (fld w 25 2) (fld w 19 6) (fld w 13 6) (fld w 7 6) (fld w 0 4) (lendOr0 l)⟩,
  ⟨0xF8000070#32, 0x88000030#32, false, fun w l => .vsct (fld w 25 2) (fld w 19 6) (fld w 13 6) (fld w 7 6) (fld w 0 4) (lendOr0 l)⟩,
  ⟨0xF8060070#32, 0x88000040#32, false, fun w l => .vldg (fld w 25 2) (fld w 19 6) (fld w 13 4) (fld w 7 6) (fld w 0 4) l⟩,
  ⟨0xF8060070#32, 0x88000050#32, false, fun w l => .vstg (fld w 25 2) (fld w 19 6) (fld w 13 4) (fld w 7 6) (fld w 0 4) l⟩,
  ⟨0xF8060070#32, 0x88000060#32, false, fun w l => .vldS (fld w 25 2) (fld w 19 6) (fld w 13 4) (fld w 7 6) (fld w 0 4) l⟩]

/-- The forms of VQ, major 0x12: vector and quire, R91. -/
def rowsVQ : List FormRow := [
  ⟨0xF80001FF#32, 0x90000000#32, false, fun w l => .vqadd (fld w 26 1) (fld w 20 6) (fld w 14 6) (fld w 9 5) (lendOr0 l)⟩,
  ⟨0xF800003F#32, 0x90000008#32, false, fun w l => .vqr (fld w 26 1) (fld w 20 6) (fld w 14 6) (fld w 9 5) (fld w 6 3) (lendOr0 l)⟩,
  ⟨0xF80FFFFF#32, 0x90000010#32, false, fun w l => .vqz (fld w 26 1) (fld w 20 6) (lendOr0 l)⟩]

/-- The forms of MM, major 0x14: multiply-accumulate, R92. -/
def rowsMM : List FormRow := [
  ⟨0xF803C1CF#32, 0xA0000000#32, true, fun w _ => .mma (fld w 26 1) (fld w 22 4) (fld w 18 4) (fld w 9 5) (bit w 5) (bit w 4)⟩,
  ⟨0xF803C1CF#32, 0xA0000040#32, true, fun w _ => .mmn (fld w 26 1) (fld w 22 4) (fld w 18 4) (fld w 9 5) (bit w 5) (bit w 4)⟩,
  ⟨0xF803C1CF#32, 0xA0000080#32, true, fun w _ => .mmx (fld w 26 1) (fld w 22 4) (fld w 18 4) (fld w 9 5) (bit w 5) (bit w 4)⟩,
  ⟨0xF80001CF#32, 0xA00000C0#32, true, fun w _ => .mms (fld w 26 1) (fld w 22 4) (fld w 18 4) (fld w 14 4) (fld w 9 5) (bit w 5) (bit w 4)⟩,
  ⟨0xF83F81DF#32, 0xA0000100#32, true, fun w _ => .mmz (fld w 26 1) (fld w 22 4) (fld w 14 1) (fld w 9 5) (bit w 5)⟩]

/-- The forms of MQ, major 0x15: quire operations, R93. -/
def rowsMQ : List FormRow := [
  ⟨0xFBFFFFFF#32, 0xA8000000#32, true, fun w _ => .qzero (fld w 26 1)⟩,
  ⟨0xF8001FFF#32, 0xA8000400#32, true, fun w _ => .qrnd (fld w 26 1) (fld w 22 4) (fld w 17 5) (fld w 14 3) (bit w 13)⟩,
  ⟨0xFBFFFFC0#32, 0xA8000800#32, false, fun w l => .qst (fld w 26 1) (fld w 0 6) (lendOr0 l)⟩,
  ⟨0xFBFFFFC0#32, 0xA8000C00#32, false, fun w l => .qld (fld w 26 1) (fld w 0 6) (lendOr0 l)⟩,
  ⟨0xF83FFFFF#32, 0xA8001000#32, true, fun w _ => .qmsk (fld w 26 1) (fld w 22 4)⟩,
  ⟨0xFBFFFFFF#32, 0xA8001400#32, true, fun w _ => .qadd (fld w 26 1)⟩,
  ⟨0xFBFFFC00#32, 0xA8001800#32, true, fun w _ => .qscl (fld w 26 1) (fld w 0 10)⟩,
  ⟨0xF801FFFF#32, 0xA8001C00#32, true, fun w _ => .qtl (fld w 26 1) (fld w 22 4) (fld w 17 5)⟩]

/-- The forms of MT, major 0x16: tile moves, R94. -/
def rowsMT : List FormRow := [
  ⟨0xFC3C0E00#32, 0xB0000000#32, false, fun w l => .tld (fld w 22 4) (fld w 12 6) (fld w 0 9) l⟩,
  ⟨0xFFC00E00#32, 0xB0000200#32, false, fun w l => .tst (fld w 18 4) (fld w 12 6) (fld w 0 9) l⟩,
  ⟨0xFC03FFFF#32, 0xB0000400#32, true, fun w _ => .tmov (fld w 22 4) (fld w 18 4)⟩,
  ⟨0xFC03FFFF#32, 0xB0000600#32, true, fun w _ => .ttr (fld w 22 4) (fld w 18 4)⟩,
  ⟨0xFC03FFF0#32, 0xB0000800#32, true, fun w _ => .tcvt (fld w 22 4) (fld w 18 4) (bit w 3) (fld w 0 3)⟩,
  ⟨0xFC3FFFFF#32, 0xB0000A00#32, true, fun w _ => .tzero (fld w 22 4)⟩]

/-- The forms of ML, major 0x17: latches and row statistics, R95. -/
def rowsML : List FormRow := [
  ⟨0xFFD00E00#32, 0xB8000000#32, true, fun w _ => .msl (fld w 21 1) (fld w 16 4) (fld w 12 4) (fld w 5 4) (fld w 0 5)⟩,
  ⟨0xF80FFE0C#32, 0xB8000200#32, true, fun w _ => .rstat (fld w 21 6) (fld w 20 1) (fld w 4 5) (fld w 0 2)⟩]

/-- The forms of CG, major 0x19: copies with global memory, R96. -/
def rowsCG : List FormRow := [
  ⟨0xF800001E#32, 0xC8000000#32, false, fun w l => .cpG2c (fld w 21 6) (fld w 17 4) (fld w 11 6) (fld w 5 6) (bit w 0) (lendOr0 l)⟩,
  ⟨0xF800001D#32, 0xC8000004#32, true, fun w _ => .cpC2g (fld w 21 6) (fld w 17 4) (fld w 11 6) (fld w 5 6) (bit w 1)⟩,
  ⟨0xF800001E#32, 0xC8000008#32, false, fun w l => .cpGat (fld w 21 6) (fld w 17 4) (fld w 11 6) (fld w 5 6) (bit w 0) (lendOr0 l)⟩,
  ⟨0xF800001F#32, 0xC800000C#32, true, fun w _ => .cpSct (fld w 21 6) (fld w 17 4) (fld w 11 6) (fld w 5 6)⟩,
  ⟨0xF800001E#32, 0xC8000010#32, false, fun w l => .cpBmg (fld w 21 6) (fld w 17 4) (fld w 11 6) (fld w 5 6) (bit w 0) (lendOr0 l)⟩,
  ⟨0xFFE0001F#32, 0xC8000014#32, false, fun w l => .cpG2g (fld w 17 4) (fld w 11 6) (fld w 5 6) (lendOr0 l)⟩,
  ⟨0xFE0007FF#32, 0xC8000018#32, true, fun w _ => .cpOvl (fld w 21 4) (fld w 17 4) (fld w 11 6)⟩]

/-- The forms of CR, major 0x1A: remote writes and cells, R97. -/
def rowsCR : List FormRow := [
  ⟨0xF80001FF#32, 0xD0000000#32, true, fun w _ => .cpC2r (fld w 21 6) (fld w 15 6) (fld w 9 6)⟩,
  ⟨0xF80001FF#32, 0xD0000040#32, true, fun w _ => .cellArm (fld w 21 6) (fld w 15 6) (fld w 9 6)⟩,
  ⟨0xF81FFFC0#32, 0xD0000080#32, false, fun w l => .cellSeal (fld w 21 6) (fld w 0 6) (lendOr0 l)⟩,
  ⟨0xF81FFFFF#32, 0xD00000C0#32, true, fun w _ => .cellFree (fld w 21 6)⟩,
  ⟨0xF8007FFF#32, 0xD0000100#32, true, fun w _ => .cellExpect (fld w 21 6) (fld w 15 6)⟩,
  ⟨0xF8007FFF#32, 0xD0000140#32, true, fun w _ => .cellOpen (fld w 21 6) (fld w 15 6)⟩]

/-- The forms of CD, major 0x1B: decoder commands, R98. -/
def rowsCD : List FormRow := [
  ⟨0xF81E7FFF#32, 0xD8000000#32, true, fun w _ => .decTab (fld w 21 6) (fld w 15 2)⟩,
  ⟨0xF8187000#32, 0xD8001000#32, false, fun w l => .decOpen (fld w 21 6) (fld w 17 2) (fld w 15 2) (fld w 0 12) (lendOr0 l)⟩,
  ⟨0xFFFE7000#32, 0xD8002000#32, true, fun w _ => .decSeek (fld w 15 2) (fld w 0 12)⟩,
  ⟨0xF81E7000#32, 0xD8003000#32, true, fun w _ => .decSave (fld w 21 6) (fld w 15 2) (fld w 0 12)⟩,
  ⟨0xF81E7000#32, 0xD8004000#32, true, fun w _ => .decLoad (fld w 21 6) (fld w 15 2) (fld w 0 12)⟩]

/-- The forms of CO, major 0x1C: collective and ordered commands, R99. -/
def rowsCO : List FormRow := [
  ⟨0xF80001FE#32, 0xE0000000#32, true, fun w _ => .osend (fld w 21 6) (fld w 15 6) (fld w 9 6) (bit w 0)⟩,
  ⟨0xF80001C0#32, 0xE0000040#32, true, fun w _ => .collMx (fld w 21 6) (fld w 15 6) (fld w 9 6) (fld w 0 6)⟩,
  ⟨0xF80001C0#32, 0xE0000080#32, true, fun w _ => .collBs (fld w 21 6) (fld w 15 6) (fld w 9 6) (fld w 0 6)⟩,
  ⟨0xF80001FF#32, 0xE00000C0#32, true, fun w _ => .collBc (fld w 21 6) (fld w 15 6) (fld w 9 6)⟩,
  ⟨0xF80001FF#32, 0xE0000100#32, true, fun w _ => .collAg (fld w 21 6) (fld w 15 6) (fld w 9 6)⟩]

/-- Every form with an encoding. -/
def formRows : List FormRow :=
  rowsSXA ++ rowsSXB ++ rowsSI ++ rowsSL ++ rowsSF ++ rowsSB ++ rowsSC ++ rowsSM ++
  rowsSA ++ rowsSS ++ rowsSCM ++ rowsVI ++ rowsVF ++ rowsVX ++ rowsVS ++ rowsVP ++
  rowsVM ++ rowsVQ ++ rowsMM ++ rowsMQ ++ rowsMT ++ rowsML ++ rowsCG ++ rowsCR ++
  rowsCD ++ rowsCO

/-- R65 to R100: the instruction of a syllable and its lend, or the reason there is none. -/
def decode (w : Syllable) (l : Option Lend) : Except Problem Instr :=
  if fld w 27 5 == 0x1F#5 then .error .header
  else match formRows.find? (·.fits w) with
    | none => .error .reservedOpcode
    | some r =>
      if r.plain && lendOr0 l != 0 then .error .lendUnused
      else
        let i := r.build w l
        match i.problem with
        | some p => .error p
        | none => .ok i

/-- The words of an instruction: its syllable, and the lend it needs where its kind takes one. A device step has no
words. -/
def encode (i : Instr) : Option (Syllable × Option Lend) :=
  match i with
  | .add d a b l => some (0x08000000#32 ||| put d 21 ||| put a 15 ||| put b 9, some l)
  | .sub d a b l => some (0x08000001#32 ||| put d 21 ||| put a 15 ||| put b 9, some l)
  | .mul d a b l => some (0x08000002#32 ||| put d 21 ||| put a 15 ||| put b 9, some l)
  | .mulh d a b l => some (0x08000003#32 ||| put d 21 ||| put a 15 ||| put b 9, some l)
  | .mulhn d a b l => some (0x08000004#32 ||| put d 21 ||| put a 15 ||| put b 9, some l)
  | .div d a b l => some (0x08000005#32 ||| put d 21 ||| put a 15 ||| put b 9, some l)
  | .divn d a b l => some (0x08000006#32 ||| put d 21 ||| put a 15 ||| put b 9, some l)
  | .rem d a b l => some (0x08000007#32 ||| put d 21 ||| put a 15 ||| put b 9, some l)
  | .remn d a b l => some (0x08000008#32 ||| put d 21 ||| put a 15 ||| put b 9, some l)
  | .and d a b l => some (0x08000009#32 ||| put d 21 ||| put a 15 ||| put b 9, some l)
  | .or d a b l => some (0x0800000A#32 ||| put d 21 ||| put a 15 ||| put b 9, some l)
  | .xor d a b l => some (0x0800000B#32 ||| put d 21 ||| put a 15 ||| put b 9, some l)
  | .andn d a b l => some (0x0800000C#32 ||| put d 21 ||| put a 15 ||| put b 9, some l)
  | .orn d a b l => some (0x0800000D#32 ||| put d 21 ||| put a 15 ||| put b 9, some l)
  | .shl d a b l => some (0x0800000E#32 ||| put d 21 ||| put a 15 ||| put b 9, some l)
  | .shr d a b l => some (0x0800000F#32 ||| put d 21 ||| put a 15 ||| put b 9, some l)
  | .sra d a b l => some (0x08000010#32 ||| put d 21 ||| put a 15 ||| put b 9, some l)
  | .rol d a b l => some (0x08000011#32 ||| put d 21 ||| put a 15 ||| put b 9, some l)
  | .ror d a b l => some (0x08000012#32 ||| put d 21 ||| put a 15 ||| put b 9, some l)
  | .min d a b l => some (0x08000013#32 ||| put d 21 ||| put a 15 ||| put b 9, some l)
  | .max d a b l => some (0x08000014#32 ||| put d 21 ||| put a 15 ||| put b 9, some l)
  | .minn d a b l => some (0x08000015#32 ||| put d 21 ||| put a 15 ||| put b 9, some l)
  | .maxn d a b l => some (0x08000016#32 ||| put d 21 ||| put a 15 ||| put b 9, some l)
  | .clz d a l => some (0x08000017#32 ||| put d 21 ||| put a 15, some l)
  | .ctz d a l => some (0x08000018#32 ||| put d 21 ||| put a 15, some l)
  | .popc d a l => some (0x08000019#32 ||| put d 21 ||| put a 15, some l)
  | .bswap d a l => some (0x0800001A#32 ||| put d 21 ||| put a 15, some l)
  | .sel d a b l => some (0x0800001B#32 ||| put d 21 ||| put a 15 ||| put b 9, some l)
  | .addw d a b l => some (0x0800001C#32 ||| put d 21 ||| put a 15 ||| put b 9, some l)
  | .subw d a b l => some (0x0800001D#32 ||| put d 21 ||| put a 15 ||| put b 9, some l)
  | .mulw d a b l => some (0x0800001E#32 ||| put d 21 ||| put a 15 ||| put b 9, some l)
  | .sext d a w l => some (0x0800001F#32 ||| put d 21 ||| put a 15 ||| put w 9, some l)
  | .bext d a b l => some (0x08000020#32 ||| put d 21 ||| put a 15 ||| put b 9, some l)
  | .bins d a b l => some (0x08000021#32 ||| put d 21 ||| put a 15 ||| put b 9, some l)
  | .cmpEq d a b l => some (0x08000040#32 ||| put d 21 ||| put a 15 ||| put b 9, some l)
  | .cmpNe d a b l => some (0x08000041#32 ||| put d 21 ||| put a 15 ||| put b 9, some l)
  | .cmpLt d a b l => some (0x08000042#32 ||| put d 21 ||| put a 15 ||| put b 9, some l)
  | .cmpGe d a b l => some (0x08000043#32 ||| put d 21 ||| put a 15 ||| put b 9, some l)
  | .cmpLtn d a b l => some (0x08000044#32 ||| put d 21 ||| put a 15 ||| put b 9, some l)
  | .cmpGen d a b l => some (0x08000045#32 ||| put d 21 ||| put a 15 ||| put b 9, some l)
  | .cmpTst d a b l => some (0x08000046#32 ||| put d 21 ||| put a 15 ||| put b 9, some l)
  | .addi d a i l => some (0x10000000#32 ||| put d 21 ||| put a 15 ||| put i 0, l)
  | .andi d a i l => some (0x10000800#32 ||| put d 21 ||| put a 15 ||| put i 0, l)
  | .ori d a i l => some (0x10001000#32 ||| put d 21 ||| put a 15 ||| put i 0, l)
  | .xori d a i l => some (0x10001800#32 ||| put d 21 ||| put a 15 ||| put i 0, l)
  | .shli d a i l => some (0x10002000#32 ||| put d 21 ||| put a 15 ||| put i 0, l)
  | .shri d a i l => some (0x10002800#32 ||| put d 21 ||| put a 15 ||| put i 0, l)
  | .srai d a i l => some (0x10003000#32 ||| put d 21 ||| put a 15 ||| put i 0, l)
  | .muli d a i l => some (0x10003800#32 ||| put d 21 ||| put a 15 ||| put i 0, l)
  | .cmpiEq d a i l => some (0x10004000#32 ||| put d 21 ||| put a 15 ||| put i 0, l)
  | .cmpiNe d a i l => some (0x10004800#32 ||| put d 21 ||| put a 15 ||| put i 0, l)
  | .cmpiLt d a i l => some (0x10005000#32 ||| put d 21 ||| put a 15 ||| put i 0, l)
  | .cmpiLtn d a i l => some (0x10005800#32 ||| put d 21 ||| put a 15 ||| put i 0, l)
  | .li d i l => some (0x18000000#32 ||| put d 21 ||| put i 0, l)
  | .lic d i l => some (0x18100000#32 ||| put d 21 ||| put i 0, l)
  | .fadd d a b t l => some (0x20000000#32 ||| put d 21 ||| put a 15 ||| put b 9 ||| put t 0, some l)
  | .fsub d a b t l => some (0x20000010#32 ||| put d 21 ||| put a 15 ||| put b 9 ||| put t 0, some l)
  | .fmul d a b t l => some (0x20000020#32 ||| put d 21 ||| put a 15 ||| put b 9 ||| put t 0, some l)
  | .fma d a b t l => some (0x20000030#32 ||| put d 21 ||| put a 15 ||| put b 9 ||| put t 0, some l)
  | .fdiv d a b t l => some (0x20000040#32 ||| put d 21 ||| put a 15 ||| put b 9 ||| put t 0, some l)
  | .fsqrt d a t l => some (0x20000050#32 ||| put d 21 ||| put a 15 ||| put t 0, some l)
  | .fmin d a b t l => some (0x20000060#32 ||| put d 21 ||| put a 15 ||| put b 9 ||| put t 0, some l)
  | .fmax d a b t l => some (0x20000070#32 ||| put d 21 ||| put a 15 ||| put b 9 ||| put t 0, some l)
  | .fabs d a t l => some (0x20000080#32 ||| put d 21 ||| put a 15 ||| put t 0, some l)
  | .fneg d a t l => some (0x20000090#32 ||| put d 21 ||| put a 15 ||| put t 0, some l)
  | .fcmpEq d a b t l => some (0x200000A0#32 ||| put d 21 ||| put a 15 ||| put b 9 ||| put t 0, some l)
  | .fclass d a t l => some (0x200000B0#32 ||| put d 21 ||| put a 15 ||| put t 0, some l)
  | .fcvt d a u t l => some (0x200000C0#32 ||| put d 21 ||| put a 15 ||| put u 9 ||| put t 0, some l)
  | .fcvti d a m t l => some (0x200000D0#32 ||| put d 21 ||| put a 15 ||| put m 9 ||| put t 0, some l)
  | .fcvtf d a t l => some (0x200000E0#32 ||| put d 21 ||| put a 15 ||| put t 0, some l)
  | .fcmpLt d a b t l => some (0x200000F0#32 ||| put d 21 ||| put a 15 ||| put b 9 ||| put t 0, some l)
  | .fcmpLe d a b t l => some (0x20000100#32 ||| put d 21 ||| put a 15 ||| put b 9 ||| put t 0, some l)
  | .fcmpUn d a b t l => some (0x20000110#32 ||| put d 21 ||| put a 15 ||| put b 9 ||| put t 0, some l)
  | .br o => some (0x28000000#32 ||| put o 0, none)
  | .brc p n o => some (0x28000000#32 ||| put p 24 ||| putBit n 23 ||| put o 0, none)
  | .nop => some (0x30000000#32, none)
  | .call t l => some (0x30200000#32 ||| put t 0, some l)
  | .ret l => some (0x30400000#32, some l)
  | .jr a l => some (0x30600000#32 ||| put a 15, some l)
  | .loop a e => some (0x30800000#32 ||| put a 15 ||| put e 0, none)
  | .safe m => some (0x30A00000#32 ||| put m 0, none)
  | .yield m => some (0x30C00000#32 ||| put m 0, none)
  | .endTask l => some (0x30E00000#32, some l)
  | .post a y x k l => some (0x31000000#32 ||| put a 15 ||| put y 8 ||| put x 2 ||| put k 0, some l)
  | .gbar s l => some (0x31200000#32 ||| put s 0, some l)
  | .wait c l => some (0x31400000#32 ||| put c 0, some l)
  | .trap c l => some (0x31600000#32 ||| put c 0, some l)
  | .brk c l => some (0x31800000#32 ||| put c 0, some l)
  | .chk a o => some (0x31A00000#32 ||| put a 15 ||| put o 0, none)
  | .chkv v o => some (0x31C00000#32 ||| put v 15 ||| put o 0, none)
  | .ldImm r h s i l => some (0x38000000#32 ||| put r 21 ||| put h 17 ||| put s 15 ||| put i 0, l)
  | .ldIndexed r h s x i l => some (0x38001000#32 ||| put r 21 ||| put h 17 ||| put s 15 ||| put x 6 ||| put i 0, some l)
  | .ldxImm r h s i l => some (0x38002000#32 ||| put r 21 ||| put h 17 ||| put s 15 ||| put i 0, l)
  | .ldxIndexed r h s x i l => some (0x38003000#32 ||| put r 21 ||| put h 17 ||| put s 15 ||| put x 6 ||| put i 0, some l)
  | .stImm r h s i l => some (0x38004000#32 ||| put r 21 ||| put h 17 ||| put s 15 ||| put i 0, l)
  | .stIndexed r h s x i l => some (0x38005000#32 ||| put r 21 ||| put h 17 ||| put s 15 ||| put x 6 ||| put i 0, some l)
  | .ldSImm r h s i l => some (0x38006000#32 ||| put r 21 ||| put h 17 ||| put s 15 ||| put i 0, l)
  | .ldSIndexed r h s x i l => some (0x38007000#32 ||| put r 21 ||| put h 17 ||| put s 15 ||| put x 6 ||| put i 0, some l)
  | .amoAdd d h b c z o l => some (0x40000000#32 ||| put d 21 ||| put h 17 ||| put b 11 ||| put c 4 ||| put z 2 ||| put o 0, some l)
  | .amoAnd d h b c z o l => some (0x40000040#32 ||| put d 21 ||| put h 17 ||| put b 11 ||| put c 4 ||| put z 2 ||| put o 0, some l)
  | .amoOr d h b c z o l => some (0x40000080#32 ||| put d 21 ||| put h 17 ||| put b 11 ||| put c 4 ||| put z 2 ||| put o 0, some l)
  | .amoXor d h b c z o l => some (0x400000C0#32 ||| put d 21 ||| put h 17 ||| put b 11 ||| put c 4 ||| put z 2 ||| put o 0, some l)
  | .amoMin d h b c z o l => some (0x40000100#32 ||| put d 21 ||| put h 17 ||| put b 11 ||| put c 4 ||| put z 2 ||| put o 0, some l)
  | .amoMax d h b c z o l => some (0x40000140#32 ||| put d 21 ||| put h 17 ||| put b 11 ||| put c 4 ||| put z 2 ||| put o 0, some l)
  | .amoMinn d h b c z o l => some (0x40000180#32 ||| put d 21 ||| put h 17 ||| put b 11 ||| put c 4 ||| put z 2 ||| put o 0, some l)
  | .amoMaxn d h b c z o l => some (0x400001C0#32 ||| put d 21 ||| put h 17 ||| put b 11 ||| put c 4 ||| put z 2 ||| put o 0, some l)
  | .amoSwap d h b c z o l => some (0x40000200#32 ||| put d 21 ||| put h 17 ||| put b 11 ||| put c 4 ||| put z 2 ||| put o 0, some l)
  | .amoCas d h b c z o l => some (0x40000240#32 ||| put d 21 ||| put h 17 ||| put b 11 ||| put c 4 ||| put z 2 ||| put o 0, some l)
  | .amoFadd d h b c z o l => some (0x40000280#32 ||| put d 21 ||| put h 17 ||| put b 11 ||| put c 4 ||| put z 2 ||| put o 0, some l)
  | .amoAddsr d h b c o l => some (0x400002C8#32 ||| put d 21 ||| put h 17 ||| put b 11 ||| put c 4 ||| put o 0, some l)
  | .fence c o => some (0x40000400#32 ||| put c 4 ||| put o 0, none)
  | .fenceE => some (0x40000440#32, none)
  | .probe d h b p => some (0x40000480#32 ||| put d 21 ||| put h 17 ||| put b 11 ||| put p 2, none)
  | .xlat d h b p => some (0x400004C0#32 ||| put d 21 ||| put h 17 ||| put b 11 ||| put p 2, none)
  | .hinv h => some (0x40000500#32 ||| put h 17, none)
  | .hinfo d h b => some (0x40000540#32 ||| put d 21 ||| put h 17 ||| put b 11, none)
  | .mfsr r s l => some (0x48000000#32 ||| put r 21 ||| put s 8, some l)
  | .mtsr r s l => some (0x48100000#32 ||| put r 21 ||| put s 8, some l)
  | .ldcImm r c z i l => some (0x50000000#32 ||| put r 21 ||| put c 15 ||| put z 13 ||| put i 0, l)
  | .ldcIndexed r c z x i l => some (0x50000400#32 ||| put r 21 ||| put c 15 ||| put z 13 ||| put x 4 ||| put i 0, some l)
  | .ldcxImm r c z i l => some (0x50000800#32 ||| put r 21 ||| put c 15 ||| put z 13 ||| put i 0, l)
  | .ldcxIndexed r c z x i l => some (0x50000C00#32 ||| put r 21 ||| put c 15 ||| put z 13 ||| put x 4 ||| put i 0, some l)
  | .stcImm r c z i l => some (0x50001000#32 ||| put r 21 ||| put c 15 ||| put z 13 ||| put i 0, l)
  | .stcIndexed r c z x i l => some (0x50001400#32 ||| put r 21 ||| put c 15 ||| put z 13 ||| put x 4 ||| put i 0, some l)
  | .vadd w d a b t l => some (0x60000000#32 ||| put w 25 ||| put d 19 ||| put a 13 ||| put b 7 ||| put t 0, some l)
  | .vsub w d a b t l => some (0x60000008#32 ||| put w 25 ||| put d 19 ||| put a 13 ||| put b 7 ||| put t 0, some l)
  | .vmul w d a b t l => some (0x60000010#32 ||| put w 25 ||| put d 19 ||| put a 13 ||| put b 7 ||| put t 0, some l)
  | .vmulh w d a b t l => some (0x60000018#32 ||| put w 25 ||| put d 19 ||| put a 13 ||| put b 7 ||| put t 0, some l)
  | .vmin w d a b t l => some (0x60000020#32 ||| put w 25 ||| put d 19 ||| put a 13 ||| put b 7 ||| put t 0, some l)
  | .vmax w d a b t l => some (0x60000028#32 ||| put w 25 ||| put d 19 ||| put a 13 ||| put b 7 ||| put t 0, some l)
  | .vand w d a b t l => some (0x60000030#32 ||| put w 25 ||| put d 19 ||| put a 13 ||| put b 7 ||| put t 0, some l)
  | .vor w d a b t l => some (0x60000038#32 ||| put w 25 ||| put d 19 ||| put a 13 ||| put b 7 ||| put t 0, some l)
  | .vxor w d a b t l => some (0x60000040#32 ||| put w 25 ||| put d 19 ||| put a 13 ||| put b 7 ||| put t 0, some l)
  | .vshl w d a b t l => some (0x60000048#32 ||| put w 25 ||| put d 19 ||| put a 13 ||| put b 7 ||| put t 0, some l)
  | .vshr w d a b t l => some (0x60000050#32 ||| put w 25 ||| put d 19 ||| put a 13 ||| put b 7 ||| put t 0, some l)
  | .vabs w d a t l => some (0x60000058#32 ||| put w 25 ||| put d 19 ||| put a 13 ||| put t 0, some l)
  | .vadds w d a b t l => some (0x60000060#32 ||| put w 25 ||| put d 19 ||| put a 13 ||| put b 7 ||| put t 0, some l)
  | .vsubs w d a b t l => some (0x60000068#32 ||| put w 25 ||| put d 19 ||| put a 13 ||| put b 7 ||| put t 0, some l)
  | .vcmp w d a b t l => some (0x60000070#32 ||| put w 25 ||| put d 19 ||| put a 13 ||| put b 7 ||| put t 0, some l)
  | .vdot4 w d a b t l => some (0x60000078#32 ||| put w 25 ||| put d 19 ||| put a 13 ||| put b 7 ||| put t 0, some l)
  | .vfadd w d a b t l => some (0x68000000#32 ||| put w 25 ||| put d 19 ||| put a 13 ||| put b 7 ||| put t 0, some l)
  | .vfsub w d a b t l => some (0x68000008#32 ||| put w 25 ||| put d 19 ||| put a 13 ||| put b 7 ||| put t 0, some l)
  | .vfmul w d a b t l => some (0x68000010#32 ||| put w 25 ||| put d 19 ||| put a 13 ||| put b 7 ||| put t 0, some l)
  | .vfma w d a b t l => some (0x68000018#32 ||| put w 25 ||| put d 19 ||| put a 13 ||| put b 7 ||| put t 0, some l)
  | .vfnma w d a b t l => some (0x68000020#32 ||| put w 25 ||| put d 19 ||| put a 13 ||| put b 7 ||| put t 0, some l)
  | .vfmin w d a b t l => some (0x68000028#32 ||| put w 25 ||| put d 19 ||| put a 13 ||| put b 7 ||| put t 0, some l)
  | .vfmax w d a b t l => some (0x68000030#32 ||| put w 25 ||| put d 19 ||| put a 13 ||| put b 7 ||| put t 0, some l)
  | .vfabs w d a t l => some (0x68000038#32 ||| put w 25 ||| put d 19 ||| put a 13 ||| put t 0, some l)
  | .vfneg w d a t l => some (0x68000040#32 ||| put w 25 ||| put d 19 ||| put a 13 ||| put t 0, some l)
  | .vfcmp w d a b t l => some (0x68000048#32 ||| put w 25 ||| put d 19 ||| put a 13 ||| put b 7 ||| put t 0, some l)
  | .vfclass w d a t l => some (0x68000050#32 ||| put w 25 ||| put d 19 ||| put a 13 ||| put t 0, some l)
  | .vfscl w d a b t l => some (0x68000058#32 ||| put w 25 ||| put d 19 ||| put a 13 ||| put b 7 ||| put t 0, some l)
  | .vfsel w d a b t l => some (0x68000060#32 ||| put w 25 ||| put d 19 ||| put a 13 ||| put b 7 ||| put t 0, some l)
  | .vcvt w d a f s m l => some (0x70000000#32 ||| put w 25 ||| put d 19 ||| put a 13 ||| put f 8 ||| putBit s 7 ||| put m 4, some l)
  | .vqnt w d a f s m l => some (0x70000001#32 ||| put w 25 ||| put d 19 ||| put a 13 ||| put f 8 ||| putBit s 7 ||| put m 4, some l)
  | .vdeq w d a f s m l => some (0x70000002#32 ||| put w 25 ||| put d 19 ||| put a 13 ||| put f 8 ||| putBit s 7 ||| put m 4, some l)
  | .vbq w d a f s m l => some (0x70000003#32 ||| put w 25 ||| put d 19 ||| put a 13 ||| put f 8 ||| putBit s 7 ||| put m 4, some l)
  | .vbdq w d a f s m l => some (0x70000004#32 ||| put w 25 ||| put d 19 ||| put a 13 ||| put f 8 ||| putBit s 7 ||| put m 4, some l)
  | .vrng w d l => some (0x70000005#32 ||| put w 25 ||| put d 19, some l)
  | .vrecip w d a t l => some (0x78000000#32 ||| put w 25 ||| put d 19 ||| put a 13 ||| put t 0, some l)
  | .vrsqrt w d a t l => some (0x78000008#32 ||| put w 25 ||| put d 19 ||| put a 13 ||| put t 0, some l)
  | .vsqrt w d a t l => some (0x78000010#32 ||| put w 25 ||| put d 19 ||| put a 13 ||| put t 0, some l)
  | .vdiv w d a b t l => some (0x78000018#32 ||| put w 25 ||| put d 19 ||| put a 13 ||| put b 7 ||| put t 0, some l)
  | .vexp2 w d a t l => some (0x78000020#32 ||| put w 25 ||| put d 19 ||| put a 13 ||| put t 0, some l)
  | .vlog2 w d a t l => some (0x78000028#32 ||| put w 25 ||| put d 19 ||| put a 13 ||| put t 0, some l)
  | .vexp w d a t l => some (0x78000030#32 ||| put w 25 ||| put d 19 ||| put a 13 ||| put t 0, some l)
  | .vmov w d a t l => some (0x80000000#32 ||| put w 25 ||| put d 19 ||| put a 13 ||| put t 0, some l)
  | .vbcst w d a t l => some (0x80000008#32 ||| put w 25 ||| put d 19 ||| put a 13 ||| put t 0, some l)
  | .vli w d t l => some (0x80000010#32 ||| put w 25 ||| put d 19 ||| put t 0, some l)
  | .vperm w d a b t l => some (0x80000018#32 ||| put w 25 ||| put d 19 ||| put a 13 ||| put b 7 ||| put t 0, some l)
  | .vshuf w d a p t l => some (0x80000020#32 ||| put w 25 ||| put d 19 ||| put a 13 ||| put p 7 ||| put t 0, some l)
  | .vrot w d a c t l => some (0x80000028#32 ||| put w 25 ||| put d 19 ||| put a 13 ||| put c 7 ||| put t 0, some l)
  | .vred w d a t l => some (0x80000030#32 ||| put w 25 ||| put d 19 ||| put a 13 ||| put t 0, some l)
  | .vmsk w d a b l => some (0x80000038#32 ||| put w 25 ||| put d 19 ||| put a 13 ||| put b 7, some l)
  | .vxtr w a n t => some (0x80000040#32 ||| put w 25 ||| put a 13 ||| put n 7 ||| put t 0, none)
  | .vins w d a n t => some (0x80000048#32 ||| put w 25 ||| put d 19 ||| put a 13 ||| put n 7 ||| put t 0, none)
  | .vbitx w d a => some (0x80000050#32 ||| put w 25 ||| put d 19 ||| put a 13, none)
  | .vcmpr w d a t l => some (0x80000058#32 ||| put w 25 ||| put d 19 ||| put a 13 ||| put t 0, some l)
  | .vexpd w d a t l => some (0x80000060#32 ||| put w 25 ||| put d 19 ||| put a 13 ||| put t 0, some l)
  | .vld w v c x i l => some (0x88000000#32 ||| put w 25 ||| put v 19 ||| put c 13 ||| put x 7 ||| put i 0, l)
  | .vst w v c x i l => some (0x88000010#32 ||| put w 25 ||| put v 19 ||| put c 13 ||| put x 7 ||| put i 0, l)
  | .vgat w v c x i l => some (0x88000020#32 ||| put w 25 ||| put v 19 ||| put c 13 ||| put x 7 ||| put i 0, some l)
  | .vsct w v c x i l => some (0x88000030#32 ||| put w 25 ||| put v 19 ||| put c 13 ||| put x 7 ||| put i 0, some l)
  | .vldg w v h x i l => some (0x88000040#32 ||| put w 25 ||| put v 19 ||| put h 13 ||| put x 7 ||| put i 0, l)
  | .vstg w v h x i l => some (0x88000050#32 ||| put w 25 ||| put v 19 ||| put h 13 ||| put x 7 ||| put i 0, l)
  | .vldS w v h x i l => some (0x88000060#32 ||| put w 25 ||| put v 19 ||| put h 13 ||| put x 7 ||| put i 0, l)
  | .vqadd q r v f l => some (0x90000000#32 ||| put q 26 ||| put r 20 ||| put v 14 ||| put f 9, some l)
  | .vqr q r v f m l => some (0x90000008#32 ||| put q 26 ||| put r 20 ||| put v 14 ||| put f 9 ||| put m 6, some l)
  | .vqz q r l => some (0x90000010#32 ||| put q 26 ||| put r 20, some l)
  | .mma q a b f z t => some (0xA0000000#32 ||| put q 26 ||| put a 22 ||| put b 18 ||| put f 9 ||| putBit z 5 ||| putBit t 4, none)
  | .mmn q a b f z t => some (0xA0000040#32 ||| put q 26 ||| put a 22 ||| put b 18 ||| put f 9 ||| putBit z 5 ||| putBit t 4, none)
  | .mmx q a b f z t => some (0xA0000080#32 ||| put q 26 ||| put a 22 ||| put b 18 ||| put f 9 ||| putBit z 5 ||| putBit t 4, none)
  | .mms q a b c f z t => some (0xA00000C0#32 ||| put q 26 ||| put a 22 ||| put b 18 ||| put c 14 ||| put f 9 ||| putBit z 5 ||| putBit t 4, none)
  | .mmz q a s f z => some (0xA0000100#32 ||| put q 26 ||| put a 22 ||| put s 14 ||| put f 9 ||| putBit z 5, none)
  | .qzero q => some (0xA8000000#32 ||| put q 26, none)
  | .qrnd q t f m s => some (0xA8000400#32 ||| put q 26 ||| put t 22 ||| put f 17 ||| put m 14 ||| putBit s 13, none)
  | .qst q c l => some (0xA8000800#32 ||| put q 26 ||| put c 0, some l)
  | .qld q c l => some (0xA8000C00#32 ||| put q 26 ||| put c 0, some l)
  | .qmsk q t => some (0xA8001000#32 ||| put q 26 ||| put t 22, none)
  | .qadd q => some (0xA8001400#32 ||| put q 26, none)
  | .qscl q e => some (0xA8001800#32 ||| put q 26 ||| put e 0, none)
  | .qtl q t f => some (0xA8001C00#32 ||| put q 26 ||| put t 22 ||| put f 17, none)
  | .tld d c i l => some (0xB0000000#32 ||| put d 22 ||| put c 12 ||| put i 0, l)
  | .tst a c i l => some (0xB0000200#32 ||| put a 18 ||| put c 12 ||| put i 0, l)
  | .tmov d a => some (0xB0000400#32 ||| put d 22 ||| put a 18, none)
  | .ttr d a => some (0xB0000600#32 ||| put d 22 ||| put a 18, none)
  | .tcvt d a s m => some (0xB0000800#32 ||| put d 22 ||| put a 18 ||| putBit s 3 ||| put m 0, none)
  | .tzero d => some (0xB0000A00#32 ||| put d 22, none)
  | .msl h a b r f => some (0xB8000000#32 ||| put h 21 ||| put a 16 ||| put b 12 ||| put r 5 ||| put f 0, none)
  | .rstat d q f s => some (0xB8000200#32 ||| put d 21 ||| put q 20 ||| put f 4 ||| put s 0, none)
  | .cpG2c c h o n t l => some (0xC8000000#32 ||| put c 21 ||| put h 17 ||| put o 11 ||| put n 5 ||| putBit t 0, some l)
  | .cpC2g c h o n k => some (0xC8000004#32 ||| put c 21 ||| put h 17 ||| put o 11 ||| put n 5 ||| putBit k 1, none)
  | .cpGat c h o n t l => some (0xC8000008#32 ||| put c 21 ||| put h 17 ||| put o 11 ||| put n 5 ||| putBit t 0, some l)
  | .cpSct c h o n => some (0xC800000C#32 ||| put c 21 ||| put h 17 ||| put o 11 ||| put n 5, none)
  | .cpBmg c h o n t l => some (0xC8000010#32 ||| put c 21 ||| put h 17 ||| put o 11 ||| put n 5 ||| putBit t 0, some l)
  | .cpG2g h o n l => some (0xC8000014#32 ||| put h 17 ||| put o 11 ||| put n 5, some l)
  | .cpOvl r h o => some (0xC8000018#32 ||| put r 21 ||| put h 17 ||| put o 11, none)
  | .cpC2r c a b => some (0xD0000000#32 ||| put c 21 ||| put a 15 ||| put b 9, none)
  | .cellArm c a b => some (0xD0000040#32 ||| put c 21 ||| put a 15 ||| put b 9, none)
  | .cellSeal c t l => some (0xD0000080#32 ||| put c 21 ||| put t 0, some l)
  | .cellFree c => some (0xD00000C0#32 ||| put c 21, none)
  | .cellExpect c a => some (0xD0000100#32 ||| put c 21 ||| put a 15, none)
  | .cellOpen c a => some (0xD0000140#32 ||| put c 21 ||| put a 15, none)
  | .decTab c s => some (0xD8000000#32 ||| put c 21 ||| put s 15, none)
  | .decOpen c t s i l => some (0xD8001000#32 ||| put c 21 ||| put t 17 ||| put s 15 ||| put i 0, some l)
  | .decSeek s k => some (0xD8002000#32 ||| put s 15 ||| put k 0, none)
  | .decSave c s o => some (0xD8003000#32 ||| put c 21 ||| put s 15 ||| put o 0, none)
  | .decLoad c s o => some (0xD8004000#32 ||| put c 21 ||| put s 15 ||| put o 0, none)
  | .osend c a b k => some (0xE0000000#32 ||| put c 21 ||| put a 15 ||| put b 9 ||| putBit k 0, none)
  | .collMx c a b e => some (0xE0000040#32 ||| put c 21 ||| put a 15 ||| put b 9 ||| put e 0, none)
  | .collBs c a b e => some (0xE0000080#32 ||| put c 21 ||| put a 15 ||| put b 9 ||| put e 0, none)
  | .collBc c a b => some (0xE00000C0#32 ||| put c 21 ||| put a 15 ||| put b 9, none)
  | .collAg c a b => some (0xE0000100#32 ||| put c 21 ||| put a 15 ||| put b 9, none)
  | .bundleIssue _ => none
  | .resultLanding _ => none
  | .busyStateEnd _ => none
  | .matrixStep _ => none
  | .globalLoadReturn _ _ _ => none
  | .atomicReturn _ _ _ => none
  | .memoryAccessPerformed _ _ => none
  | .amoPerformed _ _ => none
  | .apertureFaultReport _ _ => none
  | .postedWriteAck _ _ => none
  | .migrationStart _ => none
  | .migrationRetire _ => none
  | .migrationLineCopy _ => none
  | .migrationHoldTimeout _ _ => none
  | .tlbRevoke _ _ => none
  | .tlbRefresh _ _ => none
  | .tlbiComplete _ => none
  | .apcfgWrite _ _ => none
  | .translationWalkDone _ => none
  | .remoteWriteInjection _ _ => none
  | .remoteWriteHeaderArrival _ => none
  | .remoteWriteAccept _ => none
  | .remoteWriteAckArrival _ => none
  | .engineCommandBegin _ _ => none
  | .engineRequestSend _ _ => none
  | .engineResponseArrival _ _ _ _ => none
  | .engineCommandComplete _ _ => none
  | .cellCommandTakesEffect _ _ => none
  | .engineFault _ _ _ _ => none
  | .stopRecordWrite _ => none
  | .automaticResume _ => none
  | .boundCommandDelivery _ => none
  | .loadSegment _ _ => none
  | .decodeRound _ _ => none
  | .collectiveCombine _ _ _ => none
  | .schedulerDecision _ => none
  | .requestLapse _ => none
  | .taskStart _ => none
  | .ringFetch _ _ => none
  | .graphInstanceComplete _ _ => none
  | .doorbell _ _ _ => none
  | .ringReset _ _ _ => none
  | .cqcfgWrite _ _ _ => none
  | .retirement _ => none
  | .completionRecordWrite _ _ => none
  | .contextSave _ => none
  | .contextRestore _ => none
  | .barrierArrival _ _ => none
  | .releaseArrival _ => none
  | .grpWrite _ _ _ => none
  | .eventCounterWrite _ _ _ => none
  | .stopcmdResume _ => none
  | .stopcmdEnd _ _ => none
  | .watchdogExpiry _ _ => none
  | .drainDeadline _ => none
  | .partitionReset _ => none
  | .wdclrGo _ => none
  | .pcfgWrite _ _ => none
  | .pmemWrite _ _ _ => none
  | .plimWrite _ _ _ => none
  | .frapplyGo _ => none
  | .qownWrite _ => none
  | .portTraining _ _ _ => none
  | .timeExchange _ _ => none
  | .watermarkSend _ => none
  | .watermarkReceive _ _ => none
  | .wagglePacketArrival _ _ => none
  | .injectorAccept _ => none
  | .waggleDelivery _ => none
  | .mailboxRecordComplete _ => none
  | .deliveryStall _ => none
  | .wclrGo _ => none
  | .flitForward _ _ => none
  | .remoteRequestArrival _ _ => none
  | .ppctlWrite _ _ => none
  | .imageLoad _ => none
  | .imageUnload _ _ => none
  | .hbmRowRepair _ => none
  | .hbmBankRepair _ => none
  | .ucieLaneRepair _ => none
  | .podLaneRepair _ => none
  | .superTierRemap _ => none
  | .packageReset => none
  | .powerOnBoot _ => none
  | .recoveryImage _ _ => none
  | .spdmRequest _ => none
  | .pwrlimWrite _ => none
  | .dutyBoundary _ => none
  | .clkselWrite _ => none
  | .thermalWarning _ => none
  | .thermalTrip => none
  | .powerLoss => none
  | .hostMemoryAccess _ _ => none
  | .mbbaseWrite _ _ => none
  | .mbcfgWrite _ _ => none
  | .mbrptrWrite _ _ => none
  | .registerWrite _ _ => none
  | .preemptionRequestArrival _ => none
  | .podPortLinkLoss _ => none
  | .tdispRequest _ _ => none

/-- The instruction that the decoder reads from a syllable numbered as the opcode table numbers it, with no header: a
Kekor syllable has 32 bits, so a longer or shorter word is none. -/
def decodeTableWord (nbits w : Nat) : Option Instr :=
  if nbits = 32 ∧ w < 2 ^ 32 then (decode (BitVec.ofNat 32 w) none).toOption else none

end Sys2Proof
end

