-- ==== Sys2Proof/Machine/Commands.lean ====
section
/-!
DEFINITION. Starting a command (R302): which engine it reaches (R301, R383), the operands it carries, the issue state of a
cell (R231), and the transition that the command makes in its cell (R230).
-/

namespace Sys2Proof.Machine

/-! ## What a command does to a cell -/

/-- The cell that a command fills (R230, R403). -/
def fillCell (k : Command) : Option Nat :=
  match k.kind with
  | .g2c => some k.cell
  | .gat => some k.cell
  | .bmg => some k.cell
  | .collMx => some k.other
  | _ => none

/-- The cell that a command copies out (R230, R401). -/
def copyOutCell (k : Command) : Option Nat :=
  match k.kind with
  | .c2g => some k.cell
  | .sct => some k.cell
  | .c2r => some k.cell
  | .osend => some k.cell
  | _ => none

/-- The cell of a cell command (R292). -/
def commandCell (k : Command) : Option Nat :=
  match k.kind with
  | .cellArm => some k.cell
  | .cellSeal => some k.cell
  | .cellFree => some k.cell
  | .cellExpect => some k.cell
  | .cellOpen => some k.cell
  | _ => none

/-- The cell whose state a command changes, if any. -/
def stateCell (k : Command) : Option Nat := ((fillCell k).or (copyOutCell k)).or (commandCell k)

/-- R230: a cell that becomes FULL takes a tag, and its check becomes pending. -/
def fullCell (c : Cell) (tag : BitVec 16) : Cell := { c with state := .full, tag := tag, ckp := true, sealed := false }

/-- R230: the transition of a cell when a command on it issues, or takes effect. -/
def startOn (k : Command) (c : Cell) : Cell :=
  match k.kind with
  | .cellArm => { Cell.reset with base := k.op1.toNat, size := k.op2.toNat, state := .empty }
  | .cellSeal =>
    if c.state = .empty then fullCell c k.tag
    else if c.state = .fillingLocal then { c with sealed := true, sealTag := k.tag } else c
  | .cellFree => Cell.reset
  | .cellExpect => { c with etag := k.tag, ckp := c.ckp || c.state == .full || c.state == .draining }
  | .cellOpen => { c with state := .fillingRemote, filler := k.target }
  | _ =>
    if (fillCell k).isSome then
      { c with state := .fillingLocal, sealed := k.sealing, sealTag := if k.sealing then k.tag else c.sealTag }
    else if (copyOutCell k).isSome then (if k.keep then c else { c with state := .draining })
    else c

/-- R230: what becomes of a cell once every fill and every copy-out on it is done. -/
def finishOn (c : Cell) : Cell :=
  if c.state = .fillingLocal && c.sealed then fullCell c c.sealTag
  else if c.state = .draining then { c with state := .empty }
  else c

/-- The outstanding commands of a core that change the state of cell `n`, in order of issue. -/
def commandsOn (c : Core) (n : Nat) : List Command := (outstanding c).filter fun k => stateCell k == some n

/-- R231: the issue state of a cell, the state it will hold once every command already issued on it has taken effect. -/
def issueCell (c : Core) (n : Nat) : Cell :=
  (commandsOn c n).foldl (fun x k => finishOn (if k.applied then x else startOn k x))
    (if (commandsOn c n).isEmpty then cellOf c n else finishOn (cellOf c n))

/-- R230: the cells of a core once fills and copy-outs that are done have had their effect. -/
def settleCells (c : Core) : Core :=
  { c with cells := Vector.ofFn fun (i : Fin 64) =>
      let x := cellOf c i.val
      let busy := fun (f : Command → Option Nat) => (outstanding c).any fun k => k.applied && f k == some i.val
      if x.state = .fillingLocal && busy fillCell then x
      else if x.state = .draining && busy copyOutCell then x
      else finishOn x }

/-- R230, R292: whether a fill or a copy-out may make its transition now: every earlier command on the cell has made its own
and is of the same kind. -/
def mayApply (c : Core) (k : Command) : Bool :=
  (outstanding c).all fun j => !(j.serial < k.serial && stateCell j == stateCell k && (stateCell k).isSome) ||
    (j.applied && (((fillCell j).isSome && (fillCell k).isSome) || ((copyOutCell j).isSome && (copyOutCell k).isSome)))

/-- Change a command wherever it stands. -/
def onCommand (serial : Nat) (f : Command → Command) (c : Core) : Core :=
  let g := fun (k : Command) => if k.serial = serial then f k else k
  { c with c0 := c.c0.map g, c1 := c.c1.map g, dq := c.dq.map g
           bound := c.bound.map fun b => { b with cmd := g b.cmd } }

/-- Remove a command from its queue; a bound one returns its credit (R304, R384). -/
def dropCommand (serial : Nat) (c : Core) : Core :=
  let keep := fun (k : Command) => k.serial != serial
  let gone := c.bound.filter fun b => !keep b.cmd
  { c with c0 := c.c0.filter keep, c1 := c.c1.filter keep, dq := c.dq.filter keep
           bound := c.bound.filter fun b => keep b.cmd
           credits := gone.foldl (fun v b =>
             let i := b.frame + 16 * (b.kind - 1)
             vset v i (vget v i 0 + 1)) c.credits }

/-- A command makes its transition in its cell. -/
def applyCommand (k : Command) (c : Core) : Core :=
  match stateCell k with
  | none => c
  | some n =>
    onCommand k.serial (fun j => { j with applied := true }) { c with cells := vset c.cells n (startOn k (cellOf c n)) }

/-! ## Engines -/

/-- R383: the KIND and the FRAME that bind a copy position; a compute core has none bound. -/
def boundKind (s : State) : Nat :=
  if s.here = queenCore then ((if s.issue.copies = 0 then s.before.bind0 else s.before.bind1).extractLsb' 4 2).toNat else 0
def boundFrame (s : State) : Nat :=
  ((if s.issue.copies = 0 then s.before.bind0 else s.before.bind1).extractLsb' 0 4).toNat

/-- R383: package cycles from the issue of a bound command to its delivery. -/
def deliveryDelay (s : State) : Nat :=
  max (if s.issue.copies = 0 then s.before.skew0 else s.before.skew1).toNat (treeLatency (boundFrame s))

/-- The KINDs that accept a form, beside 0 (R383). -/
inductive Binds where
  | own | collective | edgeCopy
deriving DecidableEq, Repr

/-- R383: whether a KIND accepts a form. -/
def Binds.accepts (b : Binds) (kind : Nat) : Bool :=
  kind == 0 || (kind == 1 && b == .collective) || (kind == 2 && b == .edgeCopy)

/-- R326, R383: the shape of every copy-class form: the binding first, then illegal operands, then the form's own checks. -/
def copyForm (binds : Binds) (legal : Bool) (body : State → State) (s : State) : State :=
  let kind := boundKind s
  if !binds.accepts kind then raiseFault codeIllegalSyllable 0 s
  else unguarded (legal && (kind == 0 || frameIn s.pkg (taskPart s.before) (boundFrame s))) body s

/-- A command as it starts, with what every command reads (R302). -/
def newCommand (kind : CmdKind) (i : Instr) (s : State) : Command :=
  { serial := freshId s, kind := kind, syl := ((encode i).map (·.1)).getD 0
    lend := ((encode i).bind (·.2)).getD 0, pc := s.before.pc, pos := s.issue.copies
    cell := 0, other := 0, op1 := 0, op2 := 0, op3 := 0, str0 := s.before.cstride0, str1 := s.before.cstride1
    cidx := s.before.cidx, src := Handle.reset, dst := Handle.reset, runs := s.before.tlb, tag := 0, keep := false
    sealing := false, slot := 0, stream := 0, imm := 0, target := 0, parts := [], rank := 0, root := 0, count := 0
    ident := 0, limit := 0, begun := false, applied := false, sent := 0, pending := [], redo := [], done := 0, ends := 0, items := [], acks := [], carried := false
    readDone := false, writeDone := false }

/-- R301, R302: a command takes an entry in its engine's queue, or its bundle waits until the oldest command of that queue is
complete; `decode` says that it goes to the decode engine. -/
def takeEntry (decode : Bool) (k : Command) (s : State) : State :=
  let queue := if decode then s.core.dq else if s.issue.copies = 0 then s.core.c0 else s.core.c1
  if (if decode then 8 else 16) ≤ queue.length then
    (noteWait .event s).onIssue fun i => { i with hold := i.hold ++ (queue.head?.toList.map fun j => .entry j.serial) }
  else s.onCore fun c =>
    if decode then { c with dq := c.dq ++ [k], serial := c.serial + 1 }
    else if s.issue.copies = 0 then { c with c0 := c.c0 ++ [k], serial := c.serial + 1 }
    else { c with c1 := c.c1 ++ [k], serial := c.serial + 1 }

/-- R383, R384: a bound command takes a credit, or its bundle waits; it is delivered D package cycles later. -/
def takeCredit (k : Command) (s : State) : State :=
  let kind := boundKind s
  let frame := boundFrame s
  let i := frame + 16 * (kind - 1)
  let b : BoundCommand :=
    { frame := frame, kind := kind, position := s.issue.copies, due := s.pkg.cycle + deliveryDelay s, delivered := false
      cmd := k }
  if vget s.core.credits i 0 = 0 then noteWait .event s
  else s.onCore fun c =>
    { c with bound := c.bound ++ [b], credits := vset c.credits i (vget c.credits i 0 - 1), serial := c.serial + 1 }

/-- R302: a command starts; the transition it makes at issue takes place at once unless earlier commands on the cell still
have to take effect. -/
def startCommand (decode : Bool) (k : Command) (s : State) : State :=
  let s := if boundKind s = 0 then takeEntry decode k s else takeCredit k s
  if (fillCell k).isSome || (copyOutCell k).isSome then
    (if mayApply s.core k then s.onCore (applyCommand k) else s)
  else s

/-- R100, R326: poisoned operands are consumed; then the checks, in order; then the command starts. -/
def afterChecks (vals : List Val) (check : Option (BitVec 8 × BitVec 64)) (k : State → State) (s : State) : State :=
  if vals.any (·.poison) then raiseFault codePoison 0 s
  else match check with
    | some f => raiseFault f.1 f.2 s
    | none => k s

/-- The first of some checks that fails. -/
def firstFault (checks : List (Bool × BitVec 8 × BitVec 64)) : Option (BitVec 8 × BitVec 64) :=
  (checks.find? (·.1)).map (·.2)

/-- R230: the issue states that admit a fill, and those that an engine may read (R330, R402). -/
def admitsFill (c : Cell) : Bool := c.state == .empty || (c.state == .fillingLocal && !c.sealed)
def engineReadable (c : Cell) : Bool := c.state == .full || c.state == .draining

end Sys2Proof.Machine
end

