-- ==== Sys2Proof/Machine/Sched.lean ====
section
/-!
DEFINITION. What the hive scheduler knows: the cores, streams and edges (R202, R203), counters (R205), readiness and effective
priority (R210), where a card may be placed (R200, R211, R361), and accepting a posted card (R202, R204).
-/

namespace Sys2Proof.Machine

/-! ## Cores -/

/-- Core `n`: the one in issue, a listed one, or one as after reset. -/
def coreState (s : State) (n : Nat) : Core :=
  if n = s.here then s.core
  else match s.cores.find? fun p => p.1 == n with
    | some p => p.2
    | none => Core.reset

/-- A core stored among the others, in order of number. -/
def storeCore (n : Nat) (c : Core) : List (Nat × Core) → List (Nat × Core)
  | [] => [(n, c)]
  | (m, d) :: rest =>
    if n < m then (n, c) :: (m, d) :: rest else if n = m then (n, c) :: rest else (m, d) :: storeCore n c rest

/-- Change core `n`, in issue or not. -/
def onCoreAt (n : Nat) (f : Core → Core) (s : State) : State :=
  if n = s.here then { s with core := f s.core } else { s with cores := storeCore n (f (coreState s n)) s.cores }

/-- Change the package. -/
def onPkg (f : Package → Package) (s : State) : State := { s with pkg := f s.pkg }

/-- Make core `n` the one in issue, with no bundle in issue. -/
def focus (n : Nat) (s : State) : State :=
  let c := coreState s n
  if n = s.here then { s with before := c, issue := Issue.reset }
  else
    { s with core := c, before := c, here := n, issue := Issue.reset
             cores := (storeCore s.here s.core s.cores).filter fun p => p.1 != n }

/-- The cores that the state lists, with their numbers. -/
def listedCores (s : State) : List (Nat × Core) := storeCore s.here s.core (s.cores.filter fun p => p.1 != s.here)

/-- The cores that hold a task of partition `n` (R237). -/
def taskCores (s : State) (n : Nat) : List (Nat × Core) :=
  (listedCores s).filter fun p => (p.2.task.map (·.part)) == some n

/-! ## Cards, counters and edges -/

/-- A card by its number. -/
def cardOf (p : Partition) (id : Nat) : Option Card := p.cards.find? fun c => c.id == id
def cardWords (p : Partition) (id : Nat) : List XWord := ((cardOf p id).map (·.words)).getD []

/-- R205: an event counter; an unlisted one is 0. -/
def counterOf (p : Partition) (i : Nat) : BitVec 64 :=
  match p.counters.find? fun e => e.1 == i with
  | some e => e.2
  | none => 0

/-- R205: whether a card's counter has been met; a number that names no counter waits for nothing, and fails at dispatch
(R201). -/
def counterMet (p : Partition) (w : List XWord) : Bool :=
  4096 ≤ cardWaitIdx w || cardWaitVal w ≤ (counterOf p (cardWaitIdx w)).toNat

/-- R205: once met, a card stays met. -/
def refreshMet (p : Partition) : Partition :=
  { p with cards := p.cards.map fun c => { c with met := c.met || counterMet p c.words } }

/-- R205: a counter set, before any card that waits for it is looked at. -/
def setCounter (i : Nat) (v : BitVec 64) (p : Partition) : Partition :=
  refreshMet { p with counters := (p.counters.filter fun e => e.1 != i) ++ (if v = 0 then [] else [(i, v)]) }

/-- R205: a signal. -/
def signalCounter (i : Nat) (p : Partition) : Partition :=
  if i < 4096 then setCounter i (counterOf p i + 1) { p with bumps := i :: p.bumps } else p

/-- R413: a host's write of a counter, before the signals of this package cycle. -/
def writeCounter (i : Nat) (v : BitVec 64) (p : Partition) : Partition :=
  setCounter i (v + BitVec.ofNat 64 (p.bumps.filter (· == i)).length) p

/-- R203: whether two regions conflict. -/
def regionsConflict (a b : Region) : Bool :=
  let writes := fun (m : BitVec 3) => m == modeW || m == modeRW
  let touches := fun (m : BitVec 3) => m == modeR || m == modeW || m == modeRW
  meets a.base a.len b.base b.len &&
    (((writes a.mode || writes b.mode) && a.mode != modeN && b.mode != modeN) ||
      (a.mode == modeA && touches b.mode) || (b.mode == modeA && touches a.mode))

/-- The regions of a replica, and of every replica of a card. -/
def replicaRegions (w : List XWord) (r : Nat) : List Region := (cardRegions w r).map (·.2)
def allRegions (w : List XWord) : List Region := (List.range (cardReplicas w)).flatMap (replicaRegions w)

/-- R203: whether two sets of regions conflict. -/
def setsConflict (a b : List Region) : Bool := a.any fun x => b.any (regionsConflict x)

/-- R203: the cards that a card has an edge to, resolved ones among them while the partition still knows them. -/
def edgesOf (p : Partition) (y : Card) : List Card :=
  (p.cards.takeWhile fun x => x.id != y.id).filter fun x =>
    x.ring == y.ring && setsConflict (allRegions x.words) (allRegions y.words)

/-- R222: whether a predecessor has ended with a non-zero status. -/
def isDoomed (p : Partition) (y : Card) : Bool := (edgesOf p y).any fun x => x.statuses.any fun t => t.2 != 0

/-! ## Readiness and priority -/

/-- R360: whether a core still has to answer the request in answer to which a resumed card's replicas give up. -/
def swarmOut (s : State) (w : Waiting) : Bool :=
  match w.request with
  | none => false
  | some id => (listedCores s).any fun c => (c.2.request.map (·.id)) == some id

/-- R210: whether a waiting card is ready; a resumed card is ready once every replica that answers its request has done so
(R216, R360). -/
def isReady (s : State) (p : Partition) (w : Waiting) : Bool :=
  if w.resumed then !swarmOut s w
  else match cardOf p w.card with
    | some c => c.met && (edgesOf p c).all fun x => x.left == 0
    | none => false

/-- R210: a card that becomes ready in a cycle is so from that cycle on; one that takes an edge to a card posted before it is
not (R202). -/
def refreshReady (s : State) (p : Partition) : Partition :=
  { p with waiting := p.waiting.map fun w =>
      if isReady s p w then (if w.readyAt.isNone then { w with readyAt := some s.pkg.cycle } else w)
      else { w with readyAt := none, checked := false } }

/-- R210: the effective priority. -/
def effective (p : Partition) (cycle : Nat) (w : Waiting) : Nat :=
  let prio := cardPrio (cardWords p w.card)
  let waited := cycle - w.readyAt.getD cycle
  if waited = 0 || p.sage = 0 then prio else prio - (waited - 1) / p.sage.toNat

/-- R211: whether one ready card comes before another. -/
def comesBefore (p : Partition) (cycle : Nat) (a b : Waiting) : Bool :=
  let x := effective p cycle a
  let y := effective p cycle b
  x < y || (x == y && a.stamp < b.stamp)

/-- A waiting card put among others in the order of R211. -/
def insertReady (p : Partition) (cycle : Nat) (w : Waiting) : List Waiting → List Waiting
  | [] => [w]
  | x :: rest => if comesBefore p cycle w x then w :: x :: rest else x :: insertReady p cycle w rest

/-- R211: the ready cards in order. -/
def readyCards (p : Partition) (cycle : Nat) : List Waiting :=
  (p.waiting.filter fun w => w.readyAt.isSome).foldr (insertReady p cycle) []

/-! ## Placement -/

/-- The mesh cores of a frame, in ascending number. -/
def frameCores (f : Nat) : List Nat :=
  (List.range 16).flatMap fun j => (List.range 16).map fun i => (f / 4 * 16 + j) * 64 + f % 4 * 16 + i

/-- The cores of a partition, in ascending number. -/
def partitionCores (k : Package) (part : Nat) : List Nat :=
  ((List.range 4096).filter fun n => frameIn k part (frameOf n)) ++
    (if queenOwner k = some part then [queenCore] else [])

/-- R202, R380: the cores that a queue can supply to a card that is no package card; the queen core runs none. -/
def queueSupplies (o : Origin) (n : Nat) : Bool :=
  match o with
  | .localQueue c => n == c && n != queenCore
  | .frameQueue f => n != queenCore && frameOf n == f
  | _ => n != queenCore

/-- R200: the core of replica `r` in a rectangle of a width from a corner. -/
def rectangleCore (x y : Int) (wd r : Nat) : Option Nat :=
  let cx := x + (r % wd : Nat)
  let cy := y + (r / wd : Nat)
  if 0 ≤ cx && cx < 64 && 0 ≤ cy && cy < 64 then some (cy.toNat * 64 + cx.toNat) else none

/-- R200: the cores that a card's placement allows to replica `r`, in ascending number. A card of kind 3 that the queen core posts
has no place to be relative to, and is allowed none, a choice of the model (log entry 63). -/
def allowedCores (k : Package) (part : Nat) (w : List XWord) (o : Origin) (postedBy : Option Nat) (r : Nat) : List Nat :=
  let param := cardParam w
  let x := natField param 0 6
  let y := natField param 6 6
  let wd := natField param 12 6 + 1
  let all :=
    if cardPackage w then [queenCore]
    else match o with
      | .localQueue c => [c]
      | _ =>
        if cardPlace w = 0 then (rectangleCore x y wd r).toList
        else if cardPlace w = 1 then frameCores (natField param 0 4)
        else if cardPlace w = 2 then (partitionCores k part).filter (· != queenCore)
        else match postedBy with
          | none => []
          | some c =>
            if c = queenCore then []
            else (rectangleCore (coreX c + signedOf 6 x) (coreY c + signedOf 6 y) wd r).toList
  all.filter fun n => coreIn k part n && (cardPackage w || queueSupplies o n)

/-- R211: give each of some replicas, in order, the lowest core of a set that it may have. -/
def giveCores : List (List Nat) → List Nat → Option (List Nat)
  | [], _ => some []
  | allowed :: rest, free =>
    match allowed.find? free.contains with
    | none => none
    | some n => (giveCores rest (free.filter (· != n))).map (n :: ·)

/-- R361: the cores that one translation gives the replicas of a resumed card, by the core it gives the first of them. -/
def translated (k : Package) (part : Nat) (w : Waiting) (first : Nat) : Option (List Nat) :=
  match w.replicas with
  | [] => none
  | (_, c0) :: _ =>
    let tx := (coreX first : Int) - coreX c0
    let ty := (coreY first : Int) - coreY c0
    if (tx + ty) % 16 ≠ 0 then none
    else
      let cs := w.replicas.map fun q => coreAt q.2 tx ty
      if cs.all fun c => (c.map fun n => coreIn k part n && queueSupplies w.origin n).getD false
      then some (cs.filterMap id) else none

/-- R361: every placement of a resumed card, lowest translation first. -/
def resumedPlacements (k : Package) (part : Nat) (w : Waiting) : List (List Nat) :=
  match w.replicas with
  | [] => []
  | (_, c0) :: _ =>
    if c0 = queenCore then [[queenCore]]
    else match w.origin with
      | .localQueue c => [[c]]
      | _ => (partitionCores k part).filterMap (translated k part w)

/-- R211, R361: the cores that a waiting card takes from a set of free cores, in the order of its replicas. -/
def placeCard (k : Package) (part : Nat) (words : List XWord) (w : Waiting) (free : List Nat) : Option (List Nat) :=
  if w.resumed then (resumedPlacements k part w).find? fun cs => cs.all free.contains
  else giveCores (w.replicas.map fun q => allowedCores k part words w.origin w.postedBy q.1) free

/-- R211: the cores that a waiting card's placement allows at all. -/
def usableCores (k : Package) (part : Nat) (words : List XWord) (w : Waiting) : List Nat :=
  (if w.resumed then (resumedPlacements k part w).flatten
   else w.replicas.flatMap fun q => allowedCores k part words w.origin w.postedBy q.1).eraseDups

/-- R211, R213: the free cores of a partition that a card with a stamp may take. -/
def freeCores (s : State) (part stamp : Nat) : List Nat :=
  (partitionCores s.pkg part).filter fun n =>
    (coreState s n).mode == .free && (partOf s.pkg part).reserved.all fun r => r.1 != n || r.2 == stamp

/-! ## The launch checks -/

/-- The bits of a word outside some fields, given as first bit and width. -/
def outsideFields (w : XWord) (fields : List (Nat × Nat)) : Bool :=
  (List.range 64).any fun i => w.getLsbD i && fields.all fun f => i < f.1 || f.1 + f.2 ≤ i

/-- R196 to R199: whether a reserved field of a card is not zero, PARAM apart. -/
def reservedFields (w : List XWord) : Bool :=
  outsideFields (cardWord w 1) [(0, 15), (16, 6), (32, 32)] || outsideFields (cardWord w 2) [(0, 48)] ||
    outsideFields (cardWord w 4) [(0, 60)] || outsideFields (cardWord w 5) [(0, 44)] ||
    outsideFields (cardWord w 14) [(0, 55)] || outsideFields (cardWord w 15) [(0, 32)] ||
    (List.range 8).any fun i =>
      outsideFields (cardWord w (16 + 2 * i)) [(0, 55), (56, 3)] || outsideFields (cardWord w (17 + 2 * i)) [(0, 56)]

/-- R199: whether a footprint region has a reserved mode, no bytes, or, unused, a bit that is not zero. -/
def regionInvalid (w : List XWord) (i : Nat) : Bool :=
  5 < regionMode w i || (regionMode w i != 0 && regionLen w i == 0) ||
    (regionMode w i == 0 && (cardWord w (16 + 2 * i) != 0 || cardWord w (17 + 2 * i) != 0))

/-- R200: whether the placement has a reserved kind or reserved bits; a local card's, and a package card's (R380), are
ignored. -/
def placementInvalid (w : List XWord) (o : Origin) : Bool :=
  let param := cardParam w
  match o with
  | .localQueue _ => false
  | _ =>
    !cardPackage w && (3 < cardPlace w || (cardPlace w == 1 && 2 ^ 4 ≤ param) || (cardPlace w == 2 && param != 0) ||
      ((cardPlace w == 0 || cardPlace w == 3) && 2 ^ 18 ≤ param))

/-- R201: whether a card fails one of the 0x1B conditions. -/
def launchFault (k : Package) (part : Nat) (c : Card) (w : Waiting) : Bool :=
  let p := partOf k part
  let ws := c.words
  let image := p.images.find? fun i => i.id == cardImage ws
  let outside := fun (n : Nat) => 4096 ≤ n && n != 0xFFFF
  let allowed := (List.range (cardReplicas ws)).map (allowedCores k part ws w.origin w.postedBy)
  reservedFields ws || (List.range 8).any (regionInvalid ws) || placementInvalid ws w.origin ||
    outside (cardSignal ws) || outside (cardWaitIdx ws) || (16 ≤ cardQueue ws && cardQueue ws != 0xFF) ||
    !(match image with
      | some i => i.nbv == 1 && i.entries.contains (cardEntry ws)
      | none => false) ||
    (cardPackage ws && (c.graph.isSome || cardReplicas ws != 1 || queenOwner k != some part)) ||
    (giveCores allowed (partitionCores k part)).isNone ||
    (allRegions ws).any (fun r => 2 ^ 55 < r.base + r.len) ||
    (match w.origin with | .localQueue _ => cardReplicas ws != 1 | _ => false) ||
    (cardQueue ws < 16 && !(vget p.queues (cardQueue ws) CompQueue.reset).en) || isDoomed p c

/-- R201, R215: whether a ready card has passed, or would pass, the checks made when it becomes ready. -/
def passesLaunch (k : Package) (part : Nat) (w : Waiting) : Bool :=
  w.resumed || w.checked || match cardOf (partOf k part) w.card with
    | some c => !launchFault k part c w
    | none => false

/-- R215: whether some ready card with eff at most a priority could be placed on a core, were it free. -/
def couldPlace (s : State) (part core prio : Nat) : Bool :=
  let p := refreshReady s (partOf s.pkg part)
  !p.draining && !p.stopped && (readyCards p s.pkg.cycle).any fun w =>
    let words := cardWords p w.card
    effective p s.pkg.cycle w ≤ prio && passesLaunch s.pkg part w && (usableCores s.pkg part words w).contains core &&
      (placeCard s.pkg part words w (core :: freeCores s part w.stamp)).isSome

/-! ## Accepting a card -/

/-- R196: a card with its PART field overwritten. -/
def withPart (w : List XWord) (part : Nat) : List XWord :=
  w.set 0 (BitVec.ofNat 64 (replaceField (cardWord w 0).toNat 32 4 part))

/-- R202: a card put into the list in stream order directly after the last card that satisfies a test; at the end when none
does. -/
def insertAfter (test : Card → Bool) (c : Card) (cs : List Card) : List Card :=
  let n := (cs.zipIdx.filter fun x => test x.1).getLast?
  match n with
  | some x => cs.take (x.2 + 1) ++ c :: cs.drop (x.2 + 1)
  | none => cs ++ [c]

/-- R202: a new card of partition `part`; it takes the next stamp, and a place that `place` gives it. -/
def acceptCard (part : Nat) (words : List XWord) (ring : Nat) (origin : Origin) (postedBy : Option Nat)
    (poster : Option (Nat × Nat)) (graph : Option Nat) (place : Card → List Card → List Card) (k : Package) : Package :=
  let p := partOf k part
  let w := withPart words part
  let c : Card :=
    { id := k.nextId, words := w, ring := ring, serial := p.stamp, met := counterMet p w
      left := cardReplicas w, statuses := [], graph := graph, poster := poster }
  let entry : Waiting :=
    { card := k.nextId, stamp := p.stamp, origin := origin, replicas := (List.range (cardReplicas w)).map fun r => (r, 0)
      resumed := false, readyAt := none, checked := false, request := none, postedBy := postedBy }
  onPart part (fun p => { p with cards := place c p.cards, waiting := p.waiting ++ [entry], stamp := p.stamp + 1 })
    { k with nextId := k.nextId + 1 }

/-- R202, R204: a card posted by the task on a core. -/
def acceptPosted (core : Nat) (t : Task) (words : List XWord) (o : Origin) (k : Package) : Package :=
  let me := some (t.cardId, t.replica)
  acceptCard t.part words t.ring o (some core) me none
    (fun c cs =>
      if cs.any fun x => x.poster == me then insertAfter (fun x => x.poster == me) c cs
      else insertAfter (fun x => x.id == t.cardId) c cs) k

/-- R219, R383: the package cycles from a core to the hub of the barrier tree, and back. The queen core lies on the hub. -/
def barrierLatency (core : Nat) : Nat := if core = queenCore then 0 else treeLatency (frameOf core)

/-- R219: an arrival that travels to the hub. -/
def sendArrival (core part group : Nat) (k : Package) : Package :=
  onPart part (fun p => { p with arriving := p.arriving ++ [(core, group, k.cycle + barrierLatency core)] }) k

end Sys2Proof.Machine
end

