-- ==== Sys2Proof/Machine/Arith.lean ====
section
/-!
DEFINITION. Floating-point and tapered arithmetic shared by the scalar and vector forms (R36, R57 to R59, R62, R117 to
R122, R146 to R148). Every operation forms the exact result and rounds it once.
-/

namespace Sys2Proof.Machine

/-- How an operation rounds: the mode and the generator's value for stochastic rounding. -/
structure RoundIn where
  rm : BitVec 3
  r : Nat
deriving DecidableEq, Repr

/-- A result with no flags. -/
def plainResult (bits : Nat) : Rounded := { bits := bits, flags := noFlags }

/-- R57: an invalid operation with no NaN operand. -/
def invalidResult (l : Layout) : Rounded := { bits := l.defaultNan, flags := flagNV }

/-- R57, R59: the result that a NaN or NaR operand fixes, the first NaN in operand order, or none. -/
def nanOperand (l : Layout) (xs : List Num) : Option Rounded :=
  if xs.any (· == .nar) then some (plainResult l.defaultNan)
  else match xs.find? Num.isNan with
    | some (.nan neg _ p) => some { bits := nanBits l neg p, flags := raiseIf (xs.any Num.signals) flagNV }
    | _ => none

/-- The signed value of a finite number at a common scale 2^base. -/
def termInt (base : Int) (x : Bool × Nat × Int) : Int := scaledInt x.1 x.2.1 x.2.2 base

/-- The exact sum of finite terms: its value and the exponent of its unit. -/
def sumTerms (xs : List (Bool × Nat × Int)) : Int × Int :=
  let base := xs.foldl (fun b x => if x.2.1 = 0 then b else min b x.2.2) 0
  (xs.foldl (fun a x => a + termInt base x) 0, base)

/-- R36: the exact sum of finite terms, rounded once. A zero sum is −0 when every term is −0, and otherwise −0 under
RDN alone. -/
def roundSum (l : Layout) (i : RoundIn) (xs : List (Bool × Nat × Int)) : Rounded :=
  let s := sumTerms xs
  if s.1 = 0 then
    plainResult (zeroBits l (xs.all (fun x => x.1 && x.2.1 == 0) || ruleOf i.rm == .down))
  else roundExact l i.rm false i.r { neg := s.1 < 0, m := s.1.natAbs, e := s.2, sticky := false }

/-- The sum of values that are neither NaN nor NaR. -/
def sumNums (l : Layout) (i : RoundIn) (xs : List Num) : Rounded :=
  let pos := xs.any (· == .inf false)
  let neg := xs.any (· == .inf true)
  if pos && neg then invalidResult l
  else if pos then convertInf l i.rm false false
  else if neg then convertInf l i.rm false true
  else roundSum l i (xs.filterMap fun x => match x with | .fin n m e => some (n, m, e) | _ => none)

/-- R117, R146: a + b. -/
def addOp (l : Layout) (i : RoundIn) (a b : Num) : Rounded := (nanOperand l [a, b]).getD (sumNums l i [a, b])

/-- R117, R146: a − b. -/
def subOp (l : Layout) (i : RoundIn) (a b : Num) : Rounded := (nanOperand l [a, b]).getD (sumNums l i [a, negNum b])

/-- R117, R146: a × b. -/
def mulOp (l : Layout) (i : RoundIn) (a b : Num) : Rounded :=
  (nanOperand l [a, b]).getD
    (match mulNum a b with
     | .nan _ _ _ => invalidResult l
     | p => roundNum l i.rm false i.r p)

/-- R58, R117: ±(a × b) + c, rounded once. -/
def fmaOp (l : Layout) (i : RoundIn) (negate : Bool) (a b c : Num) : Rounded :=
  match nanOperand l [a, b] with
  | some r => { r with flags := r.flags ||| raiseIf c.signals flagNV }
  | none =>
    match mulNum a b with
    | .nan _ _ _ =>
      match c with
      | .nan neg _ p => { bits := nanBits l neg p, flags := flagNV }
      | _ => invalidResult l
    | p => (nanOperand l [c]).getD (sumNums l i [if negate then negNum p else p, c])

/-- The bits of quotient that a division or root forms before its remainder is reduced to a sticky bit. -/
def workBits : Nat := 160

/-- The quotient of two non-zero magnitudes, truncated to at least `workBits` bits. -/
def divMag (neg : Bool) (m : Nat) (e : Int) (k : Nat) (f : Int) : Exact :=
  let s := workBits + bitLength k - bitLength m
  { neg := neg, m := m * 2 ^ s / k, e := e - f - s, sticky := m * 2 ^ s % k != 0 }

/-- The square root of a non-zero magnitude, truncated. -/
def sqrtMag (m : Nat) (e : Int) : Exact :=
  let odd := e % 2 != 0
  let m := if odd then 2 * m else m
  let e := if odd then e - 1 else e
  let s := workBits
  let v := m * 2 ^ (2 * s)
  let r := isqrt v
  { neg := false, m := r, e := e / 2 - s, sticky := r * r != v }

/-- The reciprocal square root of a non-zero magnitude, truncated. -/
def rsqrtMag (m : Nat) (e : Int) : Exact :=
  let odd := e % 2 != 0
  let m := if odd then 2 * m else m
  let e := if odd then e - 1 else e
  let s := workBits + bitLength m
  let v := 2 ^ (2 * s) / m
  let r := isqrt v
  { neg := false, m := r, e := -(e / 2) - s, sticky := r * r * m != 2 ^ (2 * s) }

/-- A signed infinity with DZ; NaR for a tapered layout (R59, R62). -/
def poleResult (l : Layout) (neg : Bool) : Rounded :=
  { bits := if l.isTaper then l.defaultNan else signBit l neg + l.infBits, flags := flagDZ }

/-- R62: a ÷ b. -/
def divOp (l : Layout) (i : RoundIn) (a b : Num) : Rounded :=
  (nanOperand l [a, b]).getD
    (match a, b with
     | .fin n m e, .fin k j f =>
       if j = 0 then (if m = 0 then invalidResult l else poleResult l (n != k))
       else if m = 0 then plainResult (zeroBits l (n != k))
       else roundMag l i.rm i.r (divMag (n != k) m e j f)
     | .inf n, .fin k _ _ => convertInf l i.rm false (n != k)
     | .fin n _ _, .inf k => plainResult (zeroBits l (n != k))
     | _, _ => invalidResult l)

/-- R62: √a. -/
def sqrtOp (l : Layout) (i : RoundIn) (a : Num) : Rounded :=
  (nanOperand l [a]).getD
    (match a with
     | .fin n m e =>
       if m = 0 then plainResult (zeroBits l n)
       else if n then invalidResult l
       else roundMag l i.rm i.r (sqrtMag m e)
     | .inf false => convertInf l i.rm false false
     | _ => invalidResult l)

/-- R62: 1 ÷ a. -/
def recipOp (l : Layout) (i : RoundIn) (a : Num) : Rounded :=
  (nanOperand l [a]).getD
    (match a with
     | .fin n m e => if m = 0 then poleResult l n else roundMag l i.rm i.r (divMag n 1 0 m e)
     | .inf n => plainResult (zeroBits l n)
     | _ => invalidResult l)

/-- R62: 1 ÷ √a. -/
def rsqrtOp (l : Layout) (i : RoundIn) (a : Num) : Rounded :=
  (nanOperand l [a]).getD
    (match a with
     | .fin n m e =>
       if m = 0 then poleResult l n
       else if n then invalidResult l
       else roundMag l i.rm i.r (rsqrtMag m e)
     | .inf false => plainResult (zeroBits l false)
     | _ => invalidResult l)

/-- R146: a × 2^B, rounded. -/
def scaleOp (l : Layout) (i : RoundIn) (a : Num) (b : Int) : Rounded :=
  (nanOperand l [a]).getD
    (match a with
     | .fin n m e => roundNum l i.rm false i.r (.fin n m (if m = 0 then 0 else e + b))
     | x => roundNum l i.rm false i.r x)

/-- The integer whose order is the order of patterns in a layout: −0 below +0; a tapered pattern as a signed integer
(R118). -/
def orderKey (l : Layout) (bits : Nat) : Int :=
  if l.isTaper then signedOf l.bits bits
  else
    let mag := bits % 2 ^ (l.bits - 1)
    if bits.testBit (l.bits - 1) then -(mag : Int) - 1 else mag

/-- R118: minimum or maximum of two patterns. -/
def minMaxOp (l : Layout) (least : Bool) (a b : Nat) : Rounded :=
  (nanOperand l [decodeNum l a, decodeNum l b]).getD
    (plainResult (if least then (if orderKey l b < orderKey l a then b else a)
                  else (if orderKey l a < orderKey l b then b else a)))

/-- R118: the sign bit cleared; the two's complement magnitude of a tapered pattern. -/
def absOp (l : Layout) (a : Nat) : Nat :=
  if l.isTaper then
    (if a.testBit (l.bits - 1) then (2 ^ l.bits - a) % 2 ^ l.bits else a)
  else a % 2 ^ (l.bits - 1)

/-- R118: the sign bit inverted; the two's complement negation of a tapered pattern. -/
def negOp (l : Layout) (a : Nat) : Nat :=
  if l.isTaper then (2 ^ l.bits - a) % 2 ^ l.bits else a ^^^ 2 ^ (l.bits - 1)

/-- The conditions of R119. -/
inductive FCond where
  | eq | lt | le | un
deriving DecidableEq, Repr

/-- R119: the condition, and the flags it raises. -/
def compareOp (l : Layout) (c : FCond) (a b : Nat) : Bool × Flags :=
  if l.isTaper then
    (match c with
     | .eq => a == b
     | .lt => signedOf l.bits a < signedOf l.bits b
     | .le => signedOf l.bits a ≤ signedOf l.bits b
     | .un => false, noFlags)
  else
    let x := decodeNum l a
    let y := decodeNum l b
    let nan := x.isNan || y.isNan
    let sig := x.signals || y.signals
    match c with
    | .eq => (!nan && numEq x y, raiseIf sig flagNV)
    | .lt => (!nan && numLt x y, raiseIf nan flagNV)
    | .le => (!nan && (numLt x y || numEq x y), raiseIf nan flagNV)
    | .un => (nan, raiseIf sig flagNV)

/-- R120: the class word. -/
def classOp (l : Layout) (a : Nat) : Nat :=
  match decodeNum l a with
  | .nar => 2 ^ 9
  | .nan _ s _ => if s then 2 ^ 8 else 2 ^ 9
  | .inf n => if n then 1 else 2 ^ 7
  | .fin n m _ =>
    if l.isTaper then (if m = 0 then 2 ^ 4 else if n then 2 ^ 1 else 2 ^ 6)
    else if m = 0 then (if n then 2 ^ 3 else 2 ^ 4)
    else if natField a l.fields.2 l.fields.1 = 0 then (if n then 2 ^ 2 else 2 ^ 5)
    else (if n then 2 ^ 1 else 2 ^ 6)

/-- R53, R121, R151: conversion of a pattern of one layout to another; equal formats copy, quieting a signalling NaN, but for an
infinity under a saturated conversion. -/
def convertOp (dst src : Layout) (i : RoundIn) (sat : Bool) (a : Nat) : Rounded :=
  if dst == src then
    (match decodeNum src a with
     | .nan neg s p => { bits := nanBits dst neg p, flags := raiseIf s flagNV }
     | .inf neg => if sat then convertInf dst i.rm sat neg else plainResult (a % 2 ^ src.bits)
     | _ => plainResult (a % 2 ^ src.bits))
  else roundNum dst i.rm sat i.r (decodeNum src a)

end Sys2Proof.Machine
end

