-- ==== Sys2Proof/Machine/Atomics.lean ====
section
/-!
DEFINITION. The atomics (R276 to R281) and the fences (R282, R283).
-/

namespace Sys2Proof.Machine

/-- R281, R255: whether an order field makes an atomic an acquire, and a release. -/
def orderAcquires (o : BitVec 2) : Bool := o == 1 || o == 3
def orderReleases (o : BitVec 2) : Bool := o == 2 || o == 3

/-- R277: the shape every atomic shares: `z` bytes at the handle's base plus the offset register of the lend. The old value
lands at bound 96 or when it arrives; with d = x0 the atomic is posted. Its value operand is data, and poison in it is
consumed as a store's is (R269; log entry 15). -/
def atomicForm (op : AmoOp) (d : BitVec 6) (h : BitVec 4) (b : BitVec 6) (scope : BitVec 2) (z : Nat) (order : BitVec 2)
    (l : Lend) (s : State) : State :=
  let x := l.extractLsb' 0 6
  unguarded (d.toNat < 32 && srcOk b && srcOk x)
    (fun s =>
      let off := readSource s.before x
      let v := readSource s.before b
      let cmp := if op = .cas then readX s.before d.toNat else { bits := 0, poison := false }
      let s := noteReads ([sourceReg x, sourceReg b] ++ (if op = .cas then [Reg.x d.toNat] else [])) s
      if off.poison || v.poison || cmp.poison then raiseFault codePoison 0 s
      else globalAccess h.toNat (scalarVa s.before h off.bits) z z
        (.amo op v.bits.toNat cmp.bits.toNat s.before.srkey s.before.srstep order) (toBytes z 0)
        (scopeOf s.here scope s.before.dm)
        (fun id s => if d = 0 then s else landScalar d { bits := 0, poison := false } noFlags 96 (some id) s) s) s

/-- R276: the bytes of a size code of ops 0 to 10. -/
def atomicBytes (z : BitVec 2) : Nat := if z = 0 then 4 else 8

/-- R278. -/
def execAmoAdd (d : BitVec 6) (h : BitVec 4) (b : BitVec 6) (c z o : BitVec 2) (l : Lend) (s : State) :
    Host.Outcome State Fault Refusal := .next (atomicForm .add d h b c (atomicBytes z) o l s)
/-- R278. -/
def execAmoAnd (d : BitVec 6) (h : BitVec 4) (b : BitVec 6) (c z o : BitVec 2) (l : Lend) (s : State) :
    Host.Outcome State Fault Refusal := .next (atomicForm .and d h b c (atomicBytes z) o l s)
/-- R278. -/
def execAmoOr (d : BitVec 6) (h : BitVec 4) (b : BitVec 6) (c z o : BitVec 2) (l : Lend) (s : State) :
    Host.Outcome State Fault Refusal := .next (atomicForm .or d h b c (atomicBytes z) o l s)
/-- R278. -/
def execAmoXor (d : BitVec 6) (h : BitVec 4) (b : BitVec 6) (c z o : BitVec 2) (l : Lend) (s : State) :
    Host.Outcome State Fault Refusal := .next (atomicForm .xor d h b c (atomicBytes z) o l s)
/-- R278. -/
def execAmoMin (d : BitVec 6) (h : BitVec 4) (b : BitVec 6) (c z o : BitVec 2) (l : Lend) (s : State) :
    Host.Outcome State Fault Refusal := .next (atomicForm .min d h b c (atomicBytes z) o l s)
/-- R278. -/
def execAmoMax (d : BitVec 6) (h : BitVec 4) (b : BitVec 6) (c z o : BitVec 2) (l : Lend) (s : State) :
    Host.Outcome State Fault Refusal := .next (atomicForm .max d h b c (atomicBytes z) o l s)
/-- R278. -/
def execAmoMinn (d : BitVec 6) (h : BitVec 4) (b : BitVec 6) (c z o : BitVec 2) (l : Lend) (s : State) :
    Host.Outcome State Fault Refusal := .next (atomicForm .minn d h b c (atomicBytes z) o l s)
/-- R278. -/
def execAmoMaxn (d : BitVec 6) (h : BitVec 4) (b : BitVec 6) (c z o : BitVec 2) (l : Lend) (s : State) :
    Host.Outcome State Fault Refusal := .next (atomicForm .maxn d h b c (atomicBytes z) o l s)
/-- R278. -/
def execAmoSwap (d : BitVec 6) (h : BitVec 4) (b : BitVec 6) (c z o : BitVec 2) (l : Lend) (s : State) :
    Host.Outcome State Fault Refusal := .next (atomicForm .swap d h b c (atomicBytes z) o l s)
/-- R278: `amo.cas` reads its compare value from d. -/
def execAmoCas (d : BitVec 6) (h : BitVec 4) (b : BitVec 6) (c z o : BitVec 2) (l : Lend) (s : State) :
    Host.Outcome State Fault Refusal := .next (atomicForm .cas d h b c (atomicBytes z) o l s)
/-- R279. -/
def execAmoFadd (d : BitVec 6) (h : BitVec 4) (b : BitVec 6) (c z o : BitVec 2) (l : Lend) (s : State) :
    Host.Outcome State Fault Refusal := .next (atomicForm .fadd d h b c (atomicBytes z) o l s)
/-- R280. -/
def execAmoAddsr (d : BitVec 6) (h : BitVec 4) (b : BitVec 6) (c o : BitVec 2) (l : Lend) (s : State) :
    Host.Outcome State Fault Refusal := .next (atomicForm .addsr d h b c 2 o l s)

/-! ## What an atomic writes -/

/-- R278: the integer operations at width w. -/
def amoInteger (op : AmoOp) (w old b c : Nat) : Nat :=
  let b := b % 2 ^ w
  match op with
  | .add => (old + b) % 2 ^ w
  | .and => old &&& b
  | .or => old ||| b
  | .xor => old ^^^ b
  | .min => if signedOf w old ≤ signedOf w b then old else b
  | .max => if signedOf w old ≤ signedOf w b then b else old
  | .minn => min old b
  | .maxn => max old b
  | .swap => b
  | _ => if old = c % 2 ^ w then b else old

/-- R279: old + B rounded to nearest even. -/
def amoFloat (w old b : Nat) : Nat :=
  let l := layoutOf (if w = 32 then 1 else 0) 0
  (addOp l { rm := 0, r := 0 } (decodeNum l old) (decodeNum l (b % 2 ^ w))).bits

/-- R280: the stochastic sum into a bfloat16. -/
def amoStochastic (k s : BitVec 32) (va old b : Nat) : Nat :=
  let l := layoutOf 2 0
  let x := decodeNum l old
  let y := decodeNum (layoutOf 1 0) (b % 2 ^ 32)
  match x, y with
  | .inf n, .inf m => if n = m then old else 0x7FC0
  | .inf n, .fin _ _ _ => zeroBits l n + l.infBits
  | .fin _ _ _, .inf n => zeroBits l n + l.infBits
  | .fin n m e, .fin n' m' e' =>
    let sum := sumTerms [(n, m, e), (n', m', e')]
    if sum.1 = 0 then 0
    else (roundExact l 7 false (gen k s (BitVec.ofNat 64 va))
      { neg := sum.1 < 0, m := sum.1.natAbs, e := sum.2, sticky := false }).bits
  | _, _ => 0x7FC0

/-- R277: the new value of an atomic at width `w`. -/
def amoNew (op : AmoOp) (w va old b c : Nat) (k s : BitVec 32) : Nat :=
  match op with
  | .fadd => amoFloat w old b
  | .addsr => amoStochastic k s va old b
  | _ => amoInteger op w old b c

/-! ## Fences -/

/-- Whether an access has a result that the core awaits. -/
def Access.returns (c : Core) (a : Access) : Bool := c.landings.any fun l => l.awaits == some a.id

/-- R259, R260: whether a fence of an order field orders an earlier access. A posted atomic is a write. -/
def fenceOrders (c : Core) (order : BitVec 2) (a : Access) : Bool :=
  order != 1 || match a.kind with
    | .load _ _ _ => true
    | .store => false
    | .amo _ _ _ _ _ _ => a.returns c

/-- R255, R282: the core holds until the accesses that the fence orders have been performed within its scope; package scope
reads `sys.dm` at issue. -/
def execFence (c o : BitVec 2) (s : State) : Host.Outcome State Fault Refusal :=
  let ids := (s.core.accesses.filter (fenceOrders s.core o)).map (·.id)
  .next (s.onIssue fun i => { i with hold := i.hold ++ [.fence ids (scopeOf s.here c s.before.dm)] })

/-- R283: the core holds until every command it has issued, those of this bundle included, is complete. -/
def execFenceE (s : State) : Host.Outcome State Fault Refusal :=
  .next (s.onIssue fun i => { i with hold := i.hold ++ [.fenceE] })

end Sys2Proof.Machine
end

