-- ==== Sys2Proof/Machine/Cells.lean ====
section
/-!
DEFINITION. The cell commands: CR ops 1 to 5 (R229, R230, R292 to R294).
-/

namespace Sys2Proof.Machine

/-- R292, R306: whether the hazard unit holds a cell command. -/
def cellHeld (c : Core) (k : Command) : Bool :=
  (outstanding c).any (fun j => j.serial < k.serial && stateCell j == stateCell k) ||
    (combSpans c k).any fun sp =>
      combBusy c sp.lo sp.len true || (streamSpans c).any (fun z => meetsGranules sp.lo sp.len z.lo z.len) ||
        (outstanding c).any fun j => j.serial < k.serial && combConflict c sp.lo sp.len true j

/-- R292: a cell command takes effect at the end of its issue cycle, or holds a queue entry until the hazard unit lets it. -/
def startCellCommand (k : Command) (s : State) : State :=
  if cellHeld s.core k then takeEntry false k s
  else s.onCore fun c => settleCells { c with cells := vset c.cells k.cell (startOn k (cellOf c k.cell)), serial := c.serial + 1 }

/-- R229: whether a new cell's range overlaps a live cell. -/
def armOverlaps (c : Core) (n lo len : Nat) : Bool :=
  (List.range 64).any fun i =>
    i != n && (issueCell c i).state != .absent && meets lo len (issueCell c i).base (issueCell c i).size

/-- R229: the check of `cell.arm`. -/
def armCheck (c : Core) (n : Nat) (base size : XWord) : Option (BitVec 8 × BitVec 64) :=
  let b := base.toNat
  let z := size.toNat
  firstFault [
    (b % 64 != 0 || z == 0 || z % 64 != 0 || 0x40000 < b + z, codeCellBounds, cellAddr n),
    ((issueCell c n).state != .absent || armOverlaps c n b z, codeCellState, cellAddr n)]

/-- R230: the check of a cell command that needs one of some issue states. -/
def cellStateCheck (c : Core) (n : Nat) (ok : Cell → Bool) : Option (BitVec 8 × BitVec 64) :=
  if ok (issueCell c n) then none else some (codeCellState, cellAddr n)

/-- R229, R294. -/
def execCellArm (c a b : BitVec 6) (s : State) : Host.Outcome State Fault Refusal :=
  let base := readSource s.before a
  let size := readSource s.before b
  .next (copyForm .own (srcOk a && srcOk b)
    (fun s => afterChecks [base, size] (armCheck s.core c.toNat base.bits size.bits)
      (fun s => startCellCommand
        { newCommand .cellArm (.cellArm c a b) s with cell := c.toNat, op1 := base.bits, op2 := size.bits } s)
      (noteReads [sourceReg a, sourceReg b] s)) s)

/-- R294: the tag has 15 bits, its low six in the syllable and nine in the lend. -/
def execCellSeal (c t : BitVec 6) (l : Lend) (s : State) : Host.Outcome State Fault Refusal :=
  .next (copyForm .own true
    (fun s => afterChecks []
      (cellStateCheck s.core c.toNat admitsFill)
      (fun s => startCellCommand
        { newCommand .cellSeal (.cellSeal c t l) s with cell := c.toNat, tag := (l ++ t).setWidth 16 } s) s) s)

/-- R294. -/
def execCellFree (c : BitVec 6) (s : State) : Host.Outcome State Fault Refusal :=
  .next (copyForm .own true
    (fun s => afterChecks []
      (cellStateCheck s.core c.toNat fun x => x.state == .empty || x.state == .full)
      (fun s => startCellCommand { newCommand .cellFree (.cellFree c) s with cell := c.toNat } s) s) s)

/-- R294: the expected tag is bits 15 to 0 of the register. -/
def execCellExpect (c a : BitVec 6) (s : State) : Host.Outcome State Fault Refusal :=
  let v := readSource s.before a
  .next (copyForm .own (srcOk a)
    (fun s => afterChecks [v]
      (cellStateCheck s.core c.toNat fun x => x.state != .absent)
      (fun s => startCellCommand
        { newCommand .cellExpect (.cellExpect c a) s with cell := c.toNat, op1 := v.bits, tag := v.bits.setWidth 16 } s)
      (noteReads [sourceReg a] s)) s)

/-- R293, R380: the core that a packed offset names, if the offset may be used: on the mesh, inside the partition's frames,
not the core itself, and with its reserved bits zero. -/
def namedCore (s : State) (v : XWord) : Option Nat :=
  match packedOffset v with
  | none => none
  | some (dx, dy) => if dx = 0 && dy = 0 then none else neighbourIn s.pkg (taskPart s.before) s.here dx dy

/-- R294. -/
def execCellOpen (c a : BitVec 6) (s : State) : Host.Outcome State Fault Refusal :=
  let v := readSource s.before a
  let w := namedCore s v.bits
  .next (copyForm .own (srcOk a)
    (fun s => afterChecks [v]
      (if w.isNone then some (codeCellState, cellAddr c.toNat)
        else cellStateCheck s.core c.toNat fun x => x.state == .empty)
      (fun s => startCellCommand
        { newCommand .cellOpen (.cellOpen c a) s with cell := c.toNat, op1 := v.bits, target := w.getD 0 } s)
      (noteReads [sourceReg a] s)) s)

end Sys2Proof.Machine
end

