-- ==== Sys2Proof/Machine/Collective.lean ====
section
/-!
DEFINITION. The CO forms as they issue: `osend` (R401) and the reproducible collectives (R402, R403).
-/

namespace Sys2Proof.Machine

/-! ## osend -/

/-- R393: a word of WGM, by group and word. -/
def groupWord (p : Partition) (i : Nat) : BitVec 64 :=
  match p.wgm.find? fun e => e.1 == i with
  | some e => e.2
  | none => 0

/-- R401: the nodes that a destination operand names, if its reserved bits are zero. -/
def sendNodes (p : Partition) (a : XWord) : Option (List Nat) :=
  if a >>> 9 ≠ 0 then none
  else if a.getLsbD 8 then
    (if a.extractLsb' 4 4 ≠ 0 then none
     else
      let g := (a.extractLsb' 0 4).toNat
      some ((List.range 256).filter fun n => (groupWord p (4 * g + n / 64)).getLsbD (n % 64)))
  else some [(a.extractLsb' 0 8).toNat]

/-- R401: whether a waggle copy for a node has a route. -/
def waggleRoute (k : Package) (part node : Nat) : Bool :=
  node == k.pnode.toNat || match routePort k part node with
    | some port => (vget k.ports port Port.reset).wag
    | none => false

/-- R401: checks 2 to 4 of `osend`. -/
def sendCheck (s : State) (c : Nat) (a : XWord) : Option (BitVec 8 × BitVec 64) :=
  let x := issueCell s.core c
  let part := taskPart s.before
  let nodes := sendNodes (partOf s.pkg part) a
  firstFault [
    (x.state != .full, codeCellState, cellAddr c),
    (4096 < x.size, codeCellBounds, cellAddr c),
    ((nodes.getD []).isEmpty || !(nodes.getD []).all (waggleRoute s.pkg part), codeIllegalOperand, 0)]

/-- R401. -/
def execOsend (c a b : BitVec 6) (k : Bool) (s : State) : Host.Outcome State Fault Refusal :=
  let x := readSource s.before a
  let y := readSource s.before b
  .next (copyForm .collective (srcOk a && srcOk b)
    (fun s => afterChecks [x, y] (sendCheck s c.toNat x.bits)
      (fun s => startCommand false
        { newCommand .osend (.osend c a b k) s with
            cell := c.toNat, op1 := x.bits, op2 := y.bits, keep := k
            parts := ((sendNodes (partOf s.pkg (taskPart s.before)) x.bits).getD []).map (BitVec.ofNat 32) } s)
      (noteReads [sourceReg a, sourceReg b] s)) s)

/-! ## The descriptor -/

/-- A descriptor as its cell holds it (R402). -/
structure Descriptor where
  magic : Nat
  count : Nat
  countHigh : Nat
  rank : Nat
  rankHigh : Nat
  n : Nat
  src : Nat
  dst : Nat
  zero : Nat
  root : Nat
  rootHigh : Nat
  tag : BitVec 16
  ident : BitVec 64
  entries : List (BitVec 32)
deriving DecidableEq, Repr

/-- R402: the descriptor in some bytes. `zero` gathers the bytes that must be 0. -/
def Descriptor.ofBytes (bs : List Byte) : Descriptor :=
  let f := bytesField bs
  let p := natField (f 4 2) 0 10 + 1
  { magic := f 0 4, count := p, countHigh := f 4 2 / 1024, rank := natField (f 6 2) 0 10, rankHigh := f 6 2 / 1024
    n := f 8 4, src := natField (f 12 1) 0 4, dst := natField (f 12 1) 4 4
    zero := f 13 1 + f 18 6 + f 32 32, root := natField (f 14 2) 0 10, rootHigh := f 14 2 / 1024
    tag := BitVec.ofNat 16 (f 16 2), ident := BitVec.ofNat 64 (f 24 8)
    entries := (List.range p).map fun i => BitVec.ofNat 32 (f (64 + 4 * i) 4) }

/-- R402: the fields of a participant entry. -/
def entryNode (e : BitVec 32) : Nat := (e.extractLsb' 0 8).toNat
def entryCore (e : BitVec 32) : Nat := (e.extractLsb' 16 6).toNat * 64 + (e.extractLsb' 8 6).toNat
def entryQueen (e : BitVec 32) : Bool := e.getLsbD 22
def entryFrame (e : BitVec 32) : Nat := (e.extractLsb' 8 4).toNat

/-- R402: whether an entry is out of range. -/
def entryBad (k : Package) (part : Nat) (e : BitVec 32) : Bool :=
  e >>> 23 != 0 ||
    (if entryQueen e then e.extractLsb' 12 10 != 0 else e.extractLsb' 14 2 != 0) ||
      (entryNode e == k.pnode.toNat &&
        !(if entryQueen e then frameIn k part (entryFrame e) else coreIn k part (entryCore e)))

/-- R402: whether entry RANK names the issuer. -/
def namesIssuer (s : State) (e : BitVec 32) : Bool :=
  entryNode e == s.pkg.pnode.toNat &&
    (if boundKind s = 1 then entryQueen e && entryFrame e == boundFrame s
     else !entryQueen e && entryCore e == s.here)

/-- R402: whether the length of a form is out of range. -/
def lengthBad (kind : CmdKind) (n : Nat) : Bool :=
  let unit := if kind = .collMx || kind = .collBs then 256 else 64
  n % unit != 0 || n < unit || 2 ^ 24 < n

/-- R402: whether a descriptor breaks its limits. -/
def Descriptor.bad (s : State) (kind : CmdKind) (d : Descriptor) : Bool :=
  d.magic != 0x4C4F434B || d.countHigh != 0 || d.rankHigh != 0 || d.count ≤ d.rank || lengthBad kind d.n ||
    d.zero != 0 || d.rootHigh != 0 || (if kind = .collBc then d.count ≤ d.root else d.root != 0) ||
      d.entries.any (entryBad s.pkg (taskPart s.before)) || !decide d.entries.Nodup ||
        !namesIssuer s (d.entries.getD d.rank 0)

/-- R403: the source and destination lengths of a form. -/
def sourceLength (kind : CmdKind) (d : Descriptor) : Nat :=
  if kind = .collMx || kind = .collBs then 4 * d.n else d.n
def destLength (kind : CmdKind) (d : Descriptor) : Nat :=
  if kind = .collBs then 4 * d.n else if kind = .collAg then d.count * d.n else d.n

/-- R403: the checks of cell E. -/
def exponentCheck (s : State) (kind : CmdKind) (e : Nat) (d : Descriptor) : Option (BitVec 8 × BitVec 64) :=
  let x := issueCell s.core e
  if kind = .collMx || kind = .collBs then
    firstFault [
      (!(if kind = .collMx then admitsFill x else engineReadable x), codeCellState, cellAddr e),
      (x.size < 2 * d.n / 256, codeCellBounds, cellAddr e)]
  else none

/-- R402: the checks of the source and destination ranges. -/
def rangeChecks (s : State) (kind : CmdKind) (d : Descriptor) (a b : XWord) : Option (BitVec 8 × BitVec 64) :=
  let src := handleOf s.before d.src
  let dst := handleOf s.before d.dst
  (handleCheck src d.src (commandVa src a) (sourceLength kind d) 1 (.load false false false)).or
    (if kind = .collMx then none
     else handleCheck dst d.dst (commandVa dst b) (destLength kind d) 1 .store)

/-- R402, R403: the descriptor in cell `c` as it stood before the bundle. -/
def descriptorIn (s : State) (c : Nat) : Descriptor :=
  Descriptor.ofBytes (combRead s (issueCell s.core c).base (min 4160 (issueCell s.core c).size))

/-- R402, R403: the checks of a collective, after poison. -/
def collectiveCheck (s : State) (kind : CmdKind) (c e : Nat) (a b : XWord) : Option (BitVec 8 × BitVec 64) :=
  let x := issueCell s.core c
  let d := descriptorIn s c
  (firstFault [
    (!engineReadable x, codeCellState, cellAddr c),
    (x.size < 64 + 4 * d.count, codeCellBounds, cellAddr c),
    (d.bad s kind, codeIllegalOperand, 0)]).or
      ((exponentCheck s kind e d).or (rangeChecks s kind d a b))

/-- R402, R403: the shape of the collectives. The bundle waits for what still has to fill the descriptor's cell (log
entry 16). -/
def collectiveForm (kind : CmdKind) (i : Instr) (c a b e : BitVec 6) (s : State) : State :=
  let x := readSource s.before a
  let y := readSource s.before b
  copyForm .collective (srcOk a && srcOk b)
    (fun s =>
      let cell := issueCell s.core c.toNat
      let d := descriptorIn s c.toNat
      afterChecks [x, y] (collectiveCheck s kind c.toNat e.toNat x.bits y.bits)
        (fun s => startCommand false
          { newCommand kind i s with
              cell := c.toNat, other := e.toNat, op1 := x.bits, op2 := y.bits, src := handleOf s.before d.src
              dst := handleOf s.before d.dst, tag := d.tag, sealing := true, parts := d.entries, rank := d.rank
              root := d.root, count := d.n, ident := d.ident } s)
        (noteCombWaits cell.base cell.size false (noteReads [sourceReg a, sourceReg b] s))) s

/-- R403, R404. -/
def execCollMx (c a b e : BitVec 6) (s : State) : Host.Outcome State Fault Refusal :=
  .next (collectiveForm .collMx (.collMx c a b e) c a b e s)

/-- R403, R404. -/
def execCollBs (c a b e : BitVec 6) (s : State) : Host.Outcome State Fault Refusal :=
  .next (collectiveForm .collBs (.collBs c a b e) c a b e s)

/-- R403, R405. -/
def execCollBc (c a b : BitVec 6) (s : State) : Host.Outcome State Fault Refusal :=
  .next (collectiveForm .collBc (.collBc c a b) c a b 0 s)

/-- R403, R405. -/
def execCollAg (c a b : BitVec 6) (s : State) : Host.Outcome State Fault Refusal :=
  .next (collectiveForm .collAg (.collAg c a b) c a b 0 s)

end Sys2Proof.Machine
end

