-- ==== Sys2Proof/Machine/SysReg.lean ====
section
/-!
DEFINITION. The system registers by number (R20, R23, R27, R31, R42, R52, R56, R60, R61, R170, R172, R174, R256, R327, R382,
R391) and the SS forms `mfsr` and `mtsr` (R131, R132).
-/

namespace Sys2Proof.Machine

/-- The system register numbers that are assigned; the queen core alone has 0x0A0 to 0x0A3 (R31, R382). -/
def sysAssigned (queen : Bool) (n : Nat) : Bool :=
  n ≤ 0x06 || (0x20 ≤ n && n ≤ 0x25) || (0x40 ≤ n && n ≤ 0x51) || n == 0x60 || (0x80 ≤ n && n ≤ 0x82) ||
    (queen && 0xA0 ≤ n && n ≤ 0xA3) || n == 0xC0 || n == 0xC1

/-- R170: a tile geometry register as a word. -/
def Geometry.word (g : Geometry) : XWord :=
  BitVec.ofNat 64 (g.fmt.toNat + g.es.toNat * 2 ^ 5 + g.rows.toNat * 2 ^ 8 + g.cols.toNat * 2 ^ 16)

/-- R170: the geometry that a word gives. -/
def Geometry.ofWord (v : XWord) : Geometry :=
  { fmt := v.extractLsb' 0 5, es := v.extractLsb' 5 2, rows := v.extractLsb' 8 8, cols := v.extractLsb' 16 10 }

/-- The tile geometry of tile `n`. -/
def tileGeometry (c : Core) (n : Nat) : Geometry := vget c.tg n { fmt := 0, es := 0, rows := 0, cols := 0 }

/-- Quire bank `n`. -/
def bankOf (c : Core) (n : Nat) : Bank := vget c.banks n Bank.reset

/-- System register `n` of the core in issue, as it stood before the bundle; a field that no row names reads 0 (R131). -/
def sysRead (s : State) (n : Nat) : XWord :=
  let c := s.before
  if n = 0x00 then 1
  else if n = 0x01 then BitVec.ofNat 64 (c.strict.toNat + 2 * c.check.toNat)
  else if n = 0x02 then c.cyc
  else if n = 0x03 then c.frz
  else if n = 0x04 then c.lc
  else if n = 0x05 then c.lps.setWidth 64
  else if n = 0x06 then c.lpe.setWidth 64
  else if n = 0x20 then c.rm.setWidth 64
  else if n = 0x21 then c.fflags.setWidth 64
  else if n = 0x22 then BitVec.ofNat 64 (c.nve.toNat + 32 * c.qoe.toNat)
  else if n = 0x23 then c.srkey.setWidth 64
  else if n = 0x24 then c.srstep.setWidth 64
  else if n = 0x25 then c.tes.setWidth 64
  else if 0x40 ≤ n && n ≤ 0x4F then (tileGeometry c (n - 0x40)).word
  else if n = 0x50 then c.tpitch.setWidth 64
  else if n = 0x51 then BitVec.ofNat 64 ((bankOf c 0).tag.toNat + 16 * (bankOf c 1).tag.toNat)
  else if n = 0x60 then c.dm.setWidth 64
  else if n = 0x80 then c.cstride0.setWidth 64
  else if n = 0x81 then c.cstride1.setWidth 64
  else if n = 0x82 then c.cidx.setWidth 64
  else if n = 0xA0 then c.bind0.setWidth 64
  else if n = 0xA1 then c.bind1.setWidth 64
  else if n = 0xA2 then c.skew0.setWidth 64
  else if n = 0xA3 then c.skew1.setWidth 64
  else if n = 0xC0 then s.pkg.time.setWidth 64
  else if n = 0xC1 then s.pkg.ptbound.setWidth 64
  else 0

/-- R174: a write of 5, 6 or 7 to a TAG field leaves it unchanged. -/
def writeTag (b : Bank) (t : BitVec 3) : Bank := if t.toNat ≤ 4 then { b with tag := t } else b

/-- R382: a write of KIND 3 keeps the old KIND. -/
def writeBind (old : BitVec 6) (v : XWord) : BitVec 6 :=
  if v.extractLsb' 4 2 = 3 then old.extractLsb' 4 2 ++ v.extractLsb' 0 4 else v.extractLsb' 0 6

/-- System register `n` written; read-only fields and reserved bits ignore the write (R132). -/
def sysWrite (n : Nat) (v : XWord) (c : Core) : Core :=
  if n = 0x01 then { c with strict := v.getLsbD 0, check := v.getLsbD 1 }
  else if n = 0x04 then { c with lc := v }
  else if n = 0x05 then { c with lps := v.setWidth 12 }
  else if n = 0x06 then { c with lpe := v.setWidth 12 }
  else if n = 0x20 then { c with rm := v.setWidth 3 }
  else if n = 0x21 then { c with fflags := v.setWidth 6 }
  else if n = 0x22 then { c with nve := v.getLsbD 0, qoe := v.getLsbD 5 }
  else if n = 0x23 then { c with srkey := v.setWidth 32 }
  else if n = 0x24 then { c with srstep := v.setWidth 32 }
  else if n = 0x25 then { c with tes := v.setWidth 6 }
  else if 0x40 ≤ n && n ≤ 0x4F then { c with tg := vset c.tg (n - 0x40) (Geometry.ofWord v) }
  else if n = 0x50 then { c with tpitch := v.setWidth 16 }
  else if n = 0x51 then
    let b0 := writeTag (bankOf c 0) (v.extractLsb' 0 3)
    let b1 := writeTag (bankOf c 1) (v.extractLsb' 4 3)
    { c with banks := vset (vset c.banks 0 b0) 1 b1 }
  else if n = 0x60 then { c with dm := v.setWidth 16 }
  else if n = 0x80 then { c with cstride0 := v.setWidth 48 }
  else if n = 0x81 then { c with cstride1 := v.setWidth 48 }
  else if n = 0x82 then { c with cidx := v.setWidth 26 }
  else if n = 0xA0 then { c with bind0 := writeBind c.bind0 v }
  else if n = 0xA1 then { c with bind1 := writeBind c.bind1 v }
  else if n = 0xA2 then { c with skew0 := v.setWidth 10 }
  else if n = 0xA3 then { c with skew1 := v.setWidth 10 }
  else c

/-- Whether a resource is busy for a reader, and for a writer (R175). -/
def writeBusy (r : Resource) (b : BusyOp) : Bool := b.writes.contains r
def anyBusy (r : Resource) (b : BusyOp) : Bool := b.writes.contains r || b.reads.contains r

/-- R312: whether an operation is the row-statistics engine's, whose steps are scheduled (R303). -/
def BusyOp.rows (b : BusyOp) : Bool := b.writes.contains .rowStats

/-- R175: what a matrix-class or VQ syllable needs free before it issues. A wait for the row-statistics engine is told from
one for the matrix unit (R307). -/
def noteResources (reads writes : List Resource) (s : State) : State :=
  let blocking := s.before.busy.filter fun b => reads.any (writeBusy · b) || writes.any (anyBusy · b)
  if blocking.isEmpty then s else noteWait (if blocking.all (·.rows) then .rows else .scoreboard) s

/-- R131. -/
def execMfsr (r : BitVec 6) (n : BitVec 12) (l : Lend) (s : State) : Host.Outcome State Fault Refusal :=
  .next (guarded l (dstOk r && sysAssigned (s.here == queenCore) n.toNat) r 2
    (fun s => landScalar r { bits := sysRead s n.toNat, poison := false } noFlags 2 none
      (noteReads [.sys n.toNat] s)) s)

/-- R132: a write of `sys.qtag` counts as a write of both banks (R174). -/
def execMtsr (r : BitVec 6) (n : BitVec 12) (l : Lend) (s : State) : Host.Outcome State Fault Refusal :=
  .next (guarded l (srcOk r && sysAssigned (s.here == queenCore) n.toNat) 0 1
    (fun s =>
      let v := readSource s.before r
      let s := noteReads [sourceReg r] s
      if v.poison then raiseFault codePoison 0 s
      else putLanding (.sys n.toNat) v.bits.toNat false noFlags 1 none
        (if n = 0x51 then noteResources [] [.bank 0, .bank 1] s else s)) s)

end Sys2Proof.Machine
end

