-- ==== Sys2Proof/Machine/Control.lean ====
section
/-!
DEFINITION. Branches, calls, the loop, poison checks, traps and breakpoints (R26 to R29, R123 to R130), and the SC forms of
tasks: `safe`, `yield`, `end`, `post`, `gbar` and `wait` (R204, R215, R219, R220, R291).
-/

namespace Sys2Proof.Machine

/-- R125: a control-flow syllable sets the pending transfer: three delay bundles, and a target when it is taken. -/
def setTransfer (taken : Bool) (target : BitVec 12) (s : State) : State :=
  s.onCore fun c => { c with transfer := { count := 3, taken := taken, target := if taken then target else 0 } }

/-- A target relative to the bundle in issue. -/
def relativeTarget (s : State) (off : BitVec 12) : BitVec 12 := s.before.pc + off

/-- R123. -/
def execBr (o : BitVec 23) (s : State) : Host.Outcome State Fault Refusal :=
  .next (setTransfer true (relativeTarget s (o.setWidth 12)) s)

/-- R123. -/
def execBrc (p : BitVec 3) (n : Bool) (o : BitVec 23) (s : State) : Host.Outcome State Fault Refusal :=
  .next (setTransfer (readP s.before p.toNat != n) (relativeTarget s (o.setWidth 12)) (noteReads [.pred p.toNat] s))

/-- R130. -/
def execNop (s : State) : Host.Outcome State Fault Refusal := .next s

/-- R124: a guarded transfer; a false guard suppresses it, and the delay bundles are counted all the same (R125). -/
def guardedTransfer (l : Lend) (legal : Bool) (body : State → State) (s : State) : State :=
  guarded l legal 0 1 body (setTransfer false 0 s)

/-- R124: the link is the bundle after the delay bundles (R26). -/
def execCall (t : BitVec 12) (l : Lend) (s : State) : Host.Outcome State Fault Refusal :=
  .next (guardedTransfer l true
    (fun s => landScalar 31 { bits := (s.before.pc + 4).setWidth 64, poison := false } noFlags 1 none
      (setTransfer true t s)) s)

/-- R124: a transfer to the low bits of a register. -/
def registerTransfer (a : BitVec 6) (s : State) : State :=
  let v := readSource s.before a
  let s := noteReads [sourceReg a] s
  if v.poison then raiseFault codePoison 0 s else setTransfer true (v.bits.setWidth 12) s

/-- R124. -/
def execRet (l : Lend) (s : State) : Host.Outcome State Fault Refusal :=
  .next (guardedTransfer l true (registerTransfer 31) s)

/-- R124. -/
def execJr (a : BitVec 6) (l : Lend) (s : State) : Host.Outcome State Fault Refusal :=
  .next (guardedTransfer l (srcOk a) (registerTransfer a) s)

/-- R28: whether a loop may not start here: a loop is active, or the end offset is 0. -/
def loopIllFormed (c : Core) (e : BitVec 12) : Bool := c.lc != 0 || e == 0

/-- R28. -/
def execLoop (a : BitVec 6) (e : BitVec 12) (s : State) : Host.Outcome State Fault Refusal :=
  .next (unguarded (srcOk a)
    (fun s =>
      let v := readSource s.before a
      let s := noteReads [sourceReg a] s
      let last := s.before.pc + e
      if loopIllFormed s.before e then raiseFault codeBundleForm (s.before.pc.setWidth 64) s
      else if v.poison then raiseFault codePoison 0 s
      else if v.bits = 0 then s.onIssue fun i => { i with nextPc := some (last + 1) }
      else s.onCore fun c => { c with lc := v.bits, lps := s.before.pc + 1, lpe := last }) s)

/-- R215: the decision is taken once the bundle has committed. -/
def execSafe (m : BitVec 9) (s : State) : Host.Outcome State Fault Refusal :=
  .next (s.onIssue fun i => { i with safe := some ((i.safe.getD 0) ||| m) })

/-- R215. -/
def execYield (m : BitVec 9) (s : State) : Host.Outcome State Fault Refusal :=
  .next (s.onIssue fun i => { i with yield := some ((i.yield.getD 0) ||| m) })

/-- R220. -/
def execEndTask (l : Lend) (s : State) : Host.Outcome State Fault Refusal :=
  .next (guarded l true 0 1 (fun s => s.onIssue fun i => { i with ends := true }) s)

/-- The cell that holds all of a range of comb addresses, if one does. -/
def cellHolding (c : Core) (lo len : Nat) : Option Nat :=
  (List.range 64).find? fun n =>
    (cellOf c n).state != .absent && (cellOf c n).base ≤ lo && lo + len ≤ (cellOf c n).base + (cellOf c n).size

/-- R204: the queue that a `post` names, if there is one. The queen core has no neighbours and no frame (R380; log entry 10). -/
def postQueue (s : State) (k : BitVec 2) (dx dy : Int) : Option Origin :=
  if k = 0 then some (.localQueue s.here)
  else if k = 1 then (neighbourIn s.pkg (taskPart s.before) s.here dx dy).map Origin.localQueue
  else if k = 2 then (if s.here = queenCore then none else some (.frameQueue (frameOf s.here)))
  else some .partitionQueue

/-- R204, R366: the status that a `post` of a card pushes. -/
def postStatus (s : State) (o : Option Origin) (card : List XWord) : XWord :=
  let p := partOf s.pkg (taskPart s.before)
  if p.draining || p.stopped then 1
  else match o with
    | none => 2
    | some q => if cardPackage card then 2 else if queueFull p q then 1 else 0

/-- The 32 words of a card in the comb (R204). -/
def combCard (s : State) (lo : Nat) : List XWord :=
  (List.range 32).map fun i => BitVec.ofNat 64 (ofBytes (combRead s (lo + 8 * i) 8))

/-- R204, R355. Among the checks of `post` the poison of the comb words stands last, a choice of the model (log entry 63). -/
def postCard (a : BitVec 6) (k : BitVec 2) (dx dy : BitVec 6) (s : State) : State :=
  let v := readSource s.before a
  let off := v.bits.toNat
  let s := noteReads [sourceReg a] s
  if v.poison then raiseFault codePoison 0 s
  else if off % 64 ≠ 0 || 0x3FF00 < off then raiseFault codeCellBounds 0 s
  else match cellHolding s.before off 256 with
    | none => raiseFault codeCellState 0 s
    | some n =>
      if !loadable (cellOf s.before n).state then raiseFault codeCellState (cellAddr n) s
      else if tagMismatch (cellOf s.before n) && s.before.relief != codeSchedule then
        raiseFault codeSchedule (cellAddr n) s
      else if combPoison s off 256 then raiseFault codePoison 0 s
      else
        let o := postQueue s k dx.toInt dy.toInt
        let card := combCard s off
        let st := postStatus s o card
        let s := clearCheck n (noteCombWaits off 256 false s)
        let s := match o with
          | some q => if st = 0 then notePost (.card card q) s else s
          | none => s
        pushResult st.toNat false noFlags 4 none s

/-- R204: a false guard posts nothing and pushes 0. -/
def execPost (a y x : BitVec 6) (k : BitVec 2) (l : Lend) (s : State) : Host.Outcome State Fault Refusal :=
  .next (guarded l (srcOk a) 32 4 (postCard a k x y) s)

/-- R219. -/
def execGbar (g : BitVec 2) (l : Lend) (s : State) : Host.Outcome State Fault Refusal :=
  .next (guarded l true 0 1
    (fun s =>
      let n := cardGroup (taskCard s.before) g.toNat
      if n = 0 then raiseFault codeGroup 0 s
      else notePost (.arrival n) (s.onIssue fun i => { i with hold := i.hold ++ [.barrier n] })) s)

/-- R291. -/
def execWait (c : BitVec 6) (l : Lend) (s : State) : Host.Outcome State Fault Refusal :=
  .next (guarded l true 0 1
    (fun s =>
      if (cellOf s.before c.toNat).state = .absent then raiseFault codeCellState (cellAddr c.toNat) s
      else s.onIssue fun i => { i with hold := i.hold ++ [.cell c.toNat s.before.pc] }) s)

/-- R128. -/
def execTrap (c : BitVec 15) (l : Lend) (s : State) : Host.Outcome State Fault Refusal :=
  .next (guarded l true 0 1 (raiseFault codeTrap (c.setWidth 64)) s)

/-- R129: the slot that stopped the core is a `nop` for the one issue after the resumption (R354). -/
def execBrk (c : BitVec 15) (l : Lend) (s : State) : Host.Outcome State Fault Refusal :=
  .next (guarded l true 0 1
    (fun s => if s.before.reliefSlots.getLsbD s.issue.slot then s else raiseFault codeBreakpoint (c.setWidth 64) s) s)

/-- R127. -/
def execChk (a : BitVec 6) (o : BitVec 15) (s : State) : Host.Outcome State Fault Refusal :=
  .next (unguarded (srcOk a)
    (fun s => setTransfer (readSource s.before a).poison (relativeTarget s (o.setWidth 12))
      (noteReads [sourceReg a] s)) s)

/-- R127. -/
def execChkv (v : BitVec 6) (o : BitVec 15) (s : State) : Host.Outcome State Fault Refusal :=
  .next (setTransfer (poisonV s.before v.toNat) (relativeTarget s (o.setWidth 12)) (noteReads [.v v.toNat] s))

end Sys2Proof.Machine
end

