-- ==== Sys2Proof/Machine/Copy.lean ====
section
/-!
DEFINITION. The copies CG (R328 to R337) and the remote write `cp.c2r` (R338, R339).
-/

namespace Sys2Proof.Machine

/-- R328: the pitch of the comb rows. -/
def combPitch (str1 : BitVec 48) (b : Nat) : Nat := if str1 = 0 then b else str1.toNat

/-- R328: the extent of the comb side. -/
def combExtent (str1 : BitVec 48) (l : XWord) : Nat := (rowCount l - 1) * combPitch str1 (rowBytes l) + rowBytes l

/-- R328, R330 check 3: whether the comb limits fail. -/
def combLimits (str1 : BitVec 48) (l : XWord) (size : Nat) : Bool :=
  rowBytes l == 0 || size < combExtent str1 l || (str1 != 0 && (str1.toNat < rowBytes l || 2 ^ 18 ≤ str1.toNat))

/-- R330 check 3: whether `sys.cidx` does not suit a form that uses it. -/
def indexLimits (kind : CmdKind) (cidx : BitVec 26) (l : XWord) (size : Nat) : Bool :=
  2 ≤ indexSize cidx || size < indexOffset cidx + indexBytes kind cidx (rowCount l)

/-- R330 check 5: the virtual address of the first or last row when it lies outside a handle. -/
def rowsOutside (h : Handle) (off : XWord) (stride : BitVec 48) (l : XWord) : Option (BitVec 64) :=
  let first := commandVa h off
  let last := first + (rowCount l - 1 : Nat) * stride.toInt
  let out := fun (va : Int) => va < h.base.toNat || (h.base.toNat : Int) + h.len.toNat < va + rowBytes l
  if out first then some (BitVec.ofInt 64 first) else if out last then some (BitVec.ofInt 64 last) else none

/-- R330 check 4. -/
def invalidHandle (h : Handle) (n : BitVec 4) : Option (BitVec 8 × BitVec 64) :=
  if h.valid then none else some (codeHandle, n.setWidth 64)

/-- R330 checks 6 and 7, at the virtual address of the first row. -/
def modeCheck (h : Handle) (store : Bool) (va : Int) : Option (BitVec 8 × BitVec 64) :=
  match (if store then storeFault h.mode else loadFault h.mode) with
  | some code => some (code, BitVec.ofInt 64 va)
  | none => if store && !h.w then some (codePermission, BitVec.ofInt 64 va) else none

/-- R330 checks 2 and 3 for a form with a cell; `index` says that it uses `sys.cidx`. -/
def cgCellCheck (s : State) (kind : CmdKind) (n : Nat) (l : XWord) (fill index : Bool) :
    Option (BitVec 8 × BitVec 64) :=
  let x := issueCell s.core n
  let i := indexCell s.before.cidx
  let y := issueCell s.core i
  firstFault [
    (!(if fill then admitsFill x else x.state == .full), codeCellState, cellAddr n),
    (index && !engineReadable y, codeCellState, cellAddr i),
    (combLimits s.before.cstride1 l x.size, codeCellBounds, cellAddr n),
    (index && indexLimits kind s.before.cidx l y.size, codeCellBounds, cellAddr i)]

/-- R330: checks 2 to 7 of a form with a cell; `rows` says that check 5 covers its rows. -/
def cgCheck (s : State) (kind : CmdKind) (n : Nat) (hn : BitVec 4) (off l : XWord) (fill index rows : Bool) :
    Option (BitVec 8 × BitVec 64) :=
  let h := handleOf s.before hn.toNat
  ((cgCellCheck s kind n l fill index).or (invalidHandle h hn)).or
    ((if rows then (rowsOutside h off s.before.cstride0 l).map fun va => (codeBounds, va) else none).or
      (modeCheck h (!fill) (commandVa h off)))

/-- R326 to R330: the shape of the forms with a cell and a global side. -/
def cgForm (kind : CmdKind) (i : Instr) (c : BitVec 6) (hn : BitVec 4) (o n : BitVec 6) (fill index rows : Bool)
    (set : Command → Command) (s : State) : State :=
  let off := readSource s.before o
  let l := readSource s.before n
  copyForm .own (srcOk o && srcOk n)
    (fun s => afterChecks [off, l] (cgCheck s kind c.toNat hn off.bits l.bits fill index rows)
      (fun s => startCommand false
        (set { newCommand kind i s with
                cell := c.toNat, op1 := off.bits, op2 := l.bits, src := handleOf s.before hn.toNat }) s)
      (noteReads ([sourceReg o, sourceReg n, .sys 0x80, .sys 0x81] ++ (if index then [.sys 0x82] else [])) s)) s

/-- R331: T makes the fill sealing, with the tag of the lend. -/
def sealBy (t : Bool) (l : Lend) (k : Command) : Command := { k with sealing := t, tag := l.setWidth 16 }

/-- R331. -/
def execCpG2c (c : BitVec 6) (h : BitVec 4) (o n : BitVec 6) (t : Bool) (l : Lend) (s : State) :
    Host.Outcome State Fault Refusal :=
  .next (cgForm .g2c (.cpG2c c h o n t l) c h o n true false true (sealBy t l) s)

/-- R332. -/
def execCpC2g (c : BitVec 6) (h : BitVec 4) (o n : BitVec 6) (k : Bool) (s : State) :
    Host.Outcome State Fault Refusal :=
  .next (cgForm .c2g (.cpC2g c h o n k) c h o n false false true (fun m => { m with keep := k }) s)

/-- R333. -/
def execCpGat (c : BitVec 6) (h : BitVec 4) (o n : BitVec 6) (t : Bool) (l : Lend) (s : State) :
    Host.Outcome State Fault Refusal :=
  .next (cgForm .gat (.cpGat c h o n t l) c h o n true true false (sealBy t l) s)

/-- R333. -/
def execCpSct (c : BitVec 6) (h : BitVec 4) (o n : BitVec 6) (s : State) : Host.Outcome State Fault Refusal :=
  .next (cgForm .sct (.cpSct c h o n) c h o n false true false id s)

/-- R334. -/
def execCpBmg (c : BitVec 6) (h : BitVec 4) (o n : BitVec 6) (t : Bool) (l : Lend) (s : State) :
    Host.Outcome State Fault Refusal :=
  .next (cgForm .bmg (.cpBmg c h o n t l) c h o n true true true (sealBy t l) s)

/-- R335: the destination handle is in lend bits 3 to 0, and the x register of its offset in bits 8 to 4. -/
def execCpG2g (h : BitVec 4) (o n : BitVec 6) (l : Lend) (s : State) : Host.Outcome State Fault Refusal :=
  let hd : BitVec 4 := l.extractLsb' 0 4
  let xd := (l.extractLsb' 4 5).toNat
  let off := readSource s.before o
  let len := readSource s.before n
  let doff := readX s.before xd
  let src := handleOf s.before h.toNat
  let dst := handleOf s.before hd.toNat
  let bounds := fun (x : Option (BitVec 64)) => x.map fun va => (codeBounds, va)
  let check := ((invalidHandle src h).or (invalidHandle dst hd)).or
    ((if rowBytes len.bits = 0 then some (codeBounds, BitVec.ofInt 64 (commandVa src off.bits)) else none).or
      ((bounds (rowsOutside src off.bits s.before.cstride0 len.bits)).or
        ((bounds (rowsOutside dst doff.bits s.before.cstride1 len.bits)).or
          ((modeCheck src false (commandVa src off.bits)).or (modeCheck dst true (commandVa dst doff.bits))))))
  .next (copyForm .edgeCopy (srcOk o && srcOk n)
    (fun s => afterChecks [off, len, doff] check
      (fun s => startCommand false
        { newCommand .g2g (.cpG2g h o n l) s with
            op1 := off.bits, op2 := len.bits, op3 := doff.bits, src := src, dst := dst } s)
      (noteReads [sourceReg o, sourceReg n, .x xd, .sys 0x80, .sys 0x81] s)) s)

/-- R337: the region's valid bit is cleared at issue. -/
def execCpOvl (r h : BitVec 4) (o : BitVec 6) (s : State) : Host.Outcome State Fault Refusal :=
  let off := readSource s.before o
  let src := handleOf s.before h.toNat
  let va := commandVa src off.bits
  let check := (invalidHandle src h).or
    (firstFault [
      (va % 64 != 0 || va < src.base.toNat || (src.base.toNat : Int) + src.len.toNat < va + 4096, codeBounds,
        BitVec.ofInt 64 va)] |>.or (modeCheck src false va))
  .next (copyForm .own (srcOk o)
    (fun s => afterChecks [off] check
      (fun s => startCommand false
        { newCommand .ovl (.cpOvl r h o) s with imm := r.toNat, op1 := off.bits, src := src }
        (s.onCore fun c => { c with
          overlays := vset c.overlays r.toNat { vget c.overlays r.toNat { valid := false, image := 0, part := 0 } with valid := false } }))
      (noteReads [sourceReg o] s)) s)

/-- R338: the cell and the tag that the second operand of `cp.c2r` names, if its reserved bits are zero. -/
def remoteCell (b : XWord) : Option (Nat × BitVec 16) :=
  if b.extractLsb' 6 2 = 0 && b >>> 24 = 0 then some ((b.extractLsb' 0 6).toNat, b.extractLsb' 8 16) else none

/-- R339. -/
def execCpC2r (c a b : BitVec 6) (s : State) : Host.Outcome State Fault Refusal :=
  let x := readSource s.before a
  let y := readSource s.before b
  let dest := namedCore s x.bits
  let named := remoteCell y.bits
  .next (copyForm .own (srcOk a && srcOk b)
    (fun s => afterChecks [x, y]
      (firstFault [
        ((issueCell s.core c.toNat).state != .full, codeCellState, cellAddr c.toNat),
        (dest.isNone || named.isNone, codeCellState, cellAddr c.toNat)])
      (fun s => startCommand false
        { newCommand .c2r (.cpC2r c a b) s with
            cell := c.toNat, op1 := x.bits, op2 := y.bits, target := dest.getD 0, other := (named.getD (0, 0)).1
            tag := (named.getD (0, 0)).2 } s)
      (noteReads [sourceReg a, sourceReg b] s)) s)

end Sys2Proof.Machine
end

