-- ==== Sys2Proof/Machine/DecoderCmds.lean ====
section
/-!
DEFINITION. The decoder commands CD as they issue (R340 to R342). At issue they raise no fault but those of R100; what the
decoder finds is imprecise (R323).
-/

namespace Sys2Proof.Machine

/-- R341. -/
def execDecTab (c : BitVec 6) (t : BitVec 2) (s : State) : Host.Outcome State Fault Refusal :=
  .next (copyForm .own true
    (fun s => startCommand true { newCommand .decTab (.decTab c t) s with cell := c.toNat, slot := t.toNat } s) s)

/-- R341: the tile has 21 bits, its low twelve in the syllable. -/
def execDecOpen (c : BitVec 6) (t n : BitVec 2) (i : BitVec 12) (l : Lend) (s : State) :
    Host.Outcome State Fault Refusal :=
  .next (copyForm .own true
    (fun s => startCommand true
      { newCommand .decOpen (.decOpen c t n i l) s with
          cell := c.toNat, slot := t.toNat, stream := n.toNat, imm := (l ++ i).toNat } s) s)

/-- R341. -/
def execDecSeek (n : BitVec 2) (k : BitVec 12) (s : State) : Host.Outcome State Fault Refusal :=
  .next (copyForm .own true
    (fun s => startCommand true { newCommand .decSeek (.decSeek n k) s with stream := n.toNat, imm := k.toNat } s) s)

/-- R341, R342. -/
def execDecSave (c : BitVec 6) (n : BitVec 2) (o : BitVec 12) (s : State) : Host.Outcome State Fault Refusal :=
  .next (copyForm .own true
    (fun s => startCommand true
      { newCommand .decSave (.decSave c n o) s with
          cell := c.toNat, stream := n.toNat, imm := 32 * o.toNat } s) s)

/-- R341, R342. -/
def execDecLoad (c : BitVec 6) (n : BitVec 2) (o : BitVec 12) (s : State) : Host.Outcome State Fault Refusal :=
  .next (copyForm .own true
    (fun s => startCommand true
      { newCommand .decLoad (.decLoad c n o) s with cell := c.toNat, stream := n.toNat, imm := 32 * o.toNat } s) s)

end Sys2Proof.Machine
end

