-- ==== Sys2Proof/Machine/Quire.lean ====
section
/-!
DEFINITION. Quire banks: slots and views (R45 to R47, R173), exact accumulation (R48), rounding a slot out (R50), and the
save image (R51).
-/

namespace Sys2Proof.Machine

/-- A bank's shape (R173): granules per slot, the output size m × n, the reduction step k and the tag code. -/
structure Shape where
  g : Nat
  m : Nat
  n : Nat
  k : Nat
  code : BitVec 3
deriving DecidableEq, Repr

/-- R173: the shape of a format. -/
def shapeOf (f : BitVec 5) : Shape :=
  match f.toNat with
  | 0 => { g := 16, m := 4, n := 4, k := 4, code := 4 }
  | 1 => { g := 4, m := 8, n := 8, k := 4, code := 0 }
  | 9 => { g := 4, m := 8, n := 8, k := 4, code := 0 }
  | 2 => { g := 4, m := 8, n := 8, k := 8, code := 0 }
  | 3 => { g := 2, m := 8, n := 16, k := 8, code := 1 }
  | 10 => { g := 2, m := 8, n := 16, k := 8, code := 1 }
  | 6 => { g := 2, m := 16, n := 8, k := 16, code := 2 }
  | 7 => { g := 2, m := 16, n := 8, k := 16, code := 2 }
  | 8 => { g := 2, m := 16, n := 8, k := 32, code := 2 }
  | _ => { g := 1, m := 16, n := 16, k := 8, code := 3 }

/-- R173, R174: the shape that a bank's tag records; only its view and output size are read. -/
def shapeOfTag (t : BitVec 3) : Shape :=
  match t.toNat with
  | 0 => shapeOf 1
  | 1 => shapeOf 3
  | 2 => shapeOf 6
  | 3 => shapeOf 12
  | _ => shapeOf 0

/-- The bits below the point of a slot of `g` granules (R45). -/
def quireFraction (g : Nat) : Nat := 136 * g

/-- A slot: its extended value X (R47) and its status NAN, PINF, NINF, OVF from bit 0. -/
structure Slot where
  x : Int
  status : BitVec 4
deriving DecidableEq, Repr

/-- Granule `i` of a bank. -/
def granule (b : Bank) (i : Nat) : Granule := vget b.granules i { q := 0, status := 0, wrap := 0 }

/-- R46, R47: slot `i` of a bank in the view of `g` granules. -/
def slotGet (b : Bank) (g i : Nat) : Slot :=
  let gs := (List.range g).map fun k => granule b (g * i + k)
  let q := packLanes 272 (gs.map (·.q.toNat))
  let w := packLanes 12 (gs.map (·.wrap.toNat))
  { x := signedOf (284 * g) (q + w * 2 ^ (272 * g)), status := gs.foldl (fun a r => a ||| r.status) 0 }

/-- R48: OVF says whether X lies outside the view's range. -/
def overflows (g : Nat) (x : Int) : Bool := x < -(2 ^ (272 * g - 1) : Int) || (2 ^ (272 * g - 1) : Int) ≤ x

/-- X reduced modulo 2^(W + 12g), as a signed value. -/
def wrapSlot (g : Nat) (x : Int) : Int := signedOf (284 * g) (wrapTo (284 * g) x)

/-- R47: a slot written: its status goes into its lowest granule and the fields of the others are cleared. -/
def slotPut (b : Bank) (g i : Nat) (s : Slot) : Bank :=
  let v := wrapTo (284 * g) s.x
  let part := fun (k : Nat) =>
    ({ q := BitVec.ofNat 272 (natField v (272 * k) 272), status := if k = 0 then s.status else 0
       wrap := BitVec.ofNat 12 (natField v (272 * g + 12 * k) 12) } : Granule)
  let gs := (List.range g).foldl (fun gs k => vset gs (g * i + k) (part k)) b.granules
  { b with granules := gs }

/-- A slot with X replaced: OVF follows it (R48). -/
def Slot.withX (g : Nat) (s : Slot) (x : Int) : Slot :=
  let y := wrapSlot g x
  { x := y, status := setBit s.status 3 (overflows g y) }

/-- R48: accumulation of an exact value into a slot. OVF states whether X lies outside the range. -/
def quireAdd (g : Nat) (s : Slot) (v : Num) : Slot :=
  match v with
  | .nan _ _ _ => ({ s with status := setBit s.status 0 true } : Slot).withX g s.x
  | .nar => ({ s with status := setBit s.status 0 true } : Slot).withX g s.x
  | .inf false => ({ s with status := setBit s.status 1 true } : Slot).withX g s.x
  | .inf true => ({ s with status := setBit s.status 2 true } : Slot).withX g s.x
  | .fin n m e => s.withX g (s.x + floorScaled n m (e + quireFraction g))
where
  /-- ⌊±m × 2^e⌋. -/
  floorScaled (n : Bool) (m : Nat) (e : Int) : Int :=
    let v : Int := if n then -(m : Int) else m
    if 0 ≤ e then v * 2 ^ e.toNat else v / (2 ^ (-e).toNat : Int)

/-- R48: accumulation into slot `i` of a bank. -/
def bankAdd (b : Bank) (g i : Nat) (v : Num) : Bank := slotPut b g i (quireAdd g (slotGet b g i) v)

/-- R50: a slot rounded out to a layout. -/
def roundSlot (l : Layout) (rm : BitVec 3) (sat : Bool) (r g : Nat) (s : Slot) : Rounded :=
  let none' : Nat := if l.isInt then 0 else l.defaultNan
  if s.status.getLsbD 0 || (s.status.getLsbD 1 && s.status.getLsbD 2) then { bits := none', flags := flagNV }
  else if s.status.getLsbD 1 then convertInf l rm sat false
  else if s.status.getLsbD 2 then convertInf l rm sat true
  else if s.status.getLsbD 3 then { bits := none', flags := flagQO }
  else
    let q := signedOf (272 * g) (wrapTo (272 * g) s.x)
    if q = 0 then plainResult 0
    else roundExact l rm sat r { neg := q < 0, m := q.natAbs, e := -(quireFraction g : Int), sticky := false }

/-- A bank with every slot zero and its status clear. -/
def Bank.cleared (tag : BitVec 3) : Bank := { Bank.reset with tag := tag }

/-- R51: the save image of full quire `j`. -/
def quireImage (b : Bank) (j : Nat) : List Byte :=
  let gs := (List.range 4).map fun k => granule b (4 * j + k)
  toBytes 136 (packLanes 272 (gs.map (·.q.toNat))) ++ toBytes 2 (packLanes 4 (gs.map (·.status.toNat))) ++
    toBytes 6 (packLanes 12 (gs.map (·.wrap.toNat)))

/-- R51: a bank as 64 consecutive images. -/
def bankImage (b : Bank) : List Byte := (List.range 64).flatMap (quireImage b)

/-- R51: full quire `j` restored from its image; the tag stays (R190). -/
def putImage (b : Bank) (j : Nat) (bs : List Byte) : Bank :=
  let q := bytesField bs 0 136
  let st := bytesField bs 136 2
  let w := bytesField bs 138 6
  let part := fun (k : Nat) =>
    ({ q := BitVec.ofNat 272 (natField q (272 * k) 272), status := BitVec.ofNat 4 (natField st (4 * k) 4)
       wrap := BitVec.ofNat 12 (natField w (12 * k) 12) } : Granule)
  let gs := (List.range 4).foldl (fun gs k => vset gs (4 * j + k) (part k)) b.granules
  { b with granules := gs }

/-- R190: a bank read from 9,216 bytes. -/
def bankOfImage (b : Bank) (bs : List Byte) : Bank :=
  (List.range 64).foldl (fun b j => putImage b j ((bs.drop (144 * j)).take 144)) b

end Sys2Proof.Machine
end

