-- ==== Sys2Proof/Machine/Elementary.lean ====
section
/-!
DEFINITION. The correctly rounded 2^x, e^x and log₂ x of R62 and R157. A fixed-point approximation with a proved-out
error allowance gives a bracket of the exact value; when both ends of the bracket round alike, that is the result, and
otherwise the precision is doubled.
-/

namespace Sys2Proof.Machine

/-- Σ x^(2k+1) / ((2k+1)) from the term `t` on, in fixed point with `p` fraction bits; `x2` is x². -/
def atanhSeries (p : Nat) (x2 : Nat) : Nat → Nat → Nat → Nat
  | 0, _, _ => 0
  | fuel + 1, k, t => if t = 0 then 0 else t / (2 * k + 1) + atanhSeries p x2 fuel (k + 1) (t * x2 / 2 ^ p)

/-- 2 × artanh(num/den) in fixed point with `p` fraction bits. -/
def twoAtanh (p num den : Nat) : Nat :=
  let x := num * 2 ^ p / den
  2 * atanhSeries p (x * x / 2 ^ p) p 0 x

/-- ln 2 in fixed point with `p` fraction bits. -/
def ln2 (p : Nat) : Nat := twoAtanh p 1 3

/-- Σ x^k / k! from the term `t` on, in fixed point. -/
def expSeries (p : Nat) (x : Nat) : Nat → Nat → Nat → Nat
  | 0, _, _ => 0
  | fuel + 1, k, t => if t = 0 then 0 else t + expSeries p x fuel (k + 1) (t * x / 2 ^ p / (k + 1))

/-- e^x for a fixed-point x of `p` fraction bits, 0 ≤ x < 1. -/
def expFixed (p x : Nat) : Nat := expSeries p x p 0 (2 ^ p)

/-- The error allowance of every fixed-point result, in units of its last place. -/
def fixedSlack : Nat := 2 ^ 20

/-- A bracket of a positive value: two magnitudes with the exact value strictly between them. -/
structure Bracket where
  lo : Exact
  hi : Exact
deriving DecidableEq, Repr

/-- The bracket around `y × 2^e`. -/
def bracket (neg : Bool) (y : Nat) (e : Int) : Bracket :=
  { lo := { neg := neg, m := y - fixedSlack, e := e, sticky := true }
    hi := { neg := neg, m := y + fixedSlack, e := e, sticky := true } }

/-- The fixed-point value, rounded down, of (−1)^neg × m × 2^e with `p` fraction bits. -/
def toFixed (p : Nat) (neg : Bool) (m : Nat) (e : Int) : Int := scaledInt neg m e (-(p : Int))

/-- The bracket of 2^x. -/
def exp2Bracket (p : Nat) (neg : Bool) (m : Nat) (e : Int) : Bracket :=
  let x := toFixed p neg m e
  let n := x / (2 ^ p : Int)
  let f := (x % (2 ^ p : Int)).toNat
  bracket false (expFixed p (f * ln2 p / 2 ^ p)) (n - p)

/-- The bracket of e^x. -/
def expBracket (p : Nat) (neg : Bool) (m : Nat) (e : Int) : Bracket :=
  let x := toFixed p neg m e
  let l : Int := ln2 p
  let n := x / l
  let f := (x - n * l).toNat
  bracket false (expFixed p f) (n - p)

/-- The bracket of log₂ of a positive value that is no power of two. -/
def log2Bracket (p : Nat) (m : Nat) (e : Int) : Bracket :=
  let top := Nat.log2 m
  -- z = m / 2^top lies in (1, 2); (z − 1)/(z + 1) = (m − 2^top)/(m + 2^top)
  let frac := twoAtanh p (m - 2 ^ top) (m + 2 ^ top) * 2 ^ p / ln2 p
  let y : Int := ((top : Int) + e) * 2 ^ p + frac
  bracket (y < 0) y.natAbs (-(p : Int))

/-- The first precision of the search; each later one is twice the one before. -/
def firstPrecision : Nat := 256

/-- The rounding on which both ends of a bracket agree, searched at rising precision. The exact value of these functions is
irrational here, so that some precision settles it; the last of the search is rounded as it is (log entry 9). -/
def settled (l : Layout) (i : RoundIn) (at' : Nat → Bracket) : Nat → Nat → Rounded
  | 0, p => roundMag l i.rm i.r (at' p).lo
  | fuel + 1, p =>
    let b := at' p
    let lo := roundMag l i.rm i.r b.lo
    if b.lo.m != 0 && lo == roundMag l i.rm i.r b.hi then lo else settled l i at' fuel (2 * p)

/-- The doublings of precision that the search makes. -/
def doublings : Nat := 3

/-- A magnitude just above, or just below, 1. -/
def besideOne (below : Bool) : Exact :=
  { neg := false, m := if below then 2 ^ 200 - 1 else 2 ^ 200, e := -200, sticky := true }

/-- A magnitude beyond every format's range, or below every format's smallest value. -/
def beyondRange (tiny : Bool) : Exact :=
  { neg := false, m := 2 ^ 200, e := if tiny then -20000 else 20000, sticky := true }

/-- R62: 2^a or e^a: exact at an integer power of two, and rounded once elsewhere. -/
def powerOp (base2 : Bool) (l : Layout) (i : RoundIn) (a : Num) : Rounded :=
  (nanOperand l [a]).getD
    (match a with
     | .inf false => convertInf l i.rm false false
     | .inf true => plainResult (zeroBits l false)
     | .fin n m e =>
       if m = 0 then roundNum l i.rm false i.r (.fin false 1 0)
       else
         let top := floorLog2 m e
         if 13 < top then roundMag l i.rm i.r (beyondRange n)
         else if top < -190 then roundMag l i.rm i.r (besideOne n)
         else if base2 && (0 ≤ e || m % 2 ^ (-e).toNat == 0) then
           roundNum l i.rm false i.r (.fin false 1 (scaledInt n m e 0))
         else settled l i (fun p => if base2 then exp2Bracket p n m e else expBracket p n m e) doublings firstPrecision
     | _ => invalidResult l)

/-- R157: 2^a. -/
def exp2Op (l : Layout) (i : RoundIn) (a : Num) : Rounded := powerOp true l i a

/-- R157: e^a. -/
def expOp (l : Layout) (i : RoundIn) (a : Num) : Rounded := powerOp false l i a

/-- R62, R157: log₂ a. -/
def log2Op (l : Layout) (i : RoundIn) (a : Num) : Rounded :=
  (nanOperand l [a]).getD
    (match a with
     | .inf false => convertInf l i.rm false false
     | .fin n m e =>
       if m = 0 then { bits := signBit l true + l.infBits, flags := flagDZ }
       else if n then invalidResult l
       else if m = 2 ^ Nat.log2 m then
         let v := floorLog2 m e
         if v = 0 then plainResult (zeroBits l false)
         else roundNum l i.rm false i.r (.fin (v < 0) v.natAbs 0)
       else settled l i (fun p => log2Bracket p m e) doublings firstPrecision
     | _ => invalidResult l)

end Sys2Proof.Machine
end

