-- ==== Sys2Proof/Machine/VecFloat.lean ====
section
/-!
DEFINITION. The vector floating-point forms VF (R145 to R149) and the special functions VS (R157).
-/

namespace Sys2Proof.Machine

/-- R86: the format code of a VF or VS type. -/
def vecFormat (t : BitVec 3) : BitVec 5 :=
  match t.toNat with
  | 4 => 9
  | 5 => 10
  | n => BitVec.ofNat 5 n

/-- R42: the es that `sys.tes` gives a tapered format. -/
def systemEs (c : Core) (f : BitVec 5) : Nat :=
  match f.toNat with
  | 9 => (c.tes.extractLsb' 4 2).toNat
  | 10 => (c.tes.extractLsb' 2 2).toNat
  | 11 => (c.tes.extractLsb' 0 2).toNat
  | _ => 0

/-- The layout of a VF or VS type. -/
def vecLayout (c : Core) (t : BitVec 3) : Layout := layoutOf (vecFormat t) (systemEs c (vecFormat t))

/-- R68, R145: the mode of an F-kind lend. -/
def lendMode (c : Core) (l : Lend) : BitVec 3 := if l.getLsbD 4 then l.extractLsb' 5 3 else c.rm

/-- R71: the x register that an SR base bit names. -/
def srBase (b : Bool) : Nat := if b then 17 else 0

/-- R54, R145: how lane `i` rounds: A is the base register plus the lane's byte offset. -/
def laneRound (c : Core) (rm : BitVec 3) (base z i : Nat) : RoundIn :=
  { rm := rm
    r := if isStochastic rm then gen c.srkey c.srstep ((readX c base).bits + BitVec.ofNat 64 (i * z)) else 0 }

/-- R71, R109: under SR and SR-SAT a form reads its base register, and a poisoned one is consumed. -/
def withBase (rm : BitVec 3) (base : Nat) (k : State → State) (s : State) : State :=
  if isStochastic rm then
    let s := noteReads [.x base] s
    if (readX s.before base).poison then raiseFault codePoison 0 s else k s
  else k s

/-- R145: a lane-wise form that rounds. -/
def roundedForm (lat : Nat) (w : BitVec 2) (d : BitVec 6) (srcs : List Nat) (readsD : Bool) (t : BitVec 3) (l : Lend)
    (f : Layout → RoundIn → Nat → Rounded) (s : State) : State :=
  let y := vecLayout s.before t
  let rm := lendMode s.before l
  let base := srBase (l.getLsbD 8)
  withBase rm base
    (vectorForm w y.bits (maskOf l) d srcs readsD false lat
      fun i => f y (laneRound s.before rm base y.bytes i) i) s

/-- Lane `i` of a v register as a number. -/
def numLane (y : Layout) (v : VWord) (i : Nat) : Num := decodeNum y (lane v y.bits i)

/-- R24: the bound of an arithmetic VF form. -/
def vecBound (t : BitVec 3) : Nat := if 4 ≤ t.toNat then 5 else 4

/-- R146: a form of two rounded operands. -/
def floatLanes (op : Layout → RoundIn → Num → Num → Rounded) (lat : Nat) (w : BitVec 2) (d a b : BitVec 6) (t : BitVec 3)
    (l : Lend) (s : State) : State :=
  let x := readV s.before a.toNat
  let z := readV s.before b.toNat
  roundedForm lat w d [a.toNat, b.toNat] false t l (fun y i k => op y i (numLane y x k) (numLane y z k)) s

/-- R146: `vfma` and `vfnma`, which always read their destination as the addend. -/
def fusedLanes (negate : Bool) (w : BitVec 2) (d a b : BitVec 6) (t : BitVec 3) (l : Lend) (s : State) : State :=
  let x := readV s.before a.toNat
  let z := readV s.before b.toNat
  let c := readV s.before d.toNat
  roundedForm (vecBound t) w d [a.toNat, b.toNat] true t l
    (fun y i k => fmaOp y i negate (numLane y x k) (numLane y z k) (numLane y c k)) s

/-- R146: `vfadd`. -/
def execVfadd (w : BitVec 2) (d a b : BitVec 6) (t : BitVec 3) (l : Lend) (s : State) : Host.Outcome State Fault Refusal :=
  .next (floatLanes addOp (vecBound t) w d a b t l s)

/-- R146: `vfsub`. -/
def execVfsub (w : BitVec 2) (d a b : BitVec 6) (t : BitVec 3) (l : Lend) (s : State) : Host.Outcome State Fault Refusal :=
  .next (floatLanes subOp (vecBound t) w d a b t l s)

/-- R146: `vfmul`. -/
def execVfmul (w : BitVec 2) (d a b : BitVec 6) (t : BitVec 3) (l : Lend) (s : State) : Host.Outcome State Fault Refusal :=
  .next (floatLanes mulOp (vecBound t) w d a b t l s)

/-- R146, R58: `vfma`. -/
def execVfma (w : BitVec 2) (d a b : BitVec 6) (t : BitVec 3) (l : Lend) (s : State) : Host.Outcome State Fault Refusal :=
  .next (fusedLanes false w d a b t l s)

/-- R146, R58: `vfnma`. -/
def execVfnma (w : BitVec 2) (d a b : BitVec 6) (t : BitVec 3) (l : Lend) (s : State) : Host.Outcome State Fault Refusal :=
  .next (fusedLanes true w d a b t l s)

/-- R147: a lane-wise form on patterns that does not round. -/
def patternLanes (w : BitVec 2) (d : BitVec 6) (srcs : List Nat) (t : BitVec 3) (l : Lend) (f : Layout → Nat → Rounded)
    (s : State) : State :=
  let y := vecLayout s.before t
  vectorForm w y.bits (maskOf l) d srcs false false 2 (f y) s

/-- R147: `vfmin`. -/
def execVfmin (w : BitVec 2) (d a b : BitVec 6) (t : BitVec 3) (l : Lend) (s : State) : Host.Outcome State Fault Refusal :=
  .next (patternLanes w d [a.toNat, b.toNat] t l
    (fun y i => minMaxOp y true (lane (readV s.before a.toNat) y.bits i) (lane (readV s.before b.toNat) y.bits i)) s)

/-- R147: `vfmax`. -/
def execVfmax (w : BitVec 2) (d a b : BitVec 6) (t : BitVec 3) (l : Lend) (s : State) : Host.Outcome State Fault Refusal :=
  .next (patternLanes w d [a.toNat, b.toNat] t l
    (fun y i => minMaxOp y false (lane (readV s.before a.toNat) y.bits i) (lane (readV s.before b.toNat) y.bits i)) s)

/-- R147: `vfabs`. -/
def execVfabs (w : BitVec 2) (d a : BitVec 6) (t : BitVec 3) (l : Lend) (s : State) : Host.Outcome State Fault Refusal :=
  .next (patternLanes w d [a.toNat] t l
    (fun y i => plainResult (absOp y (lane (readV s.before a.toNat) y.bits i))) s)

/-- R147: `vfneg`. -/
def execVfneg (w : BitVec 2) (d a : BitVec 6) (t : BitVec 3) (l : Lend) (s : State) : Host.Outcome State Fault Refusal :=
  .next (patternLanes w d [a.toNat] t l
    (fun y i => plainResult (negOp y (lane (readV s.before a.toNat) y.bits i))) s)

/-- R86, R148: the condition of `vfcmp` in its lend. -/
def lendCond (l : Lend) : FCond :=
  match (l.extractLsb' 4 3).toNat with
  | 0 => .eq
  | 1 => .lt
  | 2 => .le
  | _ => .un

/-- R148: `vfcmp`, which always merges. -/
def execVfcmp (w : BitVec 2) (d : BitVec 3) (a b : BitVec 6) (t : BitVec 3) (l : Lend) (s : State) :
    Host.Outcome State Fault Refusal :=
  let y := vecLayout s.before t
  .next (maskForm w y.bits { n := (maskOf l).n, zeroing := false } d [a.toNat, b.toNat] 2
    (fun i => compareOp y (lendCond l) (lane (readV s.before a.toNat) y.bits i) (lane (readV s.before b.toNat) y.bits i)) s)

/-- R148: `vfclass`. -/
def execVfclass (w : BitVec 2) (d a : BitVec 6) (t : BitVec 3) (l : Lend) (s : State) : Host.Outcome State Fault Refusal :=
  .next (patternLanes w d [a.toNat] t l
    (fun y i => plainResult (classOp y (lane (readV s.before a.toNat) y.bits i))) s)

/-- R146: `vfscl`, whose vb lanes are signed integers. -/
def execVfscl (w : BitVec 2) (d a b : BitVec 6) (t : BitVec 3) (l : Lend) (s : State) : Host.Outcome State Fault Refusal :=
  .next (roundedForm (vecBound t) w d [a.toNat, b.toNat] false t l
    (fun y i k => scaleOp y i (numLane y (readV s.before a.toNat) k)
      (signedOf y.bits (lane (readV s.before b.toNat) y.bits k))) s)

/-- R149: `vfsel` writes every lane, from va where its mask bit is 1 and from vb where it is 0. -/
def execVfsel (w : BitVec 2) (d a b : BitVec 6) (t : BitVec 3) (l : Lend) (s : State) : Host.Outcome State Fault Refusal :=
  let y := vecLayout s.before t
  let k := maskOf l
  .next (vectorForm w y.bits { n := 0, zeroing := false } d [a.toNat, b.toNat] false false 2
    (fun i => plainResult
      (if laneActive s.before k i then lane (readV s.before a.toNat) y.bits i else lane (readV s.before b.toNat) y.bits i))
    (noteReads [.m k.n] s))

/-- R24: the bound of a VS form. -/
def specialBound (t : BitVec 3) : Nat := if t = 0 then 16 else 10

/-- R157: a special function of one operand. -/
def specialLanes (op : Layout → RoundIn → Num → Rounded) (w : BitVec 2) (d a : BitVec 6) (t : BitVec 3) (l : Lend)
    (s : State) : State :=
  roundedForm (specialBound t) w d [a.toNat] false t l (fun y i k => op y i (numLane y (readV s.before a.toNat) k)) s

/-- R157: `vrecip`. -/
def execVrecip (w : BitVec 2) (d a : BitVec 6) (t : BitVec 3) (l : Lend) (s : State) : Host.Outcome State Fault Refusal :=
  .next (specialLanes recipOp w d a t l s)

/-- R157: `vrsqrt`. -/
def execVrsqrt (w : BitVec 2) (d a : BitVec 6) (t : BitVec 3) (l : Lend) (s : State) : Host.Outcome State Fault Refusal :=
  .next (specialLanes rsqrtOp w d a t l s)

/-- R157: `vsqrt`. -/
def execVsqrt (w : BitVec 2) (d a : BitVec 6) (t : BitVec 3) (l : Lend) (s : State) : Host.Outcome State Fault Refusal :=
  .next (specialLanes sqrtOp w d a t l s)

/-- R157: `vdiv`. -/
def execVdiv (w : BitVec 2) (d a b : BitVec 6) (t : BitVec 3) (l : Lend) (s : State) : Host.Outcome State Fault Refusal :=
  .next (floatLanes divOp (specialBound t) w d a b t l s)

/-- R157: `vexp2`. -/
def execVexp2 (w : BitVec 2) (d a : BitVec 6) (t : BitVec 3) (l : Lend) (s : State) : Host.Outcome State Fault Refusal :=
  .next (specialLanes exp2Op w d a t l s)

/-- R157: `vlog2`. -/
def execVlog2 (w : BitVec 2) (d a : BitVec 6) (t : BitVec 3) (l : Lend) (s : State) : Host.Outcome State Fault Refusal :=
  .next (specialLanes log2Op w d a t l s)

/-- R157: `vexp`. -/
def execVexp (w : BitVec 2) (d a : BitVec 6) (t : BitVec 3) (l : Lend) (s : State) : Host.Outcome State Fault Refusal :=
  .next (specialLanes expOp w d a t l s)

end Sys2Proof.Machine
end

