-- ==== Sys2Proof/Machine/VecConv.lean ====
section
/-!
DEFINITION. The vector conversions VX (R150 to R156).
-/

namespace Sys2Proof.Machine

/-- The registers of a group of `g` from `n` up. -/
def groupRegs (n g : Nat) : List Nat := (List.range g).map (n + ·)

/-- R150: the bits of a group of v registers, running on from one register to the next. -/
def groupBits (c : Core) (regs : List Nat) : Nat := packLanes 1024 (regs.map fun r => (readV c r).toNat)

/-- R150: the registers of one side of a conversion: its elements of `f` beside elements of `g`. -/
def sideSize (w : BitVec 2) (f g : BitVec 5) : Nat := (groupLanes w f g * fmtBits f + 1023) / 1024

/-- R150: a result of `total` bits lands over a group, keeping the group's further bits. -/
def landGroup (n total value : Nat) (poison : Bool) (flags : Flags) (lat : Nat) (s : State) : State :=
  (List.range ((total + 1023) / 1024)).foldl
    (fun s j =>
      putLanding (.v (n + j) 0 (min 1024 (total - 1024 * j)) false) (natField value (1024 * j) 1024) poison
        (if j = 0 then flags else noFlags) lat none s) s

/-- The shape every VX form shares. `srcs` are its source registers, `dsts` the number of destination registers from `d`,
`rm` its mode and `base` its SR base; R150 makes a register beyond v63 an illegal operand. -/
def convertForm (d : BitVec 6) (srcs : List Nat) (dsts : Nat) (rm : BitVec 3) (base : Nat) (lat : Nat)
    (k : Bool → Nat → State → State) (s : State) : State :=
  if srcs.any (63 < ·) || 63 < d.toNat + dsts - 1 then raiseFault codeIllegalOperand 0 s
  else
    withBase rm base
      (fun s =>
        let pen := bankPenalty s.issue.reads srcs
        k (anyPoisonV s.before srcs) (lat + pen) (noteReads (srcs.map Reg.v) s)) s

/-- The layout of a format under `sys.tes`. -/
def systemLayout (c : Core) (f : BitVec 5) : Layout := layoutOf f (systemEs c f)

/-- R151: `vcvt`. -/
def execVcvt (w : BitVec 2) (d a : BitVec 6) (f : BitVec 5) (sat : Bool) (m : BitVec 3) (l : Lend) (s : State) :
    Host.Outcome State Fault Refusal :=
  let g := lendFormat l
  let src := systemLayout s.before g
  let dst := systemLayout s.before f
  let regs := groupRegs a.toNat (sideSize w g f)
  let n := groupLanes w f g
  let base := srBase (l.getLsbD 8)
  .next (convertForm d regs (sideSize w f g) m base 4
    (fun poison lat s =>
      let bits := groupBits s.before regs
      let rs := (List.range n).map fun i =>
        convertOp dst src (laneRound s.before m base dst.bytes i) sat (natField bits (src.bits * i) src.bits)
      landGroup d.toNat (n * dst.bits) (packResults dst.bits rs) poison (allFlags rs) lat s) s)

/-- R152, R153: the block size of the MX conversions. -/
def blockSize (l : Lend) : Nat := if lendBlock l = 1 then 32 else 16

/-- R152: the exponent of the largest element magnitude of an MX format. -/
def blockEmax (f : BitVec 5) : Int := if f = 6 then 8 else if f = 7 then 15 else 2

/-- R152: one block's scale byte and elements. -/
def quantiseBlock (f : BitVec 5) (dst : Layout) (rnd : Nat → RoundIn) (sat : Bool) (first : Nat) (xs : List Num) :
    Nat × List Rounded :=
  if xs.any fun x => !x.isFinite then
    (255, xs.mapIdx fun i _ => { bits := 0, flags := if i = 0 then flagNV else noFlags })
  else
    let tops := xs.filterMap fun x => match x with | .fin _ m e => if m = 0 then none else some (floorLog2 m e) | _ => none
    let top : Int := match tops with
      | [] => -127
      | t :: ts => ts.foldl max t - blockEmax f
    let e := min (max top (-127)) 127
    ((e + 127).toNat, xs.mapIdx fun i x =>
      let r := rnd (first + i)
      roundNum dst r.rm sat r.r (match x with | .fin n m k => .fin n m (k - e) | y => y))

/-- The elements of a list from `k * n` up, `n` of them. -/
def chunk {α : Type} (l : List α) (k n : Nat) : List α := (l.drop (k * n)).take n

/-- R152: `vqnt`. -/
def execVqnt (w : BitVec 2) (d a : BitVec 6) (f : BitVec 5) (sat : Bool) (m : BitVec 3) (l : Lend) (s : State) :
    Host.Outcome State Fault Refusal :=
  let g := lendFormat l
  let src := systemLayout s.before g
  let dst := systemLayout s.before f
  let regs := groupRegs a.toNat (sideSize w g f)
  let n := groupLanes w f g
  let base := srBase (l.getLsbD 8)
  let bsz := blockSize l
  .next (convertForm d regs 2 m base 6
    (fun poison lat s =>
      let bits := groupBits s.before regs
      let xs := (List.range n).map fun i => decodeNum src (natField bits (src.bits * i) src.bits)
      let blocks := (List.range (n / bsz)).map fun j =>
        quantiseBlock f dst (laneRound s.before m base 1) sat (j * bsz) (chunk xs j bsz)
      let rs := blocks.flatMap (·.2)
      putLanding (.v (d.toNat + 1) 0 (8 * (n / bsz)) false) (packLanes 8 (blocks.map (·.1))) poison noFlags lat none
        (landGroup d.toNat (n * dst.bits) (packResults dst.bits rs) poison (allFlags rs) lat s)) s)

/-- R153: one element scaled back. The product overflows a binary32 destination too where the formula does so, a choice of the
model against the remark that only narrower destinations can (log entry 67). -/
def dequantise (dst : Layout) (r : RoundIn) (sat : Bool) (scale : Nat) (x : Num) : Rounded :=
  match decodeScale scale with
  | .nan _ _ _ => plainResult dst.defaultNan
  | k =>
    match x with
    | .nan neg s p => { bits := nanBits dst neg p, flags := raiseIf s flagNV }
    | x => roundNum dst r.rm sat r.r (mulNum x k)

/-- R153: `vdeq`. -/
def execVdeq (w : BitVec 2) (d a : BitVec 6) (f : BitVec 5) (sat : Bool) (m : BitVec 3) (l : Lend) (s : State) :
    Host.Outcome State Fault Refusal :=
  let g := lendFormat l
  let src := systemLayout s.before g
  let dst := systemLayout s.before f
  let regs := [a.toNat, a.toNat + 1]
  let n := groupLanes w f g
  let base := srBase (l.getLsbD 8)
  .next (convertForm d regs (sideSize w f g) m base 4
    (fun poison lat s =>
      let x := readV s.before a.toNat
      let k := readV s.before (a.toNat + 1)
      let rs := (List.range n).map fun i =>
        dequantise dst (laneRound s.before m base dst.bytes i) sat (lane k 8 (i / blockSize l))
          (decodeNum src (lane x src.bits i))
      landGroup d.toNat (n * dst.bits) (packResults dst.bits rs) poison (allFlags rs) lat s) s)

/-- The layout of binary32. -/
def binary32 : Layout := .ieee 8 23

/-- R154: the target of a scaled format as m × 2^e. -/
def scaledTarget (f : BitVec 5) : Nat × Int :=
  match f.toNat with
  | 12 => (127, 0)
  | 4 => (448, 0)
  | 5 => (57344, 0)
  | _ => (1, 0)

/-- R154: the scale of a block: 1.0 for a zero block, else its largest magnitude over T, rounded up. -/
def blockScale (f : BitVec 5) (xs : List (Bool × Nat × Int)) : Nat :=
  let big := xs.foldl (fun (a : Nat × Int) x => if magLt a.1 a.2 x.2.1 x.2.2 then (x.2.1, x.2.2) else a) (0, 0)
  if big.1 = 0 then 0x3F800000
  else (roundMag binary32 2 0 (divMag false big.1 big.2 (scaledTarget f).1 (scaledTarget f).2)).bits

/-- R154: x ÷ s rounded once, for a positive finite scale. -/
def divideByScale (dst : Layout) (r : RoundIn) (sat : Bool) (scale : Nat) (x : Bool × Nat × Int) : Rounded :=
  match decodeNum binary32 scale with
  | .fin _ k f =>
    if x.2.1 = 0 then plainResult (zeroBits dst x.1)
    else roundExact dst r.rm sat r.r (divMag x.1 x.2.1 x.2.2 k f)
  | _ => plainResult (zeroBits dst x.1)

/-- R154: one block's binary32 scale and elements. -/
def scaleBlock (f : BitVec 5) (dst : Layout) (rnd : Nat → RoundIn) (sat : Bool) (first : Nat) (xs : List Num) :
    Nat × List Rounded :=
  if xs.any fun x => !x.isFinite then
    (0x7FC00000, xs.mapIdx fun i _ => { bits := dst.defaultNan, flags := if i = 0 then flagNV else noFlags })
  else
    let fs := xs.filterMap fun x => match x with | .fin n m e => some (n, m, e) | _ => none
    let s := blockScale f fs
    (s, fs.mapIdx fun i x => divideByScale dst (rnd (first + i)) sat s x)

/-- R154: `vbq`. The bits of vd+1 beyond the scales keep their value, as R152 says for `vqnt`, a choice of the model (log entry
67). -/
def execVbq (w : BitVec 2) (d a : BitVec 6) (f : BitVec 5) (sat : Bool) (m : BitVec 3) (l : Lend) (s : State) :
    Host.Outcome State Fault Refusal :=
  let g := lendFormat l
  let src := systemLayout s.before g
  let dst := systemLayout s.before f
  let regs := groupRegs a.toNat (sideSize w g f)
  let n := groupLanes w f g
  let base := srBase (l.getLsbD 8)
  let bsz := scaledBlock l
  .next (convertForm d regs 2 m base 6
    (fun poison lat s =>
      let bits := groupBits s.before regs
      let xs := (List.range n).map fun i => decodeNum src (natField bits (src.bits * i) src.bits)
      let blocks := (List.range (n / bsz)).map fun j =>
        scaleBlock f dst (laneRound s.before m base 1) sat (j * bsz) (chunk xs j bsz)
      let rs := blocks.flatMap (·.2)
      putLanding (.v (d.toNat + 1) 0 (32 * (n / bsz)) false) (packLanes 32 (blocks.map (·.1))) poison noFlags lat none
        (landGroup d.toNat (n * dst.bits) (packResults dst.bits rs) poison (allFlags rs) lat s)) s)

/-- R155: an element times its scale, the NaN order element then scale. An integer or tapered 0, which has no sign, counts as +0, so
that a negative scale gives -0, a choice of the model (log entry 67). -/
def multiplyByScale (dst : Layout) (r : RoundIn) (sat : Bool) (q s : Num) : Rounded :=
  match q with
  | .nar => convertNar dst
  | q =>
    (nanOperand dst [q, s]).getD
      (match mulNum q s with
       | .nan _ _ _ => invalidResult dst
       | p => roundNum dst r.rm sat r.r p)

/-- R155: `vbdq`. -/
def execVbdq (w : BitVec 2) (d a : BitVec 6) (f : BitVec 5) (sat : Bool) (m : BitVec 3) (l : Lend) (s : State) :
    Host.Outcome State Fault Refusal :=
  let g := lendFormat l
  let src := systemLayout s.before g
  let dst := systemLayout s.before f
  let regs := [a.toNat, a.toNat + 1]
  let n := groupLanes w f g
  let base := srBase (l.getLsbD 8)
  .next (convertForm d regs (sideSize w f g) m base 4
    (fun poison lat s =>
      let x := readV s.before a.toNat
      let k := readV s.before (a.toNat + 1)
      let rs := (List.range n).map fun i =>
        multiplyByScale dst (laneRound s.before m base dst.bytes i) sat (decodeNum src (lane x src.bits i))
          (decodeNum binary32 (lane k 32 (i / scaledBlock l)))
      landGroup d.toNat (n * dst.bits) (packResults dst.bits rs) poison (allFlags rs) lat s) s)

/-- R156: `vrng` writes the generator's values and always uses its SR base. -/
def execVrng (w : BitVec 2) (d : BitVec 6) (l : Lend) (s : State) : Host.Outcome State Fault Refusal :=
  let z := (systemLayout s.before (lendFormat l)).bytes
  let base := srBase (l.getLsbD 8)
  let c := s.before
  .next (withBase 5 base
    (landVector d.toNat 0 (widthBits w)
      (packLanes 32 ((List.range (widthBits w / 32)).map fun i =>
        gen c.srkey c.srstep ((readX c base).bits + BitVec.ofNat 64 (i * z))))
      false noFlags 4 []) s)

end Sys2Proof.Machine
end

