-- ==== Sys2Proof/Machine/Tiles.lean ====
section
/-!
DEFINITION. Tiles (R169 to R172): elements by position, and the tile moves MT (R191, R192); busy operations (R175).
-/

namespace Sys2Proof.Machine

/-- Rows, columns and element bits of a geometry (R170). -/
def Geometry.rowCount (g : Geometry) : Nat := g.rows.toNat + 1
def Geometry.colCount (g : Geometry) : Nat := g.cols.toNat + 1
def Geometry.width (g : Geometry) : Nat := fmtBits g.fmt
def Geometry.layout (g : Geometry) : Layout := layoutOf g.fmt g.es.toNat

/-- The bytes that a geometry's elements occupy (R172). -/
def Geometry.byteCount (g : Geometry) : Nat := ceilDiv (g.rowCount * g.colCount * g.width) 8

/-- R171: a valid geometry. -/
def Geometry.valid (g : Geometry) : Bool :=
  g.fmt.toNat ≤ 15 && (g.es == 0 || (9 ≤ g.fmt.toNat && g.fmt.toNat ≤ 11)) &&
    g.rowCount * g.colCount * g.width ≤ 32768 && (g.width != 4 || g.colCount % 2 == 0)

/-- Tile `n`, and the same as a number. -/
def tileOf (c : Core) (n : Nat) : TileWord := vget c.t n 0

/-- R169: the elements of a tile in row-major order, as bit patterns. -/
def tileElements (g : Geometry) (t : TileWord) : List Nat := lanesOf g.width (g.rowCount * g.colCount) t.toNat

/-- R169: element (r, c) of the elements of a tile. -/
def elementAt (g : Geometry) (es : List Nat) (r c : Nat) : Nat := es.getD (r * g.colCount + c) 0

/-- R169: a tile with its elements replaced; the bits beyond them stay. -/
def putElements (g : Geometry) (t : TileWord) (es : List Nat) : TileWord :=
  BitVec.ofNat 32768 (replaceField t.toNat 0 (g.width * es.length) (packLanes g.width es))

/-- A busy operation with nothing in it but its place. -/
def BusyOp.blank (s : State) (count : Nat) : BusyOp :=
  { pc := s.before.pc, reads := [], writes := [], combLo := 0, combLen := 0, combWrites := false
    endsAt := s.before.mclk + count, effects := [], flags := noFlags, fault := 0, tile := 0, qb := 0, onBank := false }

/-- R355: whether a resource holds an uncorrectable error. -/
def resourceBad (c : Core) : Resource → Bool
  | .tile n => c.tileBad.getLsbD n
  | .bank n => c.bankBad.getLsbD n
  | _ => false

/-- R175: an operation starts; its effects take place when its busy state ends. An uncorrectable error in a tile or bank
that it reads is found by the matrix engine (R355). -/
def startBusy (b : BusyOp) (s : State) : State :=
  let b := if b.reads.any (resourceBad s.before) then { b with fault := codePoison } else b
  s.onCore fun c => { c with busy := c.busy ++ [b] }

/-- R180: the first failing check gives the fault; none of them starts the operation. -/
def checked (checks : List (Bool × BitVec 8)) (k : State → State) (s : State) : State :=
  match checks.find? (·.1) with
  | some c => raiseFault c.2 0 s
  | none => k s

/-- R172: the bytes from the start of one tile row to the next, and the bytes of a row. -/
def tilePitch (c : Core) (g : Geometry) : Nat :=
  if c.tpitch = 0 then g.colCount * g.width / 8 else c.tpitch.toNat
def tileRowBytes (g : Geometry) : Nat := g.colCount * g.width / 8

/-- R172: the length of the comb range of a tile. -/
def tileExtent (c : Core) (g : Geometry) : Nat :=
  if c.tpitch = 0 then g.byteCount else (g.rowCount - 1) * tilePitch c g + tileRowBytes g

/-- R172: whether a pitch does not suit a geometry. -/
def badPitch (c : Core) (g : Geometry) : Bool :=
  c.tpitch != 0 && (c.tpitch.toNat % 8 != 0 || c.tpitch.toNat < tileRowBytes g)

/-- R172: the comb offset of byte `i` of a tile. -/
def tileByteOffset (c : Core) (g : Geometry) (i : Nat) : Nat :=
  if c.tpitch = 0 then i else i / tileRowBytes g * tilePitch c g + i % tileRowBytes g

/-- R178, R191: the shape `tld` and `tst` share. The cell checks, with the length that the geometry gives, come before the
geometry (R180); a reserved format gives none. -/
def tileTransfer (n : Nat) (c : BitVec 6) (off : Nat) (store : Bool) (k : Nat → State → State) (s : State) : State :=
  let g := tileGeometry s.before n
  let s := noteReads [.sys (0x40 + n), .sys 0x50] s
  let s := noteResources (if store then [.tile n] else []) (if store then [] else [.tile n]) s
  let len := if 15 < g.fmt.toNat then 0 else tileExtent s.before g
  if !g.valid then
    match cellCheck s.before c.toNat off len 1 store with
    | some code => raiseFault code (cellAddr c.toNat) s
    | none => raiseFault codeTileGeometry 0 s
  else
    cellAccess c.toNat off len 1 store
      (fun lo s => if badPitch s.before g then raiseFault codeTileGeometry 0 s else k lo s) s

/-- R191. -/
def execTld (d : BitVec 4) (c : BitVec 6) (i : BitVec 9) (l : Option Lend) (s : State) :
    Host.Outcome State Fault Refusal :=
  .next (tileTransfer d.toNat c (immBits i l * 64) false
    (fun lo s =>
      let g := tileGeometry s.before d.toNat
      let bs := (List.range g.byteCount).map fun j => memByte s.before.comb (lo + tileByteOffset s.before g j)
      let t := BitVec.ofNat 32768 (replaceField (tileOf s.before d.toNat).toNat 0 (8 * g.byteCount) (ofBytes bs))
      let bad := (List.range g.byteCount).any fun j => anyMarked s.before.combBad 8 (lo + tileByteOffset s.before g j) 1
      let t := if bad then BitVec.ofNat 32768 (Config.freeValue s.here s.core.serial 0) else t
      let s := s.onCore fun c => { c with serial := c.serial + 1 }
      startBusy
        { BusyOp.blank s (3 + ceilDiv g.byteCount 256) with
            writes := [.tile d.toNat], combLo := lo, combLen := tileExtent s.before g
            effects := [.tile d.toNat t], fault := if bad then codePoison else 0, tile := d.toNat } s) s)

/-- R191: the bytes become visible when the busy state ends (R178). -/
def execTst (a : BitVec 4) (c : BitVec 6) (i : BitVec 9) (l : Option Lend) (s : State) :
    Host.Outcome State Fault Refusal :=
  .next (tileTransfer a.toNat c (immBits i l * 64) true
    (fun lo s =>
      let g := tileGeometry s.before a.toNat
      let bs := toBytes g.byteCount (tileOf s.before a.toNat).toNat
      let rowOf := fun r => (bs.drop (r * tileRowBytes g)).take (tileRowBytes g)
      let effects := if s.before.tpitch = 0 then [BusyEffect.comb lo bs]
        else (List.range g.rowCount).map fun r => BusyEffect.comb (lo + r * tilePitch s.before g) (rowOf r)
      startBusy
        { BusyOp.blank s (3 + ceilDiv g.byteCount 256) with
            reads := [.tile a.toNat], combLo := lo, combLen := tileExtent s.before g, combWrites := true
            effects := effects, tile := a.toNat } s) s)

/-- A tile-to-tile operation: it reads tile `a` and writes tile `d` (R176). -/
def tileToTile (d a count : Nat) (t : TileWord) (flags : Flags) (s : State) : State :=
  startBusy
    { BusyOp.blank s count with
        reads := [.tile a], writes := [.tile d], effects := [.tile d t], flags := flags, tile := d } s

/-- R192: `tmov` reads only the geometry of its source. -/
def execTmov (d a : BitVec 4) (s : State) : Host.Outcome State Fault Refusal :=
  let g := tileGeometry s.before a.toNat
  let n := min 4096 g.byteCount
  .next (checked [(15 < g.fmt.toNat, codeTileGeometry)]
    (fun s => tileToTile d.toNat a.toNat (3 + ceilDiv n 256)
      (BitVec.ofNat 32768 (replaceField (tileOf s.before d.toNat).toNat 0 (8 * n) (tileOf s.before a.toNat).toNat))
      noFlags s)
    (noteResources [.tile a.toNat] [.tile d.toNat] (noteReads [.sys (0x40 + a.toNat)] s)))

/-- R192: `ttr`. -/
def execTtr (d a : BitVec 4) (s : State) : Host.Outcome State Fault Refusal :=
  let g := tileGeometry s.before a.toNat
  let h := tileGeometry s.before d.toNat
  let es := tileElements g (tileOf s.before a.toNat)
  let turned := (List.range h.rowCount).flatMap fun r => (List.range h.colCount).map fun c => elementAt g es c r
  .next (checked
    [(!g.valid || !h.valid || g.fmt != h.fmt || g.es != h.es || h.rows.toNat != g.cols.toNat ||
      h.cols.toNat != g.rows.toNat, codeTileGeometry)]
    (fun s => tileToTile d.toNat a.toNat (3 + ceilDiv g.byteCount 128)
      (putElements h (tileOf s.before d.toNat) turned) noFlags s)
    (noteResources [.tile a.toNat] [.tile d.toNat]
      (noteReads [.sys (0x40 + a.toNat), .sys (0x40 + d.toNat)] s)))

/-- R54: how element `i` of a tile rounds: A is its byte offset. -/
def tileRound (c : Core) (rm : BitVec 3) (z i : Nat) : RoundIn :=
  { rm := rm, r := if isStochastic rm then gen c.srkey c.srstep (BitVec.ofNat 64 (i * z)) else 0 }

/-- R192: `tcvt` reads every element before it writes any. -/
def execTcvt (d a : BitVec 4) (sat : Bool) (m : BitVec 3) (s : State) : Host.Outcome State Fault Refusal :=
  let g := tileGeometry s.before a.toNat
  let h := tileGeometry s.before d.toNat
  let rs := (tileElements g (tileOf s.before a.toNat)).zipIdx.map fun x =>
    convertOp h.layout g.layout (tileRound s.before m h.layout.bytes x.2) sat x.1
  .next (checked
    [(!g.valid || !h.valid || g.rows != h.rows || g.cols != h.cols || !isElementFormat g.fmt || !isElementFormat h.fmt,
      codeTileGeometry)]
    (fun s => tileToTile d.toNat a.toNat (3 + ceilDiv (max g.byteCount h.byteCount) 256)
      (putElements h (tileOf s.before d.toNat) (rs.map (·.bits))) (allFlags rs) s)
    (noteResources [.tile a.toNat] [.tile d.toNat]
      (noteReads [.sys (0x40 + a.toNat), .sys (0x40 + d.toNat)] s)))

/-- R192: `tzero` checks no geometry. -/
def execTzero (d : BitVec 4) (s : State) : Host.Outcome State Fault Refusal :=
  .next (startBusy
    { BusyOp.blank s 2 with writes := [.tile d.toNat], effects := [.tile d.toNat 0], tile := d.toNat }
    (noteResources [] [.tile d.toNat] s))

end Sys2Proof.Machine
end

