-- ==== Sys2Proof/Machine/QuireOps.lean ====
section
/-!
DEFINITION. The quire operations MQ (R186 to R190), the row operations VQ (R193, R194) and the row statistics `rstat`
(R312, R313).
-/

namespace Sys2Proof.Machine

/-- The slots of a bank that belong to a shape's output: m × n of them. -/
def shapeSlots (sh : Shape) : List Nat := List.range (sh.m * sh.n)

/-- The slots of a whole bank in the view of a shape. -/
def viewSlots (sh : Shape) : List Nat := List.range (256 / sh.g)

/-- A quire operation of `count` cycles that leaves the slots of `b` in bank `q`, and a tag where it sets one (R174, R176). -/
def bankOperation (q count : Nat) (reads : List Resource) (b : Bank) (tag : Option (BitVec 3)) (s : State) : State :=
  startBusy
    { BusyOp.blank s count with
        reads := reads, writes := [.bank q], effects := .bank q b :: (tag.map (BusyEffect.tag q)).toList, qb := q
        onBank := true } s

/-- R186: `qzero` leaves the tag. -/
def execQzero (q : BitVec 1) (s : State) : Host.Outcome State Fault Refusal :=
  .next (bankOperation q.toNat 2 [] (Bank.cleared 0) none
    (noteResources [] [.bank q.toNat] s))

/-- Every slot of a bank replaced by a function of its number. -/
def mapSlots (sh : Shape) (f : Nat → Slot → Slot) (b : Bank) : Bank :=
  (viewSlots sh).foldl (fun b i => slotPut b sh.g i (f i (slotGet b sh.g i))) b

/-- R186: `qadd`. -/
def execQadd (q : BitVec 1) (s : State) : Host.Outcome State Fault Refusal :=
  let b := bankOf s.before q.toNat
  let o := bankOf s.before (1 - q.toNat)
  let sh := shapeOfTag b.tag
  let add := fun i (x : Slot) =>
    let y := slotGet o sh.g i
    ({ x with status := x.status ||| (y.status &&& 7) } : Slot).withX sh.g (x.x + y.x)
  .next (checked [(b.tag != o.tag, codeQuireView)]
    (bankOperation q.toNat 4 [.bank 0, .bank 1] (mapSlots sh add b) none)
    (noteResources [.bank 0, .bank 1] [.bank q.toNat] s))

/-- R186: `qscl`. -/
def execQscl (q : BitVec 1) (e : BitVec 10) (s : State) : Host.Outcome State Fault Refusal :=
  let b := bankOf s.before q.toNat
  let sh := shapeOfTag b.tag
  let k := e.toInt
  let scale := fun (_ : Nat) (x : Slot) =>
    x.withX sh.g (if 0 ≤ k then x.x * 2 ^ k.toNat else x.x / (2 ^ (-k).toNat : Int))
  .next (bankOperation q.toNat 4 [.bank q.toNat] (mapSlots sh scale b) none
    (noteResources [.bank q.toNat] [.bank q.toNat] s))

/-- The positions of a tile's elements, as row and column. -/
def positions (g : Geometry) : List (Nat × Nat) :=
  (List.range g.rowCount).flatMap fun r => (List.range g.colCount).map fun c => (r, c)

/-- R187: `qrnd`. -/
def execQrnd (q : BitVec 1) (t : BitVec 4) (f : BitVec 5) (m : BitVec 3) (sat : Bool) (s : State) :
    Host.Outcome State Fault Refusal :=
  let b := bankOf s.before q.toNat
  let sh := shapeOfTag b.tag
  let g := tileGeometry s.before t.toNat
  let rs := (positions g).zipIdx.map fun p =>
    let r := (tileRound s.before m g.layout.bytes p.2).r
    roundSlot g.layout m sat r sh.g (slotGet b sh.g (p.1.1 * sh.n + p.1.2))
  .next (checked
    [(!g.valid || g.fmt != f || sh.m < g.rowCount || sh.n < g.colCount, codeTileGeometry)]
    (fun s => startBusy
      { BusyOp.blank s 8 with
          reads := [.bank q.toNat], writes := [.tile t.toNat]
          effects := [.tile t.toNat (putElements g (tileOf s.before t.toNat) (rs.map (·.bits)))]
          flags := allFlags rs, tile := t.toNat, qb := q.toNat } s)
    (noteResources [.bank q.toNat] [.tile t.toNat] (noteReads [.sys (0x40 + t.toNat)] s)))

/-- R188: `qtl`. -/
def execQtl (q : BitVec 1) (t : BitVec 4) (f : BitVec 5) (s : State) : Host.Outcome State Fault Refusal :=
  let sh := shapeOf f
  let g := tileGeometry s.before t.toNat
  let es := tileElements g (tileOf s.before t.toNat)
  let b := (positions g).zipIdx.foldl
    (fun b p => bankAdd b sh.g (p.1.1 * sh.n + p.1.2) (decodeNum g.layout (es.getD p.2 0))) (Bank.cleared sh.code)
  .next (checked
    [(!g.valid || g.fmt != f || sh.m < g.rowCount || sh.n < g.colCount, codeTileGeometry)]
    (bankOperation q.toNat 8 [.tile t.toNat] b (some sh.code))
    (noteResources [.tile t.toNat] [.bank q.toNat] (noteReads [.sys (0x40 + t.toNat)] s)))

/-- R189: `qmsk` sets NINF in the lowest granule of a slot whose bit is 0. -/
def execQmsk (q : BitVec 1) (t : BitVec 4) (s : State) : Host.Outcome State Fault Refusal :=
  let b := bankOf s.before q.toNat
  let sh := shapeOfTag b.tag
  let g := tileGeometry s.before t.toNat
  let bits := (tileOf s.before t.toNat).toNat
  let gs := (shapeSlots sh).foldl
    (fun gs i => if natBit bits i then gs
      else vset gs (sh.g * i) { granule b (sh.g * i) with status := setBit (granule b (sh.g * i)).status 2 true }) b.granules
  .next (checked
    [(!g.valid || g.fmt != 13 || g.rowCount * g.colCount < ceilDiv (sh.m * sh.n) 8, codeTileGeometry)]
    (bankOperation q.toNat 4 [.tile t.toNat, .bank q.toNat] { b with granules := gs } none)
    (noteResources [.tile t.toNat, .bank q.toNat] [.bank q.toNat] (noteReads [.sys (0x40 + t.toNat)] s)))

/-- R190: `qst`. -/
def execQst (q : BitVec 1) (c : BitVec 6) (l : Lend) (s : State) : Host.Outcome State Fault Refusal :=
  .next (cellAccess c.toNat (l.toNat * 64) 9216 1 true
    (fun lo s => startBusy
      { BusyOp.blank s 72 with
          reads := [.bank q.toNat], combLo := lo, combLen := 9216, combWrites := true
          effects := [.comb lo (bankImage (bankOf s.before q.toNat))], qb := q.toNat, onBank := true } s)
    (noteResources [.bank q.toNat] [] s))

/-- R190: `qld` leaves the tag; an uncorrectable comb word leaves the contents undefined. -/
def execQld (q : BitVec 1) (c : BitVec 6) (l : Lend) (s : State) : Host.Outcome State Fault Refusal :=
  .next (cellAccess c.toNat (l.toNat * 64) 9216 1 false
    (fun lo s =>
      let bad := combPoison s lo 9216
      let bytes := if bad then toBytes 9216 (Config.freeValue s.here s.core.serial 0) else combRead s lo 9216
      let b := bankOfImage (bankOf s.before q.toNat) bytes
      let s := s.onCore fun c => { c with serial := c.serial + 1 }
      startBusy
        { BusyOp.blank s 72 with
            writes := [.bank q.toNat], combLo := lo, combLen := 9216, effects := [.bank q.toNat b]
            fault := if bad then codePoison else 0, qb := q.toNat, onBank := true } s)
    (noteResources [] [.bank q.toNat] s))

/-! ## Vector and quire -/

/-- R193: the faults of a row of a bank. -/
def rowFault (c : Core) (q r : Nat) (f : BitVec 5) : Bool :=
  (bankOf c q).tag != (shapeOf f).code || (shapeOf f).m ≤ r

/-- R193: `vqadd` consumes a poisoned v. -/
def execVqadd (q : BitVec 1) (r v : BitVec 6) (f : BitVec 5) (l : Lend) (s : State) :
    Host.Outcome State Fault Refusal :=
  let sh := shapeOf f
  let y := systemLayout s.before f
  let k := maskOf l
  let b := bankOf s.before q.toNat
  let x := readV s.before v.toNat
  let result := (List.range sh.n).foldl
    (fun b j => if laneActive s.before k j then bankAdd b sh.g (r.toNat * sh.n + j) (numLane y x j) else b) b
  .next (checked [(poisonV s.before v.toNat, codePoison), (rowFault s.before q.toNat r.toNat f, codeQuireView)]
    (bankOperation q.toNat 4 [.bank q.toNat] result none)
    (noteResources [.bank q.toNat] [.bank q.toNat] (noteReads [.v v.toNat, .m k.n] s)))

/-- R193: `vqr` keeps v's poison and the bits above lane n_max − 1. -/
def execVqr (q : BitVec 1) (r v : BitVec 6) (f : BitVec 5) (m : BitVec 3) (l : Lend) (s : State) :
    Host.Outcome State Fault Refusal :=
  let sh := shapeOf f
  let y := systemLayout s.before f
  let k := maskOf l
  let base := srBase (l.getLsbD 8)
  let b := bankOf s.before q.toNat
  let old := readV s.before v.toNat
  let rs := laneResults s.before k y.bits sh.n old fun j =>
    roundSlot y m false (laneRound s.before m base y.bytes j).r sh.g (slotGet b sh.g (r.toNat * sh.n + j))
  let regs := if mergesDest k then [v.toNat] else []
  .next (withBase m base
    (checked [(rowFault s.before q.toNat r.toNat f, codeQuireView)]
      (fun s =>
        let pen := bankPenalty s.issue.reads regs
        putLanding (.v v.toNat 0 (sh.n * y.bits) true) (packResults y.bits rs) false (allFlags rs) (6 + pen) none
          (startBusy
            { BusyOp.blank s 6 with reads := [.bank q.toNat], qb := q.toNat, onBank := true }
            (noteReads (regs.map Reg.v) s))))
    (noteResources [.bank q.toNat] [] (noteReads [.m k.n] s)))

/-- R194: `vqz` clears eight full quires whatever the view, and ignores its mask. -/
def execVqz (q : BitVec 1) (r : BitVec 6) (_l : Lend) (s : State) : Host.Outcome State Fault Refusal :=
  let b := bankOf s.before q.toNat
  let gs := (List.range 32).foldl
    (fun gs i => vset gs (32 * r.toNat + i) { q := 0, status := 0, wrap := 0 }) b.granules
  .next (checked [(7 < r.toNat, codeQuireView)]
    (bankOperation q.toNat 4 [] { b with granules := gs } none)
    (noteResources [] [.bank q.toNat] s))

/-! ## Row statistics -/

/-- R312: the greatest of some binary32 patterns; any NaN gives the default NaN. -/
def greatest (xs : List Nat) : Nat :=
  if xs.any fun x => (decodeNum binary32 x).isNan then binary32.defaultNan
  else match xs with
    | [] => 0
    | x :: rest => rest.foldl (fun a b => (minMaxOp binary32 false a b).bits) x

/-- R312: the sum of a row of slots, rounded once. -/
def sumSlots (g : Nat) (xs : List Slot) : Rounded :=
  let x := xs.foldl (fun a s => a + s.x) 0
  let st := xs.foldl (fun a s => a ||| s.status) 0
  let special := st &&& 7
  if special ≠ 0 || st.getLsbD 3 || overflows g x then
    roundSlot binary32 0 false 0 g { x := 0, status := special ||| (if st.getLsbD 3 || overflows g x then 8 else 0) }
  else roundSlot binary32 0 false 0 g { x := x, status := 0 }

/-- R312: the sum of the squares of some binary32 values, rounded once. -/
def sumSquares (xs : List Nat) : Rounded :=
  let ns := xs.map (decodeNum binary32)
  if ns.any Num.isNan then plainResult binary32.defaultNan
  else if ns.any (fun n => !n.isFinite) then plainResult binary32.infBits
  else
    let squares := ns.filterMap fun n => match n with | .fin _ m e => some (false, m * m, 2 * e) | _ => none
    roundSum binary32 { rm := 0, r := 0 } squares

/-- R312, R313: the statistic of one row and the flags of every rounding it performs. -/
def rowStatistic (stat g : Nat) (row : List Slot) : Rounded :=
  let rho := row.map (roundSlot binary32 0 false 0 g)
  match stat with
  | 0 => { bits := greatest (rho.map (·.bits)), flags := allFlags rho }
  | 1 => sumSlots g row
  | _ =>
    let y := sumSquares (rho.map (·.bits))
    { bits := y.bits, flags := allFlags rho ||| y.flags }

/-- R312: the rows from `first` on fill lanes from 0; the other bits of vd keep their value. -/
def execRstat (d : BitVec 6) (q : BitVec 1) (f : BitVec 5) (stat : BitVec 2) (s : State) :
    Host.Outcome State Fault Refusal :=
  let b := bankOf s.before q.toNat
  let sh := shapeOfTag b.tag
  let n := sh.m - f.toNat
  let ys := (List.range n).map fun r =>
    rowStatistic stat.toNat sh.g ((List.range sh.n).map fun j => slotGet b sh.g ((f.toNat + r) * sh.n + j))
  .next (checked [(sh.m ≤ f.toNat, codeQuireView)]
    (fun s => putLanding (.rows d.toNat (32 * n)) (packResults 32 ys) false noFlags (4 + n) none
      (startBusy
        { BusyOp.blank s (4 + n) with
            reads := [.bank q.toNat], writes := [.rowStats], flags := allFlags ys, qb := q.toNat, onBank := true } s))
    (noteResources [.bank q.toNat] [.rowStats] s))

end Sys2Proof.Machine
end

