-- ==== Sys2Proof/Machine/Matrix.lean ====
section
/-!
DEFINITION. The multiply-accumulate forms MM (R177, R181 to R185), one step of the MAC array, and the scale latches `msl`
(R182, R183).
-/

namespace Sys2Proof.Machine

/-- The operands of an MM syllable as it reads them at issue (R181): the geometries of A and B, and B's reduction length and
columns under BT. -/
structure MacOperands where
  ga : Geometry
  gb : Geometry
  depth : Nat
  depthB : Nat
  n : Nat
deriving DecidableEq, Repr

/-- R181: the operands of a form with a B tile; `mms` doubles the depth of A. -/
def macOperands (c : Core) (a b : BitVec 4) (bt sparse : Bool) : MacOperands :=
  let ga := tileGeometry c a.toNat
  let gb := tileGeometry c b.toNat
  { ga := ga, gb := gb, depth := if sparse then 2 * ga.colCount else ga.colCount
    depthB := if bt then gb.colCount else gb.rowCount, n := if bt then gb.rowCount else gb.colCount }

/-- R171, R181: whether the geometries do not suit the form. -/
def macMisfit (o : MacOperands) (f : BitVec 5) : Bool :=
  !o.ga.valid || !o.gb.valid || o.ga.fmt != f || o.gb.fmt != f ||
    (shapeOf f).m < o.ga.rowCount || (shapeOf f).n < o.n || o.depthB != o.depth

/-- R181: B(p, j) for p in order and, within p, j in order. -/
def macB (c : Core) (o : MacOperands) (b : BitVec 4) (bt : Bool) : List Nat :=
  let es := tileElements o.gb (tileOf c b.toNat)
  (List.range o.depth).flatMap fun p => (List.range o.n).map fun j =>
    if bt then elementAt o.gb es j p else elementAt o.gb es p j

/-- R181: whether bank `q` has another tag than the form needs. -/
def macMistagged (c : Core) (q : BitVec 1) (f : BitVec 5) (z : Bool) : Bool :=
  !z && (bankOf c q.toNat).tag != (shapeOf f).code

/-- R181: the bank an MM form starts from; Z clears it. -/
def macBank (c : Core) (q : BitVec 1) (f : BitVec 5) (z : Bool) : Bank :=
  if z then Bank.cleared (shapeOf f).code else bankOf c q.toNat

/-- R177: the MAC array serves one MM syllable at a time. -/
def noteArray (s : State) : State := if s.before.mclk < s.before.arrayFree then noteWait .scoreboard s else s

/-- R175 to R177: an MM syllable of S steps starts; Z sets the tag (R174). -/
def startMac (reads : List Resource) (q : BitVec 1) (z : Bool) (m : MacOp) (s : State) : State :=
  startBusy
    { BusyOp.blank s (6 + m.steps) with
        reads := reads, writes := [.bank q.toNat], qb := q.toNat, onBank := true
        effects := if z then [.tag q.toNat (shapeOf m.fmt).code] else [] }
    (s.onCore fun c => { c with macs := c.macs ++ [m], arrayFree := c.mclk + m.steps })

/-- R177, R181: the array operation of a form with both operands in tiles. -/
def tileMac (s : State) (form : MacForm) (q : BitVec 1) (f : BitVec 5) (z : Bool) (o : MacOperands) (a b : List Nat) :
    MacOp :=
  { form := form, qb := q.toNat, fmt := f, rowsN := o.ga.rowCount, colsN := o.n, depth := o.depth, a := a, b := b
    es := o.ga.es.toNat, esB := o.gb.es.toNat, stream := 0, step := 0
    steps := ceilDiv o.ga.colCount (shapeOf f).k, start := s.before.mclk + 2, bank := macBank s.before q f z }

/-- R181: the shape `mma`, `mmn` and `mmx` share. -/
def plainMac (form : MacForm) (q : BitVec 1) (a b : BitVec 4) (f : BitVec 5) (z bt : Bool) (s : State) : State :=
  let o := macOperands s.before a b bt false
  let reads := [Resource.tile a.toNat, .tile b.toNat] ++ (if z then [] else [.bank q.toNat])
  checked [(macMisfit o f, codeTileGeometry), (macMistagged s.before q f z, codeQuireView)]
    (fun s => startMac reads q z
      (tileMac s form q f z o (tileElements o.ga (tileOf s.before a.toNat)) (macB s.before o b bt)) s)
    (noteArray (noteResources reads [.bank q.toNat]
      (noteReads [.sys (0x40 + a.toNat), .sys (0x40 + b.toNat)] s)))

/-- R181. -/
def execMma (q : BitVec 1) (a b : BitVec 4) (f : BitVec 5) (z t : Bool) (s : State) : Host.Outcome State Fault Refusal :=
  .next (plainMac .mma q a b f z t s)

/-- R181: the products are subtracted. -/
def execMmn (q : BitVec 1) (a b : BitVec 4) (f : BitVec 5) (z t : Bool) (s : State) : Host.Outcome State Fault Refusal :=
  .next (plainMac .mmn q a b f z t s)

/-- R182. -/
def execMmx (q : BitVec 1) (a b : BitVec 4) (f : BitVec 5) (z t : Bool) (s : State) : Host.Outcome State Fault Refusal :=
  .next (plainMac .mmx q a b f z t s)

/-- R184: the indices that the metadata of one group gives, with whether they are valid: ascending without repeats, and
reserved bits zero. `n8` serves the 2:4 pattern, else the 4:8 pattern. -/
def groupIndices (two : Bool) (es : List Nat) (width : Nat) (row g : Nat) : List Nat × Bool :=
  if two then
    let nib := natField (es.getD (row * width + g / 2) 0) (4 * (g % 2)) 4
    let i := [natField nib 0 2, natField nib 2 2]
    (i, i.getD 0 0 < i.getD 1 0)
  else
    let w := es.getD (row * width + g) 0
    let i := (List.range 4).map fun k => natField w (3 * k) 3
    (i, natField w 12 4 == 0 && i.getD 0 0 < i.getD 1 0 && i.getD 1 0 < i.getD 2 0 && i.getD 2 0 < i.getD 3 0)

/-- R184: the logical A of an `mms`, from its stored elements and metadata. -/
def decompress (two : Bool) (ga gc : Geometry) (as cs : List Nat) : List Nat :=
  let group := if two then 4 else 8
  let stored := group / 2
  (List.range ga.rowCount).flatMap fun i =>
    (List.range (ga.colCount / stored)).flatMap fun g =>
      let idx := (groupIndices two cs gc.colCount i g).1
      (List.range group).map fun p =>
        match idx.findIdx? (· == p) with
        | some q => elementAt ga as i (stored * g + q)
        | none => 0

/-- R184: whether any group of the rows of A has invalid metadata. -/
def metadataBad (two : Bool) (ga gc : Geometry) (cs : List Nat) : Bool :=
  let stored := if two then 2 else 4
  (List.range ga.rowCount).any fun i =>
    (List.range (ga.colCount / stored)).any fun g => !(groupIndices two cs gc.colCount i g).2

/-- R184: whether the metadata tile does not suit the form. -/
def metadataMisfit (o : MacOperands) (gc : Geometry) : Bool :=
  let group := if gc.fmt = 13 then 4 else 8
  !gc.valid || !(gc.fmt == 13 || gc.fmt == 14) || o.depth % group != 0 || gc.rowCount < o.ga.rowCount ||
    gc.colCount * 8 < o.depth

/-- R184. -/
def execMms (q : BitVec 1) (a b c : BitVec 4) (f : BitVec 5) (z t : Bool) (s : State) :
    Host.Outcome State Fault Refusal :=
  let o := macOperands s.before a b t true
  let gc := tileGeometry s.before c.toNat
  let two := gc.fmt == 13
  let cs := tileElements gc (tileOf s.before c.toNat)
  let reads := [Resource.tile a.toNat, .tile b.toNat, .tile c.toNat] ++ (if z then [] else [.bank q.toNat])
  .next (checked
    [(macMisfit o f || metadataMisfit o gc, codeTileGeometry), (macMistagged s.before q f z, codeQuireView),
      (metadataBad two o.ga gc cs, codeMetadata)]
    (fun s => startMac reads q z
      (tileMac s .mms q f z o
        (decompress two o.ga gc (tileElements o.ga (tileOf s.before a.toNat)) cs) (macB s.before o b t)) s)
    (noteArray (noteResources reads [.bank q.toNat]
      (noteReads [.sys (0x40 + a.toNat), .sys (0x40 + b.toNat), .sys (0x40 + c.toNat)] s))))

/-- Decode stream `n`. -/
def streamOf (c : Core) (n : Nat) : Stream := vget c.streams n Stream.reset

/-- R320: an `mmz` does not issue while a command on its stream, or a `dec.tab` on its slot, is outstanding. -/
def streamHeld (c : Core) (n : Nat) : Bool :=
  c.dq.any fun k => match k.kind with
    | .decTab => k.slot == (streamOf c n).slot
    | _ => k.stream == n

/-- R185, R320: `mmz` draws its B from a decode stream. -/
def execMmz (q : BitVec 1) (a : BitVec 4) (n : BitVec 1) (f : BitVec 5) (z : Bool) (s : State) :
    Host.Outcome State Fault Refusal :=
  let ga := tileGeometry s.before a.toNat
  let sh := shapeOf f
  let st := streamOf s.before n.toNat
  let need := ga.colCount * sh.n
  let reads := [Resource.tile a.toNat] ++ (if z then [] else [.bank q.toNat])
  let short := match vget s.before.dslots st.slot none with
    | none => true
    | some t => t.sfmt != f || t.nsym < st.ipos + need
  let es := match vget s.before.dslots st.slot none with
    | none => 0
    | some t => t.es.toNat
  let s' := noteArray (noteResources reads [.bank q.toNat] (noteReads [.sys (0x40 + a.toNat)] s))
  let s' := if streamHeld s.before n.toNat then noteWait .event s' else s'
  .next (checked
    [(!ga.valid || ga.fmt != f || sh.m < ga.rowCount, codeTileGeometry), (macMistagged s.before q f z, codeQuireView),
      (!st.isOpen || short, codeCodedStream)]
    (fun s => startMac reads q z
      { form := .mmz, qb := q.toNat, fmt := f, rowsN := ga.rowCount, colsN := sh.n, depth := ga.colCount
        a := tileElements ga (tileOf s.before a.toNat), b := [], es := ga.es.toNat, esB := es, stream := n.toNat
        step := 0, steps := ceilDiv need 64, start := s.before.mclk + 2, bank := macBank s.before q f z }
      (s.onCore fun c =>
        { c with streams := vset c.streams n.toNat { streamOf c n.toNat with ipos := st.ipos + need } })) s')

/-! ## One step of the MAC array -/

/-- R181, R182: the scale of output (i, j) at logical position p, as two latch bytes. -/
def latchScale (c : Core) (i j p : Nat) : Num :=
  let k := vget c.latches (p / 16 % 32) { a := 0, b := 0 }
  mulNum (decodeScale (natField k.a.toNat (8 * i) 8)) (decodeScale (natField k.b.toNat (8 * j) 8))

/-- R181: the product at (i, j, p). -/
def macProduct (c : Core) (m : MacOp) (i j p : Nat) (b : Nat) : Num :=
  let x := decodeNum (layoutOf m.fmt m.es) (m.a.getD (i * m.depth + p) 0)
  let y := decodeNum (layoutOf m.fmt m.esB) b
  let v := mulNum x y
  let v := if isBlockFormat m.fmt then mulNum v (latchScale c i j p) else v
  if m.form = .mmn then negNum v else v

/-- R181: one row of B, at logical position p and column j, accumulated into every row of the output. -/
def macColumn (c : Core) (m : MacOp) (p j b : Nat) (bank : Bank) : Bank :=
  let sh := shapeOf m.fmt
  (List.range m.rowsN).foldl (fun k i => bankAdd k sh.g (i * sh.n + j) (macProduct c m i j p b)) bank

/-- R177, R184: the logical positions that a step consumes. -/
def stepPositions (m : MacOp) : List Nat :=
  let k := if m.form = .mms then 2 * (shapeOf m.fmt).k else (shapeOf m.fmt).k
  (List.range k).filterMap fun i => if m.step * k + i < m.depth then some (m.step * k + i) else none

/-- R185: how many symbols the next step of an `mmz` needs. -/
def stepSymbols (m : MacOp) : Nat := min 64 (m.depth * m.colsN - 64 * m.step)

/-- One step: the products of its positions, or of its symbols, enter the bank (R177). -/
def macAdvance (c : Core) (m : MacOp) (symbols : List Nat) : MacOp :=
  let bank := if m.form = .mmz then
      symbols.zipIdx.foldl
        (fun k x =>
          let q := 64 * m.step + x.2
          macColumn c m (q / m.colsN) (q % m.colsN) x.1 k) m.bank
    else
      (stepPositions m).foldl
        (fun k p => (List.range m.colsN).foldl (fun k j => macColumn c m p j (m.b.getD (p * m.colsN + j) 0) k) k) m.bank
  { m with bank := bank, step := m.step + 1 }

/-- R321: the symbols of a stream that a step may take in a package cycle. -/
def suppliedSymbols (st : Stream) (cycle : Nat) : Nat := (st.ready.filter fun x => x.2 < cycle).length

/-- R185: whether the next step of an operation has to wait for its symbols. -/
def macStarved (c : Core) (cycle : Nat) (m : MacOp) : Bool :=
  m.form == .mmz && suppliedSymbols (streamOf c m.stream) cycle < stepSymbols m

/-- R22, R185: whether a step due in this cycle has to wait for its symbols. -/
def starved (c : Core) (cycle : Nat) : Bool :=
  c.macs.any fun m => m.start + m.step ≤ c.mclk && m.step < m.steps && macStarved c cycle m

/-- Whether a busy state is that of an operation of the array: no other operation writes the bank meanwhile (R175). -/
def MacOp.owns (m : MacOp) (b : BusyOp) : Bool := b.onBank && b.writes == [.bank m.qb]

/-- R175: once the last step is taken, the bank takes effect at the end of the busy state. -/
def settleMac (m : MacOp) (b : BusyOp) : BusyOp :=
  if m.owns b then { b with effects := .bank m.qb m.bank :: b.effects } else b

/-- R185: where no bundle issues, an `mmz` without its symbols waits on its own; it and what the array has queued behind it
last a cycle longer. -/
def delayArray (c : Core) : Core :=
  { c with macs := c.macs.map fun m => { m with start := m.start + 1 }
           busy := c.busy.map fun b => if c.macs.any (·.owns b) then { b with endsAt := b.endsAt + 1 } else b
           arrayFree := c.arrayFree + 1 }

/-- R177: the first operation of the array takes a step that is due and supplied. -/
def matrixAdvance (c : Core) (cycle : Nat) : Core :=
  match c.macs with
  | [] => c
  | m :: rest =>
    if c.mclk ≤ m.start + m.step || macStarved c cycle m then c
    else
      let st := streamOf c m.stream
      let n := if m.form = .mmz then stepSymbols m else 0
      let m' := macAdvance c m ((st.ready.take n).map (·.1))
      let c := if m.form = .mmz then
          { c with streams := vset c.streams m.stream { st with ready := st.ready.drop n } } else c
      if m'.step < m'.steps then { c with macs := m' :: rest }
      else { c with macs := rest, busy := c.busy.map (settleMac m') }

/-! ## Scale latches -/

/-- R183: the boundary of a block, as the cycle of the step that consumes it first. -/
def blockBoundary (m : MacOp) (b : Nat) : Nat :=
  let k := (shapeOf m.fmt).k
  m.start + (if m.form = .mms then 8 * b / k else 16 * b / k)

/-- R183: whether a load that lands in cycle `now` leads an operation as it should. -/
def latchTimed (c : Core) (page first run now : Nat) : Bool :=
  c.macs.any fun m =>
    isBlockFormat m.fmt && blockBoundary m (32 * page + first) == now &&
      32 * page + first + run ≤ ceilDiv m.depth 16

/-- R183: a column of a scale tile as bytes packed from row 0, at most `n` rows. -/
def scaleColumn (g : Geometry) (es : List Nat) (n col : Nat) : Nat :=
  packLanes 8 ((List.range (min n g.rowCount)).map fun i => elementAt g es i col)

/-- R183: `msl` reads the scale tiles as they stood before the bundle. -/
def execMsl (h : BitVec 1) (a b r : BitVec 4) (f : BitVec 5) (s : State) : Host.Outcome State Fault Refusal :=
  let ga := tileGeometry s.before a.toNat
  let gb := tileGeometry s.before b.toNat
  let ea := tileElements ga (tileOf s.before a.toNat)
  let eb := tileElements gb (tileOf s.before b.toNat)
  let first := 32 * h.toNat + f.toNat
  let run := r.toNat + 1
  let bad := fun (g : Geometry) => !g.valid || g.fmt != 13 || g.colCount < first + run
  let vals := (List.range run).map fun q =>
    ({ a := BitVec.ofNat 128 (scaleColumn ga ea 16 (first + q))
       b := BitVec.ofNat 64 (scaleColumn gb eb 8 (first + q)) } : Latch)
  .next (checked [(bad ga || bad gb, codeTileGeometry)]
    (fun s => startBusy
      { BusyOp.blank s 3 with
          reads := [.tile a.toNat, .tile b.toNat]
          effects := [.latches h.toNat f.toNat vals (min 16 ga.rowCount) (min 8 gb.rowCount)] } s)
    (noteResources [.tile a.toNat, .tile b.toNat] []
      (noteReads [.sys (0x40 + a.toNat), .sys (0x40 + b.toNat)] s)))

/-- R183: a latch takes the rows that the load brings; the other rows keep their values. -/
def mergeLatch (old new : Latch) (rowsA rowsB : Nat) : Latch :=
  { a := BitVec.ofNat 128 (replaceField old.a.toNat 0 (8 * rowsA) new.a.toNat)
    b := BitVec.ofNat 64 (replaceField old.b.toNat 0 (8 * rowsB) new.b.toNat) }

end Sys2Proof.Machine
end

