-- ==== Sys2Proof/Machine/Scalar.lean ====
section
/-!
DEFINITION. The integer forms of the scalar class: SX (R110 to R113), SI (R114) and SL (R115).
-/

namespace Sys2Proof.Machine

/-- A truth value as a scalar result. -/
def ofBool (b : Bool) : XWord := if b then 1 else 0

/-- R111: the signed quotient truncated toward zero. -/
def quotSigned (a b : XWord) : XWord := if b = 0 then BitVec.allOnes 64 else BitVec.ofInt 64 (a.toInt.tdiv b.toInt)

/-- R111: the unsigned quotient. -/
def quotUnsigned (a b : XWord) : XWord := if b = 0 then BitVec.allOnes 64 else BitVec.ofNat 64 (a.toNat / b.toNat)

/-- R111: the signed remainder, whose sign follows A. -/
def remSigned (a b : XWord) : XWord := if b = 0 then a else BitVec.ofInt 64 (a.toInt.tmod b.toInt)

/-- R111: the unsigned remainder. -/
def remUnsigned (a b : XWord) : XWord := if b = 0 then a else BitVec.ofNat 64 (a.toNat % b.toNat)

/-- R110: the high 64 bits of the signed product. -/
def highSigned (a b : XWord) : XWord := BitVec.ofInt 64 (a.toInt * b.toInt / 2 ^ 64)

/-- R110: the high 64 bits of the unsigned product. -/
def highUnsigned (a b : XWord) : XWord := BitVec.ofNat 64 (a.toNat * b.toNat / 2 ^ 64)

/-- The number of leading zero bits; 64 for 0. -/
def leadingZeros (a : XWord) : XWord := BitVec.ofNat 64 (64 - bitLength a.toNat)

/-- The number of zero bits below the lowest one bit, of `n` bits. -/
def trailingZerosFrom : Nat → Nat → Nat
  | 0, _ => 0
  | n + 1, v => if v % 2 = 1 then 0 else trailingZerosFrom n (v / 2) + 1

/-- The number of trailing zero bits; 64 for 0. -/
def trailingZeros (a : XWord) : XWord := BitVec.ofNat 64 (trailingZerosFrom 64 a.toNat)

/-- The number of one bits of a number of `n` bits. -/
def onesOf : Nat → Nat → Nat
  | 0, _ => 0
  | n + 1, v => v % 2 + onesOf n (v / 2)

/-- The number of one bits. -/
def onesCount (a : XWord) : XWord := BitVec.ofNat 64 (onesOf 64 a.toNat)

/-- The eight bytes in reverse order. -/
def reverseBytes (a : XWord) : XWord := BitVec.ofNat 64 (ofBytes (toBytes 8 a.toNat).reverse)

/-- The low 32 bits sign-extended (R110). -/
def signExtend32 (a : XWord) : XWord := (a.setWidth 32).signExtend 64

/-- R112: the shift amount of an SX form. -/
def shiftAmount (b : XWord) : Nat := b.toNat % 64

/-- R112: a field's position and length. -/
def fieldPos (b : XWord) : Nat := b.toNat % 64
def fieldLen (b : XWord) : Nat := min (natField b.toNat 8 7) (64 - fieldPos b)

/-- R112: `bext`. -/
def extractField (a b : XWord) : XWord := BitVec.ofNat 64 (natField a.toNat (fieldPos b) (fieldLen b))

/-- R112: `bins`. -/
def insertField (old a b : XWord) : XWord :=
  let mask : XWord := BitVec.ofNat 64 ((2 ^ fieldLen b - 1) * 2 ^ fieldPos b)
  (old &&& ~~~mask) ||| ((a <<< fieldPos b) &&& mask)

/-- R110: `sext` by its literal. -/
def signExtendBy (w : BitVec 6) (a : XWord) : XWord :=
  match w.toNat with
  | 0 => (a.setWidth 8).signExtend 64
  | 1 => (a.setWidth 16).signExtend 64
  | _ => (a.setWidth 32).signExtend 64

/-- R70, R110: `sel` always writes; its guard selects the operand, and only that operand is read. -/
def selectForm (d a b : BitVec 6) (l : Lend) (s : State) : State :=
  let s := noteReads [guardReg l] s
  unguarded (dstOk d && srcOk a && srcOk b)
    (fun s =>
      let c := if guardHolds s.before l then a else b
      landScalar d (readSource s.before c) noFlags 1 none (noteReads [sourceReg c] s)) s

/-- R112, R108: `bins` reads its destination. -/
def insertForm (d a b : BitVec 6) (l : Lend) (s : State) : State :=
  guarded l (readDstOk d && srcOk a && srcOk b) d 1
    (fun s =>
      let o := readSource s.before d
      let x := readSource s.before a
      let y := readSource s.before b
      landScalar d { bits := insertField o.bits x.bits y.bits, poison := o.poison || x.poison || y.poison } noFlags 1 none
        (noteReads [sourceReg a, sourceReg b, sourceReg d] s)) s

/-- R115: `li`. -/
def loadImmediate (d : BitVec 6) (i : BitVec 20) (l : Option Lend) (s : State) : State :=
  unguarded (dstOk d)
    (fun s => landScalar d { bits := BitVec.ofInt 64 (immSigned i l), poison := false } noFlags 1 none s) s

/-- R115: `lic` shifts its destination by the width of the immediate and inserts the immediate. -/
def insertImmediate (d : BitVec 6) (i : BitVec 20) (l : Option Lend) (s : State) : State :=
  unguarded (readDstOk d)
    (fun s =>
      let o := readSource s.before d
      landScalar d { bits := (o.bits <<< immWidth 20 l) ||| BitVec.ofNat 64 (immBits i l), poison := o.poison } noFlags 1
        none (noteReads [sourceReg d] s)) s

/-- R110: `add`. Adds two scalars mod 2^64. -/
def execAdd (d a b : BitVec 6) (l : Lend) (s : State) : Host.Outcome State Fault Refusal :=
  .next (binaryForm (· + ·) 1 d a b l s)

/-- R110: `sub`. Subtracts two scalars. -/
def execSub (d a b : BitVec 6) (l : Lend) (s : State) : Host.Outcome State Fault Refusal :=
  .next (binaryForm (· - ·) 1 d a b l s)

/-- R110: `mul`. Low 64 bits of a product. -/
def execMul (d a b : BitVec 6) (l : Lend) (s : State) : Host.Outcome State Fault Refusal :=
  .next (binaryForm (· * ·) 3 d a b l s)

/-- R110: `mulh`. High 64 bits of a signed product. -/
def execMulh (d a b : BitVec 6) (l : Lend) (s : State) : Host.Outcome State Fault Refusal :=
  .next (binaryForm highSigned 3 d a b l s)

/-- R110: `mulhn`. High 64 bits of an unsigned product. -/
def execMulhn (d a b : BitVec 6) (l : Lend) (s : State) : Host.Outcome State Fault Refusal :=
  .next (binaryForm highUnsigned 3 d a b l s)

/-- R111: `div`. Signed quotient truncated toward zero. -/
def execDiv (d a b : BitVec 6) (l : Lend) (s : State) : Host.Outcome State Fault Refusal :=
  .next (binaryForm quotSigned 24 d a b l s)

/-- R111: `divn`. Unsigned quotient. -/
def execDivn (d a b : BitVec 6) (l : Lend) (s : State) : Host.Outcome State Fault Refusal :=
  .next (binaryForm quotUnsigned 24 d a b l s)

/-- R111: `rem`. Signed remainder. -/
def execRem (d a b : BitVec 6) (l : Lend) (s : State) : Host.Outcome State Fault Refusal :=
  .next (binaryForm remSigned 24 d a b l s)

/-- R111: `remn`. Unsigned remainder. -/
def execRemn (d a b : BitVec 6) (l : Lend) (s : State) : Host.Outcome State Fault Refusal :=
  .next (binaryForm remUnsigned 24 d a b l s)

/-- R110: `and`. Bitwise and. -/
def execAnd (d a b : BitVec 6) (l : Lend) (s : State) : Host.Outcome State Fault Refusal :=
  .next (binaryForm (· &&& ·) 1 d a b l s)

/-- R110: `or`. Bitwise or. -/
def execOr (d a b : BitVec 6) (l : Lend) (s : State) : Host.Outcome State Fault Refusal :=
  .next (binaryForm (· ||| ·) 1 d a b l s)

/-- R110: `xor`. Bitwise exclusive or. -/
def execXor (d a b : BitVec 6) (l : Lend) (s : State) : Host.Outcome State Fault Refusal :=
  .next (binaryForm (· ^^^ ·) 1 d a b l s)

/-- R110: `andn`. A and not B. -/
def execAndn (d a b : BitVec 6) (l : Lend) (s : State) : Host.Outcome State Fault Refusal :=
  .next (binaryForm (fun x y => x &&& ~~~y) 1 d a b l s)

/-- R110: `orn`. A or not B. -/
def execOrn (d a b : BitVec 6) (l : Lend) (s : State) : Host.Outcome State Fault Refusal :=
  .next (binaryForm (fun x y => x ||| ~~~y) 1 d a b l s)

/-- R112: `shl`. Shift left by B[5:0]. -/
def execShl (d a b : BitVec 6) (l : Lend) (s : State) : Host.Outcome State Fault Refusal :=
  .next (binaryForm (fun x y => x <<< shiftAmount y) 1 d a b l s)

/-- R112: `shr`. Logical shift right. -/
def execShr (d a b : BitVec 6) (l : Lend) (s : State) : Host.Outcome State Fault Refusal :=
  .next (binaryForm (fun x y => x >>> shiftAmount y) 1 d a b l s)

/-- R112: `sra`. Arithmetic shift right. -/
def execSra (d a b : BitVec 6) (l : Lend) (s : State) : Host.Outcome State Fault Refusal :=
  .next (binaryForm (fun x y => x.sshiftRight (shiftAmount y)) 1 d a b l s)

/-- R112: `rol`. Rotate left. -/
def execRol (d a b : BitVec 6) (l : Lend) (s : State) : Host.Outcome State Fault Refusal :=
  .next (binaryForm (fun x y => x.rotateLeft (shiftAmount y)) 1 d a b l s)

/-- R112: `ror`. Rotate right. -/
def execRor (d a b : BitVec 6) (l : Lend) (s : State) : Host.Outcome State Fault Refusal :=
  .next (binaryForm (fun x y => x.rotateRight (shiftAmount y)) 1 d a b l s)

/-- R110: `min`. Signed minimum. -/
def execMin (d a b : BitVec 6) (l : Lend) (s : State) : Host.Outcome State Fault Refusal :=
  .next (binaryForm (fun x y => if y.slt x then y else x) 1 d a b l s)

/-- R110: `max`. Signed maximum. -/
def execMax (d a b : BitVec 6) (l : Lend) (s : State) : Host.Outcome State Fault Refusal :=
  .next (binaryForm (fun x y => if x.slt y then y else x) 1 d a b l s)

/-- R110: `minn`. Unsigned minimum. -/
def execMinn (d a b : BitVec 6) (l : Lend) (s : State) : Host.Outcome State Fault Refusal :=
  .next (binaryForm (fun x y => if y < x then y else x) 1 d a b l s)

/-- R110: `maxn`. Unsigned maximum. -/
def execMaxn (d a b : BitVec 6) (l : Lend) (s : State) : Host.Outcome State Fault Refusal :=
  .next (binaryForm (fun x y => if x < y then y else x) 1 d a b l s)

/-- R110: `clz`. Counts leading zero bits. -/
def execClz (d a : BitVec 6) (l : Lend) (s : State) : Host.Outcome State Fault Refusal :=
  .next (unaryForm leadingZeros 1 d a l s)

/-- R110: `ctz`. Counts trailing zero bits. -/
def execCtz (d a : BitVec 6) (l : Lend) (s : State) : Host.Outcome State Fault Refusal :=
  .next (unaryForm trailingZeros 1 d a l s)

/-- R110: `popc`. Counts one bits. -/
def execPopc (d a : BitVec 6) (l : Lend) (s : State) : Host.Outcome State Fault Refusal :=
  .next (unaryForm onesCount 1 d a l s)

/-- R110: `bswap`. Reverses the eight bytes. -/
def execBswap (d a : BitVec 6) (l : Lend) (s : State) : Host.Outcome State Fault Refusal :=
  .next (unaryForm reverseBytes 1 d a l s)

/-- R70: `sel`. Selects A or B by its guard, and always writes. -/
def execSel (d a b : BitVec 6) (l : Lend) (s : State) : Host.Outcome State Fault Refusal :=
  .next (selectForm d a b l s)

/-- R110: `addw`. 32-bit add, sign-extended. -/
def execAddw (d a b : BitVec 6) (l : Lend) (s : State) : Host.Outcome State Fault Refusal :=
  .next (binaryForm (fun x y => signExtend32 (x + y)) 1 d a b l s)

/-- R110: `subw`. 32-bit subtract, sign-extended. -/
def execSubw (d a b : BitVec 6) (l : Lend) (s : State) : Host.Outcome State Fault Refusal :=
  .next (binaryForm (fun x y => signExtend32 (x - y)) 1 d a b l s)

/-- R110: `mulw`. 32-bit multiply, sign-extended. -/
def execMulw (d a b : BitVec 6) (l : Lend) (s : State) : Host.Outcome State Fault Refusal :=
  .next (binaryForm (fun x y => signExtend32 (x * y)) 3 d a b l s)

/-- R110: `sext`. Sign-extends 8, 16 or 32 bits, chosen by a literal. -/
def execSext (d a w : BitVec 6) (l : Lend) (s : State) : Host.Outcome State Fault Refusal :=
  .next (unaryForm (signExtendBy w) 1 d a l s)

/-- R112: `bext`. Extracts a bit field. -/
def execBext (d a b : BitVec 6) (l : Lend) (s : State) : Host.Outcome State Fault Refusal :=
  .next (binaryForm extractField 1 d a b l s)

/-- R112: `bins`. Inserts a bit field into X[d]. -/
def execBins (d a b : BitVec 6) (l : Lend) (s : State) : Host.Outcome State Fault Refusal :=
  .next (insertForm d a b l s)

/-- R113: `cmp.eq`. 1 if A = B. -/
def execCmpEq (d a b : BitVec 6) (l : Lend) (s : State) : Host.Outcome State Fault Refusal :=
  .next (binaryForm (fun x y => ofBool (x == y)) 1 d a b l s)

/-- R113: `cmp.ne`. 1 if A ≠ B. -/
def execCmpNe (d a b : BitVec 6) (l : Lend) (s : State) : Host.Outcome State Fault Refusal :=
  .next (binaryForm (fun x y => ofBool (x != y)) 1 d a b l s)

/-- R113: `cmp.lt`. Signed less-than. -/
def execCmpLt (d a b : BitVec 6) (l : Lend) (s : State) : Host.Outcome State Fault Refusal :=
  .next (binaryForm (fun x y => ofBool (x.slt y)) 1 d a b l s)

/-- R113: `cmp.ge`. Signed greater-or-equal. -/
def execCmpGe (d a b : BitVec 6) (l : Lend) (s : State) : Host.Outcome State Fault Refusal :=
  .next (binaryForm (fun x y => ofBool (y.sle x)) 1 d a b l s)

/-- R113: `cmp.ltn`. Unsigned less-than. -/
def execCmpLtn (d a b : BitVec 6) (l : Lend) (s : State) : Host.Outcome State Fault Refusal :=
  .next (binaryForm (fun x y => ofBool (x < y)) 1 d a b l s)

/-- R113: `cmp.gen`. Unsigned greater-or-equal. -/
def execCmpGen (d a b : BitVec 6) (l : Lend) (s : State) : Host.Outcome State Fault Refusal :=
  .next (binaryForm (fun x y => ofBool (y ≤ x)) 1 d a b l s)

/-- R113: `cmp.tst`. 1 if (A and B) ≠ 0. -/
def execCmpTst (d a b : BitVec 6) (l : Lend) (s : State) : Host.Outcome State Fault Refusal :=
  .next (binaryForm (fun x y => ofBool (x &&& y != 0)) 1 d a b l s)

/-- R114: `addi`. Adds an immediate. -/
def execAddi (d a : BitVec 6) (i : BitVec 11) (l : Option Lend) (s : State) : Host.Outcome State Fault Refusal :=
  .next (immediateForm (· + ·) 1 d a i l s)

/-- R114: `andi`. And with an immediate. -/
def execAndi (d a : BitVec 6) (i : BitVec 11) (l : Option Lend) (s : State) : Host.Outcome State Fault Refusal :=
  .next (immediateForm (· &&& ·) 1 d a i l s)

/-- R114: `ori`. Or with an immediate. -/
def execOri (d a : BitVec 6) (i : BitVec 11) (l : Option Lend) (s : State) : Host.Outcome State Fault Refusal :=
  .next (immediateForm (· ||| ·) 1 d a i l s)

/-- R114: `xori`. Xor with an immediate. -/
def execXori (d a : BitVec 6) (i : BitVec 11) (l : Option Lend) (s : State) : Host.Outcome State Fault Refusal :=
  .next (immediateForm (· ^^^ ·) 1 d a i l s)

/-- R114: `shli`. Shift left by an immediate. -/
def execShli (d a : BitVec 6) (i : BitVec 11) (l : Option Lend) (s : State) : Host.Outcome State Fault Refusal :=
  .next (immediateForm (fun x y => x <<< y.toNat) 1 d a i l s)

/-- R114: `shri`. Logical shift right by an immediate. -/
def execShri (d a : BitVec 6) (i : BitVec 11) (l : Option Lend) (s : State) : Host.Outcome State Fault Refusal :=
  .next (immediateForm (fun x y => x >>> y.toNat) 1 d a i l s)

/-- R114: `srai`. Arithmetic shift right by an immediate. -/
def execSrai (d a : BitVec 6) (i : BitVec 11) (l : Option Lend) (s : State) : Host.Outcome State Fault Refusal :=
  .next (immediateForm (fun x y => x.sshiftRight y.toNat) 1 d a i l s)

/-- R114: `muli`. Multiplies by an immediate. -/
def execMuli (d a : BitVec 6) (i : BitVec 11) (l : Option Lend) (s : State) : Host.Outcome State Fault Refusal :=
  .next (immediateForm (· * ·) 3 d a i l s)

/-- R114: `cmpi.eq`. 1 if A equals the immediate. -/
def execCmpiEq (d a : BitVec 6) (i : BitVec 11) (l : Option Lend) (s : State) : Host.Outcome State Fault Refusal :=
  .next (immediateForm (fun x y => ofBool (x == y)) 1 d a i l s)

/-- R114: `cmpi.ne`. 1 if A differs from the immediate. -/
def execCmpiNe (d a : BitVec 6) (i : BitVec 11) (l : Option Lend) (s : State) : Host.Outcome State Fault Refusal :=
  .next (immediateForm (fun x y => ofBool (x != y)) 1 d a i l s)

/-- R114: `cmpi.lt`. Signed compare with the immediate. -/
def execCmpiLt (d a : BitVec 6) (i : BitVec 11) (l : Option Lend) (s : State) : Host.Outcome State Fault Refusal :=
  .next (immediateForm (fun x y => ofBool (x.slt y)) 1 d a i l s)

/-- R114: `cmpi.ltn`. Unsigned compare with the immediate. -/
def execCmpiLtn (d a : BitVec 6) (i : BitVec 11) (l : Option Lend) (s : State) : Host.Outcome State Fault Refusal :=
  .next (immediateForm (fun x y => ofBool (x < y)) 1 d a i l s)

/-- R115: `li`. Loads a sign-extended immediate. -/
def execLi (d : BitVec 6) (i : BitVec 20) (l : Option Lend) (s : State) : Host.Outcome State Fault Refusal :=
  .next (loadImmediate d i l s)

/-- R115: `lic`. Shifts X[d] left and inserts an unsigned immediate. -/
def execLic (d : BitVec 6) (i : BitVec 20) (l : Option Lend) (s : State) : Host.Outcome State Fault Refusal :=
  .next (insertImmediate d i l s)

end Sys2Proof.Machine
end

