-- ==== Sys2Proof/Machine/ScalarFloat.lean ====
section
/-!
DEFINITION. The scalar floating-point forms SF (R116 to R122).
-/

namespace Sys2Proof.Machine

/-- R116: the layout of a type code of SF; the es of t32 is `sys.tes`.ES32. -/
def scalarLayout (c : Core) (t : BitVec 4) : Layout := layoutOf (t.setWidth 5) (c.tes.extractLsb' 4 2).toNat

/-- R116: the bits of a scalar operand that its type uses. -/
def scalarBits (l : Layout) (v : Val) : Nat := v.bits.toNat % 2 ^ l.bits

/-- R116, R56: how a form rounds under a mode: the generator takes `sys.srstep` and A = x17. -/
def scalarRound (c : Core) (rm : BitVec 3) : RoundIn :=
  { rm := rm, r := if isStochastic rm then gen c.srkey c.srstep (readX c 17).bits else 0 }

/-- R24: the bound of an arithmetic form, by type. -/
def scalarBound (t : BitVec 4) : Nat := if t = 9 then 5 else 4

/-- A guarded SF form: the sources it reads by code, its mode if it rounds, and its result. Under SR and SR-SAT it also
reads x17, and a poisoned x17 is consumed (R109, R116). -/
def floatForm (d : BitVec 6) (legal : Bool) (srcs : List (BitVec 6)) (mode : Option (State → BitVec 3)) (lat : Nat)
    (f : Core → RoundIn → List Val → Rounded) (l : Lend) (s : State) : State :=
  guarded l (legal && srcs.all srcOk) d lat
    (fun s =>
      let vals := srcs.map (readSource s.before)
      let rm := match mode with | some g => g s | none => 0
      let s := noteReads (srcs.map sourceReg) s
      if mode.isSome && isStochastic rm then
        let s := noteReads [.x 17] s
        if (readX s.before 17).poison then raiseFault codePoison 0 s
        else
          let r := f s.before (scalarRound s.before rm) vals
          landScalar d { bits := BitVec.ofNat 64 r.bits, poison := vals.any (·.poison) } r.flags lat none s
      else
        let r := f s.before { rm := rm, r := 0 } vals
        landScalar d { bits := BitVec.ofNat 64 r.bits, poison := vals.any (·.poison) } r.flags lat none s) s

/-- The mode of `sys.rm` at issue (R52). -/
def systemMode (s : State) : BitVec 3 := s.before.rm

/-- Operand `k` of a form as a number. -/
def operand (l : Layout) (vs : List Val) (k : Nat) : Num := decodeNum l (scalarBits l (vs.getD k { bits := 0, poison := false }))

/-- Operand `k` of a form as a pattern. -/
def operandBits (l : Layout) (vs : List Val) (k : Nat) : Nat := scalarBits l (vs.getD k { bits := 0, poison := false })

/-- R117: a form with two rounded operands. -/
def floatBinary (op : Layout → RoundIn → Num → Num → Rounded) (lat : Nat) (d a b : BitVec 6) (t : BitVec 4) (l : Lend)
    (s : State) : State :=
  floatForm d (dstOk d) [a, b] (some systemMode) lat
    (fun c i vs => let y := scalarLayout c t; op y i (operand y vs 0) (operand y vs 1)) l s

/-- R118: a form that takes patterns and does not round. -/
def floatPick (least : Bool) (d a b : BitVec 6) (t : BitVec 4) (l : Lend) (s : State) : State :=
  floatForm d (dstOk d) [a, b] none 2
    (fun c _ vs => let y := scalarLayout c t; minMaxOp y least (operandBits y vs 0) (operandBits y vs 1)) l s

/-- R118, R120: a form of one pattern with no flags. -/
def floatSign (op : Layout → Nat → Nat) (d a : BitVec 6) (t : BitVec 4) (l : Lend) (s : State) : State :=
  floatForm d (dstOk d) [a] none 2
    (fun c _ vs => let y := scalarLayout c t; plainResult (op y (operandBits y vs 0))) l s

/-- R119: a compare. -/
def floatCompare (k : FCond) (d a b : BitVec 6) (t : BitVec 4) (l : Lend) (s : State) : State :=
  floatForm d (dstOk d) [a, b] none 2
    (fun c _ vs =>
      let y := scalarLayout c t
      let r := compareOp y k (operandBits y vs 0) (operandBits y vs 1)
      { bits := if r.1 then 1 else 0, flags := r.2 }) l s

/-- R117: `fadd`. -/
def execFadd (d a b : BitVec 6) (t : BitVec 4) (l : Lend) (s : State) : Host.Outcome State Fault Refusal :=
  .next (floatBinary addOp (scalarBound t) d a b t l s)

/-- R117: `fsub`. -/
def execFsub (d a b : BitVec 6) (t : BitVec 4) (l : Lend) (s : State) : Host.Outcome State Fault Refusal :=
  .next (floatBinary subOp (scalarBound t) d a b t l s)

/-- R117: `fmul`. -/
def execFmul (d a b : BitVec 6) (t : BitVec 4) (l : Lend) (s : State) : Host.Outcome State Fault Refusal :=
  .next (floatBinary mulOp (scalarBound t) d a b t l s)

/-- R117, R58: `fma` reads its addend from its destination, which must be x1 to x31 (R77). -/
def execFma (d a b : BitVec 6) (t : BitVec 4) (l : Lend) (s : State) : Host.Outcome State Fault Refusal :=
  .next (floatForm d (readDstOk d) [a, b, d] (some systemMode) (scalarBound t)
    (fun c i vs => let y := scalarLayout c t; fmaOp y i false (operand y vs 0) (operand y vs 1) (operand y vs 2)) l s)

/-- R117, R62: `fdiv`. -/
def execFdiv (d a b : BitVec 6) (t : BitVec 4) (l : Lend) (s : State) : Host.Outcome State Fault Refusal :=
  .next (floatBinary divOp 16 d a b t l s)

/-- R117, R62: `fsqrt`. -/
def execFsqrt (d a : BitVec 6) (t : BitVec 4) (l : Lend) (s : State) : Host.Outcome State Fault Refusal :=
  .next (floatForm d (dstOk d) [a] (some systemMode) 16
    (fun c i vs => let y := scalarLayout c t; sqrtOp y i (operand y vs 0)) l s)

/-- R118: `fmin`. -/
def execFmin (d a b : BitVec 6) (t : BitVec 4) (l : Lend) (s : State) : Host.Outcome State Fault Refusal :=
  .next (floatPick true d a b t l s)

/-- R118: `fmax`. -/
def execFmax (d a b : BitVec 6) (t : BitVec 4) (l : Lend) (s : State) : Host.Outcome State Fault Refusal :=
  .next (floatPick false d a b t l s)

/-- R118: `fabs`. -/
def execFabs (d a : BitVec 6) (t : BitVec 4) (l : Lend) (s : State) : Host.Outcome State Fault Refusal :=
  .next (floatSign absOp d a t l s)

/-- R118: `fneg`. -/
def execFneg (d a : BitVec 6) (t : BitVec 4) (l : Lend) (s : State) : Host.Outcome State Fault Refusal :=
  .next (floatSign negOp d a t l s)

/-- R119: `fcmp.eq`. -/
def execFcmpEq (d a b : BitVec 6) (t : BitVec 4) (l : Lend) (s : State) : Host.Outcome State Fault Refusal :=
  .next (floatCompare .eq d a b t l s)

/-- R119: `fcmp.lt`. -/
def execFcmpLt (d a b : BitVec 6) (t : BitVec 4) (l : Lend) (s : State) : Host.Outcome State Fault Refusal :=
  .next (floatCompare .lt d a b t l s)

/-- R119: `fcmp.le`. -/
def execFcmpLe (d a b : BitVec 6) (t : BitVec 4) (l : Lend) (s : State) : Host.Outcome State Fault Refusal :=
  .next (floatCompare .le d a b t l s)

/-- R119: `fcmp.un`. -/
def execFcmpUn (d a b : BitVec 6) (t : BitVec 4) (l : Lend) (s : State) : Host.Outcome State Fault Refusal :=
  .next (floatCompare .un d a b t l s)

/-- R120: `fclass`. -/
def execFclass (d a : BitVec 6) (t : BitVec 4) (l : Lend) (s : State) : Host.Outcome State Fault Refusal :=
  .next (floatSign classOp d a t l s)

/-- R121: `fcvt` from the type field's format to the format of the literal. -/
def execFcvt (d a u : BitVec 6) (t : BitVec 4) (l : Lend) (s : State) : Host.Outcome State Fault Refusal :=
  .next (floatForm d (dstOk d) [a] (some systemMode) 3
    (fun c i vs =>
      let y := scalarLayout c t
      convertOp (scalarLayout c (u.setWidth 4)) y i false (operandBits y vs 0)) l s)

/-- R121, R44: `fcvti` to a 64-bit integer under its literal mode. -/
def execFcvti (d a m : BitVec 6) (t : BitVec 4) (l : Lend) (s : State) : Host.Outcome State Fault Refusal :=
  .next (floatForm d (dstOk d) [a] (some fun _ => m.setWidth 3) 3
    (fun c i vs => let y := scalarLayout c t; roundNum (.int true 64) i.rm false i.r (operand y vs 0)) l s)

/-- R121: `fcvtf` from a 64-bit integer. -/
def execFcvtf (d a : BitVec 6) (t : BitVec 4) (l : Lend) (s : State) : Host.Outcome State Fault Refusal :=
  .next (floatForm d (dstOk d) [a] (some systemMode) 3
    (fun c i vs => roundNum (scalarLayout c t) i.rm false i.r (operand (.int true 64) vs 0)) l s)

end Sys2Proof.Machine
end

