-- ==== Sys2Proof/Machine/VecInt.lean ====
section
/-!
DEFINITION. The integer vector forms VI (R142 to R144).
-/

namespace Sys2Proof.Machine

/-- R85: the element bits of an integer type, and whether it is signed. -/
def intBits (t : BitVec 3) : Nat := 8 * 2 ^ (t.toNat % 4)
def intSigned (t : BitVec 3) : Bool := t.toNat < 4

/-- A lane as an integer of the type. -/
def intLane (t : BitVec 3) (v : Nat) : Int := if intSigned t then signedOf (intBits t) v else (v : Int)

/-- R142: the least and greatest value of a type. -/
def intMin (t : BitVec 3) : Int := if intSigned t then -(2 ^ (intBits t - 1) : Int) else 0
def intMax (t : BitVec 3) : Int := if intSigned t then 2 ^ (intBits t - 1) - 1 else 2 ^ intBits t - 1

/-- R142: saturation to the type's range. -/
def saturate (t : BitVec 3) (v : Int) : Int := max (intMin t) (min (intMax t) v)

/-- R142: a lane-wise integer form, its lanes read as the type's integers and its result wrapped to the lane. -/
def intForm (f : BitVec 3 → Int → Int → Int) (lat : Nat) (w : BitVec 2) (d a b : BitVec 6) (t : BitVec 3) (l : Lend)
    (s : State) : State :=
  let x := readV s.before a.toNat
  let y := readV s.before b.toNat
  vectorForm w (intBits t) (maskOf l) d [a.toNat, b.toNat] false false lat
    (fun i => plainResult (wrapTo (intBits t) (f t (intLane t (lane x (intBits t) i)) (intLane t (lane y (intBits t) i))))) s

/-- R142: a bitwise form. -/
def bitForm (f : Nat → Nat → Nat) (w : BitVec 2) (d a b : BitVec 6) (t : BitVec 3) (l : Lend) (s : State) : State :=
  let x := readV s.before a.toNat
  let y := readV s.before b.toNat
  vectorForm w (intBits t) (maskOf l) d [a.toNat, b.toNat] false false 2
    (fun i => plainResult (f (lane x (intBits t) i) (lane y (intBits t) i))) s

/-- R142: the shift amount of a lane. -/
def laneShift (t : BitVec 3) (y : Int) : Nat := (y % (intBits t : Int)).toNat

/-- R142: `vadd`. -/
def execVadd (w : BitVec 2) (d a b : BitVec 6) (t : BitVec 3) (l : Lend) (s : State) : Host.Outcome State Fault Refusal :=
  .next (intForm (fun _ x y => x + y) 2 w d a b t l s)

/-- R142: `vsub`. -/
def execVsub (w : BitVec 2) (d a b : BitVec 6) (t : BitVec 3) (l : Lend) (s : State) : Host.Outcome State Fault Refusal :=
  .next (intForm (fun _ x y => x - y) 2 w d a b t l s)

/-- R142: `vmul`. -/
def execVmul (w : BitVec 2) (d a b : BitVec 6) (t : BitVec 3) (l : Lend) (s : State) : Host.Outcome State Fault Refusal :=
  .next (intForm (fun _ x y => x * y) 4 w d a b t l s)

/-- R142: `vmulh`. -/
def execVmulh (w : BitVec 2) (d a b : BitVec 6) (t : BitVec 3) (l : Lend) (s : State) : Host.Outcome State Fault Refusal :=
  .next (intForm (fun t x y => x * y / 2 ^ intBits t) 4 w d a b t l s)

/-- R142: `vmin`. -/
def execVmin (w : BitVec 2) (d a b : BitVec 6) (t : BitVec 3) (l : Lend) (s : State) : Host.Outcome State Fault Refusal :=
  .next (intForm (fun _ x y => min x y) 2 w d a b t l s)

/-- R142: `vmax`. -/
def execVmax (w : BitVec 2) (d a b : BitVec 6) (t : BitVec 3) (l : Lend) (s : State) : Host.Outcome State Fault Refusal :=
  .next (intForm (fun _ x y => max x y) 2 w d a b t l s)

/-- R142: `vand`. -/
def execVand (w : BitVec 2) (d a b : BitVec 6) (t : BitVec 3) (l : Lend) (s : State) : Host.Outcome State Fault Refusal :=
  .next (bitForm (· &&& ·) w d a b t l s)

/-- R142: `vor`. -/
def execVor (w : BitVec 2) (d a b : BitVec 6) (t : BitVec 3) (l : Lend) (s : State) : Host.Outcome State Fault Refusal :=
  .next (bitForm (· ||| ·) w d a b t l s)

/-- R142: `vxor`. -/
def execVxor (w : BitVec 2) (d a b : BitVec 6) (t : BitVec 3) (l : Lend) (s : State) : Host.Outcome State Fault Refusal :=
  .next (bitForm (· ^^^ ·) w d a b t l s)

/-- R142: `vshl`. -/
def execVshl (w : BitVec 2) (d a b : BitVec 6) (t : BitVec 3) (l : Lend) (s : State) : Host.Outcome State Fault Refusal :=
  .next (intForm (fun t x y => x * 2 ^ laneShift t y) 2 w d a b t l s)

/-- R142: `vshr`, arithmetic for the signed types. -/
def execVshr (w : BitVec 2) (d a b : BitVec 6) (t : BitVec 3) (l : Lend) (s : State) : Host.Outcome State Fault Refusal :=
  .next (intForm (fun t x y => x / 2 ^ laneShift t y) 2 w d a b t l s)

/-- R142: `vabs`. -/
def execVabs (w : BitVec 2) (d a : BitVec 6) (t : BitVec 3) (l : Lend) (s : State) : Host.Outcome State Fault Refusal :=
  .next (vectorForm w (intBits t) (maskOf l) d [a.toNat] false false 2
    (fun i => plainResult (wrapTo (intBits t) (intLane t (lane (readV s.before a.toNat) (intBits t) i)).natAbs)) s)

/-- R142: `vadds`. -/
def execVadds (w : BitVec 2) (d a b : BitVec 6) (t : BitVec 3) (l : Lend) (s : State) : Host.Outcome State Fault Refusal :=
  .next (intForm (fun t x y => saturate t (x + y)) 2 w d a b t l s)

/-- R142: `vsubs`. -/
def execVsubs (w : BitVec 2) (d a b : BitVec 6) (t : BitVec 3) (l : Lend) (s : State) : Host.Outcome State Fault Refusal :=
  .next (intForm (fun t x y => saturate t (x - y)) 2 w d a b t l s)

/-- R143: the conditions of `vcmp`. -/
def intCond (k : BitVec 3) (x y : Int) : Bool :=
  match k.toNat with
  | 0 => x == y
  | 1 => x != y
  | 2 => x < y
  | 3 => x ≤ y
  | 4 => y < x
  | _ => y ≤ x

/-- R143: `vcmp`. -/
def execVcmp (w : BitVec 2) (d : BitVec 3) (a b : BitVec 6) (t : BitVec 3) (l : Lend) (s : State) :
    Host.Outcome State Fault Refusal :=
  let x := readV s.before a.toNat
  let y := readV s.before b.toNat
  .next (maskForm w (intBits t) (maskOf l) d [a.toNat, b.toNat] 2
    (fun i => (intCond (l.extractLsb' 6 3) (intLane t (lane x (intBits t) i)) (intLane t (lane y (intBits t) i)), noFlags))
    s)

/-- R144: the sum of the four byte products of 32-bit lane `j`. -/
def dot4 (t : BitVec 3) (x y : VWord) (j : Nat) : Int :=
  (List.range 4).foldl (fun a k => a + intLane t (lane x 8 (4 * j + k)) * intLane t (lane y 8 (4 * j + k))) 0

/-- R144: `vdot4` always reads its destination. -/
def execVdot4 (w : BitVec 2) (d a b : BitVec 6) (t : BitVec 3) (l : Lend) (s : State) : Host.Outcome State Fault Refusal :=
  let x := readV s.before a.toNat
  let y := readV s.before b.toNat
  let z := readV s.before d.toNat
  .next (vectorForm w 32 (maskOf l) d [a.toNat, b.toNat] true false 4
    (fun j => plainResult (wrapTo 32 (lane z 32 j + dot4 t x y j))) s)

end Sys2Proof.Machine
end

