-- ==== Sys2Proof/Machine/VecMem.lean ====
section
/-!
DEFINITION. The comb forms of VM: `vld`, `vst`, `vgat` and `vsct` (R164 to R168).
-/

namespace Sys2Proof.Machine

/-- R164: the offset of a contiguous form. -/
def blockOffset (c : Core) (w : BitVec 2) (x : BitVec 6) (i : BitVec 4) (l : Option Lend) : Int :=
  (readSource c x).bits.toInt + immSigned i l * (widthBits w / 8 : Nat)

/-- R166: `vld`. -/
def execVld (w : BitVec 2) (v c x : BitVec 6) (i : BitVec 4) (l : Option Lend) (s : State) :
    Host.Outcome State Fault Refusal :=
  .next (unguarded (srcOk x)
    (fun s =>
      let s := noteReads [sourceReg x] s
      if (readSource s.before x).poison then raiseFault codePoison 0 s
      else cellAccess c.toNat (blockOffset s.before w x i l) (widthBits w / 8) 32 false
        (fun lo s => landVector v.toNat 0 (widthBits w) (ofBytes (combRead s lo (widthBits w / 8)))
          (combPoison s lo (widthBits w / 8)) noFlags 3 [] s) s) s)

/-- R166: `vst`. -/
def execVst (w : BitVec 2) (v c x : BitVec 6) (i : BitVec 4) (l : Option Lend) (s : State) :
    Host.Outcome State Fault Refusal :=
  .next (unguarded (srcOk x)
    (fun s =>
      let s := noteReads [sourceReg x, .v v.toNat] s
      if (readSource s.before x).poison || poisonV s.before v.toNat then raiseFault codePoison 0 s
      else cellAccess c.toNat (blockOffset s.before w x i l) (widthBits w / 8) 32 true
        (fun lo s => combWrite lo (toBytes (widthBits w / 8) (readV s.before v.toNat).toNat) s) s) s)

/-- R90: the element bytes of a gather or scatter. -/
def gatherBytes (l : Lend) : Nat := 2 ^ (l.extractLsb' 0 2).toNat

/-- R90: the mask of a gather or scatter. -/
def gatherMask (l : Lend) : MaskUse := { n := (l.extractLsb' 2 3).toNat, zeroing := l.getLsbD 5 }

/-- R164: the offset of lane `j`. -/
def laneOffset (c : Core) (w : BitVec 2) (x : BitVec 6) (i : BitVec 4) (l : Lend) (j : Nat) : Int :=
  i.toInt * (widthBits w / 8 : Nat) + (lane (readV c x.toNat) (8 * gatherBytes l) j * gatherBytes l : Nat)

/-- R165: the first failing check, after poison, of a gather or scatter. -/
def gatherCheck (c : Core) (n : Nat) (offs : List Int) (z : Nat) (store : Bool) : Option (BitVec 8) :=
  let k := cellOf c n
  if !(if store then storable k.state else loadable k.state) then some codeCellState
  else if offs.any fun o => o < 0 || (k.size : Int) < o + z then some codeCellBounds
  else if !store && !offs.isEmpty && tagMismatch k && c.relief != codeSchedule then some codeSchedule
  else none

/-- The lanes of a gather or scatter that are active. -/
def gatherActive (c : Core) (w : BitVec 2) (l : Lend) : List Nat :=
  (List.range (widthBits w / (8 * gatherBytes l))).filter (laneActive c (gatherMask l))

/-- R167: `vgat`. -/
def execVgat (w : BitVec 2) (v c x : BitVec 6) (i : BitVec 4) (l : Lend) (s : State) : Host.Outcome State Fault Refusal :=
  let k := gatherMask l
  let z := gatherBytes l
  let act := gatherActive s.before w l
  let offs := act.map (laneOffset s.before w x i l)
  let regs := (if mergesDest k then [v.toNat] else []) ++ [x.toNat]
  .next (
    let s := noteReads [.m k.n] s
    if poisonV s.before x.toNat then raiseFault codePoison 0 (noteReads (regs.map Reg.v) s)
    else match gatherCheck s.before c.toNat offs z false with
    | some code => raiseFault code (cellAddr c.toNat) (noteReads (regs.map Reg.v) s)
    | none =>
      let base := (cellOf s.before c.toNat).base
      let s := offs.foldl (fun s o => noteCombWaits (base + o.toNat) z false s) s
      let s := if offs.isEmpty then s else clearCheck c.toNat s
      let rs := laneResults s.before k (8 * z) (widthBits w / (8 * z)) (readV s.before v.toNat)
        (fun j => { bits := ofBytes (combRead s (base + (laneOffset s.before w x i l j).toNat) z), flags := noFlags })
      let bad := offs.any fun o => combPoison s (base + o.toNat) z
      landVector v.toNat 0 (widthBits w) (packResults (8 * z) rs) (bad || anyPoisonV s.before regs) noFlags 5 regs s)

/-- R167: `vsct`; where active lanes share bytes the highest-numbered lane's remain. -/
def execVsct (w : BitVec 2) (v c x : BitVec 6) (i : BitVec 4) (l : Lend) (s : State) : Host.Outcome State Fault Refusal :=
  let z := gatherBytes l
  let act := gatherActive s.before w l
  let offs := act.map (laneOffset s.before w x i l)
  .next (
    let s := noteReads [.m (gatherMask l).n, .v x.toNat, .v v.toNat] s
    if anyPoisonV s.before [x.toNat, v.toNat] then raiseFault codePoison 0 s
    else match gatherCheck s.before c.toNat offs z true with
    | some code => raiseFault code (cellAddr c.toNat) s
    | none =>
      let base := (cellOf s.before c.toNat).base
      let s := offs.foldl (fun s o => noteCombWaits (base + o.toNat) z true s) s
      act.foldl (fun s j =>
        combWrite (base + (laneOffset s.before w x i l j).toNat)
          (toBytes z (lane (readV s.before v.toNat) (8 * z) j)) s) s)

end Sys2Proof.Machine
end

