-- ==== Sys2Proof/Machine/VecPermute.lean ====
section
/-!
DEFINITION. Permutes, moves and masks: the VP forms (R158 to R163).
-/

namespace Sys2Proof.Machine

/-- R89: the element bits of a VP size. -/
def sizeBits (t : BitVec 3) : Nat := 8 * 2 ^ t.toNat

/-- A masked form that picks each lane of its result from a source. -/
def pickForm (w : BitVec 2) (d : BitVec 6) (srcs : List Nat) (t : BitVec 3) (lat : Nat) (l : Lend) (f : Nat → Nat)
    (s : State) : State :=
  vectorForm w (sizeBits t) (maskOf l) d srcs false false lat (fun i => plainResult (f i)) s

/-- R158: `vmov`. -/
def execVmov (w : BitVec 2) (d a : BitVec 6) (t : BitVec 3) (l : Lend) (s : State) : Host.Outcome State Fault Refusal :=
  .next (pickForm w d [a.toNat] t 2 l (fun i => lane (readV s.before a.toNat) (sizeBits t) i) s)

/-- R158, R140: `vbcst` broadcasts the low bytes of a scalar source. -/
def execVbcst (w : BitVec 2) (d a : BitVec 6) (t : BitVec 3) (l : Lend) (s : State) : Host.Outcome State Fault Refusal :=
  .next (unguarded (srcOk a)
    (fun s =>
      let v := readSource s.before a
      vectorForm w (sizeBits t) (maskOf l) d [] false v.poison 2 (fun _ => plainResult (v.bits.toNat % 2 ^ sizeBits t))
        (noteReads [sourceReg a] s)) s)

/-- R158: `vli` writes its sign-extended immediate in every lane. -/
def execVli (w : BitVec 2) (d : BitVec 6) (t : BitVec 3) (l : Lend) (s : State) : Host.Outcome State Fault Refusal :=
  .next (landVector d.toNat 0 (widthBits w)
    (packLanes (sizeBits t) (List.replicate (widthBits w / sizeBits t) (wrapTo (sizeBits t) l.toInt))) false noFlags 2 [] s)

/-- R159: `vperm`. -/
def execVperm (w : BitVec 2) (d a b : BitVec 6) (t : BitVec 3) (l : Lend) (s : State) : Host.Outcome State Fault Refusal :=
  .next (pickForm w d [a.toNat, b.toNat] t 3 l
    (fun i => lane (readV s.before a.toNat) (sizeBits t)
      (lane (readV s.before b.toNat) (sizeBits t) i % laneCount w t)) s)

/-- R159: the source lane of `vshuf` pattern `p` for lane `i` of `n`. -/
def shuffleLane (p n i : Nat) : Nat :=
  if p ≤ 6 then i ^^^ 2 ^ p
  else if p = 7 then n - 1 - i
  else if p = 8 then (if i < n / 2 then 2 * i else 2 * (i - n / 2) + 1)
  else if p = 9 then (if i % 2 = 0 then i / 2 else n / 2 + (i - 1) / 2)
  else 0

/-- R159: `vshuf`. -/
def execVshuf (w : BitVec 2) (d a p : BitVec 6) (t : BitVec 3) (l : Lend) (s : State) : Host.Outcome State Fault Refusal :=
  .next (pickForm w d [a.toNat] t 2 l
    (fun i => lane (readV s.before a.toNat) (sizeBits t) (shuffleLane p.toNat (laneCount w t) i)) s)

/-- R159: `vrot`. -/
def execVrot (w : BitVec 2) (d a c : BitVec 6) (t : BitVec 3) (l : Lend) (s : State) : Host.Outcome State Fault Refusal :=
  .next (pickForm w d [a.toNat] t 2 l
    (fun i => lane (readV s.before a.toNat) (sizeBits t) ((i + c.toNat) % laneCount w t)) s)

/-- R160: the layout of a `vred` type. -/
def reduceLayout (t : BitVec 3) : Layout :=
  match t.toNat with
  | 4 => .int true 32
  | 5 => .int true 64
  | _ => layoutOf (vecFormat t) 0

/-- R160: the sum of float lanes, rounded once; the lowest-numbered NaN wins. -/
def reduceAdd (y : Layout) (i : RoundIn) (xs : List Nat) : Nat :=
  let ns := xs.map (decodeNum y)
  ((nanOperand y ns).getD (sumNums y i ns)).bits

/-- R160: `vred` in one layout. -/
def reduce (y : Layout) (op : Nat) (i : RoundIn) (xs : List Nat) : Nat :=
  match xs with
  | [] => 0
  | x :: rest =>
    if y.isInt then
      let ints := xs.map (signedOf y.bits)
      wrapTo y.bits (match op with
        | 0 => ints.foldl (· + ·) 0
        | 1 => ints.foldl max (signedOf y.bits x)
        | _ => ints.foldl min (signedOf y.bits x))
    else if op = 0 then reduceAdd y i xs
    else ((nanOperand y (xs.map (decodeNum y))).getD
      (plainResult (rest.foldl (fun a b => (minMaxOp y (op == 2) a b).bits) x))).bits

/-- R160: `vred` writes lane 0 and zero in the others, and raises no flag. -/
def execVred (w : BitVec 2) (d a : BitVec 6) (t : BitVec 3) (l : Lend) (s : State) : Host.Outcome State Fault Refusal :=
  let y := reduceLayout t
  let c := s.before
  let i : RoundIn := { rm := c.rm, r := if isStochastic c.rm then gen c.srkey c.srstep 0 else 0 }
  .next (landVector d.toNat 0 (widthBits w)
    (reduce y (l.extractLsb' 0 2).toNat i (lanesOf y.bits (widthBits w / y.bits) (readV c a.toNat).toNat))
    (poisonV c a.toNat) noFlags 6 [a.toNat] s)

/-- R161: the mask operations. -/
def maskOp (op : Nat) (a b : MWord) : MWord :=
  match op with
  | 0 => a &&& b
  | 1 => a ||| b
  | 2 => a ^^^ b
  | 3 => a &&& ~~~b
  | 4 => ~~~a
  | _ => a

/-- R161: `vmsk` writes a mask and pushes its popcount. -/
def execVmsk (_w : BitVec 2) (d a b : BitVec 3) (l : Lend) (s : State) : Host.Outcome State Fault Refusal :=
  let op := (l.extractLsb' 0 3).toNat
  let r := maskOp op (readM s.before a.toNat) (readM s.before b.toNat)
  .next (pushResult (onesIn 128 r.toNat) false noFlags 2 none
    (landMask d.toNat r.toNat noFlags 2 [] (noteReads ([.m a.toNat] ++ (if op < 4 then [Reg.m b.toNat] else [])) s)))
where
  /-- The number of one bits of a number of `n` bits. -/
  onesIn : Nat → Nat → Nat
    | 0, _ => 0
    | n + 1, v => v % 2 + onesIn n (v / 2)

/-- R161, R140: `vbitx` writes a mask from the low 128 bits of a v register. -/
def execVbitx (_w : BitVec 2) (d : BitVec 3) (a : BitVec 6) (s : State) : Host.Outcome State Fault Refusal :=
  .next (if poisonV s.before a.toNat then raiseFault codePoison 0 (noteReads [.v a.toNat] s)
    else landMask d.toNat (natField (readV s.before a.toNat).toNat 0 128) noFlags 2 [a.toNat] s)

/-- R162: `vxtr` pushes a lane, zero-extended. -/
def execVxtr (_w : BitVec 2) (a n : BitVec 6) (t : BitVec 3) (s : State) : Host.Outcome State Fault Refusal :=
  let pen := bankPenalty s.issue.reads [a.toNat]
  .next (pushResult (lane (readV s.before a.toNat) (sizeBits t) n.toNat) (poisonV s.before a.toNat) noFlags (2 + pen) none
    (noteReads [.v a.toNat] s))

/-- R162: `vins` writes one lane and leaves every other bit. -/
def execVins (_w : BitVec 2) (d a n : BitVec 6) (t : BitVec 3) (s : State) : Host.Outcome State Fault Refusal :=
  .next (unguarded (srcOk a)
    (fun s =>
      let v := readSource s.before a
      landVector d.toNat (sizeBits t * n.toNat) (sizeBits t) (v.bits.toNat % 2 ^ sizeBits t) v.poison noFlags 2 []
        (noteReads [sourceReg a] s)) s)

/-- The numbers of the active lanes below `n`, ascending. -/
def activeLanes (c : Core) (k : MaskUse) (n : Nat) : List Nat := (List.range n).filter (laneActive c k)

/-- R163: a compress or expand: the lane each result lane takes, or none for a remaining lane. -/
def gatherLanes (w : BitVec 2) (d a : BitVec 6) (t : BitVec 3) (l : Lend) (pick : List Nat → Nat → Option Nat)
    (s : State) : State :=
  let k := maskOf l
  let n := laneCount w t
  let act := activeLanes s.before k n
  let regs := [a.toNat] ++ (if mergesDest k then [d.toNat] else [])
  let old := readV s.before d.toNat
  let value := packLanes (sizeBits t) ((List.range n).map fun i =>
    match pick act i with
    | some j => lane (readV s.before a.toNat) (sizeBits t) j
    | none => if k.zeroing then 0 else lane old (sizeBits t) i)
  landVector d.toNat 0 (widthBits w) value (anyPoisonV s.before regs) noFlags 2 regs (noteReads [.m k.n] s)

/-- R163: `vcmpr`. -/
def execVcmpr (w : BitVec 2) (d a : BitVec 6) (t : BitVec 3) (l : Lend) (s : State) : Host.Outcome State Fault Refusal :=
  .next (gatherLanes w d a t l (fun act i => act[i]?) s)

/-- R163: `vexpd`. -/
def execVexpd (w : BitVec 2) (d a : BitVec 6) (t : BitVec 3) (l : Lend) (s : State) : Host.Outcome State Fault Refusal :=
  .next (gatherLanes w d a t l (fun act i => act.findIdx? (· == i)) s)

end Sys2Proof.Machine
end

