-- ==== Sys2Proof/Machine/Syllables.lean ====
section
/-!
DEFINITION. The syllable forms by constructor: the destinations that R16 names, and the meaning of each form for a bundle in
issue. A device step stands in no bundle.
-/

namespace Sys2Proof.Machine

/-- A destination of R16. -/
inductive Target where
  | x (n : Nat) | pred (n : Nat) | v (n : Nat) | m (n : Nat) | tile (n : Nat) | bank (n : Nat) | handle (n : Nat)
  | sys (n : Nat)
deriving DecidableEq, Repr

/-- R16: the destination of a scalar code; x0, p0 and the last-result queue are exempt. -/
def scalarTarget (d : BitVec 6) : List Target :=
  let n := d.toNat
  if 1 ≤ n && n ≤ 31 then [.x n] else if 49 ≤ n && n ≤ 55 then [.pred (n - 48)] else []

/-- R16: an m register; a write to m0 is discarded (R17). -/
def maskTarget (d : BitVec 3) : List Target := if d = 0 then [] else [.m d.toNat]

/-- R16: a group of v registers. -/
def groupTarget (d : BitVec 6) (n : Nat) : List Target := (groupRegs d.toNat n).map Target.v

/-- R16: the destinations of a form. -/
def targetsOf (i : Instr) : List Target :=
  match i with
  | .add d _ _ _ => scalarTarget d
  | .sub d _ _ _ => scalarTarget d
  | .mul d _ _ _ => scalarTarget d
  | .mulh d _ _ _ => scalarTarget d
  | .mulhn d _ _ _ => scalarTarget d
  | .div d _ _ _ => scalarTarget d
  | .divn d _ _ _ => scalarTarget d
  | .rem d _ _ _ => scalarTarget d
  | .remn d _ _ _ => scalarTarget d
  | .and d _ _ _ => scalarTarget d
  | .or d _ _ _ => scalarTarget d
  | .xor d _ _ _ => scalarTarget d
  | .andn d _ _ _ => scalarTarget d
  | .orn d _ _ _ => scalarTarget d
  | .shl d _ _ _ => scalarTarget d
  | .shr d _ _ _ => scalarTarget d
  | .sra d _ _ _ => scalarTarget d
  | .rol d _ _ _ => scalarTarget d
  | .ror d _ _ _ => scalarTarget d
  | .min d _ _ _ => scalarTarget d
  | .max d _ _ _ => scalarTarget d
  | .minn d _ _ _ => scalarTarget d
  | .maxn d _ _ _ => scalarTarget d
  | .clz d _ _ => scalarTarget d
  | .ctz d _ _ => scalarTarget d
  | .popc d _ _ => scalarTarget d
  | .bswap d _ _ => scalarTarget d
  | .sel d _ _ _ => scalarTarget d
  | .addw d _ _ _ => scalarTarget d
  | .subw d _ _ _ => scalarTarget d
  | .mulw d _ _ _ => scalarTarget d
  | .sext d _ _ _ => scalarTarget d
  | .bext d _ _ _ => scalarTarget d
  | .bins d _ _ _ => scalarTarget d
  | .cmpEq d _ _ _ => scalarTarget d
  | .cmpNe d _ _ _ => scalarTarget d
  | .cmpLt d _ _ _ => scalarTarget d
  | .cmpGe d _ _ _ => scalarTarget d
  | .cmpLtn d _ _ _ => scalarTarget d
  | .cmpGen d _ _ _ => scalarTarget d
  | .cmpTst d _ _ _ => scalarTarget d
  | .addi d _ _ _ => scalarTarget d
  | .andi d _ _ _ => scalarTarget d
  | .ori d _ _ _ => scalarTarget d
  | .xori d _ _ _ => scalarTarget d
  | .shli d _ _ _ => scalarTarget d
  | .shri d _ _ _ => scalarTarget d
  | .srai d _ _ _ => scalarTarget d
  | .muli d _ _ _ => scalarTarget d
  | .cmpiEq d _ _ _ => scalarTarget d
  | .cmpiNe d _ _ _ => scalarTarget d
  | .cmpiLt d _ _ _ => scalarTarget d
  | .cmpiLtn d _ _ _ => scalarTarget d
  | .li d _ _ => scalarTarget d
  | .lic d _ _ => scalarTarget d
  | .fadd d _ _ _ _ => scalarTarget d
  | .fsub d _ _ _ _ => scalarTarget d
  | .fmul d _ _ _ _ => scalarTarget d
  | .fma d _ _ _ _ => scalarTarget d
  | .fdiv d _ _ _ _ => scalarTarget d
  | .fsqrt d _ _ _ => scalarTarget d
  | .fmin d _ _ _ _ => scalarTarget d
  | .fmax d _ _ _ _ => scalarTarget d
  | .fabs d _ _ _ => scalarTarget d
  | .fneg d _ _ _ => scalarTarget d
  | .fcmpEq d _ _ _ _ => scalarTarget d
  | .fclass d _ _ _ => scalarTarget d
  | .fcvt d _ _ _ _ => scalarTarget d
  | .fcvti d _ _ _ _ => scalarTarget d
  | .fcvtf d _ _ _ => scalarTarget d
  | .fcmpLt d _ _ _ _ => scalarTarget d
  | .fcmpLe d _ _ _ _ => scalarTarget d
  | .fcmpUn d _ _ _ _ => scalarTarget d
  | .call _ _ => [.x 31]
  | .loop _ _ => [.sys 0x04, .sys 0x05, .sys 0x06]
  | .ldImm r _ _ _ _ => scalarTarget r
  | .ldIndexed r _ _ _ _ _ => scalarTarget r
  | .ldxImm r _ _ _ _ => scalarTarget r
  | .ldxIndexed r _ _ _ _ _ => scalarTarget r
  | .ldSImm r _ _ _ _ => scalarTarget r
  | .ldSIndexed r _ _ _ _ _ => scalarTarget r
  | .amoAdd d _ _ _ _ _ _ => scalarTarget d
  | .amoAnd d _ _ _ _ _ _ => scalarTarget d
  | .amoOr d _ _ _ _ _ _ => scalarTarget d
  | .amoXor d _ _ _ _ _ _ => scalarTarget d
  | .amoMin d _ _ _ _ _ _ => scalarTarget d
  | .amoMax d _ _ _ _ _ _ => scalarTarget d
  | .amoMinn d _ _ _ _ _ _ => scalarTarget d
  | .amoMaxn d _ _ _ _ _ _ => scalarTarget d
  | .amoSwap d _ _ _ _ _ _ => scalarTarget d
  | .amoCas d _ _ _ _ _ _ => scalarTarget d
  | .amoFadd d _ _ _ _ _ _ => scalarTarget d
  | .amoAddsr d _ _ _ _ _ => scalarTarget d
  | .probe _ h _ _ => [.handle h.toNat]
  | .xlat _ h _ _ => [.handle h.toNat]
  | .hinv h => [.handle h.toNat]
  | .hinfo d _ _ => scalarTarget d
  | .mfsr r _ _ => scalarTarget r
  | .mtsr _ s _ => [.sys s.toNat]
  | .ldcImm r _ _ _ _ => scalarTarget r
  | .ldcIndexed r _ _ _ _ _ => scalarTarget r
  | .ldcxImm r _ _ _ _ => scalarTarget r
  | .ldcxIndexed r _ _ _ _ _ => scalarTarget r
  | .vadd _ d _ _ _ _ => [.v d.toNat]
  | .vsub _ d _ _ _ _ => [.v d.toNat]
  | .vmul _ d _ _ _ _ => [.v d.toNat]
  | .vmulh _ d _ _ _ _ => [.v d.toNat]
  | .vmin _ d _ _ _ _ => [.v d.toNat]
  | .vmax _ d _ _ _ _ => [.v d.toNat]
  | .vand _ d _ _ _ _ => [.v d.toNat]
  | .vor _ d _ _ _ _ => [.v d.toNat]
  | .vxor _ d _ _ _ _ => [.v d.toNat]
  | .vshl _ d _ _ _ _ => [.v d.toNat]
  | .vshr _ d _ _ _ _ => [.v d.toNat]
  | .vabs _ d _ _ _ => [.v d.toNat]
  | .vadds _ d _ _ _ _ => [.v d.toNat]
  | .vsubs _ d _ _ _ _ => [.v d.toNat]
  | .vcmp _ d _ _ _ _ => maskTarget d
  | .vdot4 _ d _ _ _ _ => [.v d.toNat]
  | .vfadd _ d _ _ _ _ => [.v d.toNat]
  | .vfsub _ d _ _ _ _ => [.v d.toNat]
  | .vfmul _ d _ _ _ _ => [.v d.toNat]
  | .vfma _ d _ _ _ _ => [.v d.toNat]
  | .vfnma _ d _ _ _ _ => [.v d.toNat]
  | .vfmin _ d _ _ _ _ => [.v d.toNat]
  | .vfmax _ d _ _ _ _ => [.v d.toNat]
  | .vfabs _ d _ _ _ => [.v d.toNat]
  | .vfneg _ d _ _ _ => [.v d.toNat]
  | .vfcmp _ d _ _ _ _ => maskTarget d
  | .vfclass _ d _ _ _ => [.v d.toNat]
  | .vfscl _ d _ _ _ _ => [.v d.toNat]
  | .vfsel _ d _ _ _ _ => [.v d.toNat]
  | .vcvt w d _ f _ _ l => groupTarget d (sideSize w f (lendFormat l))
  | .vqnt _ d _ _ _ _ _ => groupTarget d 2
  | .vdeq w d _ f _ _ l => groupTarget d (sideSize w f (lendFormat l))
  | .vbq _ d _ _ _ _ _ => groupTarget d 2
  | .vbdq w d _ f _ _ l => groupTarget d (sideSize w f (lendFormat l))
  | .vrng _ d _ => [.v d.toNat]
  | .vrecip _ d _ _ _ => [.v d.toNat]
  | .vrsqrt _ d _ _ _ => [.v d.toNat]
  | .vsqrt _ d _ _ _ => [.v d.toNat]
  | .vdiv _ d _ _ _ _ => [.v d.toNat]
  | .vexp2 _ d _ _ _ => [.v d.toNat]
  | .vlog2 _ d _ _ _ => [.v d.toNat]
  | .vexp _ d _ _ _ => [.v d.toNat]
  | .vmov _ d _ _ _ => [.v d.toNat]
  | .vbcst _ d _ _ _ => [.v d.toNat]
  | .vli _ d _ _ => [.v d.toNat]
  | .vperm _ d _ _ _ _ => [.v d.toNat]
  | .vshuf _ d _ _ _ _ => [.v d.toNat]
  | .vrot _ d _ _ _ _ => [.v d.toNat]
  | .vred _ d _ _ _ => [.v d.toNat]
  | .vmsk _ d _ _ _ => maskTarget d
  | .vins _ d _ _ _ => [.v d.toNat]
  | .vbitx _ d _ => maskTarget d
  | .vcmpr _ d _ _ _ => [.v d.toNat]
  | .vexpd _ d _ _ _ => [.v d.toNat]
  | .vld _ v _ _ _ _ => [.v v.toNat]
  | .vgat _ v _ _ _ _ => [.v v.toNat]
  | .vldg _ v _ _ _ _ => [.v v.toNat]
  | .vldS _ v _ _ _ _ => [.v v.toNat]
  | .vqadd q _ _ _ _ => [.bank q.toNat]
  | .vqr _ _ v _ _ _ => [.v v.toNat]
  | .vqz q _ _ => [.bank q.toNat]
  | .mma q _ _ _ _ _ => [.bank q.toNat]
  | .mmn q _ _ _ _ _ => [.bank q.toNat]
  | .mmx q _ _ _ _ _ => [.bank q.toNat]
  | .mms q _ _ _ _ _ _ => [.bank q.toNat]
  | .mmz q _ _ _ _ => [.bank q.toNat]
  | .qzero q => [.bank q.toNat]
  | .qrnd _ t _ _ _ => [.tile t.toNat]
  | .qld q _ _ => [.bank q.toNat]
  | .qmsk q _ => [.bank q.toNat]
  | .qadd q => [.bank q.toNat]
  | .qscl q _ => [.bank q.toNat]
  | .qtl q _ _ => [.bank q.toNat]
  | .tld d _ _ _ => [.tile d.toNat]
  | .tmov d _ => [.tile d.toNat]
  | .ttr d _ => [.tile d.toNat]
  | .tcvt d _ _ _ => [.tile d.toNat]
  | .tzero d => [.tile d.toNat]
  | .rstat d _ _ _ => [.v d.toNat]
  | _ => []

/-- The meaning of a syllable form within the bundle in issue. -/
def execSyllable (i : Instr) (s : State) : Host.Outcome State Fault Refusal :=
  match i with
  | .add d a b l => execAdd d a b l s
  | .sub d a b l => execSub d a b l s
  | .mul d a b l => execMul d a b l s
  | .mulh d a b l => execMulh d a b l s
  | .mulhn d a b l => execMulhn d a b l s
  | .div d a b l => execDiv d a b l s
  | .divn d a b l => execDivn d a b l s
  | .rem d a b l => execRem d a b l s
  | .remn d a b l => execRemn d a b l s
  | .and d a b l => execAnd d a b l s
  | .or d a b l => execOr d a b l s
  | .xor d a b l => execXor d a b l s
  | .andn d a b l => execAndn d a b l s
  | .orn d a b l => execOrn d a b l s
  | .shl d a b l => execShl d a b l s
  | .shr d a b l => execShr d a b l s
  | .sra d a b l => execSra d a b l s
  | .rol d a b l => execRol d a b l s
  | .ror d a b l => execRor d a b l s
  | .min d a b l => execMin d a b l s
  | .max d a b l => execMax d a b l s
  | .minn d a b l => execMinn d a b l s
  | .maxn d a b l => execMaxn d a b l s
  | .clz d a l => execClz d a l s
  | .ctz d a l => execCtz d a l s
  | .popc d a l => execPopc d a l s
  | .bswap d a l => execBswap d a l s
  | .sel d a b l => execSel d a b l s
  | .addw d a b l => execAddw d a b l s
  | .subw d a b l => execSubw d a b l s
  | .mulw d a b l => execMulw d a b l s
  | .sext d a w l => execSext d a w l s
  | .bext d a b l => execBext d a b l s
  | .bins d a b l => execBins d a b l s
  | .cmpEq d a b l => execCmpEq d a b l s
  | .cmpNe d a b l => execCmpNe d a b l s
  | .cmpLt d a b l => execCmpLt d a b l s
  | .cmpGe d a b l => execCmpGe d a b l s
  | .cmpLtn d a b l => execCmpLtn d a b l s
  | .cmpGen d a b l => execCmpGen d a b l s
  | .cmpTst d a b l => execCmpTst d a b l s
  | .addi d a i l => execAddi d a i l s
  | .andi d a i l => execAndi d a i l s
  | .ori d a i l => execOri d a i l s
  | .xori d a i l => execXori d a i l s
  | .shli d a i l => execShli d a i l s
  | .shri d a i l => execShri d a i l s
  | .srai d a i l => execSrai d a i l s
  | .muli d a i l => execMuli d a i l s
  | .cmpiEq d a i l => execCmpiEq d a i l s
  | .cmpiNe d a i l => execCmpiNe d a i l s
  | .cmpiLt d a i l => execCmpiLt d a i l s
  | .cmpiLtn d a i l => execCmpiLtn d a i l s
  | .li d i l => execLi d i l s
  | .lic d i l => execLic d i l s
  | .fadd d a b t l => execFadd d a b t l s
  | .fsub d a b t l => execFsub d a b t l s
  | .fmul d a b t l => execFmul d a b t l s
  | .fma d a b t l => execFma d a b t l s
  | .fdiv d a b t l => execFdiv d a b t l s
  | .fsqrt d a t l => execFsqrt d a t l s
  | .fmin d a b t l => execFmin d a b t l s
  | .fmax d a b t l => execFmax d a b t l s
  | .fabs d a t l => execFabs d a t l s
  | .fneg d a t l => execFneg d a t l s
  | .fcmpEq d a b t l => execFcmpEq d a b t l s
  | .fclass d a t l => execFclass d a t l s
  | .fcvt d a u t l => execFcvt d a u t l s
  | .fcvti d a m t l => execFcvti d a m t l s
  | .fcvtf d a t l => execFcvtf d a t l s
  | .fcmpLt d a b t l => execFcmpLt d a b t l s
  | .fcmpLe d a b t l => execFcmpLe d a b t l s
  | .fcmpUn d a b t l => execFcmpUn d a b t l s
  | .br o => execBr o s
  | .brc p n o => execBrc p n o s
  | .nop => execNop s
  | .call t l => execCall t l s
  | .ret l => execRet l s
  | .jr a l => execJr a l s
  | .loop a e => execLoop a e s
  | .safe m => execSafe m s
  | .yield m => execYield m s
  | .endTask l => execEndTask l s
  | .post a y x k l => execPost a y x k l s
  | .gbar r0 l => execGbar r0 l s
  | .wait c l => execWait c l s
  | .trap c l => execTrap c l s
  | .brk c l => execBrk c l s
  | .chk a o => execChk a o s
  | .chkv v o => execChkv v o s
  | .ldImm r h r0 i l => execLdImm r h r0 i l s
  | .ldIndexed r h r0 x i l => execLdIndexed r h r0 x i l s
  | .ldxImm r h r0 i l => execLdxImm r h r0 i l s
  | .ldxIndexed r h r0 x i l => execLdxIndexed r h r0 x i l s
  | .stImm r h r0 i l => execStImm r h r0 i l s
  | .stIndexed r h r0 x i l => execStIndexed r h r0 x i l s
  | .ldSImm r h r0 i l => execLdSImm r h r0 i l s
  | .ldSIndexed r h r0 x i l => execLdSIndexed r h r0 x i l s
  | .amoAdd d h b c z o l => execAmoAdd d h b c z o l s
  | .amoAnd d h b c z o l => execAmoAnd d h b c z o l s
  | .amoOr d h b c z o l => execAmoOr d h b c z o l s
  | .amoXor d h b c z o l => execAmoXor d h b c z o l s
  | .amoMin d h b c z o l => execAmoMin d h b c z o l s
  | .amoMax d h b c z o l => execAmoMax d h b c z o l s
  | .amoMinn d h b c z o l => execAmoMinn d h b c z o l s
  | .amoMaxn d h b c z o l => execAmoMaxn d h b c z o l s
  | .amoSwap d h b c z o l => execAmoSwap d h b c z o l s
  | .amoCas d h b c z o l => execAmoCas d h b c z o l s
  | .amoFadd d h b c z o l => execAmoFadd d h b c z o l s
  | .amoAddsr d h b c o l => execAmoAddsr d h b c o l s
  | .fence c o => execFence c o s
  | .fenceE => execFenceE s
  | .probe d h b p => execProbe d h b p s
  | .xlat d h b p => execXlat d h b p s
  | .hinv h => execHinv h s
  | .hinfo d h b => execHinfo d h b s
  | .mfsr r r0 l => execMfsr r r0 l s
  | .mtsr r r0 l => execMtsr r r0 l s
  | .ldcImm r c z i l => execLdcImm r c z i l s
  | .ldcIndexed r c z x i l => execLdcIndexed r c z x i l s
  | .ldcxImm r c z i l => execLdcxImm r c z i l s
  | .ldcxIndexed r c z x i l => execLdcxIndexed r c z x i l s
  | .stcImm r c z i l => execStcImm r c z i l s
  | .stcIndexed r c z x i l => execStcIndexed r c z x i l s
  | .vadd w d a b t l => execVadd w d a b t l s
  | .vsub w d a b t l => execVsub w d a b t l s
  | .vmul w d a b t l => execVmul w d a b t l s
  | .vmulh w d a b t l => execVmulh w d a b t l s
  | .vmin w d a b t l => execVmin w d a b t l s
  | .vmax w d a b t l => execVmax w d a b t l s
  | .vand w d a b t l => execVand w d a b t l s
  | .vor w d a b t l => execVor w d a b t l s
  | .vxor w d a b t l => execVxor w d a b t l s
  | .vshl w d a b t l => execVshl w d a b t l s
  | .vshr w d a b t l => execVshr w d a b t l s
  | .vabs w d a t l => execVabs w d a t l s
  | .vadds w d a b t l => execVadds w d a b t l s
  | .vsubs w d a b t l => execVsubs w d a b t l s
  | .vcmp w d a b t l => execVcmp w d a b t l s
  | .vdot4 w d a b t l => execVdot4 w d a b t l s
  | .vfadd w d a b t l => execVfadd w d a b t l s
  | .vfsub w d a b t l => execVfsub w d a b t l s
  | .vfmul w d a b t l => execVfmul w d a b t l s
  | .vfma w d a b t l => execVfma w d a b t l s
  | .vfnma w d a b t l => execVfnma w d a b t l s
  | .vfmin w d a b t l => execVfmin w d a b t l s
  | .vfmax w d a b t l => execVfmax w d a b t l s
  | .vfabs w d a t l => execVfabs w d a t l s
  | .vfneg w d a t l => execVfneg w d a t l s
  | .vfcmp w d a b t l => execVfcmp w d a b t l s
  | .vfclass w d a t l => execVfclass w d a t l s
  | .vfscl w d a b t l => execVfscl w d a b t l s
  | .vfsel w d a b t l => execVfsel w d a b t l s
  | .vcvt w d a f r0 m l => execVcvt w d a f r0 m l s
  | .vqnt w d a f r0 m l => execVqnt w d a f r0 m l s
  | .vdeq w d a f r0 m l => execVdeq w d a f r0 m l s
  | .vbq w d a f r0 m l => execVbq w d a f r0 m l s
  | .vbdq w d a f r0 m l => execVbdq w d a f r0 m l s
  | .vrng w d l => execVrng w d l s
  | .vrecip w d a t l => execVrecip w d a t l s
  | .vrsqrt w d a t l => execVrsqrt w d a t l s
  | .vsqrt w d a t l => execVsqrt w d a t l s
  | .vdiv w d a b t l => execVdiv w d a b t l s
  | .vexp2 w d a t l => execVexp2 w d a t l s
  | .vlog2 w d a t l => execVlog2 w d a t l s
  | .vexp w d a t l => execVexp w d a t l s
  | .vmov w d a t l => execVmov w d a t l s
  | .vbcst w d a t l => execVbcst w d a t l s
  | .vli w d t l => execVli w d t l s
  | .vperm w d a b t l => execVperm w d a b t l s
  | .vshuf w d a p t l => execVshuf w d a p t l s
  | .vrot w d a c t l => execVrot w d a c t l s
  | .vred w d a t l => execVred w d a t l s
  | .vmsk w d a b l => execVmsk w d a b l s
  | .vxtr w a n t => execVxtr w a n t s
  | .vins w d a n t => execVins w d a n t s
  | .vbitx w d a => execVbitx w d a s
  | .vcmpr w d a t l => execVcmpr w d a t l s
  | .vexpd w d a t l => execVexpd w d a t l s
  | .vld w v c x i l => execVld w v c x i l s
  | .vst w v c x i l => execVst w v c x i l s
  | .vgat w v c x i l => execVgat w v c x i l s
  | .vsct w v c x i l => execVsct w v c x i l s
  | .vldg w v h x i l => execVldg w v h x i l s
  | .vstg w v h x i l => execVstg w v h x i l s
  | .vldS w v h x i l => execVldS w v h x i l s
  | .vqadd q r v f l => execVqadd q r v f l s
  | .vqr q r v f m l => execVqr q r v f m l s
  | .vqz q r l => execVqz q r l s
  | .mma q a b f z t => execMma q a b f z t s
  | .mmn q a b f z t => execMmn q a b f z t s
  | .mmx q a b f z t => execMmx q a b f z t s
  | .mms q a b c f z t => execMms q a b c f z t s
  | .mmz q a r0 f z => execMmz q a r0 f z s
  | .qzero q => execQzero q s
  | .qrnd q t f m r0 => execQrnd q t f m r0 s
  | .qst q c l => execQst q c l s
  | .qld q c l => execQld q c l s
  | .qmsk q t => execQmsk q t s
  | .qadd q => execQadd q s
  | .qscl q e => execQscl q e s
  | .qtl q t f => execQtl q t f s
  | .tld d c i l => execTld d c i l s
  | .tst a c i l => execTst a c i l s
  | .tmov d a => execTmov d a s
  | .ttr d a => execTtr d a s
  | .tcvt d a r0 m => execTcvt d a r0 m s
  | .tzero d => execTzero d s
  | .msl h a b r f => execMsl h a b r f s
  | .rstat d q f r0 => execRstat d q f r0 s
  | .cpG2c c h o n t l => execCpG2c c h o n t l s
  | .cpC2g c h o n k => execCpC2g c h o n k s
  | .cpGat c h o n t l => execCpGat c h o n t l s
  | .cpSct c h o n => execCpSct c h o n s
  | .cpBmg c h o n t l => execCpBmg c h o n t l s
  | .cpG2g h o n l => execCpG2g h o n l s
  | .cpOvl r h o => execCpOvl r h o s
  | .cpC2r c a b => execCpC2r c a b s
  | .cellArm c a b => execCellArm c a b s
  | .cellSeal c t l => execCellSeal c t l s
  | .cellFree c => execCellFree c s
  | .cellExpect c a => execCellExpect c a s
  | .cellOpen c a => execCellOpen c a s
  | .decTab c r0 => execDecTab c r0 s
  | .decOpen c t r0 i l => execDecOpen c t r0 i l s
  | .decSeek r0 k => execDecSeek r0 k s
  | .decSave c r0 o => execDecSave c r0 o s
  | .decLoad c r0 o => execDecLoad c r0 o s
  | .osend c a b k => execOsend c a b k s
  | .collMx c a b e => execCollMx c a b e s
  | .collBs c a b e => execCollBs c a b e s
  | .collBc c a b => execCollBc c a b s
  | .collAg c a b => execCollAg c a b s
  | _ => .next s

end Sys2Proof.Machine
end

