-- ==== Sys2Proof/Machine/Issue.lean ====
section
/-!
DEFINITION. The sequencer: fetching a bundle (R10, R223), its form (R13, R14, R16, R26, R29, R284), freezes (R22, R307),
issue and commit (R15, R26 to R28, R126), the schedule check (R21), stops (R15, R308), and giving up the core (R215, R358).
-/

namespace Sys2Proof.Machine

/-! ## The words of a bundle -/

/-- R11: syllable `i` of a bundle. -/
def bundleWord (b : Bundle) (i : Nat) : Syllable := b.extractLsb' (32 * i) 32

/-- R65: the major opcode. -/
def majorOf (w : Syllable) : Nat := (w.extractLsb' 27 5).toNat

/-- R11: NOP. -/
def nopWord : Syllable := 0x30000000#32

/-- R67: a header syllable. -/
def isHeader (w : Syllable) : Bool := majorOf w == 0x1F

/-- R11, R67: the syllables that a bundle issues, each with its position and its lend, which exists under a header. -/
def slotsOf (b : Bundle) : List (Nat × Syllable × Option Lend) :=
  let h := bundleWord b 0
  if isHeader h then
    [(1, bundleWord b 1, some (h.extractLsb' 18 9)), (2, bundleWord b 2, some (h.extractLsb' 9 9)),
      (3, bundleWord b 3, some (h.extractLsb' 0 9))]
  else (List.range 4).map fun i => (i, bundleWord b i, none)

/-- R12: the classes, by the major opcode; NOP belongs to none. -/
def isScalar (w : Syllable) : Bool := w != nopWord && 0x01 ≤ majorOf w && majorOf w ≤ 0x0A
def isVector (w : Syllable) : Bool := 0x0C ≤ majorOf w && majorOf w ≤ 0x12
def isMatrix (w : Syllable) : Bool := 0x14 ≤ majorOf w && majorOf w ≤ 0x17
def isCopy (w : Syllable) : Bool := 0x19 ≤ majorOf w && majorOf w ≤ 0x1C

/-- R12: control flow, by the SC op where the major is SC. -/
def isControl (w : Syllable) : Bool :=
  majorOf w == 0x05 || (majorOf w == 0x06 && [1, 2, 3, 4, 13, 14].contains (w.extractLsb' 21 6).toNat)

/-- R12: a scalar syllable that touches memory, and a VM syllable. -/
def touchesMemory (w : Syllable) : Bool :=
  majorOf w == 0x07 || majorOf w == 0x08 || majorOf w == 0x0A || (majorOf w == 0x06 && w.extractLsb' 21 6 == 8)
def isVm (w : Syllable) : Bool := majorOf w == 0x11

/-- R13, R84: the width that a vector syllable counts. -/
def countedWidth (w : Syllable) : Nat :=
  if majorOf w = 0x12 then 1024 else if w.extractLsb' 25 2 = 3 then 0 else widthBits (w.extractLsb' 25 2)

/-- R13: whether a bundle breaks the resource rule. -/
def overCommitted (ws : List Syllable) : Bool :=
  let n := fun (p : Syllable → Bool) => (ws.filter p).length
  2 < n isScalar || 1 < n isControl || 1 < n touchesMemory || 2 < n isVector || 1 < n isVm || 1 < n isMatrix ||
    2 < n isCopy || 1024 < ((ws.filter isVector).map countedWidth).sum

/-- The instructions of a bundle that decode. -/
def decodedSlots (b : Bundle) : List (Nat × Instr) :=
  (slotsOf b).filterMap fun x => (decode x.2.1 x.2.2).toOption.map fun i => (x.1, i)

/-- R16: whether two syllables name one destination. -/
def sameTarget : List (List Target) → Bool
  | [] => false
  | ts :: rest => ts.any (fun t => rest.any (·.contains t)) || sameTarget rest

/-- R29: whether a pc is one of the last four bundles of the body of an active loop. -/
def nearLoopEnd (c : Core) : Bool :=
  c.lc != 0 && (c.lpe - c.pc).toNat ≤ 3 && (c.pc - c.lps).toNat ≤ (c.lpe - c.lps).toNat

/-- R284: whether a `probe` may not issue here. -/
def probeBlocked (c : Core) (b : Bundle) : Bool :=
  (slotsOf b).any (fun x => x.2.1 != nopWord && !((decode x.2.1 x.2.2).toOption.map isProbe).getD false) ||
    1 < ((decodedSlots b).filter fun x => isProbe x.2).length || !c.landings.isEmpty || !c.busy.isEmpty
where
  /-- Whether a form is `probe`. -/
  isProbe : Instr → Bool
    | .probe _ _ _ _ => true
    | _ => false

/-- R14: whether a bundle is ill-formed at this point. -/
def formFault (c : Core) (b : Bundle) : Bool :=
  let ws := (slotsOf b).map (·.2.1)
  let is := decodedSlots b
  ws.any isHeader || overCommitted ws || sameTarget (is.map fun x => targetsOf x.2) ||
    (ws.any isControl && (c.transfer.count != 0 || nearLoopEnd c)) ||
    is.any (fun x => match x.2 with
      | .loop _ e => loopIllFormed c e
      | .probe _ _ _ _ => probeBlocked c b
      | _ => false)

/-! ## Evaluating the syllables -/

/-- One syllable of a bundle: an illegal one faults (R100), any other has its meaning. -/
def runSlot (x : Nat × Syllable × Option Lend) (s : State) : State :=
  let s := s.onIssue fun i => { i with slot := x.1 }
  let s := match decode x.2.1 x.2.2 with
    | .error _ => raiseFault codeIllegalSyllable 0 s
    | .ok i => match execSyllable i s with
      | .next t => t
      | _ => s
  if isCopy x.2.1 then s.onIssue fun i => { i with copies := i.copies + 1 } else s

/-- R15: every syllable of a bundle, in syllable order. -/
def runSlots (xs : List (Nat × Syllable × Option Lend)) (s : State) : State := xs.foldl (fun s x => runSlot x s) s

/-- The register that a result lands in, where R21 checks it. -/
def Dest.reg : Dest → Option Reg
  | .x n => some (.x n)
  | .pred n => some (.pred n)
  | .v n _ _ _ => some (.v n)
  | .m n => some (.m n)
  | .rows n _ => some (.v n)
  | .sys n => some (.sys n)
  | _ => Option.none

/-- R21: whether a register is read inside its window. -/
def inWindow (c : Core) (r : Reg) : Bool :=
  match r with
  | .queue n => (vget c.queue n { value := 0, poison := false, awaits := none }).awaits.isSome
  | r => c.landings.any fun l => l.dest.reg == some r

/-- R21: the slots whose reads or writes violate a window. -/
def windowFaults (s : State) : List SlotFault :=
  let reads := s.issue.reads.filter fun x => inWindow s.before x.2
  let writes := (s.core.landings.drop s.before.landings.length).filter fun l =>
    l.dest.reg.isSome && s.before.landings.any fun k => k.dest.reg == l.dest.reg && l.due < k.due
  ((reads.map (·.1) ++ writes.map (·.slot)).eraseDups).map fun n => { slot := n, code := codeSchedule, faddr := 0 }

/-- R14: one fault for each slot; an encoding fault of a slot goes before its schedule fault, and that before any other. -/
def slotFaults (s : State) : List SlotFault :=
  let encoding := s.issue.faults.filter fun f => f.code == codeIllegalSyllable || f.code == codeIllegalOperand
  let windows := if s.before.check && s.before.relief != codeSchedule then windowFaults s else []
  (List.range 4).filterMap fun n => (encoding ++ windows ++ s.issue.faults).find? fun f => f.slot == n

/-! ## Stops -/

/-- A stop that has gathered no fault. -/
def Stop.empty : Stop := { slots := [], bundleCode := 0, bundleAddr := 0, c0 := none, c1 := none, m := none, d := none }

/-- A fault joins the stop of a core (R308). -/
def joinStop (f : Stop → Stop) (c : Core) : Core := { c with stop := some (f (c.stop.getD Stop.empty)) }

/-- R347: the codes of the sequencer's stream that are fatal; 0 is no fault. -/
def fatalCode (code : BitVec 8) : Bool :=
  code != 0 && code != codeSchedule && code != codeTiming && code != codeTranslation && code != codeBreakpoint &&
    code != codeArithmetic

/-- Whether a core answers a request by giving itself up. -/
def Mode.isGivingUp : Mode → Bool
  | .givingUp _ => true
  | _ => false

/-- R308: issue and the scheduled steps stop, and a request that the task has not answered is void (R214). A core that is
stopping, or that a watchdog drain force-stopped (R367), stays as it is. -/
def haltCore (c : Core) : Core :=
  if c.mode = .stopping || c.mode = .forced then c
  else { c with mode := .stopping, halted := c.mode, request := if c.mode.isGivingUp then c.request else none }

/-- The status of a task that retires after a fatal fault, or after the host's `end` (R349, R353). -/
def retiresFaulty (c : Core) : Bool := match c.mode with | .ending st => st != 0 | _ => false

/-- R15, R22: the counts of an unfrozen cycle. -/
def countCycle (c : Core) : Core := { c with cyc := c.cyc + 1, clk := c.clk + 1, mclk := c.mclk + 1 }

/-- A fault of the bundle or the core, which names no slot (R351), in a counted cycle. -/
def bundleFault (code : BitVec 8) (addr : BitVec 64) (c : Core) : Core :=
  { countCycle (haltCore (joinStop (fun p => { p with bundleCode := code, bundleAddr := addr }) c)) with
    relief := 0, reliefSlots := 0 }

/-- R15: the bundle commits nothing; its faults are recorded. -/
def slotsFault (fs : List SlotFault) (c : Core) : Core :=
  { countCycle (haltCore (joinStop (fun p => { p with slots := fs }) c)) with
    relief := 0, reliefSlots := 0, probe := none }

/-! ## Freezes and holds -/

/-- R428: whether the power-limit duty freezes every core in this package cycle. -/
def dutyFrozen (k : Package) : Bool := k.cycle % 1024 < k.duty

/-- R22, R23: an event freeze stops every timetable of the core. -/
def eventFreeze (c : Core) : Core := { c with cyc := c.cyc + 1, frz := c.frz + 1 }

/-- R307, R312: the row-statistics engine's operations last a cycle longer, and their results with them. -/
def delayRows (c : Core) : Core :=
  { c with busy := c.busy.map fun b => if b.rows then { b with endsAt := b.endsAt + 1 } else b }

/-- R312: the result of the row-statistics engine moves on by a cycle that the core's own count does not. -/
def Landing.sooner (l : Landing) : Landing := match l.dest with | .rows _ _ => { l with due := l.due - 1 } | _ => l
def Landing.later (l : Landing) : Landing := match l.dest with | .rows _ _ => { l with due := l.due + 1 } | _ => l

/-- R22, R23, R307: in a scoreboard freeze the matrix unit alone runs, and the scheduled steps of the row-statistics engine stop,
unless it is that engine alone which the bundle awaits (log entry 59). -/
def scoreboardFreeze (rowsOnly : Bool) (c : Core) : Core :=
  let c := { c with cyc := c.cyc + 1, mclk := c.mclk + 1 }
  if rowsOnly then { c with landings := c.landings.map Landing.sooner } else delayRows c

/-- R291, R282, R283, R302: whether a hold is over; a barrier's is ended by its release (R219). An `rstat` is an engine command too
(R301, R304). -/
def holdOver (c : Core) : Hold → Bool
  | .cell n _ => loadable (cellOf c n).state
  | .barrier _ => false
  | .fence ids scope => c.accesses.all fun a => !ids.contains a.id || a.doneIn scope
  | .fenceE => (outstanding c).isEmpty && !c.busy.any (·.rows)
  | .entry serial => !(outstanding c).any (·.serial == serial)

/-- R22: whether a hold is one for which the schedule has a latency bound. -/
def Hold.scheduled : Hold → Bool
  | .cell _ _ => true
  | _ => false

/-- R22: the pc of the bundle whose load or atomic value is late. -/
def lateValue (c : Core) : Option (BitVec 12) :=
  (c.landings.find? fun l => l.due ≤ c.clk && l.awaits.isSome).map (·.pc)

/-- R22: whether a core is frozen before its bundle is examined: by the power-limit duty, by a decode stream, by a hold, or by a
late value. Under STRICT a late value, or a cell at `wait`, is a timing fault instead. -/
def frozenCycle (k : Package) (c : Core) : Bool :=
  dutyFrozen k || starved c k.cycle || (!c.strict && (lateValue c).isSome) ||
    c.hold.any fun h => !holdOver c h && !(c.strict && h.scheduled)

/-- R22, R291: the pc that a timing fault names under STRICT, if one is due. -/
def timingFault (c : Core) : Option (BitVec 12) :=
  if !c.strict then none
  else (lateValue c).or (c.hold.findSome? fun h => match h with
    | .cell _ pc => if holdOver c h then none else some pc
    | _ => none)

/-! ## Commit -/

/-- R26, R28, R125, R126: the next pc and the sequencer's state after a bundle that commits. -/
def advancePc (s : State) (c : Core) : Core :=
  let b := s.before
  let next := s.issue.nextPc.getD (b.pc + 1)
  let fires := b.transfer.count == 1 && b.transfer.taken
  let next := if fires then b.transfer.target else next
  let transfer := if b.transfer.count = 0 then c.transfer
    else if b.transfer.count = 1 then { count := 0, taken := false, target := 0 }
    else { b.transfer with count := b.transfer.count - 1 }
  let atEnd := b.lc != 0 && b.pc == b.lpe
  let lc := if atEnd then b.lc - 1 else c.lc
  let next := if atEnd && b.lc - 1 != 0 && !fires then b.lps else next
  { c with pc := next, transfer := transfer, lc := lc }

/-- R220: `end` stops the counters and discards the pending transfer and the loop. -/
def endCore (status : BitVec 8) (c : Core) : Core :=
  { c with mode := .ending status, ended := true, transfer := { count := 0, taken := false, target := 0 }, lc := 0
           hold := [], request := none, probe := none }

/-- R357: the bytes of each section of a save area, by mask bit. -/
def sectionBytes (c : Core) (bit : Nat) : Nat :=
  if bit = 0 then 256 else if bit = 1 then 192 else if bit = 2 then 8384 else if bit = 3 then 66304
  else if bit = 4 || bit = 5 then 9216 else if bit = 6 then 256 else if bit = 7 then 384
  else 1024 + ((c.cells.toList.filter fun x => x.state != .absent).map (·.size)).sum

/-- R358: the size of a save. -/
def saveBytes (c : Core) (mask : BitVec 9) : Nat :=
  384 + (((List.range 9).filter mask.getLsbD).map (sectionBytes c)).sum

/-- R214: whether a request is pending in a package cycle; it is so through the cycle of its expiry. -/
def requestPending (cycle : Nat) (c : Core) : Bool :=
  match c.request.bind (·.expires) with
  | some e => cycle ≤ e
  | none => false

/-- R231, R358: a core whose cells stand as they will once it has drained. -/
def withIssueCells (c : Core) : Core := { c with cells := Vector.ofFn fun (i : Fin 64) => issueCell c i.val }

/-- R233, R358: whether a core may be given up with a live mask, by the cells that it will save. -/
def mayGiveUp (c : Core) (mask : BitVec 9) : Bool :=
  saveBytes (withIssueCells c) mask ≤ cardSaveSize (taskCard c) &&
    (withIssueCells c).cells.toList.all fun x => x.state != .fillingRemote

/-- R215: the decision at a safe point that has committed. -/
def givesUp (s : State) : Option (BitVec 9) :=
  match s.issue.safe, s.issue.yield with
  | none, none => none
  | a, b =>
    let mask := a.getD 0 ||| b.getD 0
    let ready := b.isSome && couldPlace s (taskPart s.core) s.here (cardPrio (taskCard s.core))
    if !s.issue.ends && (requestPending s.pkg.cycle s.core || ready) && mayGiveUp s.core mask then some mask else none

/-- R213: the core of a victim that yields stays reserved for the card that requested it. -/
def reserveCore (s : State) : State :=
  match s.core.request with
  | some r =>
    if requestPending s.pkg.cycle s.core && !r.byDrain then
      onPkg (onPart (taskPart s.core) fun p => { p with reserved := p.reserved ++ [(s.here, r.stamp)] }) s
    else s
  | none => s

/-- R204, R219: what a bundle that commits sends. -/
def sendPosts (s : State) : State :=
  match s.before.task with
  | none => s
  | some t => s.issue.posts.foldl
    (fun s p => match p with
      | .card words q => onPkg (acceptPosted s.here t words q) s
      | .arrival g => onPkg (sendArrival s.here t.part g) s) s

/-- R302: the commands that a bundle starts, from a serial number on, know the accesses that go before them. -/
def sealLimits (from' : Nat) (c : Core) : Core :=
  let f := fun (m : Command) => if from' ≤ m.serial then { m with limit := c.serial } else m
  { c with c0 := c.c0.map f, c1 := c.c1.map f, bound := c.bound.map fun b => { b with cmd := f b.cmd } }

/-- R15: the bundle commits. -/
def commitBundle (s : State) : State :=
  let s := sendPosts s
  let s := s.onCore fun c =>
    { countCycle (advancePc s (sealLimits s.before.serial c)) with hold := s.issue.hold, relief := 0, reliefSlots := 0, mistimed := [] }
  if s.issue.ends then s.onCore fun c => { endCore 0 c with pc := s.before.pc + 1 }
  else match givesUp s with
    | some mask => (reserveCore s).onCore fun c =>
      { c with mode := .givingUp mask, hold := [], request := if requestPending s.pkg.cycle c then c.request else none }
    | none => s

/-! ## One cycle of the sequencer -/

/-- R302: whether a hold is one for a full queue. -/
def Hold.isEntry : Hold → Bool
  | .entry _ => true
  | _ => false

/-- R22, R302: a bundle that waits changes nothing but the walk of its `probe`; one that found a queue full is held for it. -/
def waitBundle (s : State) : State :=
  let probe := s.core.probe
  let c := { s.before with probe := probe, hold := s.before.hold ++ s.issue.hold.filter (·.isEntry) }
  { s with core := if s.issue.waits.contains .event then eventFreeze c else scoreboardFreeze (s.issue.waits.all (· == .rows)) c }

/-- R10, R223: the bundle at the pc. -/
def bundleAt (c : Core) : Bundle :=
  match c.imem.find? fun x => x.1 == c.pc.toNat with
  | some x => x.2
  | none => 0

/-- R223, R355: the fault of a fetch, if any. -/
def fetchFault (c : Core) : Option (BitVec 8) :=
  let tag := vget c.overlays (c.pc.toNat / 256) { valid := false, image := 0, part := 0 }
  if !(tag.valid && tag.image == cardImage (taskCard c) && tag.part == taskPart c) then some codeIllegalSyllable
  else if c.imemBad.contains c.pc.toNat then some codePoison
  else none

/-- R183: the `msl` that CHECK finds mistimed, by its pc. -/
def mistimedLatch (c : Core) : Option (BitVec 12) :=
  if c.check && c.relief != codeSchedule then c.mistimed.head? else none

/-- R14, R15, R21, R183: the bundle at the pc is fetched, checked and issued. A mistimed `msl` faults beside the bundle's own
syllables. -/
def issueBundle (s : State) : State :=
  let c := s.core
  match fetchFault c with
  | some code => s.onCore (bundleFault code (c.pc.setWidth 64))
  | none =>
    let b := bundleAt c
    if formFault c b then s.onCore (bundleFault codeBundleForm (c.pc.setWidth 64))
    else
      let s := runSlots (slotsOf b) s
      if !s.issue.waits.isEmpty then waitBundle s
      else match mistimedLatch s.before, slotFaults s with
        | none, [] => commitBundle s
        | none, fs => { s with core := slotsFault fs s.before }
        | some pc, fs =>
          { s with core := bundleFault codeSchedule (pc.setWidth 64)
                     { joinStop (fun p => { p with slots := fs }) s.before with mistimed := [], probe := none } }

/-- R61: the trap that flags which have landed raise is taken: the bundle due commits nothing. -/
def takeTrap (pc : BitVec 12) (c : Core) : Core := bundleFault codeArithmetic (pc.setWidth 64) { c with trap := none }

/-- R61, R308: a trap joins the faults of a core on which no bundle is due. -/
def joinTrap (c : Core) : Core :=
  match c.trap with
  | none => c
  | some pc => joinStop (fun p =>
      if p.bundleCode = 0 then { p with bundleCode := codeArithmetic, bundleAddr := pc.setWidth 64 } else p) { c with trap := none }

/-- R308: a core stops at the end of a cycle in which a fault was found. -/
def stopIfFaulted (c : Core) : Core := if c.stop.isSome then haltCore c else c

/-- R22, R61, R308: a cycle of a core that runs a task: a freeze, a trap, a timing fault, or the bundle due. -/
def runningCycle (s : State) : State :=
  let c := s.core
  (if frozenCycle s.pkg c then s.onCore fun c => { eventFreeze c with hold := c.hold.filter fun h => !holdOver c h }
    else match c.trap, timingFault c with
      | some pc, _ => s.onCore (takeTrap pc)
      | none, some pc => s.onCore (bundleFault codeTiming (pc.setWidth 64))
      | none, none => issueBundle s).onCore stopIfFaulted

/-- R185, R303: a cycle of a core that issues nothing and is not stopped: results land and the scheduled steps continue. -/
def drainingCycle (k : Package) (c : Core) : Core :=
  if dutyFrozen k then c
  else
    let c := if starved c k.cycle then delayArray c else c
    stopIfFaulted (joinTrap { c with clk := c.clk + 1, mclk := c.mclk + 1 })

/-- R308: a cycle of a core that settles: results in flight land, and no scheduled step is taken. -/
def settlingCycle (k : Package) (c : Core) : Core :=
  if dutyFrozen k then c else { c with clk := c.clk + 1, landings := c.landings.map Landing.later }

/-- R15: the step of the sequencer of core `n` in this cycle. -/
def execBundleIssue (n : Nat) (s : State) : Host.Outcome State Fault Refusal :=
  let s := focus n s
  .next (match s.core.mode with
    | .running => runningCycle s
    | .ending _ => s.onCore (drainingCycle s.pkg)
    | .givingUp _ => s.onCore (drainingCycle s.pkg)
    | .stopping => s.onCore fun c => joinTrap (settlingCycle s.pkg c)
    | .forced => s.onCore fun c => { settlingCycle s.pkg c with trap := none }
    | _ => s)

end Sys2Proof.Machine
end

