-- ==== Sys2Proof/Machine/CoreSteps.lean ====
section
/-!
DEFINITION. The steps of a core beside its sequencer: results that land (R19, R60, R61), busy states that end (R175), the MAC
array (R177), and its global accesses as they are performed, answered and refused (R249, R258, R271, R277).
-/

namespace Sys2Proof.Machine

/-! ## Results -/

/-- R138: a v register with `len` bits from `lo` replaced. -/
def landBits (v : VWord) (lo len value : Nat) : VWord := BitVec.ofNat 1024 (replaceField v.toNat lo len value)

/-- A result lands (R19, R109, R140). -/
def landResult (l : Landing) (c : Core) : Core :=
  match l.dest with
  | .none => c
  | .x n => { c with x := vset c.x n (BitVec.ofNat 64 l.value), xPoison := setBit c.xPoison n l.poison, xBad := setBit c.xBad n false }
  | .pred n => { c with p := setBit c.p n (l.value % 2 == 1) }
  | .queue id =>
    { c with queue := landQueue c.queue id (BitVec.ofNat 64 l.value) l.poison, aBad := landMarks c.queue id c.aBad }
  | .v n lo len keep =>
    { c with v := vset c.v n (landBits (readV c n) lo len l.value)
             vPoison := if keep then c.vPoison else setBit c.vPoison n l.poison
             vBad := if len = 1024 then setBit c.vBad n false else c.vBad }
  | .m n => { c with m := vset c.m n (BitVec.ofNat 128 l.value) }
  | .sys n => sysWrite n (BitVec.ofNat 64 l.value) c
  | .rows n len =>
    { c with v := vset c.v n (landBits (readV c n) 0 len l.value), vPoison := setBit c.vPoison n false
             vBad := if len = 1024 then setBit c.vBad n false else c.vBad }
  | .handle n h => pruneTlb { c with handles := vset c.handles n h }

/-- Whether a result is due and has its value (R19, R22). -/
def isDue (clk : Nat) (l : Landing) : Bool := l.due ≤ clk && l.awaits.isNone

/-- R60, R132: the writes of system registers go first. -/
def isSysWrite (l : Landing) : Bool := match l.dest with | .sys _ => true | _ => false

/-- R61: whether some flags trap. -/
def trapping (c : Core) (f : Flags) : Bool := (c.nve && f.getLsbD 0) || (c.qoe && f.getLsbD 5)

/-- R19: every result that is due lands, the flags after the registers. -/
def landDue (c : Core) : Core :=
  let due := c.landings.filter (isDue c.clk)
  let c := { c with landings := c.landings.filter fun l => !isDue c.clk l }
  let c := (due.filter isSysWrite ++ due.filter fun l => !isSysWrite l).foldl (fun c l => landResult l c) c
  { c with fflags := due.foldl (fun f l => f ||| l.flags) c.fflags }

/-- R61: the pc of the earliest syllable whose landing flags trap. -/
def trapAt (c : Core) (due : List Landing) : Option (BitVec 12) := (due.find? fun l => trapping c l.flags).map (·.pc)

/-- Whether results of a core still land (R15, R221, R308). -/
def Mode.lands : Mode → Bool
  | .running => true
  | .ending _ => true
  | .givingUp _ => true
  | .stopping => true
  | .forced => true
  | _ => false

/-- R19, R61: the results of core `n` that are due land. A trap among them is taken by the sequencer in this unfrozen cycle,
once the matrix results of the cycle have landed too. -/
def landResults (c : Core) : Core :=
  if !c.mode.lands then c
  else
    let due := c.landings.filter (isDue c.clk)
    let c := landDue c
    { c with trap := c.trap.or (trapAt c due) }

/-- R19. -/
def execResultLanding (n : Nat) (s : State) : Host.Outcome State Fault Refusal := .next (onCoreAt n landResults s)

/-! ## Busy states and the MAC array -/

/-- R175: what an operation does when its busy state ends. -/
def applyEffect (b : BusyOp) (c : Core) : BusyEffect → Core
  | .tile n w => { c with t := vset c.t n w, tileBad := setBit c.tileBad n false }
  | .bank n k =>
    { c with banks := vset c.banks n { bankOf c n with granules := k.granules }, bankBad := setBit c.bankBad n false }
  | .tag n t => { c with banks := vset c.banks n { bankOf c n with tag := t } }
  | .comb lo bs =>
    { c with comb := setBytes c.comb lo bs
             combBad := c.combBad.filter fun w => !(wordsWithin lo bs.length).contains w }
  | .latches page first vals rowsA rowsB =>
    let at' := fun (l : Vector Latch 32) i => vget l (first + i) { a := 0, b := 0 }
    let new := vals.zipIdx.foldl (fun l v => vset l (first + v.2) (mergeLatch (at' l v.2) v.1 rowsA rowsB)) c.latches
    let c := { c with latches := new }
    if latchTimed c page first vals.length b.endsAt then c else { c with mistimed := c.mistimed ++ [b.pc] }

/-- R61, R311: what the matrix unit found, on the M stream; the core stops at the end of the cycle (R308). A task that retires
after a fatal fault goes on (R349). -/
def matrixFault (code : BitVec 8) (b : BusyOp) (c : Core) : Core :=
  let f : StreamFault :=
    { code := code, cause := 0, pc := b.pc, addr := 0, tile := b.tile, qb := b.qb, onBank := b.onBank, stream := 0 }
  if retiresFaulty c then c else joinStop (fun p => { p with m := p.m.or (some f) }) c

/-- R60, R175: a busy state ends. -/
def endBusy (b : BusyOp) (c : Core) : Core :=
  let c := b.effects.foldl (applyEffect b) c
  let c := { c with fflags := c.fflags ||| b.flags }
  if b.fault ≠ 0 then matrixFault b.fault b c else if trapping c b.flags then matrixFault codeArithmetic b c else c

/-- Whether the matrix unit of a core runs (R303, R308). -/
def Mode.steps : Mode → Bool
  | .running => true
  | .ending _ => true
  | .givingUp _ => true
  | _ => false

/-- R175: the busy states of a core that are over end. -/
def endBusyStates (c : Core) : Core :=
  if !c.mode.steps then c
  else
    let ended := c.busy.filter fun b => b.endsAt ≤ c.mclk
    ended.foldl (fun c b => endBusy b c) { c with busy := c.busy.filter fun b => c.mclk < b.endsAt }

/-- R175. -/
def execBusyStateEnd (n : Nat) (s : State) : Host.Outcome State Fault Refusal := .next (onCoreAt n endBusyStates s)

/-- R177. -/
def execMatrixStep (n : Nat) (s : State) : Host.Outcome State Fault Refusal :=
  .next (onCoreAt n (fun c => matrixAdvance c s.pkg.cycle) s)

/-! ## The error logs -/

/-- R425: whether a KIND is one of the correctable errors, which are counted. -/
def correctable (kind : BitVec 8) : Bool := [1, 3, 5, 7, 8, 9].contains kind.toNat

/-- R425: an entry written into a ring of 256; one that replaces another raises the overflow count, and a correctable error like
the newest entry is merged into it (log entry 17). -/
def ErrorLog.add (l : ErrorLog) (e : LogEntry) : ErrorLog :=
  let last := (l.index + 255) % 256
  match l.entries[last]? with
  | some x =>
    if correctable e.kind && x.kind == e.kind && x.unit == e.unit && x.addr == e.addr then
      { l with entries := l.entries.set last { x with count := if x.count = 0xFFFF then x.count else x.count + 1 } }
    else push
  | none => push
where
  /-- The entry on its own. -/
  push : ErrorLog :=
    if l.index < 256 then { l with entries := l.entries ++ [e], index := l.index + 1 }
    else { entries := l.entries.set (l.index % 256) e, index := l.index + 1, overflow := l.overflow + 1 }

/-- R425: an entry at this time; a correctable error is the first of its entry. -/
def logFor (k : Package) (kind unit : BitVec 8) (addr : BitVec 64) : LogEntry :=
  { kind := kind, unit := unit, count := if correctable kind then 1 else 0, addr := addr, time := k.time.setWidth 64 }

/-- R425: the number of the controller for an address, which the spec does not give (log entry 17). -/
def controllerOf (addr : Nat) : BitVec 8 := BitVec.ofNat 8 (Config.freeValue 5007 addr 0)

/-- The MSI-X structure of a function, and whether it lets a vector through (R414). -/
def msixOf (k : Package) (fn : Nat) : MsixTable := vget k.msix fn MsixTable.reset
def MsixTable.passes (t : MsixTable) (vector : Nat) : Bool := t.en && !t.hush && !t.masks.getLsbD vector

/-- R414: an event raises an MSI-X message of its function; while it is masked it stays pending (log entry 66). -/
def raiseVector (fn vector : Nat) (k : Package) : Package :=
  let t := msixOf k fn
  if t.passes vector then { k with raised := (fn, vector) :: k.raised }
  else if t.en then { k with msix := vset k.msix fn { t with pending := setBit t.pending vector true } }
  else k

/-- R414, R425: an entry in a partition's log, with its message, or in the package's. -/
def logError (part : Option Nat) (kind unit : BitVec 8) (addr : BitVec 64) (k : Package) : Package :=
  let e := logFor k kind unit addr
  match part with
  | some n => raiseVector n 27 (onPart n (fun p => { p with log := p.log.add e }) k)
  | none => { k with log := k.log.add e }

/-! ## Global accesses -/

/-- An access of a core by its number. -/
def accessOf (c : Core) (id : Nat) : Option Access := c.accesses.find? fun a => a.id == id

/-- Change an access. -/
def onAccess (id : Nat) (f : Access → Access) (c : Core) : Core :=
  { c with accesses := c.accesses.map fun a => if a.id = id then f a else a }

/-- An access is over. -/
def dropAccess (id : Nat) (c : Core) : Core := { c with accesses := c.accesses.filter fun a => a.id != id }

/-- R259, R281: whether an access is an atomic that acquires, and one that releases; the acquire half of a posted one has no
effect. -/
def Access.acquires (c : Core) (a : Access) : Bool :=
  a.returns c && match a.kind with
    | .amo _ _ _ _ _ o => orderAcquires o
    | _ => false
def Access.releases (a : Access) : Bool :=
  match a.kind with
  | .amo _ _ _ _ _ o => orderReleases o
  | _ => false

/-- Whether an access is a load, and whether it is posted. -/
def Access.isLoad (a : Access) : Bool := match a.kind with | .load _ _ _ => true | _ => false
def Access.posted (c : Core) (a : Access) : Bool := !a.isLoad && !a.returns c

/-- The accesses of a core before one of them. -/
def earlierThan (c : Core) (b : Access) : List Access := c.accesses.takeWhile fun a => a.id != b.id

/-- R263: whether an access that reads was performed before an earlier acquire whose scope does not hold for every agent; its
value may still have to be read again. -/
def early (c : Core) (b : Access) : Bool := (earlierThan c b).any fun a => !a.performed && a.acquires c

/-- R259: whether an earlier access keeps a later one from being performed: they have a location in common, or an order field
of either orders them. A release of a scope waits for what is not performed within it, and a read may be performed before an
acquire of less than every agent (R263). -/
def holdsBack (k : Package) (c : Core) (a b : Access) : Bool :=
  (shareLocation k a.places b.places && !(if b.isLoad then a.performed && !early c a || a.within != 0
      else a.performed && !early c a)) ||
    (a.acquires c && !a.performed && !(a.scope != everywhere && !b.posted c)) ||
    (b.releases && !a.doneIn b.scope)

/-- R259: whether an access may be performed now. -/
def mayPerform (k : Package) (c : Core) (b : Access) : Bool := (earlierThan c b).all fun a => !holdsBack k c a b

/-- What the places of an access in this package reach; a place elsewhere reaches nothing here (R240, R245). -/
def reachPlaces (k : Package) (write : Bool) (ps : List Place) : List (Option Reached) :=
  ps.map fun p => match p with
    | .here pa => some (reach k write pa)
    | _ => none

/-- What some places reach, a place elsewhere standing for nothing. -/
def reachHere (k : Package) (write : Bool) (ps : List Place) : List Reached :=
  (reachPlaces k write ps).map fun r => r.getD (.value 0 false)

/-- Whether all of an access lies in this package. -/
def allHere (ps : List Place) : Bool := ps.all fun p => match p with | .here _ => true | _ => false

/-- The bytes that a reply brings, those of places in this package as they were read here. -/
def mergeReply (ps : List Place) (own : List Byte) (r : Option Reply) : List Byte :=
  ps.zipIdx.map fun x => match x.1 with
    | .here _ => own.getD x.2 0
    | _ => ((r.map (·.bytes)).getD []).getD x.2 0

/-! ## What is performed for some agents only (R260, R263) -/

/-- The bytes that a store writes, or that an atomic writes over the bytes it finds. -/
def newBytes (a : Access) (old : List Byte) : List Byte :=
  match a.kind with
  | .amo op b c key step _ =>
    toBytes a.places.length (amoNew op (8 * a.places.length) a.va (ofBytes old) b c key step)
  | _ => a.data

/-- A posted access takes effect in memory; an atomic leaves a poisoned location as it is (R271). -/
def applyAccess (p : Nat) (a : Access) (k : Package) : Package :=
  let rs := reachHere k true a.places
  if !a.isLoad && (a.kind == .store || !rs.any (reachedBad k)) then
    writeBytes p k rs (newBytes a (rs.zipIdx.map fun x => reachedByte k k.cycle x.2 x.1)) false
  else k

/-- The accesses that are performed for the agents of some scope and not for all yet, each with its core. -/
def scopedAccesses (s : State) : List (Nat × Access) :=
  (listedCores s).flatMap fun x => (x.2.accesses.filter fun a => a.within != 0 && !a.performed).map fun a => (x.1, a)

/-- R260, R263: memory as the agents of a place find it. -/
def memorySeenBy (p : Nat) (s : State) : Package :=
  (scopedAccesses s).foldl (fun k x => if x.2.within.getLsbD p then applyAccess (placeNumber x.1) x.2 k else k) s.pkg

/-- R263: an access of a core, and those before it, that were performed for some agents are performed for all, unless a line
being copied holds one of them (R252). -/
def performForAll (n id : Nat) (s : State) : State :=
  ((scopedAccesses s).filter fun x => x.1 == n && x.2.id ≤ id).foldl (fun s x =>
    if (reachHere s.pkg true x.2.places).contains .held then s
    else onPkg (applyAccess (placeNumber n) x.2) (onCoreAt n (onAccess x.2.id fun a => { a with performed := true }) s)) s

/-- R258: the accesses at some places that are performed for an agent's place and not for all; `all` takes those of any scope. -/
def scopedAt (s : State) (all : Bool) (p : Nat) (ps : List Place) : List (Nat × Access) :=
  (scopedAccesses s).filter fun x => (all || x.2.within.getLsbD p) && shareLocation s.pkg x.2.places ps

/-- R258: before an agent writes, what it finds performed at the same places is performed for all. -/
def settleScoped (all : Bool) (p : Nat) (ps : List Place) (s : State) : State :=
  (scopedAt s all p ps).foldl (fun s x => performForAll x.1 x.2.id s) s

/-- R260, R263: the scope within which a posted access may be performed first: that of a fence that holds the core for it, or of
a later release. -/
def firstScope (c : Core) (a : Access) : Option (BitVec 18) :=
  ((c.hold.findSome? fun h => match h with
    | .fence ids scope => if ids.contains a.id then some scope else none
    | _ => none).or
    ((c.accesses.find? fun b => a.id < b.id && b.releases).map (·.scope))).filter fun sc => sc != everywhere

/-- R260, R263: an access of core `n` is performed within a scope. -/
def performWithin (n : Nat) (a : Access) (scope : BitVec 18) (s : State) : State :=
  let others := fun (s : State) => (scopedAt s true 0 a.places).filter fun x => x.1 != n
  let s := (others s).foldl (fun s x => performForAll x.1 x.2.id s) s
  if (others s).isEmpty then onCoreAt n (onAccess a.id fun a => { a with within := scope }) s else s

/-- Whether an access is posted, lies in this package and reaches plain memory, so that its effect can come to some agents
first. -/
def mayScope (k : Package) (c : Core) (a : Access) : Bool :=
  a.posted c && a.within == 0 && a.parts.isEmpty && allHere a.places &&
    (reachHere k true a.places).all fun r => match r with | .at' _ => true | _ => false

/-! ## Performing an access -/

/-- R257: the aligned 8-byte parts of an access of `n` bytes at a virtual address. -/
def partsOf (va n : Nat) : List Nat := (List.range ((va + n + 7) / 8 - va / 8)).map (· + va / 8)

/-- R257: the parts of an access that are performed together in a step: a single one, or those that are drawn of the several
that are left. -/
def drawnParts (draw va n : Nat) (done : List Nat) : List Nat :=
  let left := (partsOf va n).filter fun p => !done.contains p
  if (partsOf va n).length ≤ 1 then left else left.filter fun p => Config.freeValue 5006 draw p % 2 == 1

/-- The entries of a list that belong to some parts of an access at a virtual address, and the list with them replaced. -/
def pickParts {α : Type} (va : Nat) (parts : List Nat) (xs : List α) : List α :=
  (xs.zipIdx.filter fun x => parts.contains ((va + x.2) / 8)).map (·.1)
def mergeParts (va : Nat) (parts : List Nat) (old new : List Byte) : List Byte :=
  new.zipIdx.map fun x => if parts.contains ((va + x.2) / 8) then x.1 else old.getD x.2 0

/-- R263: once an acquire is performed, a later read that was performed before it is read again if an agent of its scope has
written where it read. -/
def recheckEarly (k : Package) (a : Access) (c : Core) : Core :=
  if !a.acquires c then c
  else
    let words := fun (b : Access) => (reachHere k false b.places).filterMap (fun r => match r with
        | .at' pa => some (pa / 8)
        | _ => none) ++ (touchedBy k b.places).flatMap fun r => partsOf r.1 r.2
    let stale := fun (b : Access) =>
      a.id < b.id && !b.posted c && (words b).any fun w => writersOf k.writers w &&& a.scope != 0
    { c with accesses := c.accesses.map fun b =>
        if stale b then { b with performed := false, faulted := false, poisoned := false, parts := [] } else b }

/-- R387: an access that is performed asks other packages for the bytes that lie there. -/
def askRemote (n : Nat) (a : Access) (s : State) : State :=
  onPkg (sendRequests (taskPart (coreState s n)) a.id a.places (remoteKind a)) s

/-- R257, R258, R271: some parts of a load or store reach their controllers: a load takes its bytes there, a store is there from
then on. What a line being copied holds stays where it is (R252). -/
def performParts (n : Nat) (a : Access) (now : List Nat) (s : State) : State :=
  let p := placeNumber n
  let store := a.kind == .store
  let s := if store then settleScoped false p a.places s else s
  let k := if store then s.pkg else memorySeenBy p s
  let rs := reachHere k store a.places
  let own := pickParts a.va now rs
  let all := (partsOf a.va a.places.length).all fun w => a.parts.contains w || now.contains w
  let s := { s with choice := s.choice + 1 }
  if rs.contains .fault then onCoreAt n (onAccess a.id fun a => { a with performed := true, faulted := true }) s
  else if own.contains .held || (store && !(scopedAt s false p a.places).isEmpty) then s
  else (fun s => if all then askRemote n a s else s) <|
    if store then
      onCoreAt n (onAccess a.id fun a => { a with parts := a.parts ++ now, performed := all })
        (onPkg (fun k => writeBytes p k own (pickParts a.va now a.data) false) s)
    else
      let bytes := rs.zipIdx.map fun x => reachedByte k s.choice x.2 x.1
      onCoreAt n (onAccess a.id fun a =>
        { a with parts := a.parts ++ now, performed := all, result := mergeParts a.va now a.result bytes
                 poisoned := a.poisoned || own.any (reachedBad k) }) s

/-- R257: a load or store goes on by the parts that are drawn; what an ordering operation awaits goes on by all that is left. -/
def performAccess (n : Nat) (a : Access) (s : State) : State :=
  performParts n a (drawnParts s.choice a.va a.places.length a.parts) s
def performRest (n : Nat) (a : Access) (s : State) : State :=
  performParts n a ((partsOf a.va a.places.length).filter fun w => !a.parts.contains w) s

/-- R258, R260: a posted access that a fence or a release of less than every agent waits for may come to the agents of that scope
first; which is drawn (log entry 61). -/
def performPosted (n : Nat) (a : Access) (perform : State → State) (s : State) : State :=
  let c := coreState s n
  if a.within != 0 then performForAll n a.id s
  else match firstScope c a with
    | some scope =>
      if mayScope s.pkg c a && Config.proceeds s.choice then performWithin n a scope { s with choice := s.choice + 1 }
      else perform { s with choice := s.choice + 1 }
    | none => perform s

/-- R258. -/
def execMemoryAccessPerformed (n id : Nat) (s : State) : Host.Outcome State Fault Refusal :=
  let c := coreState s n
  .next (match accessOf c id with
    | some a =>
      match a.kind with
      | .amo _ _ _ _ _ _ => s
      | _ =>
        if a.performed || !mayPerform s.pkg c a then s
        else if a.isLoad then performAccess n a s else performPosted n a (performAccess n a) s
    | none => s)

/-- R271, R277: an atomic, as one step at its controller. A poisoned location stays as it is. One that is performed before an
earlier acquire is a read, and changes nothing (R263). -/
def performAtomic (n : Nat) (a : Access) (s : State) : State :=
  let p := placeNumber n
  let c := coreState s n
  let s := settleScoped false p a.places s
  let rs := reachHere s.pkg true a.places
  let old := rs.zipIdx.map fun x => reachedByte s.pkg s.choice x.2 x.1
  let bad := rs.any (reachedBad s.pkg)
  let s := { s with choice := s.choice + 1 }
  if !allHere a.places then askRemote n a (onCoreAt n (onAccess a.id fun a => { a with performed := true }) s)
  else if rs.contains .fault then onCoreAt n (onAccess a.id fun a => { a with performed := true, faulted := true }) s
  else if rs.contains .held || !(scopedAt s false p a.places).isEmpty || (early c a && (bad || newBytes a old != old)) then s
  else
    let s := onPkg (fun k => if bad then k else writeBytes p k rs (newBytes a old) false) (onCoreAt n (fun c =>
      recheckEarly s.pkg a (onAccess a.id (fun a => { a with performed := true, result := old, poisoned := bad }) c)) s)
    if bad && !a.returns c then onPkg (logError (some (taskPart c)) 10 (controllerOf a.va) (BitVec.ofNat 64 a.va)) s else s

/-- R277. -/
def execAmoPerformed (n id : Nat) (s : State) : Host.Outcome State Fault Refusal :=
  let c := coreState s n
  .next (match accessOf c id with
    | some a =>
      match a.kind with
      | .amo _ _ _ _ _ _ =>
        if a.performed || !mayPerform s.pkg c a then s
        else if a.posted c then performPosted n a (performAtomic n a) s else performAtomic n a s
      | _ => s
    | none => s)

/-- R273, R277: a value arrives for the result that awaits it; a predicate takes no poison (log entry 13). -/
def deliver (id value : Nat) (poison : Bool) (c : Core) : Core :=
  { c with landings := c.landings.map fun l =>
      if l.awaits = some id then
        { l with value := value, poison := (match l.dest with | .pred _ => false | _ => l.poison || poison), awaits := none }
      else l }

/-- The value that a load gives its destination. -/
def loadedValue (kind : AccessKind) (bs : List Byte) : Nat :=
  match kind with
  | .load signed _ vector => if vector then ofBytes bs else (extendBytes signed bs).toNat
  | _ => ofBytes bs

/-- R249, R274: an aperture fault reaches its core: a speculative load takes poison, any other access ends the task. -/
def reportFault (a : Access) (c : Core) : Core :=
  match a.kind with
  | .load _ true _ => dropAccess a.id (deliver a.id 0 true c)
  | _ =>
    let c := dropAccess a.id { c with landings := c.landings.filter fun l => l.awaits != some a.id }
    haltCore (joinStop (fun p =>
      if !fatalCode p.bundleCode then { p with bundleCode := codeAperture, bundleAddr := BitVec.ofNat 64 a.va } else p) c)

/-- R249, R271: an access that has been performed and is answered: its value arrives with the poison that came with it, or the
aperture fault that was found at another package. -/
def answer (a : Access) (r : Option Reply) (c : Core) : Core :=
  if !allHere a.places && (r.map (·.fault)).getD false then reportFault a c
  else
    let bytes := mergeReply a.places a.result r
    let bad := a.poisoned || (!allHere a.places && (r.map fun r => !r.bad.isEmpty).getD false)
    dropAccess a.id (deliver a.id (loadedValue a.kind bytes) bad c)

/-- R273. -/
def execGlobalLoadReturn (n id : Nat) (r : Option Reply) (s : State) : Host.Outcome State Fault Refusal :=
  .next (onCoreAt n (fun c => match accessOf c id with
    | some a =>
      match a.kind with
      | .load _ _ _ =>
        if a.performed && !early c a && !a.faulted && (allHere a.places || r.isSome) then answer a r c else c
      | _ => c
    | none => c) s)

/-- R277. -/
def execAtomicReturn (n id : Nat) (r : Option Reply) (s : State) : Host.Outcome State Fault Refusal :=
  .next (onCoreAt n (fun c => match accessOf c id with
    | some a =>
      match a.kind with
      | .amo _ _ _ _ _ _ =>
        if a.performed && !early c a && !a.faulted && a.returns c && (allHere a.places || r.isSome) then answer a r c else c
      | _ => c
    | none => c) s)

/-- R275, R277: a posted store or atomic is acknowledged. -/
def execPostedWriteAck (n id : Nat) (s : State) : Host.Outcome State Fault Refusal :=
  .next (onCoreAt n (fun c => match accessOf c id with
    | some a => if a.performed && !a.faulted && !a.returns c && (match a.kind with | .load _ _ _ => false | _ => true)
        then dropAccess id c else c
    | none => c) s)

/-- R249. -/
def execApertureFaultReport (n id : Nat) (s : State) : Host.Outcome State Fault Refusal :=
  .next (onCoreAt n (fun c => match accessOf c id with
    | some a => if a.performed && !early c a && (a.faulted || !allHere a.places) then reportFault a c else c
    | none => c) s)

end Sys2Proof.Machine
end

