-- ==== Sys2Proof/Machine/Maps.lean ====
section
/-!
DEFINITION. Maintaining the maps: migration (R251 to R253), the TLB commands (R244), and the walk of a `probe` (R238, R285).
-/

namespace Sys2Proof.Machine

/-! ## Migration -/

/-- Migration entry `n`. -/
def migrationOf (k : Package) (n : Nat) : Migration :=
  vget k.migrations n { old := 0, new := 0, lines := 0, p := 0, since := 0, en := false, done := false }

/-- Change migration entry `n`. -/
def onMigration (n : Nat) (f : Migration → Migration) (k : Package) : Package :=
  { k with migrations := vset k.migrations n (f (migrationOf k n)) }

/-- R251: whether two runs of an entry may be copied: both in HBM or the super tier, apart from each other and from the runs
of every other enabled entry. -/
def migrationAllowed (k : Package) (n : Nat) : Bool :=
  let m := migrationOf k n
  let mine := [(migOld m, migLen m), (migNew m, migLen m)]
  let others := (k.migrations.toList.zipIdx.filter fun x => x.2 != n && x.1.en).flatMap fun x =>
    [(migOld x.1, migLen x.1), (migNew x.1, migLen x.1)]
  mine.all (fun r => rangeInMemory k r.1 r.2 && others.all fun o => !meets r.1 r.2 o.1 o.2) &&
    !meets (migOld m) (migLen m) (migNew m) (migLen m)

/-- R251: a write of EN = 1. -/
def startMigration (n : Nat) (k : Package) : Package :=
  if migrationAllowed k n then
    onMigration n (fun m => { m with p := 0, since := k.cycle, en := true, done := m.lines == 0 }) k
  else onMigration n (fun m => { m with en := false }) k

/-- R251. -/
def execMigrationStart (n : Nat) (s : State) : Host.Outcome State Fault Refusal := .next (onPkg (startMigration n) s)

/-- R251. -/
def execMigrationRetire (n : Nat) (s : State) : Host.Outcome State Fault Refusal :=
  .next (onPkg (onMigration n fun m => { m with en := false }) s)

/-- R252: line P copied, with the marks of its words, and P advanced. -/
def copyLine (n : Nat) (k : Package) : Package :=
  let m := migrationOf k n
  if !m.en || m.lines.toNat ≤ m.p.toNat then k
  else
    let src := migOld m + 256 * m.p.toNat
    let dst := migNew m + 256 * m.p.toNat
    let marks := ((List.range 32).filter fun i => k.memBad.contains (src / 8 + i)).map (· + dst / 8)
    let clean := k.memBad.filter fun w => !(dst / 8 ≤ w && w < dst / 8 + 32)
    onMigration n (fun m => { m with p := m.p + 1, since := k.cycle, done := m.p + 1 == m.lines })
      { putMemory k ((List.range 256).map fun i => (dst + i, memAt k (src + i))) with
        memBad := clean ++ marks
        writers := (List.range 32).foldl (fun ws i =>
          (dst / 8 + i, writersOf k.writers (src / 8 + i)) :: ws.filter fun e => e.1 != dst / 8 + i) k.writers }

/-- R252. -/
def execMigrationLineCopy (n : Nat) (s : State) : Host.Outcome State Fault Refusal := .next (onPkg (copyLine n) s)

/-! ## The TLB commands -/

/-- The tasks' cores of a partition changed. -/
def onTaskCores (part : Nat) (f : Core → Core) (s : State) : State :=
  (taskCores s part).foldl (fun s p => onCoreAt p.1 f s) s

/-- R244: whether a run meets the pages of a command; a count of 0 means the whole space. -/
def commandMeets (first count : Nat) (e : TlbEntry) : Bool :=
  count == 0 || (first < e.vpn + e.pages && e.vpn < first + count)

/-- Every handle of a core, bound or about to be bound, changed. -/
def onHandles (f : Handle → Handle) (c : Core) : Core :=
  { c with handles := c.handles.map f
           landings := c.landings.map fun l => match l.dest with
             | .handle n h => { l with dest := .handle n (f h) }
             | _ => l }

/-- Whether a handle depends on an entry (R242). -/
def dependsOn (h : Handle) (e : TlbEntry) : Bool := h.valid && entryMeets e h.base.toNat h.len.toNat

/-- A `probe` walks again after a command that changes what its walk read. -/
def restartWalk (c : Core) : Core := { c with probe := c.probe.map fun p => { p with result := none } }

/-- R244: a revoke on one core. -/
def revokePages (first count : Nat) (c : Core) : Core :=
  let gone := c.tlb.filter (commandMeets first count)
  let c := { c with tlb := c.tlb.filter fun e => !commandMeets first count e }
  restartWalk (pruneTlb (onHandles (fun h => if gone.any (dependsOn h) then { h with valid := false } else h) c))

/-- The first page of a TLBIVA register. -/
def tlbiPage (p : Partition) : Nat := (p.tlbiva.extractLsb' 16 39).toNat

/-- R244. -/
def execTlbRevoke (p : Nat) (pages : BitVec 32) (s : State) : Host.Outcome State Fault Refusal :=
  let first := tlbiPage (partOf s.pkg p)
  .next (onPkg (onPart p fun q => { q with tlbiBusy := true }) (onTaskCores p (revokePages first pages.toNat) s))

/-- R244: the last page of an entry's run that a handle of the core needs. -/
def neededPage (c : Core) (e : TlbEntry) : Option Nat :=
  (((allHandles c).filter fun h => dependsOn h e).map fun h =>
    min (lastPage h.base.toNat h.len.toNat) (e.vpn + e.pages - 1)).max?

/-- R244: an entry walked again. -/
def refreshEntry (k : Package) (part : Nat) (c : Core) (e : TlbEntry) : List TlbEntry :=
  match neededPage c e with
  | none => []
  | some last => (walkRange k part 257 e.vpn last).getD []

/-- R244: a handle after a refresh: revoked if the walk failed or W, AT or AP would fall, or if a walk now refuses it (R249);
else with what the new entries give it. -/
def refreshHandle (k : Package) (tlb : List TlbEntry) (h : Handle) : Handle :=
  let va := h.base.toNat
  let len := h.len.toNat
  let es := tlb.filter fun e => entryMeets e (firstPage va * 65536) ((lastPage va len + 1 - firstPage va) * 65536)
  let covered := (List.range (lastPage va len + 1 - firstPage va)).all fun i =>
    !(coveringEntries es (firstPage va + i)).isEmpty
  let new := bindHandle es va len h.perm h.mode
  let falls := (h.w && !new.w) || (h.at' && !new.at') || (h.ap && !new.ap)
  if !covered || falls || grantCheck k es va len h.perm != 0 then { h with valid := false } else new

/-- R244: a refresh on one core. -/
def refreshPages (k : Package) (part first count : Nat) (c : Core) : Core :=
  let hit := c.tlb.filter (commandMeets first count)
  let kept := c.tlb.filter fun e => !commandMeets first count e
  let tlb := kept ++ hit.foldl (fun es e => es ++ newEntries (kept ++ es) (refreshEntry k part c e)) []
  let tlb := if 256 < tlb.length then kept else tlb
  let changed := onHandles (fun h => if hit.any (dependsOn h) then refreshHandle k tlb h else h) c
  restartWalk (pruneTlb { changed with tlb := tlb })

/-- R244. -/
def execTlbRefresh (p : Nat) (pages : BitVec 32) (s : State) : Host.Outcome State Fault Refusal :=
  let first := tlbiPage (partOf s.pkg p)
  .next (onPkg (onPart p fun q => { q with tlbiBusy := true })
    (onTaskCores p (refreshPages s.pkg p first pages.toNat) s))

/-- R244. -/
def execTlbiComplete (p : Nat) (s : State) : Host.Outcome State Fault Refusal :=
  .next (onPkg (onPart p fun q => { q with tlbiBusy := false }) s)

/-! ## The walk of a probe -/

/-- R285: the walk is done; the `probe` finds its result when its bundle next tries to issue. -/
def finishWalk (k : Package) (c : Core) : Core :=
  { c with probe := c.probe.map fun p =>
      if p.result.isSome then p else { p with result := some (walkBinding k (taskPart c) c.tlb p.va p.len p.perm) } }

/-- R285. -/
def execTranslationWalkDone (c : Nat) (s : State) : Host.Outcome State Fault Refusal :=
  .next (onCoreAt c (finishWalk s.pkg) s)

end Sys2Proof.Machine
end

