-- ==== Sys2Proof/Machine/Engines.lean ====
section
/-!
DEFINITION. The engines as their queues advance: beginning a command (R302, R306), engine faults (R308, R311, R349), and
completing a command (R304).
-/

namespace Sys2Proof.Machine

/-! ## Queues -/

/-- The queue of engine `e` of a core: C0, C1, the decode engine, then one for each bound command that has been delivered. -/
def engineQueue (c : Core) (e : Nat) : List Command :=
  match e with
  | 0 => c.c0
  | 1 => c.c1
  | 2 => c.dq
  | n + 3 => ((c.bound[n]?).filter (·.delivered)).toList.map (·.cmd)

/-- R309, R385: the stream on which the faults of engine `e` are recorded. -/
def engineStream (c : Core) (e : Nat) : Nat := if e < 3 then e else ((c.bound[e - 3]?).map (·.position)).getD 0

/-- Whether the engines of a core begin commands and send requests (R303, R308). -/
def Mode.sends : Mode → Bool
  | .running => true
  | .ending _ => true
  | .givingUp _ => true
  | _ => false

/-- Whether a command is a collective-engine one (R301). -/
def CmdKind.collective : CmdKind → Bool
  | .osend => true
  | .collMx => true
  | .collBs => true
  | .collBc => true
  | .collAg => true
  | _ => false

/-- Whether a command goes to the decode engine. -/
def CmdKind.decoder : CmdKind → Bool
  | .decTab => true
  | .decOpen => true
  | .decSeek => true
  | .decSave => true
  | .decLoad => true
  | _ => false

/-! ## The hazards of a command -/

/-- R306: whether a comb range of a command waits for an earlier command, a busy transfer or an open stream. -/
def spanWaits (c : Core) (m : Command) (sp : Span) : Bool :=
  combBusy c sp.lo sp.len sp.writes ||
    (sp.writes && (streamSpans c).any fun z => meetsGranules sp.lo sp.len z.lo z.len) ||
    (outstanding c).any fun j => j.serial < m.serial && combConflict c sp.lo sp.len sp.writes j

/-- R259, R302, R306: whether a global range of a command waits for an earlier command, or for an access up to its bundle. -/
def zoneWaits (k : Package) (c : Core) (m : Command) (y : Zone) : Bool :=
  (outstanding c).any (fun j => j.serial < m.serial && (commandZones k j).any fun z =>
    zonesMeet y z && (if z.writes then !j.writeDone else !j.readDone)) ||
  c.accesses.any (fun a => a.id < m.limit && !a.performed && (accessZones k a).any (zonesMeet y))

/-- R259: an acquire atomic goes before every later access. -/
def acquirePending (c : Core) (m : Command) : Bool :=
  c.accesses.any fun a => a.id < m.limit && !a.performed && a.returns c &&
    match a.kind with
    | .amo _ _ _ _ _ o => orderAcquires o
    | _ => false

/-- R306: whether the hazard unit holds a command. -/
def commandHeld (k : Package) (c : Core) (m : Command) : Bool :=
  (combSpans c m).any (spanWaits c m) || (commandZones k m).any (zoneWaits k c m) || acquirePending c m

/-! ## Faults -/

/-- R349: a command and every command behind it in its queue are discarded. -/
def discardFrom (e serial : Nat) (c : Core) : Core :=
  (((engineQueue c e).map (·.serial)).filter fun n => serial ≤ n).foldl (fun c n => dropCommand n c) c

/-- R349: the draws of a stream that has faulted for good: no step waits for them any longer. -/
def dropDraws (d : Nat) (c : Core) : Core :=
  let gone := c.macs.filter fun m => m.form == .mmz && m.stream == d
  { c with macs := c.macs.filter fun m => !(m.form == .mmz && m.stream == d)
           busy := c.busy.filter fun b => !gone.any (·.owns b) }

/-- R308: a fault joins the stream of engine `e`, and the core stops. -/
def streamFault (e : Nat) (f : StreamFault) (c : Core) : Core :=
  let n := engineStream c e
  haltCore (joinStop (fun p =>
    if n = 0 then { p with c0 := p.c0.or (some f) }
    else if n = 1 then { p with c1 := p.c1.or (some f) }
    else { p with d := p.d.or (some f) }) c)

/-- A fault of a command, found by its engine. -/
def commandFault (e : Nat) (code : BitVec 8) (cause : BitVec 4) (m : Command) (addr : BitVec 64) (c : Core) : Core :=
  if retiresFaulty c then discardFrom e m.serial c
  else streamFault e { code := code, cause := cause, pc := m.pc, addr := addr, tile := 0, qb := 0, onBank := false
                       stream := m.stream } c

/-! ## Requests in flight -/

/-- Whether a command writes memory with the bytes of a request, and the virtual address it writes them to. -/
def CmdKind.writesGlobal : CmdKind → Bool
  | .c2g => true
  | .sct => true
  | .g2g => true
  | _ => false
def writeVa (m : Command) (q : Request) : Nat := if m.kind = .g2g then q.lo else q.va

/-- The places that a request writes. -/
def writePlaces (m : Command) (q : Request) : List Place := placesOf m.runs (writeVa m q) q.len

/-- R257, R328: whether two requests of a command write the same byte, of the comb or of memory. -/
def requestsClash (k : Package) (m : Command) (a b : Request) : Bool :=
  if m.kind.writesGlobal then shareLocation k (writePlaces m a) (writePlaces m b)
  else m.kind != .ovl && meets a.lo a.len b.lo b.len

/-- The requests that have not been answered: the load of a region (R337) and a collective (R405) keep what has arrived. -/
def unanswered (m : Command) : List Request :=
  if m.kind = .ovl then m.pending.filter (·.bytes.isEmpty) else if m.kind.collective then [] else m.pending

/-- R310: a request that failed is to be sent again, with those that had to wait behind it (R328). -/
def failRequest (k : Package) (r : Request) (m : Command) : Command :=
  let again := m.pending.foldl
    (fun out q => if q.index = r.index || (r.index < q.index && out.any (requestsClash k m q)) then out ++ [q] else out) []
  { m with pending := m.pending.filter fun q => !again.any fun a => a.index == q.index
           redo := m.redo ++ again.map fun q => { q with parts := [], got := [], gotBad := [] } }

/-- The requests of engine `e` that have not been answered, each with its command. -/
def inFlight (c : Core) (e : Nat) : List (Command × Request) :=
  (engineQueue c e).flatMap fun m => (unanswered m).map fun q => (m, q)

/-- R311: the counts of a stream start again once a request is performed. -/
def clearRetries (e : Nat) (c : Core) : Core :=
  let n := engineStream c e
  if n = 0 then { c with retries0 := 0, rereads0 := 0 }
  else if n = 1 then { c with retries1 := 0, rereads1 := 0 } else { c with rereadsD := 0 }

/-- R311: the retries of a read on the stream of an engine since a request was last performed. -/
def rereadsOf (e : Nat) (c : Core) : Nat :=
  let n := engineStream c e
  if n = 0 then c.rereads0 else if n = 1 then c.rereads1 else c.rereadsD

/-- R303: a copy engine accepts its response of this cycle. -/
def takeAnswer (e cycle : Nat) (c : Core) : Core :=
  clearRetries e { c with answered := (e, cycle) :: c.answered.filter fun x => x.1 != e }

/-- R303: whether a copy engine has accepted a response in this cycle. -/
def hasAnswered (e cycle : Nat) (c : Core) : Bool := e < 2 && c.answered.contains (e, cycle)

/-! ## Faults that come from outside the core -/

/-- The causes of an automatic fault (R351). -/
def causeLink : BitVec 4 := 1
def causeHold : BitVec 4 := 2
def causeRead : BitVec 4 := 3

/-- R311: after 16 retries a read is delivered poisoned. -/
def poisonRead (q : Request) (m : Command) : Command :=
  { m with pending := m.pending.map fun x => if x.index = q.index then { x with bad := [true] } else x }

/-- R311: a command without requests, a collective or one of the decoder, whose next read is delivered poisoned. -/
def poisonNext (m : Command) : Command :=
  { m with redo := [{ index := 0, since := 0, va := 0, lo := 0, len := 0, bytes := [], bad := [true], parts := [], got := [], gotBad := [] }] }

/-- R311: whether the next read of a command comes poisoned. -/
def Command.readsPoison (m : Command) : Bool := m.redo.any fun q => q.bad.contains true

/-- R311, R249: a request of an engine fails; what fails it is `code` and `cause`. -/
def requestFault (k : Package) (e : Nat) (code : BitVec 8) (cause : BitVec 4) (m : Command) (q : Request) (c : Core) : Core :=
  if cause = causeRead && 16 ≤ rereadsOf e c then onCommand m.serial (poisonRead q) c
  else commandFault e code cause m (BitVec.ofNat 64 q.va) (onCommand m.serial (failRequest k q) c)

/-- Whether a command's traffic can fail although no request of it is in flight: a remote write, a collective, or a command of the
decoder. -/
def CmdKind.unnumbered (k : CmdKind) : Bool := k == .c2r || k.collective || k.decoder

/-- R311: a fault of a command that has no request in flight: the flits of a remote write, or a read of a collective or of the
decoder. -/
def plainFault (e : Nat) (code : BitVec 8) (cause : BitVec 4) (m : Command) (c : Core) : Core :=
  if cause = causeRead && 16 ≤ rereadsOf e c then onCommand m.serial poisonNext c
  else
    commandFault e code cause m (cellAddr m.cell)
      (if m.kind = .c2r then onCommand m.serial (fun j => { j with sent := 0 }) c else c)

/-- R308, R311: what an engine fault from outside may be: link retries exhausted, a read that the controller retries, or an
aperture fault found for bytes outside this package. -/
def outsideFault (code : BitVec 8) (cause : BitVec 4) (runs : List TlbEntry) (q : Option Request) : Bool :=
  (code == 0 && (cause == causeLink || cause == causeRead)) ||
    (code == codeAperture && cause == 0 && match q with
      | some q => !allHere (placesOf runs q.va q.len)
      | none => false)

/-- R308: an engine fault found outside the core, on the oldest request that engine `e` has in flight, or on its oldest
command that has begun. -/
def execEngineFault (n e : Nat) (code : BitVec 8) (cause : BitVec 4) (s : State) : Host.Outcome State Fault Refusal :=
  let c := coreState s n
  .next (match inFlight c e with
    | (m, q) :: _ =>
      if outsideFault code cause m.runs (some q) then onCoreAt n (requestFault s.pkg e code cause m q) s else s
    | [] =>
      match (engineQueue c e).find? fun m => m.begun && m.kind.unnumbered with
      | some m =>
        if outsideFault code cause m.runs none then
          onPkg (fun k => { k with writes := k.writes.filter fun w => !(w.src == n && w.serial == m.serial) })
            (onCoreAt n (plainFault e code cause m) s)
        else s
      | none => s)

/-! ## Cell commands that were held -/

/-- R292: the first command of engine `e` that has not begun is a cell command whose turn has come. -/
def execCellCommandTakesEffect (n e : Nat) (s : State) : Host.Outcome State Fault Refusal :=
  let c := coreState s n
  .next (match (engineQueue c e).find? (!·.begun) with
    | some m =>
      if c.mode.sends && (commandCell m).isSome && !cellHeld c m then
        onCoreAt n (fun c => settleCells (dropCommand m.serial (applyCommand m c))) s
      else s
    | none => s)

end Sys2Proof.Machine
end

