-- ==== Sys2Proof/Machine/Transfers.lean ====
section
/-!
DEFINITION. The copies CG at work (R328 to R337): the requests of a command, what each answer does to the comb, to memory or to
instruction memory, and when the command is complete (R304).
-/

namespace Sys2Proof.Machine

/-! ## The pieces of a command -/

/-- How many requests one row takes. -/
def rowChunks (m : Command) : Nat := ceilDiv (rowBytes m.op2) 64

/-- How many requests a command takes. -/
def requestTotal (m : Command) : Nat :=
  match m.kind with
  | .ovl => 64
  | _ => rowCount m.op2 * rowChunks m

/-- R333: the bytes of an index word, from its comb address. -/
def indexWidth (m : Command) : Nat := if indexSize m.cidx = 0 then 2 else 4
def indexAddr (c : Core) (m : Command) (r : Nat) : Nat :=
  (cellOf c (indexCell m.cidx)).base + indexOffset m.cidx + r * indexWidth m

/-- R334: whether position `p` of a bitmap is selected, and the comb address of its byte. -/
def bitmapAddr (c : Core) (m : Command) (p : Nat) : Nat :=
  (cellOf c (indexCell m.cidx)).base + indexOffset m.cidx + p / 8
def selectedAt (c : Core) (m : Command) (p : Nat) : Bool := (memByte c.comb (bitmapAddr c m p)).getLsbD (p % 8)

/-- R334: the comb row of a selected position. -/
def bitmapRow (c : Core) (m : Command) (p : Nat) : Nat :=
  if indexSize m.cidx = 0 then p else ((List.range p).filter (selectedAt c m)).length

/-- What sending a request comes to: the request, or a fault of the engine (R336). -/
inductive Piece where
  | request (q : Request)
  | bad (code : BitVec 8) (addr : BitVec 64)
deriving DecidableEq, Repr

/-- The comb address of byte `off` of comb row `r` (R328). -/
def combRowAddr (c : Core) (m : Command) (r off : Nat) : Nat :=
  (cellOf c m.cell).base + r * combPitch m.str1 (rowBytes m.op2) + off

/-- Whether the bytes of a range of the comb are poisoned, byte by byte (R226). -/
def combBadBytes (c : Core) (lo n : Nat) : List Bool := (List.range n).map fun i => anyMarked c.combBad 8 (lo + i) 1

/-- A request over a piece of a row: with the comb bytes, for a copy-out. -/
def makeRequest (c : Core) (cycle i va lo len : Nat) (out : Bool) : Request :=
  { index := i, since := cycle, va := va, lo := lo, len := len
    bytes := if out then memBytes c.comb lo len else []
    bad := if out then combBadBytes c lo len else []
    parts := [], got := [], gotBad := [] }

/-- R328, R333 to R337: request `i` of a command. -/
def pieceOf (c : Core) (cycle : Nat) (m : Command) (i : Nat) : Piece :=
  let n := max 1 (rowChunks m)
  let r := i / n
  let off := 64 * (i % n)
  let len := min 64 (rowBytes m.op2 - off)
  let row := commandVa m.src m.op1 + r * m.str0.toInt
  let element := fun (out : Bool) =>
    let a := indexAddr c m r
    let va := commandVa m.src m.op1 + ofBytes (memBytes c.comb a (indexWidth m)) * m.str0.toInt
    if anyMarked c.combBad 8 a (indexWidth m) then Piece.bad codePoison (cellAddr (indexCell m.cidx))
    else if va < m.src.base.toNat || (m.src.base.toNat : Int) + m.src.len.toNat < va + rowBytes m.op2 then
      .bad codeBounds (BitVec.ofInt 64 va)
    else .request (makeRequest c cycle i (va.toNat + off) (combRowAddr c m r off) len out)
  match m.kind with
  | .gat => element false
  | .sct => element true
  | .c2g => .request (makeRequest c cycle i (row.toNat + off) (combRowAddr c m r off) len true)
  | .bmg =>
    if anyMarked c.combBad 8 (bitmapAddr c m r) 1 then .bad codePoison (cellAddr (indexCell m.cidx))
    else .request (makeRequest c cycle i (row.toNat + off) (combRowAddr c m (bitmapRow c m r) off) len false)
  | .g2g =>
    let dst := commandVa m.dst m.op3 + r * m.str1.toInt
    .request (makeRequest c cycle i (row.toNat + off) (dst.toNat + off) len false)
  | .ovl => .request (makeRequest c cycle i ((commandVa m.src m.op1).toNat + 64 * i) (64 * i) 64 false)
  | _ => .request (makeRequest c cycle i (row.toNat + off) (combRowAddr c m r off) len false)

/-- R334: the first request of a position that is selected, from request `i` of a `cp.bmg` on; other forms skip none. -/
def skipRows (c : Core) (m : Command) (i : Nat) : Nat :=
  let n := max 1 (rowChunks m)
  if m.kind ≠ .bmg || i % n ≠ 0 then i
  else
    match (List.range (rowCount m.op2 - i / n)).find? fun d =>
        selectedAt c m (i / n + d) || anyMarked c.combBad 8 (bitmapAddr c m (i / n + d)) 1 with
    | some d => (i / n + d) * n
    | none => requestTotal m

/-! ## Sending -/

/-- R304: the read part of a command is done once every byte has been read for its requests. -/
def markRead (m : Command) : Command :=
  let all := requestTotal m ≤ m.sent
  match m.kind with
  | .c2g => { m with readDone := all }
  | .sct => { m with readDone := all }
  | .g2g => { m with readDone := all && m.redo.isEmpty && m.pending.all fun q => !q.bytes.isEmpty }
  | .ovl => { m with readDone := all && m.redo.isEmpty && m.pending.all fun q => !q.bytes.isEmpty }
  | _ => m

/-- Whether a command of engine `e` has a request to send. -/
def hasRequest (m : Command) : Bool :=
  match m.kind with
  | .g2c => m.begun && (!m.redo.isEmpty || m.sent < requestTotal m)
  | .c2g => m.begun && (!m.redo.isEmpty || m.sent < requestTotal m)
  | .gat => m.begun && (!m.redo.isEmpty || m.sent < requestTotal m)
  | .sct => m.begun && (!m.redo.isEmpty || m.sent < requestTotal m)
  | .bmg => m.begun && (!m.redo.isEmpty || m.sent < requestTotal m)
  | .g2g => m.begun && (!m.redo.isEmpty || m.sent < requestTotal m)
  | .ovl => m.begun && (!m.redo.isEmpty || m.sent < requestTotal m)
  | _ => false

/-- R303, R310: a command sends its next request: one to be sent again goes first. -/
def sendRequest (e cycle : Nat) (m : Command) (c : Core) : Core :=
  match m.redo with
  | q :: rest =>
    onCommand m.serial (fun j => { j with redo := rest, pending := j.pending ++ [{ q with since := cycle }] }) c
  | [] =>
    match pieceOf c cycle m m.sent with
    | .bad code addr => commandFault e code 0 m addr c
    | .request q =>
      let next := skipRows c m (m.sent + 1)
      onCommand m.serial (fun j => markRead { j with sent := next, pending := j.pending ++ [q] }) c

/-! ## Answers -/

/-- R226, R331: bytes written into the comb; a word that takes a poisoned byte reads as uncorrectable, and one written whole
and clean loses its mark. -/
def fillComb (lo : Nat) (bs : List Byte) (bad : List Bool) (c : Core) : Core :=
  let whole := wordsWithin lo bs.length
  let marked := ((List.range bs.length).filter fun i => bad.getD i false).map (fun i => (lo + i) / 8) |>.eraseDups
  let kept := c.combBad.filter fun w => !whole.contains w && !marked.contains w
  { c with comb := setBytes c.comb lo bs, combBad := kept ++ marked }

/-- R226: bytes written to memory by an agent of place `p`, poisoned ones among them. -/
def writeMarked (p : Nat) (k : Package) (rs : List Reached) (bs : List Byte) (bad : List Bool) : Package :=
  let badOnes := ((rs.zip bs).zipIdx.filter fun x => bad.getD x.2 false).map (·.1)
  let clean := writeBytes p k rs bs false
  if badOnes.isEmpty then clean else writeBytes p clean (badOnes.map (·.1)) (badOnes.map (·.2)) true

/-- The places of the rows of a `cp.g2g`: of its source, and of its destination. -/
def rowPlaces (m : Command) (start stride : Int) : List Place :=
  (List.range (rowCount m.op2)).flatMap fun (r : Nat) => placesOf m.runs (start + r * stride).toNat (rowBytes m.op2)

/-- R335: whether a source byte and a destination byte of a `cp.g2g` are the same location (R257). -/
def copyOverlaps (k : Package) (m : Command) : Bool :=
  let near := match globalSpans m with
    | [a, d] => (zonesOf m.runs a.1 a.2.1 false).any fun y =>
        ((zonesOf m.runs d.1 d.2.1 true).flatMap (widenZone k)).any fun z => (widenZone k y).any (zonesMeet z)
    | _ => false
  near && shareLocation k (rowPlaces m (commandVa m.src m.op1) m.str0.toInt) (rowPlaces m (commandVa m.dst m.op3) m.str1.toInt)

/-- What the answer to a request does. -/
inductive Answer where
  /-- It does not come in this cycle: a line being copied holds the request, or another package or the host owes it. -/
  | none
  /-- R249: an aperture fault. -/
  | fault
  /-- Bytes that were read, with their poison. -/
  | data (bs : List Byte) (bad : List Bool)
deriving DecidableEq, Repr

/-- R226, R252: what the answer to a read of some places is. -/
def readAnswer (k : Package) (draw : Nat) (ps : List Place) (r : Option Reply) : Answer :=
  let rs := reachHere k false ps
  if rs.contains .held then .none
  else if rs.contains .fault || (!allHere ps && (r.map (·.fault)).getD false) then .fault
  else if !allHere ps && r.isNone then .none
  else
    let own := rs.zipIdx.map fun x => reachedByte k draw x.2 x.1
    .data (mergeReply ps own r) ((ps.zip rs).zipIdx.map fun x => match x.1.1 with
      | .here _ => reachedBad k x.1.2
      | _ => (r.map (·.bad.contains x.2)).getD false)

/-- A request is finished: one more granule is done (R352). -/
def finishRequest (q : Request) (m : Command) : Command :=
  { m with pending := m.pending.filter (fun x => x.index != q.index), done := m.done + 1 }

/-- A request has its bytes. -/
def fillRequest (q : Request) (bs : List Byte) (bad : List Bool) (m : Command) : Command :=
  markRead { m with pending := m.pending.map fun x =>
    if x.index = q.index then { x with bytes := bs, bad := bad, parts := [], got := [], gotBad := [] } else x }

/-- R331, R333, R334, R335, R337: the answer to a read. -/
def takeData (m : Command) (q : Request) (bs : List Byte) (bad : List Bool) (c : Core) : Core :=
  let bad := if q.bad.contains true then bs.map fun _ => true else bad
  match m.kind with
  | .ovl => onCommand m.serial (fun j => { fillRequest q bs bad j with done := j.done + 1 }) c
  | .g2g => onCommand m.serial (fillRequest q bs bad) c
  | _ => onCommand m.serial (finishRequest q) (fillComb q.lo bs bad c)

/-- Whether a request now writes to memory. -/
def writesMemory (m : Command) (q : Request) : Bool := m.kind.writesGlobal && (m.kind != .g2g || !q.bytes.isEmpty)

/-- R387: what a request asks of other packages: to read its source, or to take its bytes. -/
def askFor (part : Nat) (m : Command) (q : Request) (k : Package) : Package :=
  let writes := writesMemory m q
  sendRequests part m.serial (if writes then writePlaces m q else placesOf m.runs q.va q.len) (fun r =>
    if writes then .write ((q.bytes.drop r.first).take r.len)
      ((List.range r.len).filter fun i => (q.bad.drop r.first).getD i false)
    else .read r.len) k

/-- R257: parts of a request are done; what those of a read brought is kept until the last of them. -/
def keepParts (q : Request) (now : List Nat) (bs : List Byte) (bad : List Bool) (m : Command) : Command :=
  { m with pending := m.pending.map fun x =>
      if x.index = q.index then { x with parts := x.parts ++ now, got := bs, gotBad := bad } else x }

/-- R332, R333, R335: parts of a write of an engine are performed, and it is acknowledged with the last of them; the destination
of a copy onto its own source is undefined. One that leaves the package is acknowledged from there. -/
def performWrite (n e : Nat) (m : Command) (q : Request) (r : Option Reply) (s : State) : State :=
  let p := placeNumber n
  let va := writeVa m q
  let ps := writePlaces m q
  let s := settleScoped false p ps s
  let rs := reachHere s.pkg true ps
  let now := drawnParts s.choice va q.len q.parts
  let own := pickParts va now rs
  let all := (partsOf va q.len).all fun w => q.parts.contains w || now.contains w
  let draw := s.choice
  let s := { s with choice := s.choice + 1 }
  if rs.contains .fault || (!allHere ps && (r.map (·.fault)).getD false) then
    onCoreAt n (requestFault s.pkg e codeAperture 0 m { q with va := va }) s
  else if own.contains .held || !(scopedAt s false p ps).isEmpty || (!allHere ps && r.isNone) then s
  else
    let bs := if m.kind == .g2g && copyOverlaps s.pkg m then
        (List.range q.len).map fun i => BitVec.ofNat 8 (Config.freeValue 5000 draw i)
      else q.bytes
    let bad := (List.range q.len).map fun i => q.bad.getD i false
    onPkg (fun k => writeMarked p k own (pickParts va now bs) (pickParts va now bad))
      (onCoreAt n (fun c =>
        if all then takeAnswer e s.pkg.cycle (onCommand m.serial (finishRequest q) c)
        else onCommand m.serial (keepParts q now [] []) c) s)

/-- R308, R335: the write of a row of a `cp.g2g` is sent once its bytes are there; on a core that stops it is left to be sent when
the core resumes (R310). -/
def sendCopyWrite (n : Nat) (m : Command) (q : Request) (s : State) : State :=
  if (coreState s n).mode.sends then onPkg (askFor (taskPart (coreState s n)) m q) s
  else onCoreAt n (onCommand m.serial fun j =>
    { j with pending := j.pending.filter (fun x => x.index != q.index), redo := j.redo ++ [q] }) s

/-- R257: parts of a read of an engine are performed; its data arrives with the last of them. -/
def performRead (n e : Nat) (m : Command) (q : Request) (r : Option Reply) (s : State) : State :=
  let ps := placesOf m.runs q.va q.len
  let now := drawnParts s.choice q.va q.len q.parts
  let all := (partsOf q.va q.len).all fun w => q.parts.contains w || now.contains w
  let k := memorySeenBy (placeNumber n) s
  let draw := s.choice
  let s := { s with choice := s.choice + 1 }
  match readAnswer k draw ps r with
  | .none => s
  | .fault => onCoreAt n (requestFault s.pkg e codeAperture 0 m q) s
  | .data bs bad =>
    let pick := fun (new : List Bool) => new.zipIdx.map fun x =>
      if now.contains ((q.va + x.2) / 8) then x.1 else q.gotBad.getD x.2 false
    let got := mergeParts q.va now q.got bs
    let s := onCoreAt n (fun c =>
      if all then takeAnswer e s.pkg.cycle (takeData m q got (pick bad) c)
      else onCommand m.serial (keepParts q now got (pick bad)) c) s
    if all && m.kind == .g2g then sendCopyWrite n m { q with bytes := got, bad := pick bad, parts := [], got := [], gotBad := [] } s
    else s

/-- R303: the answer to request `q` of a command of engine `e` arrives. -/
def answerRequest (n e : Nat) (m : Command) (q : Request) (r : Option Reply) (s : State) : State :=
  if hasAnswered e s.pkg.cycle (coreState s n) || m.pending.any fun x => x.index < q.index && requestsClash s.pkg m x q then s
  else if writesMemory m q then performWrite n e m q r s
  else performRead n e m q r s

/-! ## Completion -/

/-- R304, R337: whether a copy is complete; the loads of one region of instruction memory complete in issue order. -/
def copyDone (c : Core) (m : Command) : Bool :=
  m.begun && requestTotal m ≤ m.sent && m.redo.isEmpty &&
    match m.kind with
    | .ovl => (unanswered m).isEmpty && !(outstanding c).any fun j =>
        j.kind == .ovl && j.imm == m.imm && j.serial < m.serial
    | _ => m.pending.isEmpty

/-- A bundle of 16 bytes. -/
def bundleOf (bs : List Byte) : Bundle := BitVec.ofNat 128 (ofBytes bs)

/-- Instruction memory with one bundle replaced; a bundle of zeros is not listed. -/
def setBundle (n : Nat) (b : Bundle) : List (Nat × Bundle) → List (Nat × Bundle)
  | [] => if b = 0 then [] else [(n, b)]
  | (m, x) :: rest =>
    if n < m then (if b = 0 then (m, x) :: rest else (n, b) :: (m, x) :: rest)
    else if n = m then (if b = 0 then rest else (n, b) :: rest)
    else (m, x) :: setBundle n b rest

/-- R337: region `r` of instruction memory is loaded, and tagged unless a later load of it is outstanding. -/
def loadRegion (m : Command) (c : Core) : Core :=
  let at' := fun (i : Nat) => m.pending.find? fun q => q.index == i
  let bytes := (List.range 64).flatMap fun i => ((at' i).map (·.bytes)).getD []
  let bad := (List.range 64).flatMap fun i => ((at' i).map (·.bad)).getD []
  let first := 256 * m.imm
  let later := (outstanding c).any fun j => j.kind == .ovl && j.imm == m.imm && m.serial < j.serial
  let imem := (List.range 256).foldl (fun l i => setBundle (first + i) (bundleOf ((bytes.drop (16 * i)).take 16)) l) c.imem
  let marks := ((List.range 256).filter fun i => ((bad.drop (16 * i)).take 16).contains true).map (· + first)
  { c with
      imem := imem
      imemBad := (c.imemBad.filter fun p => p / 256 != m.imm) ++ marks
      overlays := vset c.overlays m.imm
        { valid := !later, image := cardImage (taskCard c), part := taskPart c } }

/-- R304, R331, R332: a copy is complete. -/
def completeCopy (m : Command) (c : Core) : Core :=
  let c := if m.kind = .ovl then loadRegion m c else c
  settleCells (dropCommand m.serial c)

end Sys2Proof.Machine
end

