-- ==== Sys2Proof/Machine/CollectiveSteps.lean ====
section
/-!
DEFINITION. The frame collective engine at work (R301, R314): `osend` on its way to the injector (R394, R401), and the
contributions, sums and results of the collectives (R402 to R407).
-/

namespace Sys2Proof.Machine

/-! ## The queue of a frame's engine -/

/-- Frame `f`, and a change of it. -/
def frameAt (k : Package) (f : Nat) : Frame := vget k.frames f Frame.reset
def onFrame (f : Nat) (g : Frame → Frame) (k : Package) : Package :=
  { k with frames := vset k.frames f (g (frameAt k f)) }

/-- The frame whose collective engine serves a command that engine `e` of core `n` carries (R301, R383). -/
def servingFrame (c : Core) (n e : Nat) : Nat :=
  if e < 3 then frameOf n else ((c.bound[e - 3]?).map (·.frame)).getD 0

/-- R301, R384: whether a frame's collective engine has room: 64 entries for its cores, beside 4 for the queen core. -/
def collectiveRoom (k : Package) (f n e : Nat) : Bool :=
  e ≥ 3 || n == queenCore || ((frameAt k f).coll.filter fun x => x.2.1 < 3).length < 64

/-- A command leaves the queue of its frame's engine. -/
def leaveFrames (n serial : Nat) (k : Package) : Package :=
  { k with frames := k.frames.map fun f =>
      { f with coll := f.coll.filter (fun x => !(x.1 == n && x.2.2 == serial))
               edge := f.edge.filter fun x => !(x.1 == n && x.2.2 == serial) } }

/-! ## osend -/

/-- R308, R314: whether every command that a frame's engine accepted before one of core `n` has read what it sends; those of a core
that stops hold no other back. -/
def frameTurn (s : State) (n e serial : Nat) : Bool :=
  let f := servingFrame (coreState s n) n e
  ((frameAt s.pkg f).coll.takeWhile fun x => !(x.1 == n && x.2.2 == serial)).all fun x =>
    let c := coreState s x.1
    !c.mode.sends || ((outstanding c).find? fun j => j.serial == x.2.2).all (·.readDone)

/-- R314, R394: whether an `osend` may read its payload. -/
def sendsPacket (s : State) (n e : Nat) (m : Command) : Bool :=
  m.kind == .osend && m.carried && m.sent == 0 && frameTurn s n e m.serial

/-- R397: whether an earlier `osend` of a core's own engines has not reached its frame's engine. -/
def behindPacket (c : Core) (m : Command) : Bool :=
  m.kind == .osend && (c.c0 ++ c.c1).any fun j => j.kind == .osend && j.serial < m.serial && !j.carried

/-- R394: the packet of an `osend`, its payload read, at the injector of its partition. -/
def sendPacket (n e : Nat) (m : Command) (s : State) : State :=
  let c := coreState s n
  let x := cellOf c m.cell
  let o : Outgoing :=
    { core := n, engine := e, serial := m.serial, dests := m.parts.map (·.toNat), user := m.op2
      payload := memBytes c.comb x.base x.size
      bad := (List.range x.size).filter fun i => anyMarked c.combBad 8 (x.base + i) 1 }
  onPkg (onPart (taskPart c) fun p => { p with outgoing := p.outgoing ++ [o] })
    (onCoreAt n (onCommand m.serial fun j => { j with sent := 1, readDone := true }) s)

/-- R401: an acknowledgement of the copy for a node. -/
def ackCopy (node serial : Nat) (c : Core) : Core :=
  onCommand serial (fun j => { j with parts := j.parts.filter fun p => p.toNat != node }) c

/-! ## Exponents and contributions (R404) -/

/-- R404: ⌊log2 |v|⌋ of a finite non-zero binary32, none for the rest. -/
def elementExp (v : Nat) : Option Int :=
  match decodeNum (.ieee 8 23) v with
  | .fin _ m e => if m = 0 then none else some (floorLog2 m e)
  | _ => none

/-- The greater of two exponents, none below every exponent. -/
def maxExp : Option Int → Option Int → Option Int
  | none, b => b
  | a, none => a
  | some a, some b => some (max a b)

/-- R404: the statuses of a sum, as bits: NAN, PINF, NINF, and poison (R405). -/
def statusNan : BitVec 4 := 1
def statusPinf : BitVec 4 := 2
def statusNinf : BitVec 4 := 4
def statusPoison : BitVec 4 := 8

/-- R404: what an element contributes under the exponent of its block. -/
def contribution (ek : Option Int) (v : Nat) : Int × BitVec 4 :=
  match decodeNum (.ieee 8 23) v with
  | .inf false => (0, statusPinf)
  | .inf true => (0, statusNinf)
  | .fin neg m e =>
    if m = 0 then (0, 0)
    else match ek with
      | none => (0, 0)
      | some k =>
        if k < floorLog2 m e then (0, statusNan)
        else
          let t := e + 100 - k
          let a : Nat := if 0 ≤ t then m * 2 ^ t.toNat else m / 2 ^ (-t).toNat
          (if neg then -(a : Int) else a, 0)
  | _ => (0, statusNan)

/-- R404: element of a result, from its sum and statuses. -/
def collectiveResult (ek : Option Int) (x : Int × BitVec 4) : Nat :=
  let nan := x.2.getLsbD 0
  let pinf := x.2.getLsbD 1
  let ninf := x.2.getLsbD 2
  if nan || (pinf && ninf) then 0x7FC00000
  else if pinf then 0x7F800000
  else if ninf then 0xFF800000
  else match ek with
    | some k =>
      if x.1 = 0 then 0
      else (roundExact (.ieee 8 23) 0 false 0 { neg := x.1 < 0, m := x.1.natAbs, e := k - 100, sticky := false }).bits
    | none => 0

/-- R404: the exponent of block `b` in cell E, with its poison. -/
def blockExp (c : Core) (cell b : Nat) : Option Int × Bool :=
  let a := (cellOf c cell).base + 2 * b
  let v := ofBytes (memBytes c.comb a 2)
  (if v = 0x8000 then none else some (signedOf 16 v), anyMarked c.combBad 8 a 2)

/-- The fields by which commands and items match (R402). -/
def opCode (kind : CmdKind) : Nat :=
  match kind with
  | .collMx => 1
  | .collBs => 2
  | .collBc => 3
  | .collAg => 4
  | _ => 0

/-- R404: what a rank contributes to block `b`, from its source words with their poison. -/
def blockItem (m : Command) (part rank b : Nat) (ek : Option Int × Bool) (words : List (Nat × Bool)) : CollItem :=
  let mx := m.kind == .collMx
  let poison := fun (p : Bool) => if p then statusPoison else 0
  { op := opCode m.kind, part := part, ident := m.ident, count := m.count, parts := m.parts, block := b, ranks := [rank]
    exps := if mx then [words.foldl (fun k w => maxExp k (elementExp w.1)) none] else []
    sums := if mx then [(0, poison (words.any (·.2)))]
      else words.map fun w =>
        let x := contribution ek.1 w.1
        (x.1, x.2 ||| poison (w.2 || ek.2)) }

/-- R404: the blocks of a command. -/
def blockCount (m : Command) : Nat := m.count / 256

/-- R404: the contributions of a rank, from all its source bytes; `c` is the core whose cell E gives the exponents. -/
def rankItems (c : Core) (m : Command) (part rank : Nat) (bs : List Byte) (bad : List Bool) : List CollItem :=
  (List.range (blockCount m)).map fun b =>
    blockItem m part rank b (if m.kind = .collBs then blockExp c m.other b else (none, false))
      ((List.range 256).map fun i =>
        let o := 4 * (256 * b + i)
        (bytesField bs o 4, ((bad.drop o).take 4).contains true))

/-! ## Matching and combining (R402, R406) -/

/-- R402: whether two commands match; their partitions are given. -/
def commandsMatch (a b : Command) (pa pb : Nat) : Bool :=
  pa == pb && a.kind == b.kind && a.ident == b.ident && a.count == b.count && a.parts == b.parts

/-- R406: whether an item belongs to a command. -/
def itemMatches (m : Command) (part : Nat) (i : CollItem) : Bool :=
  i.part == part && i.op == opCode m.kind && i.ident == m.ident && i.count == m.count && i.parts == m.parts

/-- Whether two sets of ranks are disjoint. -/
def disjointRanks (a b : List Nat) : Bool := a.all fun r => !b.contains r

/-- R406: two items of one block combined: the greater exponent, or the sums with their statuses ORed. -/
def combineItems (i j : CollItem) : CollItem :=
  { i with
    ranks := i.ranks ++ j.ranks
    exps := (i.exps.zip j.exps).map fun x => maxExp x.1 x.2
    sums := (i.sums.zip j.sums).map fun x => (x.1.1 + x.2.1, x.1.2 ||| x.2.2) }

/-- R406: whether a switch may combine two items. -/
def mayCombine (i j : CollItem) : Bool :=
  (i.op == 1 || i.op == 2) && i.op == j.op && i.part == j.part && i.ident == j.ident && i.count == j.count &&
    i.parts == j.parts && i.block == j.block && disjointRanks i.ranks j.ranks

/-- R406: two items reach this package as a switch: it combines them, or, its buffer or time limit reached, sends them on
unreduced. -/
def execCollectiveCombine (i j : CollItem) (full : Bool) (s : State) : Host.Outcome State Fault Refusal :=
  let rest := s.pkg.items.filter fun x => x.1 != i && x.1 != j
  let new := if !full && mayCombine i j then [combineItems i j] else [i, j]
  .next (onPkg (fun k => { k with items := rest ++ new.map fun x => (x, []) }) s)

/-! ## Contributions arriving -/

/-- R402: the core that an entry of the list names on this package. -/
def participantCore (e : BitVec 32) : Nat := if entryQueen e then queenCore else entryCore e

/-- R402: the matching command of rank `r` on this package, its core, and the partition of its task. -/
def participant (s : State) (m : Command) (part r : Nat) : Option (Nat × Command) :=
  let e := m.parts.getD r 0
  let n := participantCore e
  let c := coreState s n
  if entryNode e ≠ s.pkg.pnode.toNat then none
  else ((outstanding c).find? fun j => j.carried && j.rank == r && commandsMatch m j part (taskPart c)).map fun j => (n, j)

/-- R403: the bytes of a command's source, and of its destination. -/
def sourceBytes (m : Command) : Nat :=
  match m.kind with
  | .collMx => 4 * m.count
  | .collBs => 4 * m.count
  | _ => m.count
def destBytes (m : Command) : Nat :=
  match m.kind with
  | .collBs => 4 * m.count
  | .collAg => m.count * m.parts.length
  | _ => m.count

/-- The places of a command's source and destination. -/
def sourcePlaces (m : Command) : List Place := placesOf m.runs (commandVa m.src m.op1).toNat (sourceBytes m)
def destPlaces (m : Command) : List Place := placesOf m.runs (commandVa m.dst m.op2).toNat (destBytes m)

/-- R404 to R406: the ranks counted for block `b`. -/
def countedRanks (m : Command) (b : Nat) : List Nat := (m.items.filter fun i => i.block == b).flatMap (·.ranks)

/-- R405: whether a form gathers bytes by rank, rather than items. -/
def gathersBytes (m : Command) : Bool := m.kind == .collBc || m.kind == .collAg

/-- R407: the ranks whose contributions a participant needs, and the ranks that need its own. -/
def neededRanks (m : Command) : List Nat :=
  if m.kind = .collBc then [m.root] else List.range m.parts.length
def needingRanks (m : Command) : List Nat :=
  if m.kind = .collBc then (if m.rank = m.root then List.range m.parts.length else []) else List.range m.parts.length

/-- Whether a participant has counted the contribution of a rank. -/
def hasCounted (m : Command) (r : Nat) : Bool :=
  if gathersBytes m then m.pending.any fun q => q.index == r
  else (List.range (blockCount m)).all fun b => (countedRanks m b).contains r

/-- R404, R405: a rank's source bytes are counted by a command of core `c`. -/
def countRank (c : Core) (part r : Nat) (bs : List Byte) (bad : List Bool) (m : Command) : Command :=
  if gathersBytes m then
    let q : Request :=
      { index := r, since := 0, va := 0, lo := 0, len := bs.length, bytes := bs, bad := bad, parts := [], got := [], gotBad := [] }
    { m with pending := m.pending ++ [q] }
  else { m with items := m.items ++ rankItems c m part r bs bad }

/-- R404, R405: the contribution of rank `r`, which its own command has counted, is counted by another of this package. -/
def copyRank (j m : Command) (r : Nat) : Command :=
  if gathersBytes m then { m with pending := m.pending ++ (j.pending.filter fun q => q.index == r) }
  else { m with items := m.items ++ j.items.filter fun i => i.ranks == [r] }

/-- R257: where a step over the bytes of a range at a virtual address ends that begins after `done` of them: on a boundary of 8
bytes that is drawn, or with the last. -/
def chunkEnd (draw va done total : Nat) : Nat := min total (((va + done) / 8 + 1 + Config.freeValue 5006 draw 0) * 8 - va)

/-- The number of the request that a collective's own source is read by, beside those of the ranks (R402). -/
def ownRead : Nat := 1024

/-- R402, R406: the contribution of a command to the participants on other packages that need it. -/
def sendContribution (part : Nat) (m : Command) (bs : List Byte) (bad : List Bool) (k : Package) : Package :=
  let c : Contribution :=
    { op := opCode m.kind, part := part, ident := m.ident, count := m.count, parts := m.parts, rank := m.rank, bytes := bs
      bad := (List.range bs.length).filter fun i => bad.getD i false }
  ((needingRanks m).filter fun r => entryNode (m.parts.getD r 0) != k.pnode.toNat).foldl
    (fun k r => sendFlit part (entryNode (m.parts.getD r 0)) (.contribution c) k) k

/-- R402, R405: the source of a command is read whole: its own contribution is counted, and goes to the other packages. -/
def countOwn (n e : Nat) (m : Command) (bs : List Byte) (bad : List Bool) (s : State) : State :=
  let part := taskPart (coreState s n)
  let bad := if m.readsPoison then bad.map fun _ => true else bad
  onPkg (sendContribution part m bs bad) (onCoreAt n (fun c => clearRetries e (onCommand m.serial (fun x =>
    { countRank c part m.rank bs bad { x with pending := x.pending.filter fun q => q.index != ownRead } with
        readDone := true, redo := [], acks := m.rank :: x.acks }) c)) s)

/-- R257, R314, R405: a command reads its own source, a piece in a step, once its turn in the frame's queue has come. -/
def readOwnSource (n e : Nat) (m : Command) (reply : Option Reply) (s : State) : State :=
  let ps := sourcePlaces m
  let q := m.pending.find? fun q => q.index == ownRead
  let got := (q.map (·.got)).getD []
  let gotBad := (q.map (·.gotBad)).getD []
  let stop := if allHere ps then chunkEnd s.choice (commandVa m.src m.op1).toNat got.length ps.length else ps.length
  let k := memorySeenBy (placeNumber n) s
  let draw := s.choice
  if !(coreState s n).mode.sends || m.readDone || !frameTurn s n e m.serial then s
  else match readAnswer k draw ((ps.take stop).drop got.length) reply with
    | .none => { s with choice := s.choice + 1 }
    | .fault => onCoreAt n (commandFault e codeAperture 0 m (BitVec.ofInt 64 (commandVa m.src m.op1))) s
    | .data bs bad =>
      let s := { s with choice := s.choice + 1 }
      if stop = ps.length then countOwn n e m (got ++ bs) (gotBad ++ bad) s
      else
        let now : Request :=
          { index := ownRead, since := s.pkg.cycle, va := 0, lo := 0, len := ps.length, bytes := [], bad := [], parts := []
            got := got ++ bs, gotBad := gotBad ++ bad }
        onCoreAt n (onCommand m.serial fun x =>
          { x with pending := now :: x.pending.filter fun q => q.index != ownRead }) s

/-- R406: whether a rank of a contribution has been counted already, in some block. -/
def overlapsCounted (m : Command) (r : Nat) : Bool :=
  if gathersBytes m then hasCounted m r else (List.range (blockCount m)).any fun b => (countedRanks m b).contains r

/-- R404 to R407: the contribution of a rank of another package arrives and is acknowledged; one that is already counted is a link
fault. -/
def takeRemote (n e : Nat) (m : Command) (r : Nat) (p : Reply) (s : State) : State :=
  let part := taskPart (coreState s n)
  if overlapsCounted m r then onCoreAt n (commandFault e codeLink 0 m 0) s
  else
    let bad := (List.range p.bytes.length).map p.bad.contains
    onPkg (sendFlit part (entryNode (m.parts.getD r 0)) (.taken m.ident (opCode m.kind) r m.rank))
      (onCoreAt n (fun c => clearRetries e (onCommand m.serial (countRank c part r p.bytes bad) c)) s)

/-- R404, R405, R407: the contribution of rank `r` reaches a command: its own from its source, that of another participant of this
package once that has read its source, and that of another package in a reply. Its rank then has this participant's
acknowledgement. -/
def takeContribution (n e : Nat) (m : Command) (r : Nat) (reply : Option Reply) (s : State) : State :=
  if !(neededRanks m).contains r then s
  else if r = m.rank then readOwnSource n e m reply s
  else if entryNode (m.parts.getD r 0) ≠ s.pkg.pnode.toNat then
    match reply with
    | none => s
    | some p => takeRemote n e m r p s
  else if hasCounted m r then s
  else match participant s m (taskPart (coreState s n)) r with
    | none => s
    | some (from', j) =>
      let me : Nat := m.rank
      if !j.readDone then s
      else if overlapsCounted m r then onCoreAt n (commandFault e codeLink 0 m 0) s
      else
        onCoreAt n (fun c => clearRetries e (onCommand m.serial (copyRank j · r) c))
          (onCoreAt from' (onCommand j.serial fun x => { x with acks := me :: x.acks }) s)

/-- R406: a participant of this package has taken an item; it goes once all of them have. -/
def noteTaker (i : CollItem) (rank : Nat) (k : Package) : Package :=
  let mine := (List.range i.parts.length).filter fun r => entryNode (i.parts.getD r 0) == k.pnode.toNat
  let done := fun (x : CollItem × List Nat) => x.1 == i && mine.all x.2.contains
  { k with items := (k.items.map fun x => if x.1 = i then (x.1, rank :: x.2) else x).filter fun x => !done x }

/-- R406: an item from a switch reaches a command; one that overlaps ranks already counted is discarded, with a link fault. -/
def takeItem (n e : Nat) (m : Command) (x : CollItem × List Nat) (s : State) : State :=
  let i := x.1
  if !itemMatches m (taskPart (coreState s n)) i || x.2.contains m.rank then s
  else
    onPkg (noteTaker i m.rank)
      (onCoreAt n (fun c =>
        if disjointRanks i.ranks (countedRanks m i.block) then
          clearRetries e (onCommand m.serial (fun y => { y with items := y.items ++ [i] }) c)
        else commandFault e codeLink 0 m 0 c) s)

/-- R404 to R407: what arrives at a collective, by number: the contribution of a rank, then the acknowledgement of another
package's participant, then an item that a switch sends on. -/
def collectiveArrival (n e : Nat) (m : Command) (k : Nat) (reply : Option Reply) (s : State) : State :=
  let p := m.parts.length
  if k < p then takeContribution n e m k reply s
  else if k < 2 * p then
    if entryNode (m.parts.getD (k - p) 0) = s.pkg.pnode.toNat then s
    else onCoreAt n (onCommand m.serial fun x => { x with acks := (k - p) :: x.acks }) s
  else match s.pkg.items[k - 2 * p]? with
    | some i => takeItem n e m i s
    | none => s

/-! ## Results -/

/-- R404: the combined item of block `b`. -/
def blockTotal (m : Command) (b : Nat) : Option CollItem :=
  match m.items.filter fun i => i.block == b with
  | [] => none
  | i :: rest => some (rest.foldl combineItems i)

/-- R404, R405: the bytes that a command writes, with their poison. -/
def collectiveBytes (c : Core) (m : Command) : List (Byte × Bool) :=
  let raw := fun (q : Request) => q.bytes.zipIdx.map fun x => (x.1, q.bad.getD x.2 false)
  match m.kind with
  | .collMx => (List.range (blockCount m)).flatMap fun b =>
      let t := blockTotal m b
      let v := match (t.bind (·.exps.head?)).join with
        | some k => wrapTo 16 k
        | none => 0x8000
      (toBytes 2 v).map fun x => (x, t.any fun i => i.sums.any fun y => y.2.getLsbD 3)
  | .collBs => (List.range (blockCount m)).flatMap fun b =>
      let ek := blockExp c m.other b
      ((blockTotal m b).map (·.sums)).getD [] |>.flatMap fun x =>
        (toBytes 4 (collectiveResult ek.1 x)).map fun y => (y, x.2.getLsbD 3 || ek.2)
  | .collBc => (m.pending.find? fun q => q.index == m.root).map raw |>.getD []
  | _ => (List.range m.parts.length).flatMap fun r => (m.pending.find? fun q => q.index == r).map raw |>.getD []

/-- R405: whether a participant's source and destination overlap, so that its destination is undefined. -/
def collectiveOverlaps (k : Package) (m : Command) : Bool :=
  (m.kind != .collBc || m.rank == m.root) && shareLocation k (sourcePlaces m) (destPlaces m)

/-- R404 to R407: whether everything that a command needs has arrived, and everyone has taken its own contribution. -/
def collectiveReady (m : Command) : Bool :=
  m.carried && (neededRanks m).all (hasCounted m) && (needingRanks m).all (m.acks.contains ·)

/-- R257, R404, R405: the next piece of a collective's results is written to its destination. -/
def writeResults (n e : Nat) (m : Command) (out : List (Byte × Bool)) (finish : State → State) (s : State) : State :=
  let p := placeNumber n
  let stop := chunkEnd s.choice (commandVa m.dst m.op2).toNat m.sent out.length
  let draw := s.choice
  let ps := ((destPlaces m).take stop).drop m.sent
  let s := settleScoped false p ps { s with choice := s.choice + 1 }
  let rs := reachHere s.pkg true ps
  let piece := (out.take stop).drop m.sent
  if rs.contains .held || !(scopedAt s false p ps).isEmpty then s
  else if rs.contains .fault then onCoreAt n (commandFault e codeAperture 0 m (BitVec.ofInt 64 (commandVa m.dst m.op2))) s
  else
    let bs := if collectiveOverlaps s.pkg m then
        (List.range piece.length).map fun i => BitVec.ofNat 8 (Config.freeValue 5000 draw (m.sent + i))
      else piece.map (·.1)
    let ask := fun (r : RemoteRun) => RemoteKind.write ((bs.drop r.first).take r.len)
      ((List.range r.len).filter fun i => ((piece.map (·.2)).drop r.first).getD i false)
    let s := onPkg (fun k => sendRequests (taskPart (coreState s n)) m.serial ps ask (writeMarked p k rs bs (piece.map (·.2)))) s
    if stop = out.length then finish s else onCoreAt n (onCommand m.serial fun x => { x with sent := stop }) s

/-- R308, R404, R405: the results of a collective are written and the command is complete; nothing new is written once its core
stops. -/
def completeCollective (n e : Nat) (m : Command) (s : State) : State :=
  let c := coreState s n
  let out := collectiveBytes c m
  let finish := fun (s : State) => onPkg (leaveFrames n m.serial) (onCoreAt n (fun c => settleCells (dropCommand m.serial c)) s)
  if !c.mode.sends then s
  else if m.kind = .collMx then
    finish (onCoreAt n (fillComb (cellOf c m.other).base (out.map (·.1)) (out.map (·.2))) s)
  else writeResults n e m out finish s

/-- R401: an `osend` is complete once every copy is acknowledged. -/
def sendDone (m : Command) : Bool := m.kind == .osend && m.sent != 0 && m.parts.isEmpty

end Sys2Proof.Machine
end

