-- ==== Sys2Proof/Machine/DecodeSteps.lean ====
section
/-!
DEFINITION. The decode engine at work: tables (R315, R316, R318), segments and symbols (R317, R319, R321), and the commands of
its queue as they take effect (R320, R323 to R325, R342).
-/

namespace Sys2Proof.Machine

/-! ## Reading cells -/

/-- What the decoder finds wrong (R323, R355). -/
abbrev Found (α : Type) := Except (BitVec 8) α

/-- R323: bytes of a cell, which must be FULL or DRAINING and hold them; an uncorrectable word is poison consumed. -/
def decoderRead (c : Core) (n off len : Nat) : Found (List Byte) :=
  let x := cellOf c n
  if !engineReadable x || x.size < off + len then .error codeCodedStream
  else if anyMarked c.combBad 8 (x.base + off) len then .error codePoison
  else .ok (memBytes c.comb (x.base + off) len)

/-- R323: a condition that must hold. -/
def demand (b : Bool) : Found Unit := if b then .ok () else .error codeCodedStream

/-! ## Tables -/

/-- R316: bytes per value. -/
def valueBytes (sfmt : BitVec 5) : Nat := (layoutOf sfmt 0).bytes

/-- R315: the fields of a header that a slot keeps, and the places of its two symbol tables. -/
structure Header where
  table : DecTable
  abits : Nat
  fofs : Nat
  vofs : Nat
deriving DecidableEq, Repr

/-- R315, R323: whether the fixed parts of a header are wrong. -/
def headerBad (f : Nat → Nat → Nat) : Bool :=
  let sfmt := natField (f 6 1) 0 5
  let nsym := f 20 2 * f 22 2
  f 0 4 != 0x4854434B || f 4 2 != 1 || f 8 1 != 12 || f 9 3 != 0 || f 36 4 != 0 || f 56 200 != 0 || natBit (f 6 1) 7 ||
    !((2 ≤ sfmt && sfmt ≤ 5) || (10 ≤ sfmt && sfmt ≤ 12)) ||
      (natField (f 6 1) 5 2 != 0 && sfmt != 10 && sfmt != 11) || (f 7 1 != 4 && f 7 1 != 8) || f 12 4 == 0 ||
        f 12 4 % 32 != 0 || f 16 4 == 0 || nsym == 0 || 2 ^ 24 < nsym || f 24 4 % 2 != 0 || f 28 4 % 2 != 0 ||
          f 32 4 % 8 != 0

/-- R315: the header in the first 256 bytes of a tables cell. -/
def readHeader (c : Core) (n : Nat) : Found Header := do
  let bs ← decoderRead c n 0 256
  let f := bytesField bs
  demand (!headerBad f)
  .ok {
    table := {
      cell := n, sfmt := BitVec.ofNat 5 (natField (f 6 1) 0 5), es := BitVec.ofNat 2 (natField (f 6 1) 5 2), rint := f 12 4
      ntiles := f 16 4, nsym := f 20 2 * f 22 2, iofs := f 32 4, dlen := f 48 8, freq := [], values := [] }
    abits := f 7 1, fofs := f 24 4, vofs := f 28 4 }

/-- R318: the bytes that `dec.tab` covers. -/
def tableExtent (h : Header) : Nat :=
  max (h.fofs + 2 * 2 ^ h.abits) (h.vofs + valueBytes h.table.sfmt * 2 ^ h.abits)

/-- R316, R318, R323: the tables of a slot. -/
def readTables (c : Core) (n : Nat) : Found DecTable := do
  let h ← readHeader c n
  let a := 2 ^ h.abits
  let w := valueBytes h.table.sfmt
  let fs ← decoderRead c n h.fofs (2 * a)
  let vs ← decoderRead c n h.vofs (w * a)
  let freq := (List.range a).map fun s => bytesField fs (2 * s) 2
  demand (freq.sum == 4096)
  .ok { h.table with freq := freq, values := (List.range a).map fun s => bytesField vs (w * s) w }

/-- R318: the decoder cycles of `dec.tab`; a header that is refused takes one. -/
def tableCycles (c : Core) (n : Nat) : Nat :=
  match readHeader c n with
  | .ok h => if tableExtent h ≤ (cellOf c n).size then ceilDiv (tableExtent h) 128 else 1
  | .error _ => 1

/-! ## Segments -/

/-- R317: the segments of a tile. -/
def tableSegments (t : DecTable) : Nat := ceilDiv t.nsym t.rint

/-- R317: the offset in entry `i` of the index table, or the end of the data area after the last. -/
def indexEntry (c : Core) (t : DecTable) (i : Nat) : Found Nat :=
  if i = t.ntiles * tableSegments t then .ok t.dlen
  else do
    let bs ← decoderRead c t.cell (t.iofs + 8 * i) 8
    demand (ofBytes bs % 2 == 0)
    .ok (ofBytes bs)

/-- R319, R323: LoadSegment(k). -/
def loadSegment (c : Core) (t : DecTable) (st : Stream) (k : Nat) : Found Stream := do
  let i := st.tile * tableSegments t + k
  let first ← indexEntry c t i
  let last ← indexEntry c t (i + 1)
  demand (st.base ≤ first && first + 128 ≤ last && last ≤ t.dlen)
  let bs ← decoderRead c st.dcell (first - st.base) 128
  let xs := (List.range 32).map fun j => bytesField bs (4 * j) 4
  demand (xs.all fun x => 2 ^ 16 ≤ x)
  .ok { st with
    xs := Vector.ofFn fun (j : Fin 32) => BitVec.ofNat 32 (xs.getD j.val 0)
    wptr := first - st.base + 128, segend := last - st.base, rst := false }

/-- The table of a slot. -/
def tableOf (c : Core) (slot : Nat) : Option DecTable := vget c.dslots slot none

/-- A slot that must hold a table, without an uncorrectable error (R355). -/
def loadedTable (c : Core) (slot : Nat) : Found DecTable :=
  if c.dslotBad.getLsbD slot then .error codePoison
  else match tableOf c slot with
    | some t => .ok t
    | none => .error codeCodedStream

/-- R309, R323: where a command of the decoder leaves its stream, and what it found wrong there. -/
abbrev StreamResult := Stream × Found Unit

/-- A segment loaded in a stream, or the stream as it stands with the fault. -/
def loadInto (c : Core) (t : DecTable) (st : Stream) (k : Nat) : StreamResult :=
  match loadSegment c t st k with
  | .ok st' => (st', .ok ())
  | .error e => (st, .error e)

/-- R320, R323: the table and the BASE of a `dec.open`. -/
def openBase (c : Core) (st : Stream) : Found (DecTable × Nat) := do
  let t ← loadedTable c st.slot
  demand (st.tile < t.ntiles)
  let n := tableSegments t
  demand (t.iofs + 8 * (n * (st.tile + 1)) ≤ (cellOf c t.cell).size)
  let base ← indexEntry c t (st.tile * n)
  let last ← indexEntry c t ((st.tile + 1) * n)
  demand (last ≤ base + (cellOf c st.dcell).size)
  .ok (t, base)

/-- R320, R323: `dec.open`. -/
def openStream (c : Core) (st : Stream) : StreamResult :=
  match openBase c st with
  | .error e => (st, .error e)
  | .ok (t, base) =>
    let r := loadInto c t { st with base := base } 0
    ({ r.1 with isOpen := r.2.toOption.isSome }, r.2)

/-- R320, R323: the table of a `dec.seek` to segment `k`. -/
def seekTable (c : Core) (st : Stream) (k : Nat) : Found DecTable := do
  demand st.isOpen
  let t ← loadedTable c st.slot
  demand (k < tableSegments t)
  .ok t

/-- R320, R323: `dec.seek`. -/
def seekStream (c : Core) (st : Stream) (k : Nat) : StreamResult :=
  match seekTable c st k with
  | .error e => (st, .error e)
  | .ok t => loadInto c t { st with pos := k * t.rint, ipos := k * t.rint } k

/-! ## Symbols -/

/-- R319: the symbol of a state, with its cumulative frequency. -/
def findSymbol : List Nat → Nat → Nat → Nat → Nat × Nat
  | [], s, cum, _ => (s, cum)
  | f :: rest, s, cum, x => if x < cum + f then (s, cum) else findSymbol rest (s + 1) (cum + f) x

/-- R319, R323: Decode(j): the stream after symbol `pos` of its tile, and the value delivered. -/
def decodeSymbol (c : Core) (t : DecTable) (st : Stream) : Found (Stream × Nat) := do
  let i := st.pos % t.rint % 32
  let x := (vget st.xs i 0).toNat
  let s := findSymbol t.freq 0 0 (x % 4096)
  let y := t.freq.getD s.1 0 * (x / 4096) + x % 4096 - s.2
  if 2 ^ 16 ≤ y then
    .ok ({ st with xs := vset st.xs i (BitVec.ofNat 32 y), pos := st.pos + 1 }, t.values.getD s.1 0)
  else
    demand (st.wptr < st.segend)
    let w ← decoderRead c st.dcell st.wptr 2
    .ok ({ st with
      xs := vset st.xs i (BitVec.ofNat 32 (y * 2 ^ 16 + ofBytes w)), pos := st.pos + 1, wptr := st.wptr + 2 },
      t.values.getD s.1 0)

/-- R319, R320: after the last symbol of a segment; the stream closes after the last of its tile. -/
def endSegment (t : DecTable) (st : Stream) : Found Stream :=
  if st.pos < t.nsym && st.pos % t.rint ≠ 0 then .ok st
  else do
    demand (st.xs.toList.all (· == 0x10000) && st.wptr == st.segend)
    .ok (if st.pos = t.nsym then { st with isOpen := false } else { st with rst := true })

/-- R321: some symbols in turn: the stream at the point reached, and what was found wrong or the values. -/
def decodeSymbols (c : Core) (t : DecTable) : Nat → Stream → List Nat → Stream × Found (List Nat)
  | 0, st, out =>
    match endSegment t st with
    | .ok st => (st, .ok out)
    | .error e => (st, .error e)
  | n + 1, st, out =>
    match decodeSymbol c t st with
    | .ok (st, v) => decodeSymbols c t n st (out ++ [v])
    | .error e => (st, .error e)

/-- R321: how many symbols a cycle decodes: the rest of one round, as far as demand has reached and the store of 128 has
room. -/
def roundSymbols (t : DecTable) (st : Stream) : Nat :=
  let j := st.pos % t.rint
  let segment := min t.rint (t.nsym - (st.pos - j))
  min (min (min ((j / 32 + 1) * 32) segment - j) (st.ipos - st.pos)) (128 - st.ready.length)

/-! ## Faults of the decoder -/

/-- R309: the pc of the `mmz` that demands the next symbol of a stream. -/
def drawPc (c : Core) (d : Nat) : BitVec 12 :=
  let go := c.macs.foldl
    (fun (found : Option MacOp × Nat) m =>
      if found.1.isSome || m.form != .mmz || m.stream != d then found
      else
        let left := m.depth * m.colsN - 64 * m.step
        if found.2 < left then (some m, 0) else (none, found.2 - left)) (none, (streamOf c d).ready.length)
  match go.1 with
  | none => 0
  | some m => ((c.busy.find? fun b => b.onBank && b.writes == [.bank m.qb]).map (·.pc)).getD 0

/-- Change stream `d`. -/
def onStream (d : Nat) (f : Stream → Stream) (c : Core) : Core := { c with streams := vset c.streams d (f (streamOf c d)) }

/-- R355: whether the state of a stream, or the table of its slot, has an uncorrectable error. -/
def stateBad (c : Core) (d : Nat) : Bool := c.streamBad.getLsbD d || c.dslotBad.getLsbD (streamOf c d).slot

/-- R320, R323: a stream that faults closes, and the D stream faults; in a task that retires after a fatal fault, what the stream
supplied and the commands behind go (R349). -/
def decoderFault (code : BitVec 8) (pc : BitVec 12) (d : Nat) (c : Core) : Core :=
  let c := onStream d (fun st => { st with isOpen := false }) c
  if retiresFaulty c then { dropDraws d c with dq := [] }
  else streamFault 2 { code := code, cause := 0, pc := pc, addr := 0, tile := 0, qb := 0, onBank := false, stream := d } c

/-! ## Rounds and restarts -/

/-- R321: a cycle of decoding on stream `d`. -/
def decodeCycle (cycle d : Nat) (c : Core) : Core :=
  let st := streamOf c d
  match tableOf c st.slot with
  | none => c
  | some t =>
    let n := roundSymbols t st
    if !c.mode.sends || !st.isOpen || st.rst || cycle < st.work || n = 0 then c
    else if stateBad c d then decoderFault codePoison (drawPc c d) d c
    else
      match decodeSymbols c t n st [] with
      | (st', .ok vs) => onStream d (fun _ => { st' with ready := st.ready ++ vs.map fun v => (v, cycle) }) c
      | (st', .error code) => decoderFault code (drawPc c d) d (onStream d (fun _ => st') c)

/-- R321. -/
def execDecodeRound (n d : Nat) (s : State) : Host.Outcome State Fault Refusal :=
  .next (onCoreAt n (decodeCycle s.pkg.cycle d) s)

/-- R319 to R321: a restart on stream `d`: demanded, it takes two cycles. -/
def restartCycle (cycle d : Nat) (c : Core) : Core :=
  let st := streamOf c d
  match tableOf c st.slot with
  | none => c
  | some t =>
    if !c.mode.sends || !st.isOpen || !st.rst || st.ipos ≤ st.pos then c
    else if st.work ≠ cycle then onStream d (fun st => { st with work := cycle + 1 }) c
    else if stateBad c d then decoderFault codePoison (drawPc c d) d c
    else
      match loadSegment c t st (st.pos / t.rint) with
      | .ok st' => onStream d (fun _ => { st' with work := cycle + 1 }) c
      | .error code => decoderFault code (drawPc c d) d c

/-- R319. -/
def execLoadSegment (n d : Nat) (s : State) : Host.Outcome State Fault Refusal :=
  .next (onCoreAt n (restartCycle s.pkg.cycle d) s)

/-! ## The commands -/

/-- R321: whether every symbol that draws have demanded of a stream is decoded. -/
def drawsDone (st : Stream) : Bool := !st.isOpen || st.pos == st.ipos

/-- R321: whether an earlier command of the decode engine goes before a later one. -/
def decoderBefore (c : Core) (j m : Command) : Bool :=
  let slotOfStream := (streamOf c m.stream).slot
  match m.kind with
  | .decTab =>
    (match j.kind with
      | .decTab => j.slot == m.slot
      | .decOpen => j.slot == m.slot || (streamOf c j.stream).slot == m.slot
      | .decLoad => true
      | _ => (streamOf c j.stream).slot == m.slot)
  | .decOpen => if j.kind = .decTab then j.slot == m.slot || j.slot == slotOfStream else j.stream == m.stream
  | .decLoad => j.kind == .decTab || j.stream == m.stream
  | _ => if j.kind = .decTab then j.slot == slotOfStream else j.stream == m.stream

/-- R321: whether a command of the decode engine waits for an earlier command or draw. -/
def decoderWaits (c : Core) (m : Command) : Bool :=
  c.dq.any (fun j => j.serial < m.serial && decoderBefore c j m) ||
    (if m.kind = .decTab then (List.range 2).any fun d => (streamOf c d).slot == m.slot && !drawsDone (streamOf c d)
     else !drawsDone (streamOf c m.stream))

/-- R318, R321: the decoder cycles of a command. -/
def decoderCycles (c : Core) (m : Command) : Nat := if m.kind = .decTab then tableCycles c m.cell else 2

/-- R324: the image of a stream. -/
def streamImage (st : Stream) (pos : Nat) : List Byte :=
  st.xs.toList.flatMap (fun x => toBytes 4 x.toNat) ++ toBytes 4 pos ++ toBytes 4 st.wptr ++ toBytes 4 st.segend ++
    toBytes 4 (st.tile % 2 ^ 21 + st.slot * 2 ^ 21 + st.dcell * 2 ^ 23 + st.rst.toNat * 2 ^ 29 + st.isOpen.toNat * 2 ^ 31) ++
    toBytes 8 st.base ++ toBytes 8 0

/-- R324: the stream in an image, keeping what the image does not hold. -/
def imageStream (st : Stream) (bs : List Byte) : Stream :=
  let f := bytesField bs
  let w := f 140 4
  { st with
    isOpen := natBit w 31, slot := natField w 21 2, tile := natField w 0 21, base := f 144 8, dcell := natField w 23 6
    pos := f 128 4, ipos := f 128 4, wptr := f 132 4, segend := f 136 4, rst := natBit w 29
    xs := Vector.ofFn fun (i : Fin 32) => BitVec.ofNat 32 (f (4 * i.val) 4) }

/-- R325: the checks of an image with OPEN = 1. -/
def imageCheck (c : Core) (st : Stream) (bs : List Byte) : Found Unit :=
  if !st.isOpen then .ok ()
  else do
    demand (bytesField bs 152 8 == 0 && !natBit (bytesField bs 140 4) 30)
    let t ← loadedTable c st.slot
    demand (st.tile < t.ntiles && st.pos ≤ t.nsym && st.xs.toList.all (fun x => 0x10000 ≤ x.toNat) &&
      st.wptr ≤ st.segend)
    demand (!st.rst || (st.pos != 0 && st.pos % t.rint == 0 && st.pos < t.nsym && st.wptr == st.segend))

/-- R325, R342: the stream in the image that a `dec.load` reads. -/
def imageAt (c : Core) (cell off : Nat) : Found Stream := do
  let bs ← decoderRead c cell off 160
  let new := imageStream Stream.reset bs
  imageCheck c new bs
  .ok { new with work := 0 }

/-- R325, R342: `dec.load`. -/
def loadImage (c : Core) (st : Stream) (cell off : Nat) : StreamResult :=
  match imageAt c cell off with
  | .ok new => ({ new with ready := st.ready }, .ok ())
  | .error e => (st, .error e)

/-- R325, R342: `dec.save`, on a cell that is EMPTY or FULL. -/
def saveImage (c : Core) (st : Stream) (cell off : Nat) : Found Core :=
  let x := cellOf c cell
  if (x.state == .empty || x.state == .full) && off + 160 ≤ x.size then
    .ok (fillComb (x.base + off) (streamImage st st.pos) [] c)
  else .error codeCodedStream

/-- R318, R320: a table takes effect in its slot, and every stream open on the slot closes. -/
def placeTable (slot : Nat) (t : DecTable) (c : Core) : Core :=
  { c with dslots := vset c.dslots slot (some t)
           dslotBad := setBit c.dslotBad slot false
           streams := c.streams.map fun st => if st.slot = slot then { st with isOpen := false } else st }

/-- R320: the stream that `dec.open` starts from. -/
def freshStream (st : Stream) (m : Command) : Stream :=
  { st with slot := m.slot, tile := m.imm, dcell := m.cell, base := 0, pos := 0, ipos := 0, rst := false, isOpen := false }

/-- R323: a stream's command takes effect, or its stream faults at the point reached. -/
def settleStream (m : Command) (r : StreamResult) (c : Core) : Core :=
  let c := onStream m.stream (fun _ => r.1) c
  match r.2 with
  | .ok _ => dropCommand m.serial c
  | .error code => decoderFault code m.pc m.stream c

/-- A stream's state replaced whole has no error any more (R355). -/
def freshState (d : Nat) (r : StreamResult) (c : Core) : Core :=
  if r.2.toOption.isSome then { c with streamBad := setBit c.streamBad d false } else c

/-- R311, R355: what a command of the decoder finds when the state that it reads is bad, or its read was delivered poisoned. -/
def commandPoison (c : Core) (m : Command) (r : StreamResult) : StreamResult :=
  let own := m.kind == .decSeek && c.streamBad.getLsbD m.stream
  if m.readsPoison || own then (streamOf c m.stream, .error codePoison) else r

/-- R318, R320, R325: a command of the decode engine takes effect and is complete, or raises its fault. -/
def completeDecoder (m : Command) (c : Core) : Core :=
  let st := streamOf c m.stream
  match m.kind with
  | .decTab =>
    match (if m.readsPoison then .error codePoison else readTables c m.cell) with
    | .ok t => placeTable m.slot t (dropCommand m.serial c)
    | .error code => commandFault 2 code 0 { m with stream := 2 } 0 c
  | .decOpen =>
    let r := commandPoison c m (openStream c (freshStream st m))
    settleStream m r (freshState m.stream r c)
  | .decSeek => settleStream m (commandPoison c m (seekStream c st m.imm)) c
  | .decSave =>
    match (if c.streamBad.getLsbD m.stream then .error codePoison else saveImage c st m.cell m.imm) with
    | .ok c' => dropCommand m.serial c'
    | .error code => decoderFault code m.pc m.stream c
  | .decLoad =>
    let r := commandPoison c m (loadImage c st m.cell m.imm)
    settleStream m r (freshState m.stream r c)
  | _ => c

end Sys2Proof.Machine
end

