-- ==== Sys2Proof/Machine/RemoteWrites.lean ====
section
/-!
DEFINITION. Remote writes between combs (R234 to R237, R378): injection at the writer's slot, the way over the frames' meshes,
arrival, acceptance, the data, and the acknowledgement or refusal.
-/

namespace Sys2Proof.Machine

/-- R236: the slot of a core. -/
def slotOf (n : Nat) : Nat := (coreX n % 16 + coreY n % 16) % 16

/-- R234: the hops between two cores. -/
def hops (a b : Nat) : Nat := ((coreX a : Int) - coreX b).natAbs + ((coreY a : Int) - coreY b).natAbs

/-- R234, R378: where a flit at core `a` for core `b` heads within the frame of `a`: for `b`, or for the first core of the next frame
on its way, along X first and then along Y. -/
def legEnd (a b : Nat) : Nat :=
  let x := coreX a
  let y := coreY a
  if x / 16 < coreX b / 16 then y * 64 + (x / 16 + 1) * 16
  else if coreX b / 16 < x / 16 then y * 64 + (x / 16 * 16 - 1)
  else if y / 16 < coreY b / 16 then (y / 16 + 1) * 16 * 64 + coreX b
  else if coreY b / 16 < y / 16 then (y / 16 * 16 - 1) * 64 + coreX b
  else b

/-- R234: the core from which the last link of the way from `a` to `b` leads. -/
def beforeLast (a b : Nat) : Nat :=
  if coreY a < coreY b then b - 64
  else if coreY b < coreY a then b + 64
  else if coreX a < coreX b then b - 1
  else b + 1

/-- R234: whether the way from `a` to `b` uses the link from `u` into its neighbour `v`. -/
def usesLink (a b u v : Nat) : Bool :=
  let corner := coreY a * 64 + coreX b
  hops a corner + hops corner b == hops a u + 1 + hops v b &&
    ((coreY u == coreY a && coreY v == coreY a && hops a u + 1 + hops v corner == hops a corner) ||
      (coreX u == coreX b && coreX v == coreX b && hops corner u + 1 + hops v b == hops corner b))

/-- The last cycle in which a core injects a data flit of a write begun earlier. -/
def lastFlit (k : Package) (n : Nat) : Nat :=
  match k.injected.find? fun p => p.1 == n with
  | some p => p.2
  | none => 0

/-- The flits of data of a write. -/
def dataFlits (bs : List Byte) : Nat := bs.length / 64

/-- R236: whether a write may be injected in this cycle: the slot has come, and every earlier write of the core is sent. -/
def mayInject (k : Package) (n : Nat) (c : Core) (m : Command) : Bool :=
  m.begun && m.sent == 0 && c.mode.sends && k.cycle % 16 == slotOf n && lastFlit k n < k.cycle &&
    !(outstanding c).any fun j => j.kind == .c2r && j.serial < m.serial && j.sent == 0

/-- R237: whether a core holds a task for the purpose of remote writes: until the task ends, is force-stopped (R367), or decides to
give up. -/
def holdsTask (c : Core) : Bool :=
  match c.mode with
  | .restoring => true
  | .restored => true
  | .starting => true
  | .running => true
  | .stopping => c.halted == .running
  | .stopped _ => c.halted == .running
  | _ => false

/-- The stamp of the task on a core. -/
def tenantOf (c : Core) : Nat := (c.task.map (·.stamp)).getD 0

/-- A write by its number, and a change of it. -/
def writeOf (k : Package) (id : Nat) : Option RemoteWrite := k.writes.find? fun w => w.id == id
def onWrite (id : Nat) (st : WriteState) (k : Package) : Package :=
  { k with writes := k.writes.map fun w => if w.id = id then { w with state := st } else w }

/-- R235, R237: whether a write has a place on its way, from one writer to one core, before which an earlier one stands. -/
def behindEarlier (k : Package) (w : RemoteWrite) (pending : WriteState → Bool) : Bool :=
  k.writes.any fun v => v.id < w.id && v.src == w.src && v.dst == w.dst && pending v.state

/-- Whether a write is still on the mesh, and whether it is not yet wholly in the receiver's comb. -/
def WriteState.onMesh : WriteState → Bool
  | .flying _ _ => true
  | .edge _ _ => true
  | .waiting _ => true
  | _ => false
def WriteState.notDone (st : WriteState) : Bool :=
  st.onMesh || match st with
    | .held _ => true
    | .accepted _ => true
    | _ => false

/-- R237: whether a write waits on the last link into its core. -/
def WriteState.isWaiting : WriteState → Bool
  | .waiting _ => true
  | _ => false

/-- R237: the headers that a core's arrival buffer holds. -/
def heldCount (k : Package) (dst : Nat) : Nat :=
  (k.writes.filter fun w => w.dst == dst && match w.state with
    | .held _ => true
    | _ => false).length

/-- R237: whether a header that heads for `at'` by a cycle comes just now to the last link into a core, and another waits on it. -/
def linkBlocked (k : Package) (w : RemoteWrite) (at' due : Nat) : Bool :=
  k.writes.any fun v => v.id != w.id && v.state.isWaiting && usesLink w.src w.dst (beforeLast v.src v.dst) v.dst &&
    hops w.src v.dst ≤ hops w.src at' && due == k.cycle + hops v.dst at'

/-- R235, R237: a write starts on its way back, acknowledged or refused, in a cycle. -/
def sendBack (w : RemoteWrite) (refused : Bool) (cycle : Nat) : Package → Package :=
  let at' := legEnd w.dst w.src
  onWrite w.id (.returning refused at' (cycle + hops w.dst at'))

/-- R236, R237: the flits of a write that waits before a full buffer are injected later. -/
def delayFlits (w : RemoteWrite) (k : Package) : Package :=
  { k with injected := k.injected.map fun p => if p.1 = w.src && k.cycle ≤ p.2 then (p.1, p.2 + 1) else p }

/-- R235, R237: a header reaches its core: it is refused where no task is, held otherwise, and waits on the link while the buffer
is full. -/
def meetBuffer (w : RemoteWrite) (since : Nat) (s : State) : State :=
  let c := coreState s w.dst
  if !holdsTask c then onPkg (sendBack w true s.pkg.cycle) s
  else if 8 ≤ heldCount s.pkg w.dst then onPkg (fun k => delayFlits w (onWrite w.id (.waiting since) k)) s
  else
    onPkg (fun k => { k with writes := k.writes.map fun v =>
      if v.id = w.id then { v with state := .held k.cycle, tenant := tenantOf c } else v }) s

/-- R236, R237, R378: a header goes on: it arrives, comes to the edge of the next frame, enters that frame at a slot of its pattern,
or waits behind another. -/
def headerArrives (id : Nat) (s : State) : State :=
  match writeOf s.pkg id with
  | none => s
  | some w =>
    let now := s.pkg.cycle
    match w.state with
    | .flying at' due =>
      if linkBlocked s.pkg w at' due then onPkg (onWrite id (.flying at' (due + 1))) s
      else if now < due || behindEarlier s.pkg w WriteState.onMesh then s
      else if at' = w.dst then meetBuffer w now s
      else onPkg (onWrite id (.edge at' now)) s
    | .edge at' since =>
      if now ≤ since || now % 16 ≠ slotOf at' || behindEarlier s.pkg w WriteState.onMesh then s
      else onPkg (onWrite id (.flying (legEnd at' w.dst) (now + hops at' (legEnd at' w.dst)))) s
    | .waiting since => meetBuffer w since s
    | _ => s

/-- R235, R236: the header is injected, and the data after it. -/
def injectWrite (n e : Nat) (m : Command) (s : State) : State :=
  let c := coreState s n
  let x := cellOf c m.cell
  let at' := legEnd n m.target
  let w : RemoteWrite :=
    { id := s.pkg.nextId, src := n, dst := m.target, engine := e, serial := m.serial, rcell := m.other, tag := m.tag
      data := memBytes c.comb x.base x.size
      bad := (List.range x.size).filter fun i => anyMarked c.combBad 8 (x.base + i) 1
      tenant := 0, state := .flying at' (s.pkg.cycle + hops n at') }
  onPkg (fun k => { k with writes := k.writes ++ [w], nextId := k.nextId + 1
                           injected := (k.injected.filter fun p => p.1 != n) ++ [(n, k.cycle + dataFlits w.data)] })
    (onCoreAt n (onCommand m.serial fun j => { j with sent := 1, readDone := true }) s)

/-- R236. -/
def execRemoteWriteInjection (n e : Nat) (s : State) : Host.Outcome State Fault Refusal :=
  let c := coreState s n
  .next (match (engineQueue c e).find? fun m => m.kind == .c2r && m.begun && m.sent == 0 with
    | some m => if mayInject s.pkg n c m then injectWrite n e m s else s
    | none => s)

/-- R235, R237. -/
def execRemoteWriteHeaderArrival (id : Nat) (s : State) : Host.Outcome State Fault Refusal := .next (headerArrives id s)

/-- R235: the data of an accepted write is in the comb, if its task is still there, and the acknowledgement leaves. -/
def finishWrite (w : RemoteWrite) (a : Nat) (s : State) : State :=
  let c := coreState s w.dst
  let x := cellOf c w.rcell
  let bad := (List.range w.data.length).map w.bad.contains
  let s := onPkg (sendBack w false (a + dataFlits w.data + 1)) s
  if c.task.isNone || tenantOf c ≠ w.tenant then s
  else onCoreAt w.dst (fun c =>
    fillComb x.base w.data bad { c with cells := vset c.cells w.rcell (fullCell (cellOf c w.rcell) w.tag) }) s

/-- R235, R237: a held header is accepted, or refused; an accepted write's data is in the comb after its last flit. -/
def execRemoteWriteAccept (id : Nat) (s : State) : Host.Outcome State Fault Refusal :=
  .next (match writeOf s.pkg id with
    | none => s
    | some w =>
      let c := coreState s w.dst
      let x := cellOf c w.rcell
      match w.state with
      | .held since =>
        if !holdsTask c || tenantOf c ≠ w.tenant then onPkg (sendBack w true s.pkg.cycle) s
        else if s.pkg.cycle ≤ since || behindEarlier s.pkg w WriteState.notDone || x.state != .fillingRemote ||
            x.filler != w.src then s
        else if x.size < w.data.length then onPkg (sendBack w true s.pkg.cycle) s
        else onPkg (onWrite id (.accepted s.pkg.cycle)) s
      | .accepted a => if s.pkg.cycle < a + dataFlits w.data then s else finishWrite w a s
      | _ => s)

/-- R235, R237: the writer has its answer. A refused command stays at its queue's head. -/
def answerWriter (w : RemoteWrite) (refused : Bool) (s : State) : State :=
  let s := onPkg (fun k => { k with writes := k.writes.filter fun v => v.id != w.id }) s
  match (engineQueue (coreState s w.src) w.engine).find? fun m => m.serial == w.serial with
  | none => s
  | some m =>
    onCoreAt w.src (fun c =>
      if refused then
        commandFault w.engine codeCellState 0 m (cellAddr w.rcell) (onCommand m.serial (fun j => { j with sent := 0 }) c)
      else clearRetries w.engine
        (onCommand m.serial (fun j => { j with writeDone := true, done := dataFlits w.data }) c)) s

/-- R235, R237, R378: the acknowledgement or the refusal goes on its way back. -/
def execRemoteWriteAckArrival (id : Nat) (s : State) : Host.Outcome State Fault Refusal :=
  .next (match writeOf s.pkg id with
    | none => s
    | some w =>
      match w.state with
      | .returning refused at' due =>
        if s.pkg.cycle < due then s
        else if at' = w.src then answerWriter w refused s
        else onPkg (onWrite id (.returnEdge refused at' s.pkg.cycle)) s
      | .returnEdge refused at' since =>
        if s.pkg.cycle ≤ since || s.pkg.cycle % 16 ≠ slotOf at' then s
        else
          let next := legEnd at' w.src
          onPkg (onWrite id (.returning refused next (s.pkg.cycle + hops at' next))) s
      | _ => s)

end Sys2Proof.Machine
end

