-- ==== Sys2Proof/Machine/EngineSteps.lean ====
section
/-!
DEFINITION. The steps of the engines: beginning (R302, R306), sending and answering requests (R303), completing (R304), the
delivery of bound commands (R383, R384), and the timeout of a held request (R252).
-/

namespace Sys2Proof.Machine

/-! ## Beginning -/

/-- R383, R385: whether every command that reached a frame's edge-copy engine before a bound one has begun. -/
def edgeTurn (s : State) (n e serial : Nat) : Bool :=
  let k := frameAt s.pkg (servingFrame (coreState s n) n e)
  (k.edge.takeWhile fun x => !(x.1 == n && x.2.2 == serial)).all fun x =>
    ((outstanding (coreState s x.1)).find? fun j => j.serial == x.2.2).all (·.begun)

/-- R301, R314: a command handed to the collective engine of its frame; a `coll.bc` of another rank than the root reads nothing. -/
def carryCommand (n e : Nat) (m : Command) (s : State) : State :=
  let f := servingFrame (coreState s n) n e
  if !collectiveRoom s.pkg f n e || (e < 3 && behindPacket (coreState s n) m) then s
  else
    let s := onCoreAt n (onCommand m.serial fun j =>
      { j with begun := true, carried := true, readDone := j.kind == .collBc && j.rank != j.root }) s
    if 3 ≤ e then s else onPkg (onFrame f fun x => { x with coll := x.coll ++ [(n, e, m.serial)] }) s

/-- R302: a command that nothing holds begins. -/
def beginCommand (n e : Nat) (m : Command) (s : State) : State :=
  let c := coreState s n
  let cycle := s.pkg.cycle
  if m.kind.decoder then
    onCoreAt n (onCommand m.serial fun j => { j with begun := true, ends := cycle + decoderCycles c m - 1 }) s
  else if m.kind.collective then carryCommand n e m s
  else onCoreAt n (onCommand m.serial fun j => { j with begun := true, sent := skipRows c m 0 }) s

/-- R302, R306, R384: the first command of engine `e` that has not begun begins, unless the hazard unit or its cell holds
it. -/
def beginFirst (n e : Nat) (s : State) : State :=
  let c := coreState s n
  match (engineQueue c e).find? (!·.begun) with
  | none => s
  | some m =>
    let moves := (fillCell m).isSome || (copyOutCell m).isSome
    if (commandCell m).isSome || commandHeld s.pkg c m || (3 ≤ e && m.kind == .g2g && !edgeTurn s n e m.serial) then s
    else if moves && !m.applied then
      (if mayApply c m then beginCommand n e m (onCoreAt n (applyCommand m) s) else s)
    else beginCommand n e m s

/-- R302, R321: the commands of the decode engine begin in order up to the first that the hazard unit holds, but for those that wait
for earlier work on their stream: each stream runs on its own. -/
def beginDecoder (n : Nat) (ms : List Command) (s : State) : State :=
  match ms with
  | [] => s
  | m :: rest =>
    let c := coreState s n
    if m.begun || decoderWaits c m then beginDecoder n rest s
    else if commandHeld s.pkg c m then s
    else beginDecoder n rest (beginCommand n 2 m s)

/-- R302, R306, R321. -/
def execEngineCommandBegin (n e : Nat) (s : State) : Host.Outcome State Fault Refusal :=
  let c := coreState s n
  .next (if !c.mode.sends then s else if e = 2 then beginDecoder n c.dq s else beginFirst n e s)

/-! ## Requests -/

/-- The request that a command has just sent. -/
def newRequest (before' after : Core) (m : Command) : Option Request :=
  let now := ((outstanding after).find? fun j => j.serial == m.serial).map (·.pending)
  let old := ((outstanding before').find? fun j => j.serial == m.serial).map (·.pending)
  ((now.getD []).drop (old.getD []).length).head?

/-- R303, R387: engine `e` sends one request, the parts of it that go to other packages too, or hands a packet to the injector. -/
def execEngineRequestSend (n e : Nat) (s : State) : Host.Outcome State Fault Refusal :=
  let c := coreState s n
  .next (if !c.mode.sends then s
    else match (engineQueue c e).find? fun m => hasRequest m || sendsPacket s n e m with
      | none => s
      | some m =>
        if m.kind = .osend then sendPacket n e m s
        else
          let s' := onCoreAt n (sendRequest e s.pkg.cycle m) s
          match newRequest c (coreState s' n) m with
          | some q => onPkg (askFor (taskPart c) m q) s'
          | none => s')

/-- How many different answers may come to a command: one for each request in flight, for each copy of an `osend` (R401), or
for what may arrive at a collective. -/
def answerSlots (k : Package) (m : Command) : Nat :=
  match m.kind with
  | .osend => if m.sent = 0 then 0 else m.parts.length
  | .collMx => if m.carried then 2 * m.parts.length + k.items.length else 0
  | .collBs => if m.carried then 2 * m.parts.length + k.items.length else 0
  | .collBc => if m.carried then 2 * m.parts.length else 0
  | .collAg => if m.carried then 2 * m.parts.length else 0
  | _ => (unanswered m).length

/-- The command that answer `i` of an engine comes to, with the answer's number within the command. -/
def answerAt (k : Package) : List Command → Nat → Option (Command × Nat)
  | [], _ => none
  | m :: rest, i => if i < answerSlots k m then some (m, i) else answerAt k rest (i - answerSlots k m)

/-- R401: the copy for another package is acknowledged. -/
def copyAcked (k : Package) (i : Nat) (m : Command) (c : Core) : Core :=
  match m.parts[i]? with
  | some p => if p.toNat = k.pnode.toNat then c else ackCopy p.toNat m.serial c
  | none => c

/-- R303: answer `i` of engine `e` arrives, with what another package or the host sent. -/
def execEngineResponseArrival (n e i : Nat) (r : Option Reply) (s : State) : Host.Outcome State Fault Refusal :=
  .next (match answerAt s.pkg (engineQueue (coreState s n) e) i with
    | none => s
    | some (m, j) =>
      if m.kind = .osend then onCoreAt n (copyAcked s.pkg j m) s
      else if m.kind.collective then collectiveArrival n e m j r s
      else match (unanswered m)[j]? with
        | some q => answerRequest n e m q r s
        | none => s)

/-! ## Completion -/

/-- R304: a command that is done is complete. -/
def completeCommand (n e : Nat) (m : Command) (s : State) : State :=
  let c := coreState s n
  let drop := fun (s : State) => onPkg (leaveFrames n m.serial) (onCoreAt n (fun c => settleCells (dropCommand m.serial c)) s)
  if m.kind.decoder then
    (if m.begun && m.ends ≤ s.pkg.cycle && c.mode.sends then onCoreAt n (completeDecoder m) s else s)
  else match m.kind with
    | .osend => if sendDone m then drop s else s
    | .c2r => if m.begun && m.writeDone then drop s else s
    | _ =>
      if m.kind.collective then (if collectiveReady m then completeCollective n e m s else s)
      else if (commandCell m).isNone && copyDone c m then onPkg (leaveFrames n m.serial) (onCoreAt n (completeCopy m) s)
      else s

/-- R304: the commands of engine `e` that are done are complete. -/
def execEngineCommandComplete (n e : Nat) (s : State) : Host.Outcome State Fault Refusal :=
  .next ((engineQueue (coreState s n) e).foldl (fun s m => completeCommand n e m s) s)

/-! ## Bound commands -/

/-- R383: bound command `i` of the queen core is delivered to its engine. -/
def execBoundCommandDelivery (i : Nat) (s : State) : Host.Outcome State Fault Refusal :=
  .next (match (coreState s queenCore).bound[i]? with
    | none => s
    | some b =>
      if b.delivered || s.pkg.cycle < b.due then s
      else
        let entry := (queenCore, 3, b.cmd.serial)
        onPkg (onFrame b.frame fun f =>
            if b.kind = 1 then { f with coll := f.coll ++ [entry] } else { f with edge := f.edge ++ [entry] })
          (onCoreAt queenCore (fun c => { c with bound := c.bound.modify i fun b => { b with delivered := true } }) s))

/-! ## Held requests -/

/-- R252: whether the copy of the line that holds a byte has stood for longer than LIMIT since a request for it was sent. -/
def heldTooLong (k : Package) (since : Nat) (p : Place) : Bool :=
  match p with
  | .here pa =>
    reach k false pa == .held && (holdingEntries k pa).any fun m => k.mhold.toNat < k.cycle - max m.since since
  | _ => false

/-- R252: a request held for longer than LIMIT fails for the time being. -/
def execMigrationHoldTimeout (n e : Nat) (s : State) : Host.Outcome State Fault Refusal :=
  let late := fun (x : Command × Request) =>
    (placesOf x.1.runs (if writesMemory x.1 x.2 then writeVa x.1 x.2 else x.2.va) x.2.len).any
      (heldTooLong s.pkg x.2.since)
  .next (match (inFlight (coreState s n) e).find? late with
    | some (m, q) => onCoreAt n (requestFault s.pkg e 0 causeHold m q) s
    | none => s)

end Sys2Proof.Machine
end

