-- ==== Sys2Proof/Machine/Stops.lean ====
section
/-!
DEFINITION. Stops: settling, the record and the outcome (R308, R309, R346 to R352), automatic resumption (R310, R311), and the
host's commands on a stopped core (R353, R354).
-/

namespace Sys2Proof.Machine

/-! ## Settling -/

/-- R308: whether a command has sent a request that is not answered. -/
def commandUnsettled (m : Command) : Bool :=
  match m.kind with
  | .osend => m.sent != 0 && !m.parts.isEmpty
  | .c2r => false
  | _ => !(unanswered m).isEmpty

/-- R308, R312: whether a result belongs to a scheduled step, which does not run while a core settles. -/
def Landing.stepped (l : Landing) : Bool := match l.dest with | .rows _ _ => true | _ => false

/-- R308: whether the traffic of core `n` has settled. -/
def coreSettled (k : Package) (n : Nat) (c : Core) : Bool :=
  !(outstanding c).any commandUnsettled && c.accesses.isEmpty && !k.writes.any (fun w => w.src == n) &&
    c.landings.all (·.stepped) && c.trap.isNone

/-! ## Outcomes -/

/-- R346: what follows a stop. -/
inductive StopOutcome where
  | fatal | held | automatic
deriving DecidableEq, Repr

/-- The streams of a stop beside S. -/
def stopStreams (p : Stop) : List StreamFault := [p.c0, p.c1, p.m, p.d].filterMap id

/-- The codes of the sequencer's stream. -/
def stopCodes (p : Stop) : List (BitVec 8) := p.slots.map (·.code) ++ (if p.bundleCode = 0 then [] else [p.bundleCode])

/-- R348: the outcome of a stop. -/
def stopOutcome (p : Stop) : StopOutcome :=
  if (stopCodes p).any fatalCode then .fatal
  else if !(stopCodes p).isEmpty || (stopStreams p).any (fun f => f.code != 0) then .held
  else .automatic

/-- The fault of the lowest slot. -/
def lowestSlot (p : Stop) : Option SlotFault :=
  (List.range 4).findSome? fun n => p.slots.find? fun f => f.slot == n

/-- R348: the status. -/
def stopStatus (p : Stop) : BitVec 8 :=
  match lowestSlot p with
  | some f => f.code
  | none => if p.bundleCode ≠ 0 then p.bundleCode else (((stopStreams p).map (·.code)).find? (· != 0)).getD 0

/-! ## The record -/

/-- R351: the mask and the codes of the S stream. -/
def slotMaskOf (p : Stop) : BitVec 4 := p.slots.foldl (fun m f => setBit m f.slot true) 0
def slotCodesOf (p : Stop) : BitVec 32 :=
  if p.slots.isEmpty then p.bundleCode.setWidth 32
  else p.slots.foldl (fun m f => m ||| BitVec.ofNat 32 (f.code.toNat * 2 ^ (8 * f.slot))) 0

/-- R350: bits 3 to 7 of the summary. -/
def streamBits (p : Stop) : BitVec 5 :=
  BitVec.ofNat 5 ((!(stopCodes p).isEmpty).toNat + 2 * p.c0.isSome.toNat + 4 * p.c1.isSome.toNat + 8 * p.m.isSome.toNat +
    16 * p.d.isSome.toNat)

/-- R350 to R352: the record of a stop, written once the traffic has settled. -/
def makeRecord (c : Core) (p : Stop) : StopRecord :=
  let t := c.task
  let st := match p.d with
    | some f => if f.stream < 2 then some (streamOf c f.stream) else none
    | none => none
  { valid := true, fatal := stopOutcome p == .fatal, held := stopOutcome p == .held, streams := streamBits p
    code := stopStatus p, serial := BitVec.ofNat 24 ((t.map (·.serial)).getD 0)
    replica := BitVec.ofNat 12 (taskReplica c), image := cardImage (taskCard c), cyc := c.cyc, frz := c.frz, pc := c.pc
    transfer := c.transfer, ended := c.ended, slotMask := slotMaskOf p, slotCodes := slotCodesOf p
    faddr := ((lowestSlot p).map (·.faddr)).getD p.bundleAddr, c0 := p.c0, c1 := p.c1, m := p.m, d := p.d
    retries0 := min 15 c.retries0, retries1 := min 15 c.retries1, dTile := (st.map (·.tile)).getD 0
    dPos := (st.map (·.pos)).getD 0, dWptr := (st.map (·.wptr)).getD 0, queue0 := if p.c0.isSome then c.c0 else []
    queue1 := if p.c1.isSome then c.c1 else [], queueD := if p.d.isSome then c.dq else [] }

/-! ## The stop record is written -/

/-- R349: the commands of a queue are discarded. -/
def discardQueue (e : Nat) (c : Core) : Core := discardFrom e 0 c

/-- R349: the queues of the engines that have a fault in the stop are discarded, bound commands among them. -/
def discardFaulted (p : Stop) (c : Core) : Core :=
  let bound := fun (n : Nat) (c : Core) => ((c.bound.filter fun b => b.delivered && b.position == n).map (·.cmd.serial)).foldl
    (fun c x => dropCommand x c) c
  let c := if p.c0.isSome then bound 0 (discardQueue 0 c) else c
  let c := if p.c1.isSome then bound 1 (discardQueue 1 c) else c
  match p.d with
  | some f => dropDraws f.stream (discardQueue 2 c)
  | none => c

/-- R349: a fatal stop ends the task with its status, and the task retires. -/
def endFatally (p : Stop) (c : Core) : Core := discardFaulted p (endCore (stopStatus p) c)

/-- R346, R348: the outcome of a stop that has settled. -/
def settleStop (n : Nat) (p : Stop) (s : State) : State :=
  let c := coreState s n
  let done := { c with record := makeRecord c p, stop := none }
  match stopOutcome p with
  | .fatal =>
    let gone := (outstanding done).filter fun m => !(outstanding (endFatally p done)).any fun j => j.serial == m.serial
    onPkg (fun k => gone.foldl (fun k m => leaveFrames n m.serial k) k) (onCoreAt n (fun _ => endFatally p done) s)
  | .held => onPkg (raiseVector (taskPart c) 24) (onCoreAt n (fun _ => { done with mode := .stopped true }) s)
  | .automatic => onCoreAt n (fun _ => { done with mode := .stopped false }) s

/-- R308. -/
def execStopRecordWrite (n : Nat) (s : State) : Host.Outcome State Fault Refusal :=
  let c := coreState s n
  .next (if c.mode = .stopping && coreSettled s.pkg n c then settleStop n (c.stop.getD Stop.empty) s else s)

/-! ## Resumption -/

/-- R310: the core goes on as the stop found it. -/
def resumeCore (c : Core) : Core := { c with mode := c.halted, record := { c.record with held := false } }

/-- R311: an automatic resumption counts on each stream that faulted, by what the fault was: a link, or a read that is retried. -/
def countResumption (c : Core) : Core :=
  let more := fun (f : Option StreamFault) (cause : BitVec 4) (n : Nat) => if (f.map (·.cause)) = some cause then n + 1 else n
  { c with
    retries0 := more c.record.c0 causeLink c.retries0, retries1 := more c.record.c1 causeLink c.retries1
    rereads0 := more c.record.c0 causeRead c.rereads0, rereads1 := more c.record.c1 causeRead c.rereads1
    rereadsD := more c.record.d causeRead c.rereadsD }

/-- R311: whether a link of a stream has failed after 16 resumptions in a row without a request performed. -/
def linkFailed (f : Option StreamFault) (n : Nat) : Bool := 16 ≤ n && (f.map (·.cause)) == some causeLink
def linkExhausted (c : Core) : Bool := linkFailed c.record.c0 c.retries0 || linkFailed c.record.c1 c.retries1

/-- R311: the record of a link fault that is reported, on the stream it was found on. -/
def reportLink (c : Core) : StopRecord :=
  let r := c.record
  let mark := fun (f : Option StreamFault) (n : Nat) => if linkFailed f n then f.map fun x => { x with code := codeLink } else f
  { r with held := true, code := codeLink, c0 := mark r.c0 c.retries0, c1 := mark r.c1 c.retries1 }

/-- R311: firmware resumes a core after an automatic fault, or reports it. -/
def execAutomaticResume (n : Nat) (s : State) : Host.Outcome State Fault Refusal :=
  let c := coreState s n
  .next (if c.mode ≠ .stopped false then s
    else if linkExhausted c then
      onPkg (raiseVector (taskPart c) 24)
        (onCoreAt n (fun c => { c with mode := .stopped true, record := reportLink c }) s)
    else onCoreAt n (fun c => resumeCore (countResumption c)) s)

/-- R354: what a resumed bundle is relieved of once. -/
def relieve (c : Core) : Core :=
  let code := fun (n : Nat) => (c.record.slotCodes >>> (8 * n)).setWidth 8
  let slots := (List.range 4).filter fun n => c.record.slotMask.getLsbD n
  let scheduled := slots.any (fun n => code n == codeSchedule) || (slots.isEmpty && code 0 == codeSchedule)
  { c with
    relief := if scheduled then codeSchedule else 0
    reliefSlots := slots.foldl (fun m n => if code n = codeBreakpoint then setBit m n true else m) 0 }

/-- R411: the core that STOPSEL of a partition selects, if it belongs to the partition. -/
def selectedCore (k : Package) (part : Nat) : Option Nat :=
  let v := (partOf k part).stopsel
  let n := if v.getLsbD 15 then queenCore else (v.extractLsb' 8 6).toNat * 64 + (v.extractLsb' 0 6).toNat
  if coreIn k part n then some n else none

/-- R353: a held core that a partition selects. -/
def heldCore (s : State) (part : Nat) : Option Nat :=
  (selectedCore s.pkg part).filter fun n => (coreState s n).mode == .stopped true

/-- R353, R354. -/
def execStopcmdResume (p : Nat) (s : State) : Host.Outcome State Fault Refusal :=
  .next (match heldCore s p with
    | some n => onCoreAt n (fun c => resumeCore (relieve c)) s
    | none => s)

/-- R353: every engine queue is discarded, and the task retires by steps 3 to 6 of R221. -/
def endHeld (code : BitVec 8) (c : Core) : Core :=
  let status := if code = 0 then c.record.code else code
  { endCore status ((outstanding c).foldl (fun c m => dropCommand m.serial c) c) with
    busy := [], macs := [], landings := [], record := { c.record with held := false } }

/-- R353. -/
def execStopcmdEnd (p : Nat) (code : BitVec 8) (s : State) : Host.Outcome State Fault Refusal :=
  .next (match heldCore s p with
    | some n =>
      let gone := outstanding (coreState s n)
      onPkg (fun k => gone.foldl (fun k m => leaveFrames n m.serial k) k) (onCoreAt n (endHeld code) s)
    | none => s)

end Sys2Proof.Machine
end

