-- ==== Sys2Proof/Machine/Retire.lean ====
section
/-!
DEFINITION. Completion records (R208, R209), retiring a replica (R221, R222), freeing a core, graph instances (R224), and cards
that fail at dispatch (R201).
-/

namespace Sys2Proof.Machine

/-! ## Records -/

/-- R209: the bits of a completion record. -/
def recordBits (serial replica : Nat) (status : BitVec 8) (issue freeze : Nat) : BitVec 128 :=
  BitVec.ofNat 128 (serial % 2 ^ 24 + replica % 2 ^ 12 * 2 ^ 24 + status.toNat * 2 ^ 36 + min issue (2 ^ 48 - 1) * 2 ^ 48 +
    min freeze (2 ^ 32 - 1) * 2 ^ 96)

/-- R23, R209: the issue count and the freeze count of a core's task. -/
def issueCount (c : Core) : Nat := (c.cyc - c.frz).toNat
def freezeCount (c : Core) : Nat := c.frz.toNat

/-- R209: the record of the task on core `n`. -/
def taskRecord (n : Nat) (c : Core) (t : Task) (status : BitVec 8) : DueRecord :=
  { queue := cardQueue t.card, bits := recordBits t.serial t.replica status (issueCount c) (freezeCount c), ring := t.ring
    core := some n, signal := none }

/-- Completion queue `q`, and a change of it. -/
def queueOf (p : Partition) (q : Nat) : CompQueue := vget p.queues q CompQueue.reset
def onQueue (q : Nat) (f : CompQueue → CompQueue) (p : Partition) : Partition :=
  { p with queues := vset p.queues q (f (queueOf p q)) }

/-- Ring `k`, and a change of it. -/
def ringOf (p : Partition) (k : Nat) : Ring := vget p.rings k Ring.reset
def onRing (k : Nat) (f : Ring → Ring) (p : Partition) : Partition := { p with rings := vset p.rings k (f (ringOf p k)) }

/-- R208: whether a queue has room. -/
def queueRoom (q : CompQueue) : Bool := (q.widx - q.ridx).toNat < 2 ^ q.log2n

/-- R208: where the next record of a queue goes. -/
def recordSpot (k : Package) (part q : Nat) : List Reached :=
  let x := queueOf (partOf k part) q
  (List.range 16).map fun i => reach k true (x.base.toNat + x.widx.toNat % 2 ^ x.log2n * 16 + i)

/-- R208: a record written at the queue's write index, and its vector raised. -/
def writeRecord (part q : Nat) (bits : BitVec 128) (k : Package) : Package :=
  let k := writeBytes hubPlace k (recordSpot k part q) (toBytes 16 bits.toNat) false
  raiseVector part q (onPart part (onQueue q fun x => { x with widx := x.widx + 1 }) k)

/-- R208: a record that finds EN = 0 is discarded and counted. -/
def dropRecord (part q : Nat) (k : Package) : Package :=
  onPart part (onQueue q fun x => { x with drop := if x.drop = 0xFFFF then x.drop else x.drop + 1 }) k

/-- R365: a completion record of a stream returns the counter of its ring's watchdog to 0. -/
def resetWatchdog (part ring : Nat) (k : Package) : Package :=
  onPart part (onRing ring fun r => { r with counter := 0 }) k

/-- R221, R224: the steps that follow a record: a core goes on retiring, a graph instance signals. -/
def afterRecord (part : Nat) (d : DueRecord) (s : State) : State :=
  let s := match d.signal with
    | some i => onPkg (onPart part (signalCounter i)) s
    | none => s
  match d.core with
  | none => s
  | some n => onCoreAt n (fun c => match c.mode with
      | .recording st => { c with mode := .recorded st }
      | _ => c) s

/-- R208, R252: the oldest record that is due in a queue is written once there is room and no copy holds its line, or discarded. -/
def completeRecord (part q : Nat) (s : State) : State :=
  let p := partOf s.pkg part
  match p.due.find? fun d => d.queue == q with
  | none => s
  | some d =>
    let rest := p.due.erase d
    let x := queueOf p q
    if x.en && (!queueRoom x || (recordSpot s.pkg part q).contains .held) then s
    else
      let s := onPkg (onPart part fun p => { p with due := rest }) s
      afterRecord part d (onPkg
        (fun k => if x.en then resetWatchdog part d.ring (writeRecord part q d.bits k) else dropRecord part q k) s)

/-- R208. -/
def execCompletionRecordWrite (p q : Nat) (s : State) : Host.Outcome State Fault Refusal := .next (completeRecord p q s)

/-! ## Retiring a replica -/

/-- R224: the status of a card all of whose replicas have retired: the first that is not 0. -/
def cardStatus (c : Card) : BitVec 8 :=
  (((List.range (cardReplicas c.words)).filterMap fun r => (c.statuses.find? fun t => t.1 == r).map (·.2)).find?
    (· != 0)).getD 0

/-- R221, R222, R224: a replica has retired: its card's edges to it resolve. A card that ended with status 0 leaves the stream;
one that did not stays, for the cards that take edges to it (log entry 18). -/
def retireReplica (id replica : Nat) (status : BitVec 8) (p : Partition) : Partition :=
  match cardOf p id with
  | none => p
  | some c =>
    let c := { c with left := c.left - 1, statuses := c.statuses ++ [(replica, status)] }
    let gone := c.left == 0 && c.statuses.all fun t => t.2 == 0
    let cards := p.cards.map fun x => if x.id = id then c else x
    let graphs := if c.left ≠ 0 then p.graphs
      else p.graphs.map fun g =>
        { g with cards := g.cards.map fun x => if x.1 = id then (x.1, some (cardStatus c)) else x }
    { p with cards := if gone then cards.filter fun x => x.id != id else cards, graphs := graphs }

/-- R224: an instance all of whose cards have retired writes its record, and signals where its status is 0. -/
def completeInstance (g : GraphInstance) (p : Partition) : Partition :=
  let status := ((g.cards.filterMap (·.2)).find? (· != 0)).getD 0
  let signal := if status = 0 && g.signal < 4096 then some g.signal else none
  let p := { p with graphs := p.graphs.filter fun x => x.id != g.id }
  if g.queue < 16 then
    { p with due := p.due ++
      [{ queue := g.queue, bits := recordBits g.serial 0 status 0 0, ring := g.ring, core := none, signal := signal }] }
  else match signal with
    | some i => signalCounter i p
    | none => p

/-- R224. -/
def execGraphInstanceComplete (p g : Nat) (s : State) : Host.Outcome State Fault Refusal :=
  .next (match (partOf s.pkg p).graphs.find? fun x => x.id == g with
    | some i => if i.cards.all fun x => x.2.isSome then onPkg (onPart p (completeInstance i)) s else s
    | none => s)

/-! ## The core is freed -/

/-- R221: a core without its task; instruction memory, its tags and the stop record stay. -/
def freeCore (c : Core) : Core :=
  { Core.reset with
      imem := c.imem, imemBad := c.imemBad, overlays := c.overlays, record := c.record, clk := c.clk, mclk := c.mclk
      arrayFree := c.arrayFree, serial := c.serial, credits := c.credits }

/-- R221: whether busy states, results, engine queues and acknowledgements are all over. -/
def coreDrained (k : Package) (n : Nat) (c : Core) : Bool :=
  c.busy.isEmpty && c.macs.isEmpty && c.landings.isEmpty && c.trap.isNone && (outstanding c).isEmpty && c.accesses.isEmpty &&
    !k.writes.any fun w => w.src == n

/-- R221, step 4: the record of a drained core falls due; a card without a queue has none. -/
def beginRecord (n : Nat) (status : BitVec 8) (s : State) : State :=
  match (coreState s n).task with
  | none => s
  | some t =>
    if cardQueue t.card < 16 then
      onPkg (onPart t.part fun p => { p with due := p.due ++ [taskRecord n (coreState s n) t status] })
        (onCoreAt n (fun c => { c with mode := .recording status }) s)
    else onCoreAt n (fun c => { c with mode := .recorded status }) s

/-- R221, steps 5 and 6. -/
def finishRetirement (n : Nat) (status : BitVec 8) (s : State) : State :=
  match (coreState s n).task with
  | none => onCoreAt n freeCore s
  | some t =>
    let signalled := fun (p : Partition) =>
      if status = 0 && cardSignal t.card < 4096 then signalCounter (cardSignal t.card) p else p
    onPkg (onPart t.part fun p => retireReplica t.cardId t.replica status (signalled p)) (onCoreAt n freeCore s)

/-- R221. -/
def execRetirement (n : Nat) (s : State) : Host.Outcome State Fault Refusal :=
  .next (match (coreState s n).mode with
    | .ending status => if coreDrained s.pkg n (coreState s n) then beginRecord n status s else s
    | .recorded status => finishRetirement n status s
    | _ => s)

/-! ## Failing at dispatch -/

/-- R201, R222: one record for each of some replicas of a card, with zero counts and no signal, and their retirement. -/
def failReplicas (id : Nat) (replicas : List Nat) (status : BitVec 8) (p : Partition) : Partition :=
  match cardOf p id with
  | none => p
  | some c =>
    let records := if cardQueue c.words < 16 then
        replicas.map fun r : Nat =>
          ({ queue := cardQueue c.words, bits := recordBits c.serial r status 0 0, ring := c.ring, core := none
             signal := none } : DueRecord)
      else []
    replicas.foldl (fun p r => retireReplica id r status p) { p with due := p.due ++ records }

/-- R201: a waiting card fails with a status. -/
def failCard (w : Waiting) (status : BitVec 8) (p : Partition) : Partition :=
  failReplicas w.card (w.replicas.map (·.1)) status
    { p with waiting := p.waiting.filter fun x => x.stamp != w.stamp }

end Sys2Proof.Machine
end

