-- ==== Sys2Proof/Machine/Decide.lean ====
section
/-!
DEFINITION. The decision of the hive scheduler: the checks at placement (R201, R218, R266), binding (R212), placement in order
(R211), pre-emption (R213, R214, R360), and the start of a task (R30, R212, R223, R420).
-/

namespace Sys2Proof.Machine

/-! ## Live tasks -/

/-- R218: the resumed cards of a partition, whose tasks stay live, as the card's words, its ring and the replicas. -/
def resumedTasks (p : Partition) : List (List XWord × Nat × List Nat) :=
  (p.waiting.filter (·.resumed)).filterMap fun w => (cardOf p w.card).map fun c => (c.words, c.ring, w.replicas.map (·.1))

/-- The tasks of a partition that hold a core. -/
def placedTasks (s : State) (part : Nat) : List Task := (taskCores s part).filterMap (·.2.task)

/-- R218: the groups of a card's slots, each with the rank of a replica. -/
def ranksOf (w : List XWord) (r : Nat) : List (Nat × Nat) :=
  ((List.range 4).filter fun i => cardGroup w i != 0).map fun i => (cardGroup w i, cardRank w i + r)

/-- R218: the ranks that the live tasks of a partition hold. -/
def liveRanks (s : State) (part : Nat) : List (Nat × Nat) :=
  (placedTasks s part).flatMap (fun t => ranksOf t.card t.replica) ++
    (resumedTasks (partOf s.pkg part)).flatMap fun t => t.2.2.flatMap (ranksOf t.1)

/-- R217: entry `g` of a partition's group table. -/
def groupOf (p : Partition) (g : Nat) : Group :=
  match p.groups.find? fun e => e.1 == g with
  | some e => e.2
  | none => { size := 0, gen := 0, arrived := [] }

/-- R201: the 0x1A conditions: a group that is undefined, a rank beyond it, or a rank held twice. -/
def groupFault (s : State) (part : Nat) (c : Card) : Bool :=
  let p := partOf s.pkg part
  let mine := (List.range (cardReplicas c.words)).flatMap (ranksOf c.words)
  mine.any (fun m => (groupOf p m.1).size ≤ m.2) || !mine.Nodup || mine.any (liveRanks s part).contains

/-- R266: whether a card conflicts with a live task of another stream. -/
def raceFault (s : State) (part : Nat) (c : Card) : Bool :=
  let mine := allRegions c.words
  (placedTasks s part).any (fun t => t.ring != c.ring && setsConflict mine (replicaRegions t.card t.replica)) ||
    (resumedTasks (partOf s.pkg part)).any fun t =>
      t.2.1 != c.ring && t.2.2.any fun r => setsConflict mine (replicaRegions t.1 r)

/-! ## Binding -/

/-- R265: the permission that a region's mode allows. -/
def modePermission (m : BitVec 3) : BitVec 2 := if m = modeR || m = modeN then 0 else if m = modeA then 2 else 1

/-- R212, R201: the handles that some regions give, with the TLB entries they need, or the code of the first that cannot be
bound. -/
def bindRegions (k : Package) (part : Nat) : List (Nat × Region) → List TlbEntry →
    Except (BitVec 8) (List (Nat × Handle) × List TlbEntry)
  | [], tlb => .ok ([], tlb)
  | (i, r) :: rest, tlb =>
    if 2 ^ 55 < r.base + r.len then .error codeBounds
    else
      let perm := modePermission r.mode
      let found := walkBinding k part tlb r.base r.len perm
      if found.code ≠ 0 then .error found.code
      else match bindRegions k part rest (tlb ++ newEntries tlb found.entries) with
        | .ok (hs, t) => .ok ((i, bindHandle found.entries r.base r.len perm r.mode) :: hs, t)
        | .error e => .error e

/-- A core with the handles of a binding. -/
def withHandles (b : List (Nat × Handle) × List TlbEntry) (c : Core) : Core :=
  { c with handles := b.1.foldl (fun hs x => vset hs x.1 x.2) c.handles, tlb := b.2 }

/-! ## A core takes a task -/

/-- The task of replica `r` of a card that is dispatched from the entry `w` of a queue. -/
def dispatchedTask (part : Nat) (c : Card) (w : Waiting) (r : Nat) : Task :=
  { card := c.words, replica := r, part := part, serial := c.serial, stamp := w.stamp, origin := w.origin, ring := c.ring
    cardId := c.id }

/-- R30: the state of a core at the start of a task. -/
def taskStartState (k : Package) (t : Task) (core : Core) : Core :=
  let w := t.card
  let x := (List.range 8).foldl (fun x i => vset x (1 + i) (cardArg w (1 + i))) (Vector.replicate 32 0)
  let x := vset x 9 (BitVec.ofNat 64 t.replica)
  let x := vset x 10 (if cardGroup w 0 = 0 then 0 else BitVec.ofNat 64 (cardRank w 0 + t.replica))
  { freeCore core with
      pc := BitVec.ofNat 12 (cardEntry w), x := x, strict := cardStrict w, check := cardCheck w, tes := cardTes w
      srkey := cardKey w, dm := (partOf k t.part).frames, task := some t, mode := .starting }

/-- R365: a task of a ring's stream takes a core. -/
def watchStream (ring : Nat) (p : Partition) : Partition :=
  onRing ring (fun r => { r with counter := max r.counter 1 }) p

/-- R212: the binding of every replica of a card. -/
def bindReplicas (k : Package) (part : Nat) (w : List XWord) :
    List Nat → Except (BitVec 8) (List (List (Nat × Handle) × List TlbEntry))
  | [] => .ok []
  | r :: rest =>
    match bindRegions k part (cardRegions w r) [] with
    | .error e => .error e
    | .ok b => match bindReplicas k part w rest with
      | .error e => .error e
      | .ok bs => .ok (b :: bs)

/-- R211: a card leaves its queue for its cores. -/
def leaveQueue (part : Nat) (c : Card) (w : Waiting) (s : State) : State :=
  onPkg (onPart part fun p => watchStream c.ring
    { p with waiting := p.waiting.filter fun x => x.stamp != w.stamp
             reserved := p.reserved.filter fun r => r.2 != w.stamp }) s

/-- R212: a card that has run nothing is dispatched. -/
def dispatchFresh (part : Nat) (c : Card) (w : Waiting) (bs : List (List (Nat × Handle) × List TlbEntry)) (cores : List Nat)
    (s : State) : State :=
  ((w.replicas.zip cores).zip bs).foldl (fun s x =>
    let t := dispatchedTask part c w x.1.1.1
    onCoreAt x.1.2 (fun core => withHandles x.2 (taskStartState s.pkg t core)) s) (leaveQueue part c w s)

/-- R359: a resumed card is dispatched; its context is restored before its first bundle. The save area stands where the task
left its core. -/
def dispatchResumed (part : Nat) (c : Card) (w : Waiting) (cores : List Nat) (s : State) : State :=
  (w.replicas.zip cores).foldl (fun s x =>
    onCoreAt x.2 (fun core =>
      { freeCore core with task := some (dispatchedTask part c w x.1.1), mode := .restoring }) s) (leaveQueue part c w s)

/-- R201: a card that R211 has given cores is checked and dispatched, or fails. -/
def dispatchCard (part : Nat) (w : Waiting) (cores : List Nat) (s : State) : State :=
  let failed := fun code => onPkg (onPart part (failCard w code)) s
  match cardOf (partOf s.pkg part) w.card with
  | none => s
  | some c =>
    if w.resumed then dispatchResumed part c w cores s
    else if groupFault s part c then failed codeGroup
    else if raceFault s part c then failed codeRace
    else match bindReplicas s.pkg part c.words (w.replicas.map (·.1)) with
      | .error code => failed code
      | .ok bs => dispatchFresh part c w bs cores s

/-! ## Pre-emption -/

/-- R213: a running task that a card may pre-empt: its core, priority and stamp. -/
structure Victim where
  core : Nat
  prio : Nat
  stamp : Nat
deriving DecidableEq, Repr

/-- R213: the eligible victims on some cores. -/
def victimsOn (s : State) (prio : Nat) (cores : List Nat) : List Victim :=
  cores.filterMap fun n =>
    let c := coreState s n
    match c.task with
    | none => none
    | some t =>
      if c.mode = .running && prio < cardPrio t.card && cardDeadline t.card ≠ 0 && c.request.isNone then
        some { core := n, prio := cardPrio t.card, stamp := t.stamp }
      else none

/-- R213: whether one victim is chosen before another. -/
def victimBefore (a b : Victim) : Bool := b.prio < a.prio || (a.prio == b.prio && b.stamp < a.stamp)

/-- A victim put among others in the order of choice. -/
def insertVictim (v : Victim) : List Victim → List Victim
  | [] => [v]
  | x :: rest => if victimBefore v x then v :: x :: rest else x :: insertVictim v rest
def orderVictims (vs : List Victim) : List Victim := vs.foldr insertVictim []

/-- The shortest prefix that satisfies a test. -/
def shortestPrefix (test : List Victim → Bool) (vs : List Victim) : Option (List Victim) :=
  ((List.range (vs.length + 1)).map vs.take).find? test

/-- R213: whether a list of victims in order is chosen before another of equal length. -/
def listBefore : List Victim → List Victim → Bool
  | a :: as, b :: bs => victimBefore a b || (!victimBefore b a && listBefore as bs)
  | _, _ => false

/-- R213: one set of victims in place of another: fewer, or as many and chosen before. -/
def betterVictims (best : Option (List Victim)) (vs : List Victim) : Option (List Victim) :=
  match best with
  | none => some vs
  | some b => if vs.length < b.length || (vs.length == b.length && listBefore vs b) then some vs else some b

/-- R213: the victims of a card from among the eligible ones, with the cores that are free to it. -/
def chooseVictims (k : Package) (part : Nat) (words : List XWord) (w : Waiting) (vs : List Victim) (free : List Nat) :
    Option (List Victim) :=
  if w.resumed then
    let sets := (resumedPlacements k part w).filterMap fun cs =>
      let need := cs.filter fun n => !free.contains n
      if need.all fun n => vs.any (·.core == n) then some (orderVictims (vs.filter fun v => need.contains v.core)) else none
    sets.foldl betterVictims none
  else shortestPrefix (fun us => (placeCard k part words w (us.map (·.core) ++ free)).isSome) (orderVictims vs)

/-- R360: the cores of the running replicas of a task's card. -/
def swarmCores (s : State) (t : Task) : List Nat :=
  ((taskCores s t.part).filter fun c =>
    c.2.mode == .running && (c.2.task.map (·.cardId)) == some t.cardId).map (·.1)

/-- R213, R360: a request is made of a victim and its swarm, unless they have one; it has still to reach them. -/
def makeRequest' (stamp victim : Nat) (s : State) : State :=
  let c := coreState s victim
  match c.task with
  | none => s
  | some t =>
    if c.request.isSome then s
    else
      let r : PreemptRequest :=
        { id := s.pkg.nextId, arrives := s.pkg.cycle, expires := none, stamp := stamp, byDrain := false }
      (swarmCores s t).foldl
        (fun s n => onCoreAt n (fun c => if c.request.isNone then { c with request := some r } else c) s)
        (onPkg (fun k => { k with nextId := k.nextId + 1 }) s)

/-- R213: whether a request that a card has made is still out. -/
def requestOut (s : State) (stamp : Nat) : Bool :=
  (listedCores s).any fun c => (c.2.request.map fun r => r.stamp == stamp && !r.byDrain) == some true

/-- R213: a card that cannot be placed requests pre-emption. -/
def requestVictims (part : Nat) (words : List XWord) (w : Waiting) (free : List Nat) (s : State) : State :=
  if !cardPreempt words || requestOut s w.stamp then s
  else
    let p := partOf s.pkg part
    let vs := victimsOn s (effective p s.pkg.cycle w) (usableCores s.pkg part words w)
    match chooseVictims s.pkg part words w vs free with
    | none => s
    | some us => us.foldl (fun s v => makeRequest' w.stamp v.core s) s

/-! ## The decision -/

/-- R201: every card that has become ready is checked once. -/
def checkReady (part : Nat) (k : Package) : Package :=
  ((partOf k part).waiting.filter fun w => w.readyAt.isSome && !w.resumed && !w.checked).foldl
    (fun k w => match cardOf (partOf k part) w.card with
      | none => k
      | some c =>
        if launchFault k part c w then onPart part (failCard w codeLaunch) k
        else onPart part (fun p => { p with waiting := p.waiting.map fun x =>
          if x.stamp = w.stamp then { x with checked := true } else x }) k) k

/-- R211: the ready cards in order, each given cores, or kept from them; `taken` are the cores that an earlier card that could
not be placed keeps, and `used` those that an earlier card was given. -/
def placeReady (part : Nat) : List Waiting → List Nat → List Nat → State → State
  | [], _, _, s => s
  | w :: rest, taken, used, s =>
    let words := cardWords (partOf s.pkg part) w.card
    let free := (freeCores s part w.stamp).filter fun n => !taken.contains n && !used.contains n
    match placeCard s.pkg part words w free with
    | some cores => placeReady part rest taken (used ++ cores) (dispatchCard part w cores s)
    | none =>
      let mine := usableCores s.pkg part words w
      let s := if mine.any taken.contains then s else requestVictims part words w free s
      placeReady part rest (taken ++ mine) used s

/-- R213: a reservation ends with the card it was made for. -/
def pruneReserved (p : Partition) : Partition :=
  { p with reserved := p.reserved.filter fun r => p.waiting.any fun w => w.stamp == r.2 }

/-- R210, R211: one decision of a partition's scheduler. -/
def decide' (part : Nat) (s : State) : State :=
  let p := partOf s.pkg part
  if !p.en || p.draining || p.stopped then s
  else
    let s := onPkg (onPart part fun p => pruneReserved (refreshReady s (refreshMet p))) s
    let s := onPkg (checkReady part) s
    placeReady part (readyCards (partOf s.pkg part) s.pkg.cycle) [] [] s

/-- R211. -/
def execSchedulerDecision (p : Nat) (s : State) : Host.Outcome State Fault Refusal := .next (decide' p s)

/-! ## Requests -/

/-- R214, R360: a request reaches its task and every running replica of its swarm. -/
def requestArrives (n : Nat) (s : State) : State :=
  let c := coreState s n
  match c.task, c.request with
  | some t, some r =>
    if r.expires.isSome || c.mode ≠ .running then s
    else
      let due := some (s.pkg.cycle + cardDeadline t.card)
      (swarmCores s t).foldl
        (fun s n => onCoreAt n (fun c =>
          if c.request.isNone || (c.request.map (·.id)) == some r.id then { c with request := some { r with expires := due } }
          else c) s) s
  | _, _ => s

/-- R214. -/
def execPreemptionRequestArrival (n : Nat) (s : State) : Host.Outcome State Fault Refusal := .next (requestArrives n s)

/-- R214, R362: a request that its cycle of expiry has passed lapses and is counted. -/
def execRequestLapse (n : Nat) (s : State) : Host.Outcome State Fault Refusal :=
  let c := coreState s n
  .next (match c.request with
    | none => s
    | some r =>
      let giving := match c.mode with | .givingUp _ => true | _ => false
      match r.expires with
      | some e =>
        if e ≤ s.pkg.cycle && !r.byDrain && !giving then
          onPkg (onPart (taskPart c) fun p => { p with pmiss := if p.pmiss = BitVec.allOnes 32 then p.pmiss else p.pmiss + 1 })
            (onCoreAt n (fun c => { c with request := none }) s)
        else s
      | none => s)

/-! ## The first bundle -/

/-- R223: a region of an image in instruction memory, unless the core has it. -/
def placeRegion (image : Image) (part r : Nat) (c : Core) : Core :=
  let tag := vget c.overlays r { valid := false, image := 0, part := 0 }
  if tag.valid && tag.image == image.id && tag.part == part then c
  else
    let mine := image.code.filter fun b => b.1 / 256 == r
    let bare := c.imem.filter fun b => b.1 / 256 != r
    { c with
        imem := mine.foldl (fun l b => setBundle b.1 b.2 l) bare
        imemBad := c.imemBad.filter fun n => n / 256 != r
        overlays := vset c.overlays r { valid := true, image := image.id, part := part } }

/-- R212, R223, R420: the start-resident regions and the data section of a task's image. -/
def loadTask (k : Package) (t : Task) (c : Core) : Core :=
  match (partOf k t.part).images.find? fun i => i.id == cardImage t.card with
  | none => c
  | some i =>
    let c := (i.regions.filter (·.2)).foldl (fun c r => placeRegion i t.part r.1 c) c
    { c with comb := setBytes [] 0 i.data, combBad := [] }

/-- R359: whether the context of every replica that resumes with a task is restored. -/
def swarmRestored (s : State) (t : Task) : Bool :=
  (taskCores s t.part).all fun c =>
    c.2.mode != .restoring || (c.2.task.map fun u => u.cardId == t.cardId && u.stamp == t.stamp) != some true

/-- R212: a dispatched task is ready to issue its first bundle; no frozen cycle comes before it (R428). -/
def startTask (n : Nat) (s : State) : State :=
  let c := coreState s n
  match c.task with
  | none => s
  | some t =>
    if dutyFrozen s.pkg then s
    else match c.mode with
      | .starting => onCoreAt n (fun c => { loadTask s.pkg t c with mode := .running }) s
      | .restored => if swarmRestored s t then onCoreAt n (fun c => { c with mode := .running }) s else s
      | _ => s

/-- R212. -/
def execTaskStart (n : Nat) (s : State) : Host.Outcome State Fault Refusal := .next (startTask n s)

end Sys2Proof.Machine
end

