-- ==== Sys2Proof/Machine/Context.lean ====
section
/-!
DEFINITION. The context save and restore (R216, R325, R356 to R360): the image of a core in its save area, reading and writing
that area, and the resumed card.
-/

namespace Sys2Proof.Machine

/-! ## The save area's bytes -/

/-- Zero bytes. -/
def zeros (n : Nat) : List Byte := List.replicate n 0

/-- R357: the numbers of the system registers in their slots. -/
def savedRegisters : List Nat :=
  (List.range 6).map (· + 0x001) ++ (List.range 6).map (· + 0x020) ++ (List.range 18).map (· + 0x040) ++ [0x060] ++
    (List.range 3).map (· + 0x080) ++ (List.range 4).map (· + 0x0A0)

/-- R357: the slots of the system registers; a compute core has no bindings. -/
def registerSlots (n : Nat) (s : State) : List Byte :=
  savedRegisters.flatMap fun r =>
    if 0xA0 ≤ r && n ≠ queenCore then zeros 8 else toBytes 8 (sysRead { s with before := coreState s n } r).toNat

/-- R357: the valid overlay regions of a task's image. -/
def overlayBits (c : Core) : Nat :=
  ((List.range 16).filter fun r =>
    let t := vget c.overlays r { valid := false, image := 0, part := 0 }
    t.valid && t.image == cardImage (taskCard c) && t.part == taskPart c).foldl (fun m r => m + 2 ^ r) 0

/-- R357: CORE; the queen core has no position, and what it saves there is free (log entry 19). -/
def savedCore (n : Nat) (s : State) : Nat :=
  if n = queenCore then Config.freeValue n s.choice 0 % 2 ^ 16 else coreX n + coreY n * 2 ^ 8

/-- R357: the fixed part. -/
def fixedPart (n : Nat) (mask : BitVec 9) (s : State) : List Byte :=
  let c := coreState s n
  [0x4B, 0x43, 0x58, 0x31] ++ toBytes 2 mask.toNat ++ toBytes 2 (cardImage (taskCard c)).toNat ++
    toBytes 8 (saveBytes c mask) ++ toBytes 2 c.pc.toNat ++ toBytes 2 (c.transfer.count + 4 * c.transfer.taken.toNat) ++
    toBytes 2 c.transfer.target.toNat ++ toBytes 2 (overlayBits c) ++ toBytes 2 (taskReplica c) ++ zeros 6 ++
    toBytes 2 (savedCore n s) ++ zeros 30 ++ registerSlots n s ++ zeros 16

/-- R357: a handle of the sections. -/
def handleBytes (h : Handle) : List Byte :=
  toBytes 8 h.base.toNat ++ toBytes 8 h.len.toNat ++ toBytes 8 (handleItem h 2).toNat ++
    toBytes 8 (h.perm.toNat + h.valid.toNat * 2 ^ 63)

/-- R357: the code of a cell state that can be saved. -/
def cellCode : CellState → Nat
  | .absent => 0
  | .empty => 1
  | .fillingLocal => 2
  | .full => 4
  | _ => 0

/-- R357: a cell descriptor. -/
def cellBytes (x : Cell) : List Byte :=
  if x.state = .absent then zeros 16
  else toBytes 4 x.base ++ toBytes 4 x.size ++ toBytes 1 (cellCode x.state + 8 * x.ckp.toNat) ++ zeros 1 ++
    toBytes 2 x.tag.toNat ++ toBytes 2 x.etag.toNat ++ zeros 2

/-- R357: a section of a save area. -/
def sectionImage (c : Core) (bit : Nat) : List Byte :=
  if bit = 0 then
    (c.x.toList.drop 1).flatMap (fun v => toBytes 8 v.toNat) ++ toBytes 1 (c.p.toNat / 2 * 2) ++ zeros 3 ++
      toBytes 4 (c.xPoison.toNat / 2 * 2)
  else if bit = 1 then
    c.queue.toList.flatMap (fun e => toBytes 8 e.value.toNat) ++
      toBytes 2 (c.queue.toList.zipIdx.foldl (fun m e => m + e.1.poison.toNat * 2 ^ e.2) 0) ++ zeros 62
  else if bit = 2 then
    c.v.toList.flatMap (fun v => toBytes 128 v.toNat) ++ zeros 16 ++
      (c.m.toList.drop 1).flatMap (fun v => toBytes 16 v.toNat) ++ toBytes 8 c.vPoison.toNat ++ zeros 56
  else if bit = 3 then
    c.t.toList.flatMap (fun v => toBytes 4096 v.toNat) ++
      c.latches.toList.flatMap fun l => toBytes 16 l.a.toNat ++ toBytes 8 l.b.toNat
  else if bit = 4 then bankImage (bankOf c 0)
  else if bit = 5 then bankImage (bankOf c 1)
  else if bit = 6 then (c.handles.toList.drop 8).flatMap handleBytes
  else if bit = 7 then
    c.dslots.toList.flatMap (fun t => toBytes 8 (match t with | some t => t.cell + 256 | none => 0)) ++
      c.streams.toList.flatMap (fun st => streamImage st st.pos) ++ zeros 32
  else
    c.cells.toList.flatMap cellBytes ++
      (c.cells.toList.filter fun x => x.state != .absent).flatMap fun x => memBytes c.comb x.base x.size

/-- R357: the bytes of a save. -/
def saveImageOf (n : Nat) (mask : BitVec 9) (s : State) : List Byte :=
  fixedPart n mask s ++ ((List.range 9).filter mask.getLsbD).flatMap (sectionImage (coreState s n))

/-! ## Reaching the area -/

/-- R358: the code that refuses a write of one page of the area, or 0. -/
def pageRefused (k : Package) (part va len : Nat) : BitVec 8 :=
  match walkPage k part (va / 65536) with
  | none => codeTranslation
  | some e =>
    if !e.w then codePermission
    else if (reachPlaces k true (placesOf [{ e with vpn := va / 65536, pages := 1 }] va len)).contains (some .fault) then
      codeAperture
    else 0

/-- The pages that a range of virtual addresses touches, each as its first byte and length within the range. -/
def pagePieces (va len : Nat) : List (Nat × Nat) :=
  if len = 0 then []
  else (List.range (lastPage va len + 1 - firstPage va)).map fun i =>
    let lo := max va ((firstPage va + i) * 65536)
    (lo, min (va + len) ((firstPage va + i + 1) * 65536) - lo)

/-- The places of one page of a range, if its walk succeeds. -/
def piecePlaces (k : Package) (part : Nat) (p : Nat × Nat) : Option (List Place) :=
  (walkPage k part (p.1 / 65536)).map fun e => placesOf [{ e with vpn := p.1 / 65536, pages := 1 }] p.1 p.2

/-- The bytes of one page of a range written; those outside the package go where the model does not follow them. -/
def writePiece (part : Nat) (p : Nat × Nat) (bs : List Byte) (k : Package) : Package :=
  match piecePlaces k part p with
  | none => k
  | some ps => writeBytes hubPlace k (reachHere k true ps) bs false

/-- Bytes written over a range of virtual addresses. -/
def writeRange (part va : Nat) (bs : List Byte) (k : Package) : Package :=
  (pagePieces va bs.length).foldl (fun k p => writePiece part p ((bs.drop (p.1 - va)).take p.2) k) k

/-- R358: the code of the fault that refuses a write of a range, or 0. -/
def rangeRefused (k : Package) (part va len : Nat) : BitVec 8 :=
  if 2 ^ 55 < va + len then codeBounds
  else (((pagePieces va len).map fun p => pageRefused k part p.1 p.2).find? (· != 0)).getD 0

/-- One page of a range read, with its poison; bytes outside the package are free (log entry 20). -/
def readPiece (k : Package) (part draw va : Nat) (p : Nat × Nat) : Except (BitVec 8) (List Byte × Bool) :=
  match piecePlaces k part p with
  | none => .error codeTranslation
  | some ps =>
    let rs := reachPlaces k false ps
    if rs.contains (some .fault) then .error codeAperture
    else .ok (rs.zipIdx.map (fun x => match x.1 with
        | some r => reachedByte k draw (p.1 - va + x.2) r
        | none => BitVec.ofNat 8 (Config.freeValue 5000 draw (p.1 - va + x.2))),
      rs.any fun r => match r with | some r => reachedBad k r | none => false)

/-- R252: whether the copy of a line holds some byte of a range of virtual addresses. -/
def rangeHeld (k : Package) (part : Nat) (write : Bool) (va len : Nat) : Bool :=
  (pagePieces va len).any fun p => match piecePlaces k part p with
    | some ps => (reachHere k write ps).contains .held
    | none => false

/-- A range of virtual addresses read by a hub, with its poison. -/
def readRange (k : Package) (part draw va len : Nat) : Except (BitVec 8) (List Byte × Bool) :=
  if 2 ^ 55 < va + len then .error codeTranslation
  else (pagePieces va len).foldlM (fun (acc : List Byte × Bool) p =>
    match readPiece k part draw va p with
    | .ok r => .ok (acc.1 ++ r.1, acc.2 || r.2)
    | .error e => .error e) ([], false)

/-! ## The save -/

/-- R216, R360: the resumed card of a replica: with the others that answer the same request, or alone. -/
def requeueTask (n : Nat) (t : Task) (request : Option Nat) (cycle : Nat) (p : Partition) : Partition :=
  let mine := fun (w : Waiting) => w.resumed && w.card == t.cardId && w.request == request && request.isSome
  let put := fun (w : Waiting) =>
    { w with replicas := (w.replicas ++ [(t.replica, n)]).mergeSort fun a b => a.1 ≤ b.1 }
  if p.waiting.any mine then { p with waiting := p.waiting.map fun w => if mine w then put w else w }
  else
    { p with
        stamp := p.stamp + 1
        waiting := p.waiting ++
          [{ card := t.cardId, stamp := p.stamp, origin := t.origin, replicas := [(t.replica, n)], resumed := true
             readyAt := if request.isNone then some cycle else none, checked := true, request := request
             postedBy := none }] }

/-- R358: bytes of an area that could not be written whole are undefined up to the page that refused. -/
def spoilRange (part draw va len : Nat) (k : Package) : Package :=
  (pagePieces va (min len (2 ^ 55 - va))).foldl (fun (acc : Bool × Package) p =>
    if acc.1 || pageRefused acc.2 part p.1 p.2 ≠ 0 then (true, acc.2)
    else (false, writePiece part p ((List.range p.2).map fun i => BitVec.ofNat 8 (Config.freeValue 5000 draw (p.1 - va + i)))
      acc.2)) (false, k) |>.2

/-- R358: the context of a drained core is saved, and its task re-enters its queue; or the area refuses the write, and the
task retires. The spec gives no outcome for a SAVEVA that is not 64-byte aligned or a SAVESIZE that is no multiple of 64: they are
used as they stand (log entry 51). -/
def saveContext (n : Nat) (mask : BitVec 9) (s : State) : State :=
  let c := coreState s n
  match c.task with
  | none => s
  | some t =>
    let va := cardSaveVa t.card
    let bytes := saveImageOf n mask s
    let code := rangeRefused s.pkg t.part va bytes.length
    let s := { s with choice := s.choice + 1 }
    if code ≠ 0 then
      onPkg (spoilRange t.part (s.choice - 1) va bytes.length) (onCoreAt n (fun c => { endCore code c with pc := c.pc }) s)
    else
      onPkg (fun k => onPart t.part (requeueTask n t (c.request.map (·.id)) k.cycle) (writeRange t.part va bytes k))
        (onCoreAt n freeCore s)

/-- R252, R358: a core that has drained is saved once no copy of a line holds its area. -/
def execContextSave (n : Nat) (s : State) : Host.Outcome State Fault Refusal :=
  let c := coreState s n
  .next (match c.mode with
    | .givingUp mask =>
      if coreDrained s.pkg n c && !rangeHeld s.pkg (taskPart c) true (cardSaveVa (taskCard c)) (saveBytes c mask) then
        saveContext n mask s
      else s
    | _ => s)

/-! ## The restore -/

/-- R359, step 2: the saved handles that are bound again; one that cannot be is left invalid. -/
def rebindHandles (k : Package) (part : Nat) (bs : List Byte) (c : Core) : Core :=
  (List.range 8).foldl (fun c i =>
    let f := fun (o : Nat) => bytesField bs (32 * i + o) 8
    let va := f 0 % 2 ^ 55
    let len := f 8 % 2 ^ 48
    let perm := BitVec.ofNat 2 (f 24)
    if !natBit (f 24) 63 || len = 0 || 2 ^ 55 < va + len then c
    else
      let found := walkBinding k part c.tlb va len perm
      if found.code ≠ 0 then c
      else { c with
        handles := vset c.handles (8 + i) (bindHandle found.entries va len perm (BitVec.ofNat 3 (f 16 / 2 ^ 6)))
        tlb := c.tlb ++ newEntries c.tlb found.entries }) c

/-- R359, step 4: a section below the handles restored. -/
def restoreSection (bs : List Byte) (bit : Nat) (c : Core) : Core :=
  let f := bytesField bs
  if bit = 0 then
    { c with
        x := Vector.ofFn fun (i : Fin 32) => if i.val = 0 then 0 else BitVec.ofNat 64 (f (8 * (i.val - 1)) 8)
        p := BitVec.ofNat 8 (f 248 1 / 2 * 2 + 1), xPoison := BitVec.ofNat 32 (f 252 4 / 2 * 2) }
  else if bit = 1 then
    { c with
        queue := Vector.ofFn fun (i : Fin 16) =>
          { value := BitVec.ofNat 64 (f (8 * i.val) 8), poison := natBit (f 128 2) i.val, awaits := none } }
  else if bit = 2 then
    { c with
        v := Vector.ofFn fun (i : Fin 64) => BitVec.ofNat 1024 (f (128 * i.val) 128)
        m := Vector.ofFn fun (i : Fin 8) =>
          if i.val = 0 then BitVec.allOnes 128 else BitVec.ofNat 128 (f (8192 + 16 * i.val) 16)
        vPoison := BitVec.ofNat 64 (f 8320 8) }
  else if bit = 3 then
    { c with
        t := Vector.ofFn fun (i : Fin 16) => BitVec.ofNat 32768 (f (4096 * i.val) 4096)
        latches := Vector.ofFn fun (i : Fin 32) =>
          { a := BitVec.ofNat 128 (f (65536 + 24 * i.val) 16), b := BitVec.ofNat 64 (f (65552 + 24 * i.val) 8) } }
  else if bit = 4 then { c with banks := vset c.banks 0 (bankOfImage (bankOf c 0) bs) }
  else if bit = 5 then { c with banks := vset c.banks 1 (bankOfImage (bankOf c 1) bs) }
  else c

/-- R357: the system registers restored; a compute core ignores the bindings. -/
def restoreRegisters (n : Nat) (bs : List Byte) (c : Core) : Core :=
  savedRegisters.zipIdx.foldl (fun c r =>
    let v := BitVec.ofNat 64 (bytesField bs (64 + 8 * r.2) 8)
    if 0xA0 ≤ r.1 && n ≠ queenCore then c
    else if r.1 = 0x02 then { c with cyc := v }
    else if r.1 = 0x03 then { c with frz := v }
    else sysWrite r.1 v c) c

/-- R357: the cell that a descriptor gives. -/
def descriptorCell (bs : List Byte) (i : Nat) : Cell :=
  let f := fun (o n : Nat) => bytesField bs (16 * i + o) n
  let code := f 8 1 % 8
  if code ≠ 1 && code ≠ 2 && code ≠ 4 then Cell.reset
  else
    { Cell.reset with
        base := f 0 4 % 2 ^ 18, size := f 4 4 % 2 ^ 19, tag := BitVec.ofNat 16 (f 10 2), etag := BitVec.ofNat 16 (f 12 2)
        state := if code = 1 then .empty else if code = 2 then .fillingLocal else .full
        ckp := natBit (f 8 1) 3 }

/-- R359, step 5: the saved cells at their places, each with its bytes. -/
def restoreCells (bs : List Byte) (c : Core) : Core :=
  let cells := (List.range 64).map (descriptorCell bs)
  let placed := cells.foldl (fun (acc : Nat × Core) x =>
    if x.state = .absent then acc
    else (acc.1 + x.size, { acc.2 with comb := setBytes acc.2.comb x.base ((bs.drop acc.1).take x.size) })) (1024, c)
  { placed.2 with cells := Vector.ofFn fun (i : Fin 64) => cells.getD i.val Cell.reset }

/-- R325: a slot whose tables cell was saved, loaded again. -/
def restoreTable (bs : List Byte) (c : Core) (i : Nat) : Option DecTable :=
  let w := bytesField bs (8 * i) 8
  if natBit w 8 && (cellOf c (w % 64)).state != .absent then
    (match readTables c (w % 64) with | .ok t => some t | .error _ => none)
  else none

/-- R325, R359, step 6: the decoder. No tables cell was saved where the cells were not. A stream on an empty slot resumes closed,
and so does one whose image fails its checks (log entry 21). -/
def restoreDecoder (cellsSaved : Bool) (bs : List Byte) (c : Core) : Core :=
  let c := { c with dslots := Vector.ofFn fun (i : Fin 4) => if cellsSaved then restoreTable bs c i.val else none }
  { c with streams := Vector.ofFn fun (i : Fin 2) =>
      let image := (bs.drop (32 + 160 * i.val)).take 160
      let new := imageStream Stream.reset image
      match imageCheck c new image with
      | .ok _ => { new with work := 0 }
      | .error _ => { new with work := 0, isOpen := false } }

/-- R359, steps 2 to 6, from the bytes of the area. -/
def restoreCore (k : Package) (n : Nat) (t : Task) (bs : List Byte) (c : Core) : Core :=
  let mask := bytesField bs 4 2
  let size := fun (bit : Nat) (at' : Nat) =>
    if bit = 8 then
      1024 + (((List.range 64).map (descriptorCell (bs.drop at'))).filter fun x => x.state != .absent).foldl
        (fun n x => n + x.size) 0
    else sectionBytes c bit
  let sections := (((List.range 9).filter (natBit mask)).foldl (fun (acc : Nat × List (Nat × List Byte)) bit =>
    (acc.1 + size bit acc.1, acc.2 ++ [(bit, (bs.drop acc.1).take (size bit acc.1))])) (384, [])).2
  let bytesOf := fun (bit : Nat) => (sections.find? fun x => x.1 == bit).map (·.2)
  let c := match bytesOf 6 with | some b => rebindHandles k t.part b c | none => c
  let c := match (partOf k t.part).images.find? fun i => i.id == cardImage t.card with
    | some i => ((List.range 16).filter (natBit (bytesField bs 22 2))).foldl (fun c r => placeRegion i t.part r c) c
    | none => c
  let c := sections.foldl (fun c x => restoreSection x.2 x.1 c) c
  let c := restoreRegisters n bs c
  let pt := bytesField bs 18 2
  let c := { c with
    pc := BitVec.ofNat 12 (bytesField bs 16 2)
    transfer := { count := pt % 4, taken := natBit pt 2, target := BitVec.ofNat 12 (bytesField bs 20 2) } }
  let c := match bytesOf 8 with | some b => restoreCells b c | none => c
  match bytesOf 7 with | some b => restoreDecoder (bytesOf 8).isSome b c | none => c

/-- R359: comb bytes that no saved cell holds are undefined. -/
def spoilComb (n draw : Nat) (c : Core) : Core :=
  { c with comb := setBytes [] 0 ((List.range 262144).map fun i => BitVec.ofNat 8 (Config.freeValue n draw i)) }

/-- R359: a resumed card fails: every core it was given is freed. -/
def failResumed (t : Task) (code : BitVec 8) (s : State) : State :=
  let mates := (taskCores s t.part).filter fun c =>
    (c.2.task.map fun u => u.cardId == t.cardId && u.stamp == t.stamp) == some true
  let replicas := mates.filterMap fun c => c.2.task.map (·.replica)
  onPkg (onPart t.part (failReplicas t.cardId replicas code)) (mates.foldl (fun s c => onCoreAt c.1 freeCore s) s)

/-- R359: the area is read, as far as SIZE says. -/
def readArea (s : State) (t : Task) : Except (BitVec 8) (List Byte) :=
  let va := cardSaveVa t.card
  match readRange s.pkg t.part s.choice va 384 with
  | .error e => .error e
  | .ok head =>
    match readRange s.pkg t.part s.choice va (max 384 (min (bytesField head.1 8 8) (cardSaveSize t.card))) with
    | .error e => .error e
    | .ok all => if head.2 || all.2 then .error codePoison else .ok all.1

/-- R359: the context of a resumed task; a copy of a line that holds its area delays it (R252). -/
def restoreContext (n : Nat) (t : Task) (s : State) : State :=
  if rangeHeld s.pkg t.part false (cardSaveVa t.card) (cardSaveSize t.card) then s else
  match bindRegions s.pkg t.part (cardRegions t.card t.replica) [] with
  | .error code => failResumed t code s
  | .ok b =>
    match readArea s t with
    | .error code => failResumed t code s
    | .ok bs =>
      onCoreAt n (fun core =>
        let c := spoilComb n s.choice (withHandles b (taskStartState s.pkg t core))
        { restoreCore s.pkg n t bs c with mode := .restored, request := core.request })
        { s with choice := s.choice + 1 }

/-- R359. -/
def execContextRestore (n : Nat) (s : State) : Host.Outcome State Fault Refusal :=
  let c := coreState s n
  .next (match c.mode, c.task with
    | .restoring, some t => restoreContext n t s
    | _, _ => s)

end Sys2Proof.Machine
end

