-- ==== Sys2Proof/Machine/Rings.lean ====
section
/-!
DEFINITION. Submission rings (R206 to R208, R224), completion queues (R208), event counters (R205, R413), and groups with
their barriers (R217, R219).
-/

namespace Sys2Proof.Machine

/-! ## Fetching from a ring -/

/-- The words of a card in 256 bytes. -/
def wordsOf (bs : List Byte) : List XWord := (List.range 32).map fun i => BitVec.ofNat 64 (bytesField bs (8 * i) 8)

/-- R224: whether every field of a graph descriptor that it does not use is zero, and those it uses are valid. -/
def descriptorValid (p : Partition) (w : List XWord) : Bool :=
  let used := [0, 4, 6, 7]
  (List.range 32).all (fun i => used.contains i || cardWord w i == 0) &&
    !outsideFields (cardWord w 0) [(0, 16), (32, 4)] && !outsideFields (cardWord w 4) [(0, 24)] &&
    (cardArg w 1).toNat % 256 = 0 && (cardArg w 1).toNat < 2 ^ 55 && 1 ≤ (cardArg w 2).toNat &&
    (cardArg w 2).toNat ≤ 4096 && (cardSignal w < 4096 || cardSignal w == 0xFFFF) &&
    (cardQueue w == 0xFF || (cardQueue w < 16 && (queueOf p (cardQueue w)).en))

/-- R224: the cards that the launch buffer holds. -/
def launchCount (p : Partition) : Nat :=
  (p.waiting.filter fun w => !w.resumed && match w.origin with | .launch _ => true | _ => false).length

/-- R206: the read index moves on. -/
def advanceRing (part k : Nat) : Package → Package := onPart part (onRing k fun r => { r with r := r.r + 1 })

/-- R202: a card joins its stream behind every other. -/
def atEnd (c : Card) (cs : List Card) : List Card := cs ++ [c]

/-- R224: an instance of a graph: its cards join the ring's stream in array order. Its descriptor takes a submission stamp ahead
of theirs, a choice of the model (log entry 63). -/
def launchGraph (part ring : Nat) (w : List XWord) (cards : List (List XWord)) (k : Package) : Package :=
  let g := k.nextId
  let serial := (partOf k part).stamp
  let k := onPart part (fun p => { p with stamp := p.stamp + 1 }) { k with nextId := g + 1 }
  let ids := (List.range cards.length).map (k.nextId + ·)
  let k := cards.foldl (fun k c => acceptCard part c ring (.launch ring) none none (some g) atEnd k) k
  onPart part (fun p => { p with graphs := p.graphs ++
    [{ id := g, cards := ids.map fun i => (i, none), queue := cardQueue w, signal := cardSignal w, ring := ring
       serial := serial }] }) k

/-- R206, R224: what the hub does with the card it has read: an ordinary card enters the partition queue, a descriptor the
launch buffer; a descriptor that is not valid enters as a card, and fails there (log entry 22). -/
def takeCard (part ring : Nat) (w : List XWord) (s : State) : State :=
  let p := partOf s.pkg part
  if cardImage w = 0xFFFF && descriptorValid p w then
    let n := (cardArg w 2).toNat
    if 16384 < launchCount p + n || rangeHeld s.pkg part false (cardArg w 1).toNat (256 * n) then s
    else match readRange s.pkg part s.choice (cardArg w 1).toNat (256 * n) with
      | .error _ => s
      | .ok bs =>
        if bs.2 then { s with choice := s.choice + 1 } else
        onPkg (fun k => advanceRing part ring
          (launchGraph part ring w ((List.range n).map fun i => wordsOf ((bs.1.drop (256 * i)).take 256)) k))
          { s with choice := s.choice + 1 }
  else onPkg (fun k => advanceRing part ring (acceptCard part w ring (.ring ring) none none none atEnd k)) s

/-- R206: the hub fetches the card at the read index. One that it cannot read, or that it reads with poison, it does not fetch
(log entry 23). -/
def fetchCard (part ring : Nat) (s : State) : State :=
  let p := partOf s.pkg part
  let r := ringOf p ring
  let va := r.base.toNat + r.r.toNat % 2 ^ r.log2n * 256
  if !p.en || p.draining || p.stopped || !r.en || r.overrun || r.w = r.r || queueFull p (.ring ring) ||
      rangeHeld s.pkg part false va 256 then s
  else
    match readRange s.pkg part s.choice va 256 with
    | .error _ => s
    | .ok bs =>
      let s := { s with choice := s.choice + 1 }
      if bs.2 then s else takeCard part ring (wordsOf bs.1) s

/-- R206. -/
def execRingFetch (p k : Nat) (s : State) : Host.Outcome State Fault Refusal := .next (fetchCard p k s)

/-! ## Doorbells and registers -/

/-- R207: whether a new write index declares OVERRUN. -/
def lapsed (r : Ring) (w : BitVec 32) : Bool := 2 ^ r.log2n < (w - r.r).toNat || 2 ^ 31 < (w - r.w).toNat

/-- R207. -/
def execDoorbell (p k : Nat) (v : BitVec 32) (s : State) : Host.Outcome State Fault Refusal :=
  let r := ringOf (partOf s.pkg p) k
  .next (
    if v = r.w || 8 ≤ k then s
    else if lapsed r v then
      onPkg (fun g => raiseVector p (16 + k) (onPart p (onRing k fun r => { r with w := v, overrun := true }) g)) s
    else onPkg (onPart p (onRing k fun r => { r with w := v })) s)

/-- R208. -/
def execRingReset (p k : Nat) (v : BitVec 32) (s : State) : Host.Outcome State Fault Refusal :=
  .next (onPkg (onPart p (onRing k fun r => { r with w := v, r := v, overrun := false })) s)

/-- R208: a LOG2N outside 4 to 16 keeps the previous value. -/
def writeLog2n (old : Nat) (v : BitVec 64) : Nat :=
  let n := (v.extractLsb' 0 5).toNat
  if 4 ≤ n && n ≤ 16 then n else old

/-- R208: a write of CQCFG; a queue that would leave the partition's ranges is not enabled. -/
def writeCqcfg (k : Package) (part : Nat) (v : BitVec 64) (q : CompQueue) : CompQueue :=
  let n := writeLog2n q.log2n v
  let fits := inTier k q.base.toNat (16 * 2 ^ n) && inPartition (partOf k part) q.base.toNat (16 * 2 ^ n)
  { q with log2n := n, en := v.getLsbD 8 && fits }

/-- R208. -/
def execCqcfgWrite (p q : Nat) (v : BitVec 64) (s : State) : Host.Outcome State Fault Refusal :=
  .next (onPkg (fun k => onPart p (onQueue q (writeCqcfg k p v)) k) s)

/-- R413. -/
def execEventCounterWrite (p i : Nat) (v : BitVec 64) (s : State) : Host.Outcome State Fault Refusal :=
  .next (if i < 4096 then onPkg (onPart p (writeCounter i v)) s else s)

/-! ## Groups -/

/-- R217: a group table entry stored, in no order. -/
def putGroup (g : Nat) (x : Group) (p : Partition) : Partition :=
  { p with groups := (p.groups.filter fun e => e.1 != g) ++ [(g, x)] }

/-- R217. -/
def execGrpWrite (p g : Nat) (v : BitVec 64) (s : State) : Host.Outcome State Fault Refusal :=
  let size := (v.extractLsb' 0 13).toNat
  .next (
    if g = 0 || 256 ≤ g || 4096 < size || (liveRanks s p).any (fun m => m.1 == g) then s
    else onPkg (onPart p fun q => putGroup g { groupOf q g with size := size } q) s)

/-- R219, R261: every access of an arriving core is performed, in its order. -/
def performAll (n : Nat) (s : State) : State :=
  (coreState s n).accesses.foldl (fun s a => match accessOf (coreState s n) a.id with
    | none => s
    | some a =>
      if a.performed || !mayPerform s.pkg (coreState s n) a then s
      else if a.within != 0 then performForAll n a.id s
      else match a.kind with
        | .amo _ _ _ _ _ _ => performAtomic n a s
        | _ => performRest n a s) s

/-- R219: an arrival is recorded, and the group releases when its members have arrived; `releasing` holds the core, the group and
the cycle of each release on its way. -/
def recordArrival (core g : Nat) (k : Package) (p : Partition) : Partition :=
  let x := groupOf p g
  let arrived := x.arrived ++ [core]
  if arrived.length < x.size then putGroup g { x with arrived := arrived } p
  else
    let p := putGroup g { x with gen := x.gen + 1, arrived := [] } p
    { p with releasing := p.releasing ++ arrived.map fun n => (n, g, k.cycle + barrierLatency n) }

/-- R219, R261: arrival `i` of those on the tree reaches the hub; the accesses it orders have been performed. -/
def execBarrierArrival (p i : Nat) (s : State) : Host.Outcome State Fault Refusal :=
  .next (match (partOf s.pkg p).arriving[i]? with
    | none => s
    | some (n, g, due) =>
      if s.pkg.cycle < due then s
      else
        let s := performAll n s
        if (coreState s n).accesses.any fun a => !a.performed then s
        else onPkg (fun k => onPart p (fun q => recordArrival n g k { q with arriving := q.arriving.eraseIdx i }) k) s)

/-- R219: the releases that reach core `n` in a cycle, by their groups, end its freezes for those groups. -/
def execReleaseArrival (n : Nat) (s : State) : Host.Outcome State Fault Refusal :=
  let part := taskPart (coreState s n)
  let isMine := fun (r : Nat × Nat × Nat) => r.1 == n && r.2.2 ≤ s.pkg.cycle
  let groups := ((partOf s.pkg part).releasing.filter isMine).map (·.2.1)
  .next (
    if groups.isEmpty then s
    else
      onCoreAt n (fun c => { c with hold := c.hold.filter fun h => !groups.any fun g => h == .barrier g })
        (onPkg (onPart part fun p => { p with releasing := p.releasing.filter fun r => !isMine r }) s))

end Sys2Proof.Machine
end

