-- ==== Sys2Proof/Machine/Watchdog.lean ====
section
/-!
DEFINITION. The ring watchdog (R364 to R367): expiry, the drain of a partition, force-stops, and the reset of the partition.
-/

namespace Sys2Proof.Machine

/-! ## Expiry -/

/-- R365: the counters of a partition's watchdogs in a new cycle. -/
def countWatchdogs (s : State) (part : Nat) (p : Partition) : Partition :=
  let streams := (placedTasks s part).map (·.ring)
  { p with rings := Vector.ofFn fun (i : Fin 8) =>
      let r := ringOf p i.val
      { r with counter := if streams.contains i.val then r.counter + 1 else 0 } }

/-- R365, R366: the watchdog of ring `k` expires, and its partition begins to drain. -/
def execWatchdogExpiry (p k : Nat) (s : State) : Host.Outcome State Fault Refusal :=
  let q := partOf s.pkg p
  let r := ringOf q k
  .next (
    if r.limit = 0 || r.counter < r.limit.toNat || q.draining || q.stopped then s
    else onPkg (onPart p fun q =>
      { q with draining := true, wdRing := k
               drain := some { expiry := s.pkg.cycle, last := none, forced := false, settled := none } }) s)

/-! ## The sweep -/

/-- R366, step 2: every task that holds a core receives a request that expires at G; those of one card give up together. One that
gives up its core already has answered what it answered (R360). -/
def sweepCores (part g : Nat) (s : State) : State :=
  (taskCores s part).foldl (fun s x => onCoreAt x.1 (fun c =>
    if c.mode.isGivingUp then c else
    { c with request := some { id := s.pkg.nextId + (c.task.map (·.cardId)).getD 0, arrives := s.pkg.cycle, expires := some g
                               stamp := 0, byDrain := true } }) s) s

/-- R366, step 2: the sweep fixes G. -/
def beginSweep (part : Nat) (d : Drain) (s : State) : State :=
  let g := s.pkg.cycle + ((placedTasks s part).map fun t => cardDeadline t.card).foldl max 0
  let top := ((placedTasks s part).map (·.cardId)).foldl max 0
  onPkg (fun k => onPart part (fun p => { p with drain := some { d with last := some g } })
    { k with nextId := k.nextId + top + 1 }) (sweepCores part g s)

/-! ## Force-stops -/

/-- R367: the stop record of a force-stop. -/
def forcedRecord (c : Core) : StopRecord :=
  { StopRecord.reset with
      valid := true, code := codeWatchdog, serial := BitVec.ofNat 24 ((c.task.map (·.serial)).getD 0)
      replica := BitVec.ofNat 12 (taskReplica c), image := cardImage (taskCard c), cyc := c.cyc, frz := c.frz }

/-- R367: a counter of WDSTAT counts one more; its field holds 16 bits. -/
def countOne (n : BitVec 16) : BitVec 16 := if n = 0xFFFF then n else n + 1

/-- R367: the completion record of a force-stop is written at once, discarded where EN is 0, or lost where there is no room. -/
def forcedCompletion (n : Nat) (c : Core) (t : Task) (k : Package) : Package :=
  let d := taskRecord n c t codeWatchdog
  let q := queueOf (partOf k t.part) d.queue
  if 16 ≤ d.queue then k
  else if !q.en then dropRecord t.part d.queue k
  else if queueRoom q then resetWatchdog t.part t.ring (writeRecord t.part d.queue d.bits k)
  else onPart t.part (fun p => { p with wdLost := countOne p.wdLost }) k

/-- R366, R367: the task on core `n` is force-stopped: it issues nothing, sends nothing more, and has its records. A record of
its own that was still due goes. -/
def forceStop (n : Nat) (s : State) : State :=
  let c := coreState s n
  match c.task with
  | none => s
  | some t =>
    let s := onCoreAt n (fun c => { c with mode := .forced, request := none, stop := none, hold := [], record := forcedRecord c }) s
    onPkg (fun k => forcedCompletion n c t (onPart t.part (fun p =>
      { p with wdForced := countOne p.wdForced, due := p.due.filter fun d => d.core != some n }) k)) s

/-- What a core was about before a stop that is not held for the host. -/
def standing (c : Core) : Mode :=
  match c.mode with
  | .stopping => c.halted
  | .stopped false => c.halted
  | m => m

/-- R366, step 4: the tasks that neither give up their core nor retire, an automatic stop apart. -/
def staysOn (c : Core) : Bool :=
  match standing c with
  | .givingUp _ => false
  | .ending _ => false
  | .recording _ => false
  | .recorded _ => false
  | .forced => false
  | _ => true

/-- R366, step 4. -/
def forceRemaining (part : Nat) (s : State) : State :=
  ((taskCores s part).filter fun x => staysOn x.2).foldl (fun s x => forceStop x.1 s) s

/-- R308, R366: whether a command waits for an answer from this package. -/
def waitsHere (m : Command) : Bool :=
  match m.kind with
  | .osend => false
  | .c2r => false
  | _ => (unanswered m).any fun q =>
    allHere (placesOf m.runs q.va q.len) && (m.kind != .g2g || allHere (placesOf m.runs q.lo q.len))

/-- R366, step 5: whether the traffic of a force-stopped core has settled; what it asked of the world outside this package
may have been discarded there, and is then never answered (R240, R388). -/
def settledHere (n : Nat) (c : Core) (k : Package) : Bool :=
  !(outstanding c).any waitsHere && c.accesses.all (fun a => !allHere a.places) && !k.writes.any (fun w => w.src == n) &&
    c.landings.all fun l => l.awaits.isSome || l.stepped

/-- R366, step 5: whether the traffic of the force-stopped cores has settled. Whether what is unanswered from outside was
discarded there is drawn (log entry 24). -/
def forcedSettled (part : Nat) (s : State) : Bool :=
  let forced := (taskCores s part).filter fun x => x.2.mode == .forced
  forced.all fun x =>
    coreSettled s.pkg x.1 x.2 || (settledHere x.1 x.2 s.pkg && Config.proceeds s.choice)

/-- R366, step 5: a save or a retirement still unfinished is force-stopped too; a save area is undefined then. -/
def forceUnfinished (part : Nat) (s : State) : State :=
  ((taskCores s part).filter fun x => x.2.mode != .forced).foldl (fun s x =>
    match standing x.2, x.2.task with
    | .recorded status, _ => finishRetirement x.1 status s
    | .givingUp mask, some t =>
      onPkg (spoilRange t.part s.choice (cardSaveVa t.card) (saveBytes x.2 mask))
        (forceStop x.1 { s with choice := s.choice + 1 })
    | _, _ => forceStop x.1 s) s

/-- R366, steps 4 and 5, in a cycle after G. -/
def forceStep (part : Nat) (d : Drain) (s : State) : State :=
  let s := if d.forced then s else forceRemaining part s
  let s := { s with choice := s.choice + 1 }
  if d.settled.isNone && forcedSettled part s then
    onPkg (onPart part fun p => { p with drain := some { d with forced := true, settled := some s.pkg.cycle } })
      (forceUnfinished part s)
  else onPkg (onPart part fun p => { p with drain := some { d with forced := true } }) s

/-- R366. -/
def execDrainDeadline (p : Nat) (s : State) : Host.Outcome State Fault Refusal :=
  .next (match (partOf s.pkg p).drain with
    | none => s
    | some d =>
      match d.last with
      | none => if d.expiry < s.pkg.cycle then beginSweep p d s else s
      | some g => if g < s.pkg.cycle then forceStep p d s else s)

/-! ## The reset -/

/-- R366, step 6: a force-stopped core is freed, and its task retires with status 0x18. -/
def resetCore (n : Nat) (s : State) : State :=
  let c := coreState s n
  let s := onPkg (fun k => (outstanding c).foldl (fun k m => leaveFrames n m.serial k) k) s
  match c.task with
  | none => onCoreAt n freeCore s
  | some t => onPkg (onPart t.part (retireReplica t.cardId t.replica codeWatchdog)) (onCoreAt n freeCore s)

/-- R366, step 6: the partition alone is reset, and its fault interrupt raised. -/
def resetPartition (part : Nat) (s : State) : State :=
  let cores := (taskCores s part).map (·.1)
  let s := cores.foldl (fun s n => resetCore n s) s
  onPkg (fun k => raiseVector part 24 (onPart part (fun p =>
    { p with
        groups := p.groups.map fun g => (g.1, { g.2 with arrived := [] })
        arriving := [], releasing := [], rings := p.rings.map fun r => { r with counter := 0 }
        draining := false, stopped := true, drain := none })
    { k with writes := k.writes.filter fun w => !cores.contains w.dst || !w.state.notDone })) s

/-- R366. -/
def execPartitionReset (p : Nat) (s : State) : Host.Outcome State Fault Refusal :=
  .next (match (partOf s.pkg p).drain.bind (·.settled) with
    | some c => if c < s.pkg.cycle then resetPartition p s else s
    | none => s)

/-- R364. -/
def execWdclrGo (p : Nat) (s : State) : Host.Outcome State Fault Refusal :=
  .next (if (partOf s.pkg p).stopped then
    onPkg (onPart p fun q => { q with stopped := false, wdForced := 0, wdLost := 0 }) s else s)

end Sys2Proof.Machine
end

