-- ==== Sys2Proof/Machine/Partitions.lean ====
section
/-!
DEFINITION. What the physical function sets up: partitions (R362, R423), apertures (R246), frame repair maps (R375, R376), and
the queen core's owner (R381).
-/

namespace Sys2Proof.Machine

/-! ## Partitions -/

/-- R362: whether a partition has a live task, or a card in a queue. -/
def partitionBusy (s : State) (n : Nat) : Bool := !(taskCores s n).isEmpty || !(partOf s.pkg n).waiting.isEmpty

/-- R362: whether the frames and ports of partition `n` overlap those of another enabled partition. -/
def sharesFrames (k : Package) (n : Nat) (frames ports : BitVec 16) : Bool :=
  (List.range 16).any fun m =>
    m != n && (partOf k m).en && ((partOf k m).frames &&& frames != 0 || (partOf k m).ports &&& ports != 0)

/-- R362: whether an enabled range of partition `n` overlaps one of another partition. -/
def sharesRanges (k : Package) (n : Nat) : Bool :=
  (List.range 16).any fun m =>
    m != n && (partRanges (partOf k m)).any fun a => (partRanges (partOf k n)).any fun b => meets a.1 a.2 b.1 b.2

/-- R423: memory under another key than it was written under: it is undefined until it is written. -/
def rekeyMemory (rs : List (Nat × Nat)) (draw : Nat) (k : Package) : Package :=
  let mine := fun (a : Nat) => rs.any fun r => r.1 ≤ a && a < r.1 + r.2
  { k with
      mem := k.mem.filter fun e => !mine e.1
      memBad := k.memBad.filter fun w => !mine (8 * w)
      undef := rs.map (fun r => (r.1, r.2, draw)) ++ rs.foldl (fun u r => u.flatMap (cutRange r.1 r.2)) k.undef
      writers := k.writers.filter fun e => !mine (8 * e.1) }

/-- Some ranges less some others. -/
def rangesLess (rs others : List (Nat × Nat)) : List (Nat × Nat) :=
  (others.foldl (fun u r => u.flatMap (cutRange r.1 r.2)) (rs.map fun r => (r.1, r.2, 0))).map fun r => (r.1, r.2.1)

/-- R423: the ranges that use the key of a partition. -/
def keyedRanges (p : Partition) : List (Nat × Nat) := if p.en then partRanges p else []

/-- R423: the registers of partition `n` have changed: what is now under another key, the firmware's or a partition's, is
undefined; under a fresh key, all of its ranges are (log entry 53). -/
def chooseKeys (n draw : Nat) (old new : Package) : Package :=
  let before := keyedRanges (partOf old n)
  let after := keyedRanges (partOf new n)
  let fresh := (partOf old n).keys != (partOf new n).keys
  rekeyMemory (rangesLess before after ++ (if fresh then rangesLess after [] else rangesLess after before)) draw new

/-- R205, R394, R423: what the enabling of a partition creates: a fresh key, counters and source sequence at zero, and no
stream with a past (log entry 18). -/
def createPartition (n : Nat) (k : Package) : Package :=
  onPart n (fun p =>
    { p with keys := p.keys + 1, counters := [], seq := 0, cards := p.cards.filter fun c => c.left != 0 }) k

/-- R2, R362: whether an enabled range of partition `n` lies in no tier, or not in one alone. -/
def outsideTiers (k : Package) (n : Nat) : Bool := (partRanges (partOf k n)).any fun r => !inTier k r.1 r.2

/-- R423: a change of the registers of partition `n` with what it does to memory. -/
def changeRanges (n : Nat) (new : Package) (s : State) : State :=
  { s with pkg := chooseKeys n s.choice s.pkg new, choice := s.choice + 1 }

/-- R362: a write of PCFG. -/
def writePcfg (n : Nat) (v : BitVec 64) (s : State) : State :=
  let p := partOf s.pkg n
  let frames := v.extractLsb' 0 16
  let ports := v.extractLsb' 16 16
  if 16 ≤ n || p.locked || (partitionBusy s n && (frames != p.frames || ports != p.ports)) then s
  else
    let en := v.getLsbD 32 && !sharesFrames s.pkg n frames ports && !sharesRanges s.pkg n
    let new := onPart n (fun p => { p with frames := frames, ports := ports, en := en }) s.pkg
    changeRanges n (if en && !p.en then createPartition n new else new) s

/-- R362. -/
def execPcfgWrite (n : Nat) (v : BitVec 64) (s : State) : Host.Outcome State Fault Refusal := .next (writePcfg n v s)

/-- R362: the fields of PMEM. -/
def pmemBits (v : BitVec 64) : BitVec 64 := v &&& 0x000FFFFFFFFF0001
/-- R362: the field of PLIM. -/
def plimBits (v : BitVec 64) : BitVec 64 := v &&& 0x000FFFFFFFFF0000

/-- R2, R362: a write of PMEM; a range that would overlap another partition's, or that lies in no tier, is not enabled. -/
def writePmem (n j : Nat) (v : BitVec 64) (s : State) : State :=
  let p := partOf s.pkg n
  let v := pmemBits v
  if 16 ≤ n || p.locked || (partitionBusy s n && v != vget p.pmem j 0) then s
  else
    let put := fun (x : BitVec 64) => onPart n (fun p => { p with pmem := vset p.pmem j x }) s.pkg
    changeRanges n (if sharesRanges (put v) n || outsideTiers (put v) n then put (v &&& ~~~1) else put v) s

/-- R362. -/
def execPmemWrite (n k : Nat) (v : BitVec 64) (s : State) : Host.Outcome State Fault Refusal := .next (writePmem n k v s)

/-- R2, R362: a write of PLIM; one that would create an overlap, or a range in no tier, is ignored whole. -/
def writePlim (n j : Nat) (v : BitVec 64) (s : State) : State :=
  let p := partOf s.pkg n
  let v := plimBits v
  if 16 ≤ n || p.locked || (partitionBusy s n && v != vget p.plim j 0) then s
  else
    let new := onPart n (fun p => { p with plim := vset p.plim j v }) s.pkg
    if sharesRanges new n || outsideTiers new n then s else changeRanges n new s

/-- R362. -/
def execPlimWrite (n k : Nat) (v : BitVec 64) (s : State) : Host.Outcome State Fault Refusal := .next (writePlim n k v s)

/-- R423: a TDISP message moves the TDI of a virtual function into LOCKED or RUN, or out of them. -/
def execTdispRequest (n : Nat) (locked : Bool) (s : State) : Host.Outcome State Fault Refusal :=
  .next (if 1 ≤ n && n < 16 then onPkg (onPart n fun p => { p with locked := locked }) s else s)

/-! ## Apertures -/

/-- Aperture `n`. -/
def apertureOf (k : Package) (n : Nat) : Aperture := vget k.apertures n { cfg := 0, back := 0, p0 := 0, p1 := 0 }
def onAperture (n : Nat) (f : Aperture → Aperture) (k : Package) : Package :=
  { k with apertures := vset k.apertures n (f (apertureOf k n)) }

/-- R423: whether the backing of an aperture lies in the ranges of a partition whose TDI is locked. -/
def apertureLocked (k : Package) (n : Nat) : Bool :=
  let a := apertureOf k n
  k.parts.toList.any fun p => p.locked && (partRanges p).any fun r => meets a.backing a.size r.1 r.2

/-- R2, R246: whether a window overlaps an enabled one, or leaves the aperture range, or has its backing in no memory tier. -/
def windowRefused (k : Package) (n : Nat) (a : Aperture) : Bool :=
  0x90000000000 < a.window + a.size || !(inHbm a.backing || inSuper k a.backing) ||
    k.apertures.toList.zipIdx.any fun x => x.2 != n && x.1.en && meets x.1.window x.1.size a.window a.size

/-- R246: a write of APCFG. -/
def writeApcfg (n : Nat) (v : BitVec 64) (k : Package) : Package :=
  let a := { apertureOf k n with cfg := v &&& 0xFFFFFFFFFFFF0007 }
  if apertureLocked k n then k
  else onAperture n (fun _ => if a.en && windowRefused k n a then { a with cfg := a.cfg &&& ~~~1 } else a) k

/-- R246. -/
def execApcfgWrite (n : Nat) (v : BitVec 64) (s : State) : Host.Outcome State Fault Refusal := .next (onPkg (writeApcfg n v) s)

/-! ## Frames and the queen core -/

/-- R375: a column field above 16 keeps its previous value. -/
def writeColumns (old v : BitVec 64) : BitVec 64 :=
  BitVec.ofNat 64 ((List.range 8).foldl (fun w c =>
    let f := (v.extractLsb' (5 * c) 5).toNat
    w + (if f ≤ 16 then f else (old.extractLsb' (5 * c) 5).toNat) * 2 ^ (5 * c)) 0)

/-- R376: the written maps of a frame take effect. -/
def applyMaps (f : Frame) : Frame := { f with mapA := f.frepa, mapB := f.frepb }

/-- R376: a GO write has effect only while the frame belongs to no enabled partition. -/
def execFrapplyGo (f : Nat) (s : State) : Host.Outcome State Fault Refusal :=
  .next (if (List.range 16).any fun n => frameIn s.pkg n f then s else onPkg (onFrame f applyMaps) s)

/-- R376: the physical row of logical row `y` of column `c` of a frame. -/
def physicalRow (f : Frame) (c y : Nat) : Nat :=
  let n := ((if c < 8 then f.mapA else f.mapB).extractLsb' (5 * (c % 8)) 5).toNat
  if n = 0 || y < n - 1 then y else y + 1

/-- R375: bit `c` of ACTIVE: a repair is in effect in column `c`. -/
def activeColumns (f : Frame) : Nat :=
  ((List.range 16).filter fun c => ((if c < 8 then f.mapA else f.mapB).extractLsb' (5 * (c % 8)) 5) != 0).foldl
    (fun m c => m + 2 ^ c) 0

/-- R381: whether a package task is live: on the queen core, or resumed. -/
def packageTaskLive (s : State) : Bool :=
  (coreState s queenCore).task.isSome ||
    s.pkg.parts.toList.any fun p => (resumedTasks p).any fun t => cardPackage t.1

/-- R381. -/
def execQownWrite (v : BitVec 64) (s : State) : Host.Outcome State Fault Refusal :=
  .next (if packageTaskLive s then s else onPkg (fun k => { k with qown := v.extractLsb' 0 5 }) s)

end Sys2Proof.Machine
end

