-- ==== Sys2Proof/Machine/Pod.lean ====
section
/-!
DEFINITION. Pod links and pod time (R386 to R391), forwarding (R388, R400), and requests from other packages (R240, R388).
-/

namespace Sys2Proof.Machine

/-- R390, R396, R398: the pod interrupt of a partition. -/
def podInterrupt (part : Nat) (k : Package) : Package := raiseVector part 25 k

/-! ## Pod time -/

/-- R390, R429: the ticks of the reference in one package cycle, the servo apart: about one at 1.0 GHz, one or two at the slower
clocks (log entry 25). -/
def ticksOf (k : Package) (cycle : Nat) : Nat :=
  let draw := Config.freeValue 5001 cycle 0
  if k.clksel = 0 then draw % 3 else 1 + draw % 2

/-- R390: whether the servo may correct pod time: at most once in a microsecond. -/
def servoFree (k : Package) : Bool := 1000 ≤ (k.time - BitVec.ofNat 48 k.servoAt).toNat

/-- R390: pod time moves on: by the ticks of the cycle, and by one more or one less where the servo corrects it. -/
def passTime (k : Package) : Package :=
  let n := ticksOf k (k.cycle + 1)
  let move := fun (n : Nat) (k : Package) => { k with time := k.time + BitVec.ofNat 48 n }
  let k := { k with cycle := k.cycle + 1 }
  match k.servo with
  | some ahead =>
    if servoFree k && (ahead || n != 0) then { move (if ahead then n + 1 else n - 1) k with servo := none, servoAt := k.time.toNat }
    else move n k
  | none => move n k

/-- R390: a port trains: pod time steps forward to the neighbour's where it is more than 4 ticks behind, and the port is up. -/
def trainPort (n : Nat) (t : BitVec 48) (lanes : BitVec 4) (k : Package) : Package :=
  if 16 ≤ n || !(portOf k n).en || (portOf k n).up then k
  else
    let time := if k.time.toNat + 4 < t.toNat then t else k.time
    onPort n (fun p => { p with up := true, lanes := lanes, offsets := 0 }) { k with time := time }

/-- R390. -/
def execPortTraining (k : Nat) (t : BitVec 48) (lanes : BitVec 4) (s : State) : Host.Outcome State Fault Refusal :=
  .next (onPkg (trainPort k t lanes) s)

/-- R389: a port that has lost its link has no active lane. -/
def execPodPortLinkLoss (k : Nat) (s : State) : Host.Outcome State Fault Refusal :=
  .next (if k < 16 then onPkg (onPort k fun p => { p with up := false, lanes := 0 }) s else s)

/-- R390: an exchange: the servo is to speed pod time towards a neighbour ahead, or to slow it towards one behind, and the
sixteenth offset beyond 4 ticks in a row is an error. -/
def exchangeTime (n : Nat) (t : BitVec 48) (k : Package) : Package :=
  let p := portOf k n
  if 16 ≤ n || !p.en || !p.up then k
  else
    let far := 4 < ((t.toNat : Int) - k.time.toNat).natAbs
    let count := if far then p.offsets + 1 else 0
    let k := { k with servo := if t = k.time then none else some (k.time < t) }
    if count < 16 then onPort n (fun p => { p with offsets := count }) k
    else
      let k := onPort n (fun p => { p with offsets := 0, terr := true }) k
      match portOwner k n with
      | some part => podInterrupt part k
      | none => k

/-- R390. -/
def execTimeExchange (k : Nat) (t : BitVec 48) (s : State) : Host.Outcome State Fault Refusal :=
  .next (onPkg (exchangeTime k t) s)

/-- R389: a write of PPCTL: EN changes at once, WAG at the port's next watermark. -/
def execPpctlWrite (k : Nat) (v : BitVec 64) (s : State) : Host.Outcome State Fault Refusal :=
  .next (if k < 16 then onPkg (onPort k fun p => { p with en := v.getLsbD 0, wagReg := v.getLsbD 1 }) s else s)

/-- R389, R396: WAG takes effect at a watermark of its port, sent or received (log entry 65); a port that leaves the waggle class
has no watermark any more, and joins again at its first. -/
def takeWag (n : Nat) : Package → Package :=
  onPort n fun p => { p with wag := p.wagReg, joined := p.joined && p.wagReg }

/-! ## Requests from other packages -/

/-- R387: the bytes that a remote request touches. -/
def remoteLength : RemoteKind → Nat
  | .read n => n
  | .write bs _ => bs.length
  | .amo _ size _ _ _ _ _ => size

/-- R252: the lines being copied, copied: what a request that was held on one of them finds. -/
def finishCopies (k : Package) : Package := (List.range 16).foldl (fun k n => copyLine n k) k

/-- What a range of local addresses reaches, once no copy holds it. -/
def reachRange (k : Package) (write : Bool) (pa n : Nat) : Package × List Reached :=
  let at' := fun (k : Package) => (List.range n).map fun i => reach k write (pa + i)
  if (at' k).contains .held then
    let k := finishCopies k
    if (at' k).contains .held then (finishCopies k, at' (finishCopies k)) else (k, at' k)
  else (k, at' k)

/-- R226, R249, R271, R277: what a request finds and does at its controller, with the answer that it is sent; a poisoned write
marks what it writes, and an aperture fault is reported. -/
def serveRequest (pa draw : Nat) (kind : RemoteKind) (k : Package) : Package × Reply :=
  let write := match kind with | .read _ => false | _ => true
  let r := reachRange k write pa (remoteLength kind)
  let k := r.1
  let old := r.2.zipIdx.map fun x => reachedByte k draw x.2 x.1
  let bad := (r.2.zipIdx.filter fun x => reachedBad k x.1).map (·.2)
  if r.2.contains .fault then (k, { bytes := [], bad := [], fault := true })
  else match kind with
    | .read _ => (k, { bytes := old, bad := bad, fault := false })
    | .write bs marks =>
      (writeMarked outsidePlace k r.2 bs ((List.range bs.length).map marks.contains), { bytes := [], bad := [], fault := false })
    | .amo op size b c key step va =>
      let new := toBytes size (amoNew (amoOpOf op) (8 * size) va (ofBytes old) b c key step)
      (if bad.isEmpty then writeBytes outsidePlace k r.2 new false else k, { bytes := old, bad := bad, fault := false })

/-- R240: whether a request for this node lies in a tier and in the partition's ranges. -/
def requestFits (k : Package) (part pa len : Nat) : Bool := inTier k pa len && inPartition (partOf k part) pa len

/-- R240, R388: a request for this node is performed and answered, or discarded. -/
def serveRemote (n part src id pa draw : Nat) (kind : RemoteKind) (k : Package) : Package :=
  if !requestFits k part pa (remoteLength kind) then countDiscard n k
  else
    let r := serveRequest pa draw kind k
    sendFlit part src (.answer id r.2) r.1

/-- R388, R400, R406: a bulk flit comes to a port. One of another partition is discarded; one for another node goes on; for this
node, a request is performed and an item joins those of the switches. An answer, a contribution and an acknowledgement reach
what awaits them as an instruction of their own. -/
def receiveFlit (n draw : Nat) (f : Flit) (k : Package) : Package :=
  match carrying k n with
  | none => k
  | some part =>
    if f.part ≠ part then countDiscard n k
    else if f.dest ≠ k.pnode.toNat then
      match onwardPort k part f.dest f.hops false with
      | none => countDiscard n k
      | some out => onPort out (fun p => { p with flits := p.flits ++ [{ f with hops := f.hops + 1 }] }) k
    else match f.body with
      | .request src id pa kind => serveRemote n part src id pa draw kind k
      | .item i => { k with items := k.items ++ [(i, [])] }
      | _ => k

/-- R388. -/
def execFlitForward (k : Nat) (f : Flit) (s : State) : Host.Outcome State Fault Refusal :=
  .next (onPkg (receiveFlit k s.choice f) { s with choice := s.choice + 1 })

/-- R387: the flit of a request. -/
def requestFlit (q : RemoteRequest) : Flit :=
  { dest := q.dest, part := q.part, hops := q.hops, body := .request q.src q.id q.pa q.kind }

/-- R240, R388. -/
def execRemoteRequestArrival (k : Nat) (q : RemoteRequest) (s : State) : Host.Outcome State Fault Refusal :=
  .next (onPkg (receiveFlit k s.choice (requestFlit q)) { s with choice := s.choice + 1 })

end Sys2Proof.Machine
end

