-- ==== Sys2Proof/Machine/Waggle.lean ====
section
/-!
DEFINITION. The waggle class (R393 to R399): the injector, watermarks, the receiver, delivery into the mailbox, and stalls.
-/

namespace Sys2Proof.Machine

/-! ## Suspension -/

/-- R398: WSTAT takes a cause and a port, and the interrupt is raised. -/
def recordStall (part port cause : Nat) (k : Package) : Package :=
  podInterrupt part (onPart part (fun p =>
    { p with stalled := true, stallPort := port, stallCause := cause, stallCode := codeWatermark }) k)

/-- R398: delivery is suspended; what is suspended already keeps its cause. -/
def suspend (part port cause : Nat) (k : Package) : Package :=
  if (partOf k part).stalled then k else recordStall part port cause k

/-- R398: the number that stands for the mailbox in WSTAT. -/
def mailboxPort : Nat := 16

/-- R398: a GO write resumes delivery, unless a regression's port is still in the waggle class. -/
def execWclrGo (p : Nat) (s : State) : Host.Outcome State Fault Refusal :=
  let q := partOf s.pkg p
  .next (if q.stalled && !(q.stallCause == 1 && (portOf s.pkg q.stallPort).wagReg) then
    onPkg (onPart p fun q => { q with stalled := false }) s else s)

/-! ## Watermarks -/

/-- R395: the injector term of a partition. -/
def injectorTerm (k : Package) (part : Nat) : Nat :=
  let t := k.time.toNat
  if (partOf k part).accepted + 1000 ≤ t then t - k.ptbound.toNat else t

/-- R395, R396: the waggle-enabled ports of a partition that have joined. -/
def waggleInputs (k : Package) (part : Nat) : List Nat :=
  (List.range 16).filter fun n =>
    (partOf k part).ports.getLsbD n && (portOf k n).en && (portOf k n).wag && (portOf k n).joined

/-- R395, R432: the inputs of a partition that route to a port, by the topology (log entry 64). -/
def routedInputs (k : Package) (part n : Nat) : List Nat := (waggleInputs k part).filter fun i => (portOf k n).feeds.getLsbD i

/-- R395: the watermark of a port. -/
def watermarkValue (k : Package) (part n : Nat) : Nat :=
  ((portOf k n).queue.map (·.stamp) ++ (routedInputs k part n).map fun i => (portOf k i).received).foldl min (injectorTerm k part)

/-- R395: a port sends its queued packets, and its watermark behind them. -/
def sendWatermark (part n : Nat) (k : Package) : Package :=
  let t := k.time.toNat
  let v := watermarkValue k part n
  onPort n (fun p =>
    { p with sent := max p.sent v, sentAt := t, queue := [], carried := if p.queue.isEmpty then p.carried else t }) k

/-- R389, R395: a port of the waggle class sends, and then a write of WAG takes effect. -/
def execWatermarkSend (k : Nat) (s : State) : Host.Outcome State Fault Refusal :=
  .next (match carrying s.pkg k with
    | none => s
    | some part => onPkg (fun g => takeWag k (if (portOf g k).wag then sendWatermark part k g else g)) s)

/-- R396, R398: a regression on a port: its port and cause are recorded whatever delivery waits for already. -/
def regression (part n : Nat) (k : Package) : Package := recordStall part n 1 (onPort n (fun p => { p with regr := true }) k)

/-- R389, R396: a watermark is received, and a write of WAG takes effect at it; a port joins at its first. -/
def receiveWatermark (n v : Nat) (k : Package) : Package :=
  match carrying k n with
  | none => k
  | some part =>
    let k := takeWag n k
    let p := portOf k n
    if !p.wag then k
    else if p.joined && v < p.received then regression part n k
    else onPort n (fun p =>
      { p with received := v, joined := true, rose := if p.joined && v = p.received then p.rose else k.time.toNat }) k

/-- R396. -/
def execWatermarkReceive (k v : Nat) (s : State) : Host.Outcome State Fault Refusal := .next (onPkg (receiveWatermark k v) s)

/-! ## Packets -/

/-- R397: whether the hold buffer is full, or the share of an input in it. -/
def shareFull (p : Partition) (port : Nat) : Bool :=
  256 ≤ p.held.length || 16 ≤ (p.held.filter fun h => h.port == port).length

/-- R397: a packet is held. -/
def holdPacket (part port : Nat) (sender : Option (Nat × Nat × Nat)) (w : Packet) (k : Package) : Package :=
  onPart part (fun p => { p with held := p.held ++ [{ port := port, since := k.time.toNat, sender := sender, packet := w }] }) k

/-- R388: a packet for another node is queued for the port towards it. -/
def queuePacket (out : Nat) (w : Packet) : Package → Package := onPort out fun p => { p with queue := p.queue ++ [w] }

/-- R388, R396, R397: a packet arrives on a port: it is discarded, forwarded or held, and checked. An input whose share is
full takes none. -/
def receivePacket (n : Nat) (w : Packet) (k : Package) : Package :=
  match carrying k n with
  | none => k
  | some part =>
    let p := portOf k n
    if w.part ≠ part then countDiscard n k
    else if !p.wag then k
    else
      let check := fun (k : Package) => if p.joined && w.stamp < p.received then regression part n k else k
      if w.dest = k.pnode.toNat then
        (if shareFull (partOf k part) n then k else check (holdPacket part n none w k))
      else match onwardPort k part w.dest w.hops true with
        | none => countDiscard n k
        | some out => check (queuePacket out { w with hops := w.hops + 1 } k)

/-- R396. -/
def execWagglePacketArrival (k : Nat) (w : Packet) (s : State) : Host.Outcome State Fault Refusal :=
  .next (onPkg (receivePacket k w) s)

/-! ## The injector -/

/-- R394: the packet that the injector makes of an `osend` for a node; the queen core has no position (log entry 19). -/
def injectedPacket (k : Package) (part : Nat) (o : Outgoing) (node : Nat) : Packet :=
  let free := Config.freeValue 5000 k.cycle
  { stamp := k.time.toNat, node := k.pnode.toNat, seq := (partOf k part).seq.toNat, part := part, dest := node, user := o.user
    x := if o.core = queenCore then free 0 % 64 else coreX o.core, y := if o.core = queenCore then free 1 % 64 else coreY o.core
    payload := o.payload, bad := o.bad, hops := 0 }

/-- R394: one copy goes to its node. -/
def sendCopy (part : Nat) (o : Outgoing) (node : Nat) (k : Package) : Package :=
  let w := injectedPacket k part o node
  if node = k.pnode.toNat then holdPacket part mailboxPort (some (o.core, o.engine, o.serial)) w k
  else match onwardPort k part node 0 true with
    | none => k
    | some out => queuePacket out w k

/-- R394: the injector accepts the packet that came first, unless its own receiver has no room for the copy. -/
def injectPacket (part : Nat) (k : Package) : Package :=
  let p := partOf k part
  match p.outgoing with
  | [] => k
  | o :: rest =>
    if o.dests.contains k.pnode.toNat && shareFull p mailboxPort then k
    else
      let k := o.dests.foldl (fun k n => sendCopy part o n k) k
      onPart part (fun p => { p with outgoing := rest, seq := p.seq + 1, accepted := k.time.toNat }) k

/-- R394. -/
def execInjectorAccept (p : Nat) (s : State) : Host.Outcome State Fault Refusal := .next (onPkg (injectPacket p) s)

/-! ## Delivery -/

/-- R394: the order of keys. -/
def keyBefore (a b : Packet) : Bool :=
  a.stamp < b.stamp || (a.stamp == b.stamp && (a.node < b.node || (a.node == b.node && a.seq < b.seq)))

/-- R397: the held packet with the smallest key. -/
def firstHeld (p : Partition) : Option Held :=
  p.held.foldl (fun best h => match best with
    | none => some h
    | some b => if keyBefore h.packet b.packet then some h else some b) none

/-- R397: whether every input's watermark lies above a stamp. -/
def watermarksAbove (k : Package) (part stamp : Nat) : Bool :=
  stamp < injectorTerm k part && (waggleInputs k part).all fun n => stamp < (portOf k n).received

/-- R393: the mailbox ring and the word of the read index, each as its first byte and length. -/
def mailboxRing (p : Partition) : Nat × Nat := (p.mbbase.toNat, 64 * 2 ^ p.mbLog2n)

/-- R399: what the word of the read index reaches. -/
def indexSpot (k : Package) (part : Nat) : List Reached :=
  (List.range 8).map fun i => reach k false ((partOf k part).mbrptr.toNat + i)

/-- R399: the read index, if its word can be read. -/
def readIndex (k : Package) (part draw : Nat) : Option (BitVec 32) :=
  let p := partOf k part
  let pa := p.mbrptr.toNat
  let r := indexSpot k part
  if !inPartition p pa 8 || !inTier k pa 8 || r.contains .fault || r.any (reachedBad k) then none
  else some (BitVec.ofNat 32 (ofBytes (r.zipIdx.map fun x => reachedByte k draw x.2 x.1)))

/-- R399: the slots of a record, and whether the mailbox has room for it. -/
def recordSlots (w : Packet) : Nat := 1 + w.payload.length / 64
def mailboxRoom (p : Partition) (ridx : BitVec 32) (w : Packet) : Bool :=
  (p.mbw + BitVec.ofNat 32 (recordSlots w) - ridx).toNat ≤ 2 ^ p.mbLog2n

/-- R252, R397, R398: delivery of the held packet with the smallest key begins, once its stamp is passed and there is room; a copy
that holds the read index delays it. -/
def beginDelivery (part draw : Nat) (k : Package) : Package :=
  let p := partOf k part
  if p.stalled || p.delivering.isSome then k
  else match firstHeld p with
    | none => k
    | some h =>
      if !watermarksAbove k part h.packet.stamp || (indexSpot k part).contains .held then k
      else match readIndex k part draw with
        | none => suspend part mailboxPort 3 k
        | some ridx =>
          if mailboxRoom p ridx h.packet then
            onPart part (fun p => { p with held := p.held.erase h, delivering := some h, roomSince := none }) k
          else onPart part (fun p => { p with roomSince := some (p.roomSince.getD k.time.toNat) }) k

/-- R397. -/
def execWaggleDelivery (p : Nat) (s : State) : Host.Outcome State Fault Refusal :=
  .next (onPkg (beginDelivery p s.choice) { s with choice := s.choice + 1 })

/-- R399: the header of a record. -/
def recordHeader (p : Partition) (w : Packet) : List Byte :=
  toBytes 6 w.stamp ++ toBytes 1 w.node ++ toBytes 1 0 ++ toBytes 4 w.seq ++ toBytes 2 w.payload.length ++ toBytes 2 0 ++
    toBytes 8 w.user.toNat ++ toBytes 4 (w.x + w.y * 2 ^ 8) ++ toBytes 4 0 ++ toBytes 8 p.didx.toNat ++ toBytes 24 0

/-- R399: the places of a record, slot by slot, and whether they are in the partition's ranges. -/
def recordPlaces (p : Partition) (w : Packet) : List Nat :=
  (List.range (recordSlots w)).flatMap fun i =>
    (List.range 64).map fun j => p.mbbase.toNat + (p.mbw.toNat + i) % 2 ^ p.mbLog2n * 64 + j

/-- R399: the record of the packet in delivery is written; then WIDX moves on, SIG counts, and the copy is acknowledged. -/
def completeDelivery (part : Nat) (s : State) : State :=
  let p := partOf s.pkg part
  match p.delivering with
  | none => s
  | some h =>
    let w := h.packet
    let places := recordPlaces p w
    let rs := places.map (reach s.pkg true)
    if p.stalled || rs.contains .held then s
    else if !(places.all fun a => inPartition p a 1 && inTier s.pkg a 1) || rs.contains .fault then
      onPkg (suspend part mailboxPort 3) s
    else
      let bytes := recordHeader p w ++ w.payload
      let bad := List.replicate 64 false ++ (List.range w.payload.length).map w.bad.contains
      let s := onPkg (fun k => raiseVector part 26 (onPart part (fun p =>
        { p with mbw := p.mbw + BitVec.ofNat 32 (recordSlots w), didx := p.didx + 1, delivering := none })
        (writeMarked hubPlace k rs bytes bad))) s
      let s := onPkg (onPart part (signalCounter p.mbSig.toNat)) s
      match h.sender with
      | none => onPkg (sendFlit part w.node (.delivered w.seq)) s
      | some (core, _, serial) => onCoreAt core (ackCopy s.pkg.pnode.toNat serial) s

/-- R399. -/
def execMailboxRecordComplete (p : Nat) (s : State) : Host.Outcome State Fault Refusal := .next (completeDelivery p s)

/-! ## Stalls -/

/-- R398: an input whose watermark has not risen for LIMIT ticks while a held packet waits for it. -/
def lateInput (k : Package) (part : Nat) : Option Nat :=
  let p := partOf k part
  (waggleInputs k part).find? fun n =>
    let q := portOf k n
    p.held.any fun h => q.received ≤ h.packet.stamp && max q.rose h.since + p.ordstall.toNat ≤ k.time.toNat

/-- R398: a wait beyond LIMIT suspends delivery. -/
def checkStall (part : Nat) (k : Package) : Package :=
  let p := partOf k part
  if p.stalled then k
  else match lateInput k part with
    | some n => suspend part n 0 k
    | none =>
      match p.roomSince with
      | some t => if t + p.ordstall.toNat ≤ k.time.toNat then suspend part mailboxPort 2 k else k
      | none => k

/-- R398. -/
def execDeliveryStall (p : Nat) (s : State) : Host.Outcome State Fault Refusal := .next (onPkg (checkStall p) s)

/-! ## The mailbox registers -/

/-- R393: whether the mailbox ring of a partition lies in its enabled ranges. -/
def mailboxFits (k : Package) (p : Partition) : Bool :=
  inPartition p (mailboxRing p).1 (mailboxRing p).2 && inTier k (mailboxRing p).1 (mailboxRing p).2

/-- R393. -/
def execMbbaseWrite (p : Nat) (v : BitVec 64) (s : State) : Host.Outcome State Fault Refusal :=
  .next (onPkg (fun k =>
    let new := { partOf k p with mbbase := v &&& 0x000FFFFFFFFFFFC0 }
    if mailboxFits k new then onPart p (fun _ => new) k else k) s)

/-- R393: a write of MBCFG; a LOG2N outside 6 to 24 keeps the old one. -/
def execMbcfgWrite (p : Nat) (v : BitVec 64) (s : State) : Host.Outcome State Fault Refusal :=
  .next (onPkg (fun k =>
    let q := partOf k p
    let n := (v.extractLsb' 0 5).toNat
    let new := { q with mbLog2n := if 6 ≤ n && n ≤ 24 then n else q.mbLog2n, mbSig := v.extractLsb' 16 16 }
    if mailboxFits k new then onPart p (fun _ => new) k else k) s)

/-- R393. -/
def execMbrptrWrite (p : Nat) (v : BitVec 64) (s : State) : Host.Outcome State Fault Refusal :=
  .next (onPkg (fun k =>
    let pa := v &&& 0x000FFFFFFFFFFFF8
    if inPartition (partOf k p) pa.toNat 8 && inTier k pa.toNat 8 then onPart p (fun q => { q with mbrptr := pa }) k else k) s)

end Sys2Proof.Machine
end

