-- ==== Sys2Proof/Machine/Service.lean ====
section
/-!
DEFINITION. Repair (R426), package reset (R376), boot, recovery and attestation (R421 to R424), the errors that the device meets
(R226, R425, R427), power, clock and temperature (R428 to R431), and the host's accesses through BAR4 (R409).
-/

namespace Sys2Proof.Machine

/-! ## Repair -/

/-- R426: whether an entry of a log names a fault that a repair of this kind mends. -/
def entryMatches (kind : Nat) (target : BitVec 56) (e : LogEntry) : Bool :=
  let kinds : List (BitVec 8) := match kind with
    | 1 => [3, 4]
    | 2 => [3, 4]
    | 3 => [8]
    | 4 => [9]
    | _ => [5, 6]
  kinds.contains e.kind && e.addr.setWidth 56 == target

/-- R426: the entries that the package log and the partition logs still hold. -/
def logEntries (k : Package) : List LogEntry := k.log.entries ++ k.parts.toList.flatMap fun p => p.log.entries

/-- R426: how many repairs of a kind have been accepted. -/
def repairCount (k : Package) (kind : Nat) : Nat := ((k.repaired ++ k.deferred).filter fun r => r.kind == kind).length

/-- R426: the error of a repair, 0 if it passes every check. -/
def repairError (k : Package) (kind : Nat) (later : Bool) (target : BitVec 56) : BitVec 8 :=
  if !later && k.parts.toList.any (·.en) then 1
  else if !(logEntries k).any (entryMatches kind target) then 2
  else if !Config.spareLeft kind target.toNat (repairCount k kind) then 3
  else 0

/-- R426: a write of REPCMD. A repair that runs at once is BUSY until it is done. -/
def startRepair (kind : Nat) (v : BitVec 64) (k : Package) : Package :=
  let later := v.getLsbD 4
  let r : Repair := { kind := kind, target := v.extractLsb' 8 56 }
  let err := repairError k kind later r.target
  if k.repBusy then k
  else if err ≠ 0 then { k with repErr := err }
  else if later then { k with repErr := 0, deferred := k.deferred ++ [r] }
  else { k with repErr := 0, repBusy := true, repaired := k.repaired ++ [r] }

/-- R426: a repair comes to its end in a cycle that is drawn. -/
def finishRepair (draw : Nat) (k : Package) : Package := if Config.proceeds draw then { k with repBusy := false } else k

/-- R426. -/
def execHbmRowRepair (v : BitVec 64) (s : State) : Host.Outcome State Fault Refusal := .next (onPkg (startRepair 1 v) s)
/-- R426. -/
def execHbmBankRepair (v : BitVec 64) (s : State) : Host.Outcome State Fault Refusal := .next (onPkg (startRepair 2 v) s)
/-- R377, R426. -/
def execUcieLaneRepair (v : BitVec 64) (s : State) : Host.Outcome State Fault Refusal := .next (onPkg (startRepair 3 v) s)
/-- R386, R426. -/
def execPodLaneRepair (v : BitVec 64) (s : State) : Host.Outcome State Fault Refusal := .next (onPkg (startRepair 4 v) s)
/-- R426. -/
def execSuperTierRemap (v : BitVec 64) (s : State) : Host.Outcome State Fault Refusal := .next (onPkg (startRepair 5 v) s)

/-! ## Reset, power and boot -/

/-- What neither a reset nor a loss of power changes: the flash, the memory fitted, the topology, the errors to come, and what was
already sent. -/
def freshPackage (k : Package) : Package :=
  { Package.reset with
      powered := false, booted := false, flash := k.flash, supcap := k.supcap, raised := k.raised, reports := k.reports
      completions := k.completions, nextId := k.nextId, upsets := k.upsets
      ports := k.ports.map fun p => { Port.reset with feeds := p.feeds } }

/-- Every core as power-on leaves it, and nothing in issue. -/
def clearCores (s : State) : State :=
  { s with core := Core.reset, before := Core.reset, here := 0, issue := Issue.reset, cores := [], agenda := [] }

/-- R376, R426: a frame after a package reset: its written maps are in effect. -/
def resetFrame (f : Frame) : Frame := applyMaps { Frame.reset with frepa := f.frepa, frepb := f.frepb, failcol := f.failcol }

/-- R376, R426: a package reset applies the written repair maps and the deferred repairs; memory keeps its contents (log
entry 27). The package then boots. -/
def resetPackage (k : Package) : Package :=
  { freshPackage k with
      powered := k.powered, frames := k.frames.map resetFrame, repaired := k.repaired ++ k.deferred, mem := k.mem
      memBad := k.memBad, undef := k.undef, writers := k.writers, tmax := k.tmax, trip := k.trip }

/-- R376. -/
def execPackageReset (s : State) : Host.Outcome State Fault Refusal :=
  .next (if s.pkg.powered then onPkg resetPackage (clearCores s) else s)

/-- R431: power goes, and with it every register, counter, log, key and memory content. -/
def losePower (s : State) : State := onPkg freshPackage (clearCores s)

/-- R431. -/
def execPowerLoss (s : State) : Host.Outcome State Fault Refusal := .next (losePower s)

/-- R430: once THERMTRIP is out, the board or the module removes power. -/
def execThermalTrip (s : State) : Host.Outcome State Fault Refusal := .next (if s.pkg.trip then losePower s else s)

/-- R425: an entry for each failed column that self-test finds; how ADDR packs core coordinates the spec does not say (log entry
17). -/
def logSelfTest (failed : List (BitVec 16)) (k : Package) : Package :=
  (List.range 16).foldl (fun k f => ((List.range 16).filter (failed.getD f 0).getLsbD).foldl (fun k c =>
    logError none 12 (BitVec.ofNat 8 f) (BitVec.ofNat 64 (Config.freeValue 5007 f c)) k) k) k

/-- R2, R421: what the boot leaves: measurement registers extended, pod time seeded, self-test results, and the super tier
that is fitted; or recovery mode. The topology and the errors to come are the world's (log entry 64). -/
def bootPackage (b : BootInput) (k : Package) : Package :=
  if b.signaturesOk then
    logSelfTest b.failed { k with
        powered := true, booted := true, measurements := (b.measurements ++ List.replicate 16 0).take 16, time := b.ptm
        supcap := min 1536 b.gib.toNat, upsets := k.upsets ++ b.upsets
        ports := Vector.ofFn fun (i : Fin 16) => { portOf k i.val with feeds := b.feeds.getD i.val (portOf k i.val).feeds }
        frames := Vector.ofFn fun (i : Fin 16) => { vget k.frames i.val Frame.reset with failcol := b.failed.getD i.val 0 } }
  else { k with powered := true, recovery := true }

/-- R421: boot, from power-on or after a package reset. -/
def execPowerOnBoot (b : BootInput) (s : State) : Host.Outcome State Fault Refusal :=
  .next (if s.pkg.booted || s.pkg.recovery then s else onPkg (bootPackage b) s)

/-- R424: an image whose signatures verify is written to the flash, and the package is reset. -/
def execRecoveryImage (image : List (BitVec 8)) (ok : Bool) (s : State) : Host.Outcome State Fault Refusal :=
  .next (if s.pkg.recovery && ok then onPkg (fun k => { resetPackage k with flash := image }) (clearCores s) else s)

/-- R422: the configuration of a partition. -/
def partitionConfig (p : Partition) : List (BitVec 64) :=
  (p.frames.setWidth 64 ||| p.ports.setWidth 64 <<< 16 ||| (if p.en then 1 <<< 32 else 0)) ::
    (p.pmem.toList ++ p.plim.toList)

/-- R422: the responder answers; the signatures are not modelled further than that they are there (log entry 28). -/
def answerSpdm (fn draw : Nat) (k : Package) : Package :=
  if !k.powered || 16 ≤ fn || (k.recovery && fn ≠ 0) then k
  else
    { k with reports :=
        { fn := fn, measurements := k.measurements, config := if fn = 0 then none else some (partitionConfig (partOf k fn))
          ed25519 := Config.freeValue 5002 draw 0, mldsa := Config.freeValue 5002 draw 1 } :: k.reports }

/-- R422. -/
def execSpdmRequest (fn : Nat) (s : State) : Host.Outcome State Fault Refusal :=
  .next (onPkg (answerSpdm fn s.choice) { s with choice := s.choice + 1 })

/-! ## Errors of the device -/

/-- R425: the partition whose core, or whose memory, has an error; none is the package's log. -/
def coreLog (s : State) (n : Nat) : Option Nat := (List.range 16).find? fun p => coreIn s.pkg p n
def memoryLog (k : Package) (pa : Nat) : Option Nat := (List.range 16).find? fun p => inPartition (partOf k p) pa 1

/-- R226, R355: an error mark on an entry of a store of a core. -/
def markStore (file n : Nat) (c : Core) : Core :=
  match file with
  | 0 => { c with xBad := setBit c.xBad n true }
  | 1 => { c with aBad := setBit c.aBad n true }
  | 2 => { c with vBad := setBit c.vBad n true }
  | 3 => { c with tileBad := setBit c.tileBad n true }
  | 4 => { c with bankBad := setBit c.bankBad n true }
  | 5 => { c with dslotBad := setBit c.dslotBad n true }
  | _ => { c with streamBad := setBit c.streamBad n true }

/-- A word added to a list of marks. -/
def addMark (w : Nat) (l : List Nat) : List Nat := if l.contains w then l else l ++ [w]

/-- R425: the KIND of an error of a word of memory. -/
def memoryKind (pa : Nat) (double : Bool) : BitVec 8 := BitVec.ofNat 8 ((if inHbm pa then 3 else 5) + double.toNat)

/-- R226, R355, R425, R427: an error is found: a correctable one is corrected and logged, any other poisons what it is found in. -/
def meetUpset (u : Upset) (s : State) : State :=
  let place := fun (n : Nat) => BitVec.ofNat 64 (Config.freeValue 5007 n 4096)
  let log := fun (n : Nat) (kind : BitVec 8) (s : State) =>
    onPkg (logError (coreLog s n) kind (BitVec.ofNat 8 (if n = queenCore then Config.freeValue 5007 n 0 else frameOf n)) (place n)) s
  match u with
  | .comb n w double =>
    log n (if double then 2 else 1)
      (if double && w < 32768 then onCoreAt n (fun c => { c with combBad := addMark w c.combBad }) s else s)
  | .fetch n pc => log n 11 (onCoreAt n (fun c => { c with imemBad := addMark pc c.imemBad }) s)
  | .store n file i => onCoreAt n (markStore file i) s
  | .memory w double =>
    onPkg (fun k => logError (memoryLog k (8 * w)) (memoryKind (8 * w) double) (controllerOf (8 * w)) (BitVec.ofNat 64 (8 * w))
      (if double then { k with memBad := addMark w k.memBad } else k)) s
  | .lane kind unit addr => onPkg (logError none kind unit addr) s

/-- The errors that are found by a package cycle. -/
def meetUpsets (s : State) : State :=
  let due := s.pkg.upsets.filter fun u => u.1 ≤ s.pkg.cycle
  due.foldl (fun s u => meetUpset u.2 s) (onPkg (fun k => { k with upsets := k.upsets.filter fun u => k.cycle < u.1 }) s)

/-! ## Power, clock and temperature -/

/-- R428. -/
def execPwrlimWrite (v : BitVec 64) (s : State) : Host.Outcome State Fault Refusal :=
  .next (onPkg (fun k => { k with pwrlim := v.setWidth 12 }) s)

/-- R428: D after a boundary, from the average in watts. -/
def nextDuty (limit watts duty : Nat) : Nat :=
  if limit = 0 then 0
  else if limit < watts then min 960 (duty + 64)
  else if 100 * watts < 95 * limit then duty - 64
  else duty

/-- R428: the boundary. -/
def updateDuty (watts : Nat) (k : Package) : Package :=
  let d := nextDuty k.pwrlim.toNat watts k.duty
  let changed := (d == 0) != (k.duty == 0)
  let k := { k with power := BitVec.ofNat 12 (min 4095 watts), duty := d }
  if changed then raiseVector 0 28 k else k

/-- R428: only a cycle that is a multiple of 1,024 is a boundary. -/
def execDutyBoundary (watts : Nat) (s : State) : Host.Outcome State Fault Refusal :=
  .next (if s.pkg.cycle % 1024 = 0 then onPkg (updateDuty watts) s else s)

/-- R429: a write of 3 keeps the old value, and a write while a partition is enabled is ignored. -/
def execClkselWrite (v : BitVec 64) (s : State) : Host.Outcome State Fault Refusal :=
  .next (if v.extractLsb' 0 2 = 3 || s.pkg.parts.toList.any (·.en) then s
    else onPkg (fun k => { k with clksel := v.extractLsb' 0 2 }) s)

/-- R430: the warning is set, with its message, where the hottest die has come to the threshold. -/
def warnHeat (k : Package) : Package :=
  if k.warn ≤ k.tmax && !k.warned then raiseVector 0 28 { k with warned := true } else k

/-- R430: the hottest die is measured; at 110 °C the package asserts THERMTRIP. -/
def measureHeat (t : BitVec 8) (k : Package) : Package := warnHeat { k with tmax := t, trip := k.trip || 110 ≤ t }

/-- R430. -/
def execThermalWarning (t : BitVec 8) (s : State) : Host.Outcome State Fault Refusal := .next (onPkg (measureHeat t) s)

/-! ## The memory that a function sees -/

/-- R409: the physical address of a BAR4 byte, in the concatenated ranges. -/
def barAddress (ranges : List (Nat × Nat)) (a : Nat) : Option Nat :=
  match ranges with
  | [] => none
  | r :: rest => if a < r.2 then some (r.1 + a) else barAddress rest (a - r.2)

/-- R409: what a BAR4 byte reaches: nothing beyond the last range. -/
def barReach (k : Package) (p : Partition) (write : Bool) (a : Nat) : Reached :=
  match barAddress (partRanges p) a with
  | none => .value 0 false
  | some pa => reach k write pa

/-- R409: the words of a 64-byte granule that a poisoned write marks. -/
def markGranules (rs : List Reached) (k : Package) : Package :=
  let words := rs.flatMap fun r => match r with
    | .at' pa => (List.range 8).map (pa / 64 * 8 + ·)
    | .uncopied pa => (List.range 8).map (pa / 64 * 8 + ·)
    | _ => []
  { k with memBad := k.memBad ++ (words.eraseDups.filter fun w => !k.memBad.contains w) }

/-- R252, R409: the lines being copied that an access of the host meets are copied. -/
def barSettle (k : Package) (p : Partition) (write : Bool) (as : List Nat) : Package :=
  let held := fun (k : Package) => (as.map (barReach k p write)).contains .held
  if held k then (if held (finishCopies k) then finishCopies (finishCopies k) else finishCopies k) else k

/-- A completion goes to the host of a function. -/
def complete (c : Completion) (k : Package) : Package := { k with completions := c :: k.completions }

/-- R408: a host's AtomicOp completes with Unsupported Request. -/
def unsupported (fn : Nat) : Completion := { fn := fn, bytes := [], poisoned := false, status := .unsupported }

/-- R252, R268, R408, R409: an access of the host through BAR4. What a transform cannot expand reads as undefined data (log entry
29). -/
def hostAccess (fn draw : Nat) (a : HostAccess) (k : Package) : Package :=
  let p := partOf k fn
  let as := (List.range a.bytes.length).map (a.addr + ·)
  let write := a.write && !a.atomic
  let k := if a.atomic then k else barSettle k p write as
  let rs := as.map (barReach k p write)
  if 16 ≤ fn then k
  else if a.atomic then complete (unsupported fn) k
  else if a.write then
    (let k := writeBytes outsidePlace k rs a.bytes false
     if a.poisoned then markGranules rs k else k)
  else
    let bytes := rs.zipIdx.map fun x =>
      if x.1 = .fault then BitVec.ofNat 8 (Config.freeValue 5000 draw x.2) else reachedByte k draw x.2 x.1
    complete { fn := fn, bytes := bytes, poisoned := rs.any (reachedBad k), status := .ok } k

/-- R409. -/
def execHostMemoryAccess (fn : Nat) (a : HostAccess) (s : State) : Host.Outcome State Fault Refusal :=
  .next (onPkg (hostAccess fn s.choice a) { s with choice := s.choice + 1 })

end Sys2Proof.Machine
end

