-- ==== Sys2Proof/Machine/Portable.lean ====
section
/-!
DEFINITION. The firmware translator of Shotriuk portable images (R416 to R418): reading the portable body, what a syllable
reads and how long its results take (R24, R25), placing records into bundles, and writing names, targets and lends.
-/

namespace Sys2Proof.Machine

/-! ## The portable body -/

/-- A dependence entry (R417): the record it names, and 0 data, 1 order, 2 weak order. -/
structure PortDep where
  prod : Nat
  kind : Nat
deriving DecidableEq, Repr

/-- An operation record (R417). -/
structure PortRecord where
  syl : Syllable
  lend : Option Lend
  pin : Nat
  delay : Bool
  deps : List PortDep
deriving DecidableEq, Repr

/-- A block entry (R417). -/
structure PortBlock where
  first : Nat
  count : Nat
  region : Nat
deriving DecidableEq, Repr

/-- The body's header, as far as the tables go (R417). -/
structure PortHeader where
  nblk : Nat
  nops : Nat
  ndep : Nat
  blkofs : Nat
  opsofs : Nat
  depofs : Nat
deriving DecidableEq, Repr

/-- R417: the header of a body of `len` bytes, if every field holds what it may. -/
def portHeader (b : List Byte) (len : Nat) : Option PortHeader :=
  let f := bytesField b
  let h : PortHeader :=
    { nblk := f 8 4, nops := f 12 4, ndep := f 16 4, blkofs := f 24 8, opsofs := f 32 8, depofs := f 40 8 }
  let ok := f 0 4 == 0x4248534B && f 4 2 == 1 && f 6 2 == 0 && f 20 4 == 0 && f 48 16 == 0 && 1 ≤ h.nblk &&
    h.nblk ≤ 4096 && 1 ≤ h.nops && h.nops ≤ 2 ^ 20 && h.ndep ≤ 2 ^ 22 && h.blkofs % 16 == 0 && h.opsofs % 16 == 0 &&
    h.depofs % 8 == 0 && h.blkofs + 16 * h.nblk ≤ len && h.opsofs + 16 * h.nops ≤ len && h.depofs + 8 * h.ndep ≤ len
  if ok then some h else none

/-- R417: block entry `i`. -/
def portBlock (bs : List Byte) (i : Nat) : Option PortBlock :=
  let b := (bs.drop (16 * i)).take 16
  let f := bytesField b
  if f 6 1 / 16 = 0 && f 7 9 = 0 && 1 ≤ f 4 2 && f 4 2 ≤ 4096 then
    some { first := f 0 4, count := f 4 2, region := f 6 1 }
  else none

/-- R417: dependence entry `i`. -/
def portDep (bs : List Byte) (i : Nat) : Option PortDep :=
  let b := (bs.drop (8 * i)).take 8
  let f := bytesField b
  if f 4 1 ≤ 2 && f 5 3 = 0 then some { prod := f 0 4, kind := f 4 1 } else none

/-- R417: operation record `i` with its dependences; PIN stands on copy-class records only. -/
def portRecord (bs : List Byte) (deps : List PortDep) (i : Nat) : Option PortRecord :=
  let b := (bs.drop (16 * i)).take 16
  let f := bytesField b
  let syl := BitVec.ofNat 32 (f 0 4)
  let pin := f 6 1 % 4
  let ok := f 4 2 / 2 ^ 10 == 0 && f 6 1 / 8 == 0 && f 7 1 == 0 && f 14 2 == 0 && pin != 3 &&
    (pin == 0 || isCopy syl) && f 12 2 ≤ 64 && f 8 4 + f 12 2 ≤ deps.length
  if ok then
    some { syl := syl, lend := if natBit (f 4 2) 9 then some (BitVec.ofNat 9 (f 4 2)) else none, pin := pin
           delay := natBit (f 6 1) 2, deps := (deps.drop (f 8 4)).take (f 12 2) }
  else none

/-- R417: blocks cover the records in order, and the blocks of a region are consecutive, regions rising. -/
def blocksCover : Nat → Nat → Nat → List PortBlock → Bool
  | pos, nops, _, [] => pos == nops
  | pos, nops, region, b :: rest =>
    b.first == pos && region ≤ b.region && blocksCover (pos + b.count) nops b.region rest

/-- R418: every dependence of a record names an earlier record of its own block. -/
def depsLocal (blocks : List PortBlock) (recs : List PortRecord) : Bool :=
  recs.zipIdx.all fun x => x.1.deps.all fun d =>
    d.prod < x.2 && blocks.any fun b =>
      b.first ≤ d.prod && d.prod < b.first + b.count && b.first ≤ x.2 && x.2 < b.first + b.count

/-! ## What a syllable is -/

/-- A field of a syllable as a number. -/
def sylField (w : Syllable) (lo n : Nat) : Nat := (w.extractLsb' lo n).toNat

/-- R74 to R99: where a syllable has scalar source codes. -/
def sourceFields (w : Syllable) : List Nat :=
  let op6 := sylField w 21 6
  let x := fun (bit at' : Nat) => if w.getLsbD bit then [at'] else []
  match majorOf w with
  | 0x01 => if sylField w 0 9 = 0x1F then [15] else [15, 9]
  | 0x02 => [15]
  | 0x04 => if sylField w 4 5 = 12 || sylField w 4 5 = 13 then [15] else [15, 9]
  | 0x06 => if [3, 4, 8, 13].contains op6 then [15] else []
  | 0x07 => (if sylField w 13 2 = 2 then [21] else []) ++ x 12 6
  | 0x08 =>
    let op := sylField w 6 5
    if op = 9 then [21, 11] else if op ≤ 11 then [11] else if op = 18 || op = 19 then [21, 11] else []
  | 0x09 => if w.getLsbD 20 then [21] else []
  | 0x0A => (if sylField w 11 2 = 2 then [21] else []) ++ x 10 4
  | 0x10 => if sylField w 3 4 = 1 || sylField w 3 4 = 9 then [13] else []
  | 0x11 => if sylField w 4 3 = 2 || sylField w 4 3 = 3 then [] else [7]
  | 0x19 => if sylField w 2 3 = 6 then [11] else [11, 5]
  | 0x1A => if sylField w 6 3 = 2 || sylField w 6 3 = 3 then [] else [15, 9]
  | 0x1C => [15, 9]
  | _ => []

/-- R139: a masked form that merges reads its destination. -/
def lendMerges (l : Option Lend) : Bool := mergesDest (maskOf (l.getD 0))

/-- R25: the v registers that a syllable reads, in order. -/
def vectorReads (w : Syllable) (l : Option Lend) : List Nat :=
  let d := sylField w 19 6
  let a := sylField w 13 6
  let b := sylField w 7 6
  let op := sylField w 3 4
  let merged := if lendMerges l then [d] else []
  let g := lendFormat (lendOrF l)
  let f := w.extractLsb' 8 5
  let width := w.extractLsb' 25 2
  match majorOf w with
  | 0x06 => if sylField w 21 6 = 14 then [sylField w 15 6] else []
  | 0x0C =>
    if op = 11 then [a] ++ merged else if op = 14 then [a, b] else if op = 15 then [a, b, d] else [a, b] ++ merged
  | 0x0D =>
    if op = 9 || op = 12 then [a, b]
    else if op = 7 || op = 8 || op = 10 then [a] ++ merged
    else if op = 3 || op = 4 then [a, b, d]
    else [a, b] ++ merged
  | 0x0E =>
    let op := sylField w 0 4
    if op = 2 || op = 4 then [a, a + 1] else if op = 5 then [] else groupRegs a (sideSize width g f)
  | 0x0F => (if op = 3 then [a, b] else [a]) ++ merged
  | 0x10 =>
    if op = 0 || op = 4 || op = 5 || op = 11 || op = 12 then [a] ++ merged
    else if op = 1 then merged
    else if op = 3 then [a, b] ++ merged
    else if op = 6 || op = 8 || op = 10 then [a]
    else []
  | 0x11 =>
    let op := sylField w 4 3
    if op = 1 || op = 5 then [d]
    else if op = 2 then (if !(l.getD 0).getLsbD 5 && (l.getD 0).extractLsb' 2 3 != 0 then [d, b] else [b])
    else if op = 3 then [b, d]
    else []
  | 0x12 => if sylField w 3 3 = 0 then [sylField w 14 6] else if sylField w 3 3 = 1 && lendMerges l then [sylField w 14 6] else []
  | _ => []

/-- R18: whether a syllable pushes. -/
def pushes (w : Syllable) : Bool :=
  let d32 := sylField w 21 6 == 32
  match majorOf w with
  | 0x01 => d32
  | 0x02 => d32
  | 0x03 => d32
  | 0x04 => d32
  | 0x06 => sylField w 21 6 == 8
  | 0x07 => d32 && sylField w 13 2 != 2
  | 0x08 => d32 && sylField w 6 5 == 21
  | 0x09 => d32 && !w.getLsbD 20
  | 0x0A => d32 && sylField w 11 2 != 2
  | 0x10 => sylField w 3 4 == 7 || sylField w 3 4 == 8
  | _ => false

/-- R24: the bound of a syllable's register result, without its bank penalty; none where it has none. `rstat` counts the
256 rows that a tile can have (log entry 30). -/
def boundOf (w : Syllable) : Option Nat :=
  let op := sylField w 3 4
  let t := sylField w 0 3
  match majorOf w with
  | 0x01 =>
    let f := sylField w 0 9
    some (if f = 2 || f = 3 || f = 4 || f = 0x1E then 3 else if 5 ≤ f && f ≤ 8 then 24 else 1)
  | 0x02 => some (if sylField w 11 4 = 7 then 3 else 1)
  | 0x03 => some 1
  | 0x04 =>
    let op := sylField w 4 5
    some (if op ≤ 3 then (if sylField w 0 4 = 9 then 5 else 4) else if op ≤ 5 then 16
      else if 12 ≤ op && op ≤ 14 then 3 else 2)
  | 0x06 => if sylField w 21 6 = 1 then some 1 else if sylField w 21 6 = 8 then some 4 else none
  | 0x07 => if sylField w 13 2 = 2 then none else some 64
  | 0x08 =>
    let op := sylField w 6 5
    if op ≤ 11 then (if sylField w 21 6 = 0 then none else some 96)
    else if op = 19 || op = 21 then some 2 else if op = 20 then some 1 else none
  | 0x09 => some (if w.getLsbD 20 then 1 else 2)
  | 0x0A => some (if sylField w 11 2 = 2 then 1 else 3)
  | 0x0C => some (if op = 2 || op = 3 || op = 15 then 4 else 2)
  | 0x0D => some (if (5 ≤ op && op ≤ 10) || op = 12 then 2 else if t = 4 || t = 5 then 5 else 4)
  | 0x0E => some (if sylField w 0 4 = 1 || sylField w 0 4 = 3 then 6 else 4)
  | 0x0F => some (if t = 0 then 16 else 10)
  | 0x10 => some (if op = 3 then 3 else if op = 6 then 6 else 2)
  | 0x11 =>
    let op := sylField w 4 3
    if op = 0 then some 3 else if op = 2 then some 5 else if op = 4 || op = 6 then some 64 else none
  | 0x12 => if sylField w 3 3 = 1 then some 6 else none
  | 0x17 => if sylField w 9 3 = 1 then some (4 + 256) else none
  | _ => none

/-- R24, R175: how many cycles at most the matrix unit is busy with a syllable, from the limits of a tile alone: 1,024
columns, 4 KiB (log entry 30). -/
def busyBound (w : Syllable) : Nat :=
  match majorOf w with
  | 0x12 => if sylField w 3 3 = 1 then 6 else 4
  | 0x14 => 6 + 1024
  | 0x15 =>
    let op := sylField w 10 3
    if op = 0 then 2 else if op = 2 || op = 3 then 72 else if op = 1 || op = 7 then 8 else 4
  | 0x16 => if sylField w 9 3 = 5 then 2 else if sylField w 9 3 = 3 then 3 + 32 else 3 + 16
  | _ => 0

/-- R78, R79: where a syllable holds a block index, and how wide: `br` and `brc`, `call`, `loop`, `chk` and `chkv`. -/
def targetField (w : Syllable) : Option Nat :=
  if majorOf w = 0x05 then some 23
  else if majorOf w ≠ 0x06 then none
  else
    let op := sylField w 21 6
    if op = 1 || op = 4 then some 12 else if op = 13 || op = 14 then some 15 else none

/-- The SC op of `loop`, which has no delay bundles (R28). -/
def isLoop (w : Syllable) : Bool := majorOf w == 0x06 && sylField w 21 6 == 4

/-- R418: `safe`, `yield`, `gbar`, `wait`, `fence` and `fence.e`. -/
def isBarrier (w : Syllable) : Bool :=
  (majorOf w == 0x06 && [5, 6, 9, 10].contains (sylField w 21 6)) ||
    (majorOf w == 0x08 && [16, 17].contains (sylField w 6 5))

/-- R284: `probe`. -/
def isProbeWord (w : Syllable) : Bool := majorOf w == 0x08 && sylField w 6 5 == 18

/-- R215: `safe` and `yield`, with their live mask. -/
def liveMaskOf (w : Syllable) : Option Nat :=
  if majorOf w = 0x06 && (sylField w 21 6 = 5 || sylField w 21 6 = 6) then some (sylField w 0 9) else none

/-! ## Placing a block -/

/-- The record numbers of a block placed in bundle `b` of it, in the order in which they were placed. -/
def placedIn (done : List (Nat × Nat)) (b : Nat) : List Nat := (done.filter fun x => x.2 == b).map (·.1)

/-- The bundle in which a record of the block was placed. -/
def slotBundle (done : List (Nat × Nat)) (i : Nat) : Option Nat := (done.find? fun x => x.1 == i).map (·.2)

/-- A record by its number. -/
def recordAt (recs : List PortRecord) (i : Nat) : PortRecord :=
  recs.getD i { syl := nopWord, lend := none, pin := 0, delay := false, deps := [] }

/-- R25: the bank penalty of record `i` in bundle `b`, behind what the bundle holds before it. -/
def portPenalty (recs : List PortRecord) (done : List (Nat × Nat)) (i b : Nat) : Nat :=
  let before := (placedIn done b).takeWhile (· != i)
  let earlier := before.flatMap fun j => (vectorReads (recordAt recs j).syl (recordAt recs j).lend).map fun n => (j, Reg.v n)
  bankPenalty earlier (vectorReads (recordAt recs i).syl (recordAt recs i).lend)

/-- R24, R25: the first bundle from which the register result of a placed record has landed, if it has one. -/
def landsAt (recs : List PortRecord) (done : List (Nat × Nat)) (i b : Nat) : Option Nat :=
  (boundOf (recordAt recs i).syl).map fun n => b + n + portPenalty recs done i b

/-- The first bundle from which everything of a placed record is over: its result, and its busy state (R284). -/
def overAt (recs : List PortRecord) (done : List (Nat × Nat)) (x : Nat × Nat) : Nat :=
  max ((landsAt recs done x.1 x.2).getD x.2) (x.2 + busyBound (recordAt recs x.1).syl)

/-- R418, step 2: whether a dependence is met in bundle `b`; one on a record that is not placed is not. A producer without a
register result needs a later bundle. -/
def depMet (recs : List PortRecord) (done : List (Nat × Nat)) (b : Nat) (d : PortDep) : Bool :=
  match slotBundle done d.prod with
  | none => false
  | some p =>
    if d.kind = 0 then (landsAt recs done d.prod p).getD (p + 1) ≤ b
    else if d.kind = 1 then p < b
    else p ≤ b

/-- R13, R418: whether a bundle has room for its records, under a header if one of them needs a lend. -/
def bundleRoom (recs : List PortRecord) (is : List Nat) : Bool :=
  let rs := is.map (recordAt recs)
  is.length ≤ (if rs.any fun r => r.lend.isSome then 3 else 4) && !overCommitted (rs.map (·.syl))

/-- R418: the PIN of a copy-class record and the order of copies. -/
def copyOrder (recs : List PortRecord) (done : List (Nat × Nat)) (r : PortRecord) (b : Nat) : Bool :=
  let copies := done.filter fun x => isCopy (recordAt recs x.1).syl
  let here := (copies.filter fun x => x.2 == b).length
  !isCopy r.syl || (copies.all (fun x => x.2 ≤ b) && (r.pin == 0 || r.pin == here + 1))

/-- R284, R418: `probe` stands alone, after every result and busy state, and nothing of the block is under way then. -/
def probeOrder (recs : List PortRecord) (done : List (Nat × Nat)) (i b : Nat) : Bool :=
  let probes := done.filter fun x => isProbeWord (recordAt recs x.1).syl
  if isProbeWord (recordAt recs i).syl then done.all fun x => x.2 != b && (b < x.2 || overAt recs done x ≤ b)
  else
    let ends := overAt recs (done ++ [(i, b)]) (i, b)
    probes.all fun x => x.2 != b && (x.2 < b || ends ≤ x.2)

/-- R418, step 2: whether record `i` may go into bundle `b` of its block. -/
def mayPlace (recs : List PortRecord) (done : List (Nat × Nat)) (i b : Nat) : Bool :=
  let r := recordAt recs i
  r.deps.all (depMet recs done b) && bundleRoom recs (placedIn done b ++ [i]) && copyOrder recs done r b &&
    (done.filter fun x => isBarrier (recordAt recs x.1).syl).all (fun x => x.2 ≤ b) &&
    (!(isBarrier r.syl || (isControl r.syl && !r.delay)) || done.all fun x => x.2 ≤ b) && probeOrder recs done i b

/-- R418: a record goes into the earliest of some bundles that may take it. -/
def placeRecord (recs : List PortRecord) (bundles : List Nat) (done : List (Nat × Nat)) (i : Nat) :
    Option (List (Nat × Nat)) :=
  (bundles.find? (mayPlace recs done i)).map fun b => done ++ [(i, b)]

/-- A block as it is placed: the bundle of each record, counted from the block's first, and the block's length. -/
structure PlacedBlock where
  start : Nat
  length : Nat
  done : List (Nat × Nat)
deriving DecidableEq, Repr

/-- R418, step 2: the control-flow record is the last one outside the delay part, and the delay part follows only it. -/
def shapeOk (recs : List PortRecord) (is : List Nat) : Bool :=
  let plain := is.filter fun i => !(recordAt recs i).delay
  let delay := is.filter fun i => (recordAt recs i).delay
  let control := fun (i : Nat) => isControl (recordAt recs i).syl
  let last := (plain.getLast?.map control).getD false
  plain.dropLast.all (fun i => !control i) && !delay.any control &&
    (delay.isEmpty || (last && !((plain.getLast?.map fun i => isLoop (recordAt recs i).syl).getD false)))

/-- R418, steps 2 to 4: a block placed from a bundle on; a region has room for 256. -/
def placeBlock (recs : List PortRecord) (start : Nat) (b : PortBlock) : Option PlacedBlock :=
  let is := (List.range b.count).map (b.first + ·)
  let plain := is.filter fun i => !(recordAt recs i).delay
  let delay := is.filter fun i => (recordAt recs i).delay
  let last := plain.getLast?.filter fun i => isControl (recordAt recs i).syl
  if !shapeOk recs is then none
  else match plain.foldlM (placeRecord recs (List.range 256)) [] with
    | none => none
    | some done =>
      let used := (done.map fun x => x.2 + 1).foldl max 0
      let branch := last.bind fun i => if isLoop (recordAt recs i).syl then none else slotBundle done i
      match delay.foldlM (placeRecord recs ((branch.toList).flatMap fun p => [p + 1, p + 2, p + 3])) done with
      | none => none
      | some done =>
        let used := match branch with | some p => p + 4 | none => used
        let landed := (done.map fun x => (landsAt recs done x.1 x.2).getD 0).foldl max 0
        some { start := start, length := max used landed, done := done }

/-- R418, step 1: the blocks in order, each region from its own first bundle; none where a region overflows. -/
def placeBlocks (recs : List PortRecord) : Nat → List PortBlock → Option (List PlacedBlock)
  | _, [] => some []
  | next, b :: rest =>
    let start := max next (256 * b.region)
    match placeBlock recs start b with
    | none => none
    | some p =>
      if 256 * (b.region + 1) < start + p.length then none
      else (placeBlocks recs (start + p.length) rest).map (p :: ·)

/-! ## Names, targets and lends -/

/-- R418: the records of a block's bundle, and whether the bundle has a header. -/
def needsHeader (recs : List PortRecord) (is : List Nat) : Bool := is.any fun i => (recordAt recs i).lend.isSome

/-- R418: the position of a placed record. -/
def positionOf (recs : List PortRecord) (p : PlacedBlock) (i b : Nat) : Nat :=
  let is := placedIn p.done b
  ((is.findIdx? (· == i)).getD 0) + (if needsHeader recs is then 1 else 0)

/-- R418, step 5: the name a(4p + d) of the result of record `j` as record `i` in bundle `b` reads it; none where the depth
passes 3. -/
def queueName (recs : List PortRecord) (p : PlacedBlock) (j b : Nat) : Option Nat :=
  match slotBundle p.done j with
  | none => none
  | some pb =>
    let chain := positionOf recs p j pb
    let d := (p.done.filter fun x =>
      pb < x.2 && x.2 < b && pushes (recordAt recs x.1).syl && positionOf recs p x.1 x.2 == chain).length
    if d ≤ 3 then some (4 * chain + d) else none

/-- A field of a syllable rewritten. -/
def putField (w : Syllable) (lo n v : Nat) : Syllable :=
  BitVec.ofNat 32 (w.toNat - sylField w lo n * 2 ^ lo + v % 2 ^ n * 2 ^ lo)

/-- R417, R418: a source code of record `i`, rewritten where it names a dependence. -/
def renameCode (recs : List PortRecord) (p : PlacedBlock) (i b code : Nat) : Option Nat :=
  if code < 32 || 48 ≤ code then some code
  else match (recordAt recs i).deps[code - 32]? with
    | none => none
    | some d =>
      if d.kind = 0 && pushes (recordAt recs d.prod).syl then (queueName recs p d.prod b).map (32 + ·) else none

/-- R418, step 5: the source codes of a record. -/
def renameSources (recs : List PortRecord) (p : PlacedBlock) (i b : Nat) : Option Syllable :=
  let w := (recordAt recs i).syl
  (sourceFields w).foldlM (fun v lo => (renameCode recs p i b (sylField w lo 6)).map (putField v lo 6)) w

/-- R81, R417: the lend of an atomic holds a source code, which is rewritten as those of the syllable are (log entry 31). -/
def renameLend (recs : List PortRecord) (p : PlacedBlock) (i b : Nat) : Option (Option Lend) :=
  let r := recordAt recs i
  match r.lend with
  | none => some none
  | some l =>
    if majorOf r.syl = 0x08 && sylField r.syl 6 5 ≤ 11 then
      (renameCode recs p i b (l.extractLsb' 0 6).toNat).map fun c =>
        some (BitVec.ofNat 9 ((l.extractLsb' 6 3).toNat * 64 + c))
    else some (some l)

/-- R418, step 5: the offset or target of a control-flow record of block `k` at `pc`; none where the target does not exist or,
for `loop`, is not the next block, or that block holds control flow. -/
def renameTarget (recs : List PortRecord) (blocks : List PlacedBlock) (k pc : Nat) (w : Syllable) : Option Syllable :=
  match targetField w with
  | none => some w
  | some n =>
    let t := sylField w 0 n
    match blocks[t]? with
    | none => none
    | some b =>
      if majorOf w = 0x05 then some (putField w 0 23 (b.start + 2 ^ 23 - pc))
      else if sylField w 21 6 = 1 then some (putField w 0 12 b.start)
      else if isLoop w then
        (if t = k + 1 && !(b.done.any fun x => isControl (recordAt recs x.1).syl) then
          some (putField w 0 12 (b.start + b.length - 1 - pc)) else none)
      else some (putField w 0 15 (b.start + 2 ^ 15 - pc))

/-- R69, R102: the lend that a header gives a syllable that takes none: the extension of a short immediate, the source format
f of a VX form, or 0. -/
def defaultLend (w : Syllable) : Lend :=
  let sign := fun (bit : Nat) => if w.getLsbD bit then 0x1FF else 0
  match majorOf w with
  | 0x02 => sign 10
  | 0x03 => if w.getLsbD 20 then 0 else sign 19
  | 0x07 => if w.getLsbD 12 then 0 else sign 11
  | 0x0E => 1
  | 0x11 => if sylField w 4 3 = 2 || sylField w 4 3 = 3 then 0 else sign 3
  | _ => 0

/-- R100: whether a syllable raises an illegal-operand fault on a core, in a state whose registers are those of reset. -/
def operandFault (core : Nat) (i : Instr) : Bool :=
  match execSyllable i { State.reset with here := core } with
  | .next t => t.issue.faults.any fun f => f.code == codeIllegalOperand
  | _ => false

/-- R100: whether a syllable raises an illegal-syllable fault, or an illegal-operand fault that its encoding alone decides, on a
compute core and on the queen core alike: `sys.bind` and `sys.skew` are the queen core's alone (R382). -/
def staticFault (w : Syllable) (l : Option Lend) : Bool :=
  match decode w l with
  | .error _ => true
  | .ok i =>
    match i with
    | .osend _ a b _ => !(srcOk a && srcOk b)
    | .collMx _ a b _ => !(srcOk a && srcOk b)
    | .collBs _ a b _ => !(srcOk a && srcOk b)
    | .collBc _ a b => !(srcOk a && srcOk b)
    | .collAg _ a b => !(srcOk a && srcOk b)
    | i => operandFault 0 i && operandFault queenCore i

/-- A record as it stands in its bundle: the syllable, and its lend under a header. -/
def finalRecord (recs : List PortRecord) (blocks : List PlacedBlock) (k : Nat) (p : PlacedBlock) (i b : Nat) :
    Option (Syllable × Lend) :=
  let header := needsHeader recs (placedIn p.done b)
  match renameSources recs p i b, renameLend recs p i b with
  | some w, some l =>
    match renameTarget recs blocks k (p.start + b) w with
    | none => none
    | some w =>
      let lend := l.getD (defaultLend w)
      if staticFault w (if header then some lend else none) then none else some (w, lend)
  | _, _ => none

/-- A bundle from its syllables in order, under a header or not. -/
def packBundle (header : Bool) (xs : List (Syllable × Lend)) : Bundle :=
  let lends := xs.map (·.2) ++ List.replicate 3 0
  let head : Syllable := BitVec.ofNat 32 (0x1F * 2 ^ 27 + (lends.getD 0 0).toNat * 2 ^ 18 + (lends.getD 1 0).toNat * 2 ^ 9 +
    (lends.getD 2 0).toNat)
  let ws := (if header then [head] else []) ++ xs.map (·.1) ++ List.replicate 4 nopWord
  BitVec.ofNat 128 (packLanes 32 ((ws.take 4).map (·.toNat)))

/-- R418: a bundle of a placed block, with its pc. -/
def finalBundle (recs : List PortRecord) (blocks : List PlacedBlock) (k : Nat) (p : PlacedBlock) (b : Nat) :
    Option (Nat × Bundle) :=
  let is := placedIn p.done b
  (is.mapM fun i => finalRecord recs blocks k p i b).map fun xs => (p.start + b, packBundle (needsHeader recs is) xs)

/-- R418: the bundles of every placed block. -/
def finalCode (recs : List PortRecord) (blocks : List PlacedBlock) : Option (List (Nat × Bundle)) :=
  (blocks.zipIdx.mapM fun x => (List.range x.1.length).mapM (finalBundle recs blocks x.2 x.1)).map List.flatten

/-- R418: a translated body: its code, and the pc of each block. -/
structure Translated where
  code : List (Nat × Bundle)
  starts : List Nat
deriving DecidableEq, Repr

/-- R418: the whole translation, from the parsed tables. -/
def translate (blocks : List PortBlock) (recs : List PortRecord) : Option Translated :=
  if !blocksCover 0 recs.length 0 blocks || !depsLocal blocks recs then none
  else match placeBlocks recs 0 blocks with
    | none => none
    | some ps => (finalCode recs ps).map fun code => { code := code, starts := ps.map (·.start) }

end Sys2Proof.Machine
end

