-- ==== Sys2Proof/Machine/Windows.lean ====
section
/-!
DEFINITION. What the loader finds in a program from its schedule alone (R106, R284): reads inside a window of the latency
table, with bank penalties, and a `probe` beside a result or a busy state, along the ways that a program can take (log
entry 32).
-/

namespace Sys2Proof.Machine

/-! ## What a syllable reads -/

/-- R68, R70: the guard of a form that has one. -/
def guardReads (w : Syllable) (l : Lend) : List Reg :=
  let guards := match majorOf w with
    | 0x01 => true
    | 0x04 => true
    | 0x06 => [1, 2, 3, 7, 8, 9, 10, 11, 12].contains (sylField w 21 6)
    | 0x07 => w.getLsbD 12
    | 0x09 => true
    | 0x0A => w.getLsbD 10
    | _ => false
  if guards then [guardReg l] else []

/-- R68, R139: the mask of a form that has one, and the m registers of `vmsk`. -/
def maskReads (w : Syllable) (l : Lend) : List Reg :=
  let op := sylField w 3 4
  let masks := match majorOf w with
    | 0x0C => true
    | 0x0D => true
    | 0x0F => true
    | 0x10 => !([7, 8, 9, 10].contains op)
    | 0x11 => sylField w 4 3 == 2 || sylField w 4 3 == 3
    | 0x12 => true
    | _ => false
  (if masks then [.m (l.extractLsb' 0 3).toNat] else []) ++
    (if majorOf w = 0x10 && op = 7 then [.m (sylField w 13 3), .m (sylField w 7 3)] else [])

/-- R81, R108, R112, R115: the scalar registers that a syllable reads beside those of its source fields: a destination that is
read, and the offset of an atomic. -/
def furtherReads (w : Syllable) (l : Lend) : List Reg :=
  let own := match majorOf w with
    | 0x01 => sylField w 0 9 == 0x21
    | 0x03 => w.getLsbD 20
    | 0x04 => sylField w 4 5 == 3
    | _ => false
  (if own then [sourceReg (w.extractLsb' 21 6)] else []) ++
    (if majorOf w = 0x08 && sylField w 6 5 ≤ 11 then [sourceReg (l.extractLsb' 0 6)] else [])

/-- R21: the registers that a syllable names as sources. -/
def registerReads (w : Syllable) (l : Option Lend) : List Reg :=
  (sourceFields w).map (fun lo => sourceReg (w.extractLsb' lo 6)) ++ (vectorReads w l).map Reg.v ++
    guardReads w (l.getD 0) ++ maskReads w (l.getD 0) ++ furtherReads w (l.getD 0)

/-- R18, R21: whether a bundle reads one of some registers. -/
def bundleReads (rs : List Reg) (b : Bundle) : Bool :=
  (slotsOf b).any fun x => (registerReads x.2.1 x.2.2).any rs.contains

/-! ## The ways of a program -/

/-- A syllable of a bundle with a property, and the bundle at a pc. -/
def bundleHas (test : Syllable → Bool) (b : Bundle) : Bool := (slotsOf b).any fun x => test x.2.1
def codeAt (code : List (Nat × Bundle)) (pc : Nat) : Option Bundle := (code.find? fun x => x.1 == pc % 4096).map (·.2)

/-- Where a program may stand: at a pc, with so many delay bundles left of a transfer that is taken, and its target, which an
encoding may not name. -/
structure CodePoint where
  pc : Nat
  delays : Nat
  goes : Option Nat
deriving DecidableEq, Repr

/-- A transfer of control: whether it may be taken, and left, and its target. -/
structure Jump where
  taken : Bool
  left : Bool
  target : Option Nat
deriving DecidableEq, Repr

/-- R70: a guard that is p0 holds always, or never. -/
def guardedJump (l : Lend) (target : Option Nat) : Jump :=
  { taken := l.extractLsb' 0 3 != 0 || !l.getLsbD 3, left := l.extractLsb' 0 3 != 0 || l.getLsbD 3, target := target }

/-- R26, R123 to R126: the transfer that a form at a pc makes, after its delay bundles. -/
def jumpOf (pc : Nat) (i : Instr) : Option Jump :=
  let goal := fun (o : Int) => some (((pc : Int) + o) % 4096).toNat
  match i with
  | .br o => some { taken := true, left := false, target := goal o.toInt }
  | .brc _ _ o => some { taken := true, left := true, target := goal o.toInt }
  | .call t l => some (guardedJump l (some t.toNat))
  | .ret l => some (guardedJump l none)
  | .jr _ l => some (guardedJump l none)
  | .chk _ o => some { taken := true, left := true, target := goal o.toInt }
  | .chkv _ o => some { taken := true, left := true, target := goal o.toInt }
  | _ => none

/-- R26: the transfer of the bundle at a pc. -/
def jumpAt (code : List (Nat × Bundle)) (pc : Nat) : Option Jump :=
  (codeAt code pc).bind fun b => (decodedSlots b).findSome? fun x => jumpOf (pc % 4096) x.2

/-- R28: the end offset of the `loop` in a bundle. -/
def loopOffset (b : Bundle) : Option Nat := ((slotsOf b).find? fun x => isLoop x.2.1).map fun x => sylField x.2.1 0 12

/-- R28: the first bundles of the loops that end at a pc. -/
def loopStarts (code : List (Nat × Bundle)) (pc : Nat) : List Nat :=
  (code.filter fun x => (loopOffset x.2).any fun e => (x.1 + e) % 4096 == pc).map fun x => (x.1 + 1) % 4096

/-- R26, R28: where a program may stand next; nowhere after a bundle that it does not hold, or a target that no encoding names. -/
def nextPoints (code : List (Nat × Bundle)) (x : CodePoint) : List CodePoint :=
  let at' := fun (pc : Nat) => ({ pc := pc % 4096, delays := 0, goes := none } : CodePoint)
  match codeAt code x.pc with
  | none => []
  | some b =>
    if x.delays = 1 then (x.goes.map at').toList
    else if x.delays ≠ 0 then [{ x with pc := (x.pc + 1) % 4096, delays := x.delays - 1 }]
    else
      let skip := ((loopOffset b).map fun e => at' (x.pc + e + 1)).toList
      let go := (jumpAt code x.pc).map fun t => if t.taken then [{ at' (x.pc + 1) with delays := 3, goes := t.target }] else []
      let stay := (jumpAt code x.pc).all (·.left)
      (if stay then [at' (x.pc + 1)] else []) ++ skip ++ go.getD [] ++ (loopStarts code x.pc).map at'

/-- R26: where a program may stand when it issues the bundle at a pc: in the delay bundles of a transfer, or outside them. -/
def pointsAt (code : List (Nat × Bundle)) (pc : Nat) : List CodePoint :=
  let before := [1, 2, 3].filterMap fun i => (jumpAt code (pc + 4096 - i)).map fun t => (i, t)
  (before.filter (·.2.taken)).map (fun x => { pc := pc, delays := 4 - x.1, goes := x.2.target }) ++
    (if before.all (·.2.left) then [{ pc := pc, delays := 0, goes := none }] else [])

/-! ## What is in flight -/

/-- A result or a busy state that a bundle starts: where it lands, the chain that it enters, and how long it is under way. -/
structure UnderWay where
  regs : List Reg
  chain : Option Nat
  cycles : Nat
deriving DecidableEq, Repr

/-- R24: the bound of a syllable at its least: `rstat` counts one row. -/
def leastBound (w : Syllable) : Option Nat := if majorOf w = 0x17 then (boundOf w).map fun _ => 5 else boundOf w

/-- R24, R175: how long the matrix unit is busy with a syllable at least: of one column, or of one byte of a tile. -/
def leastBusy (w : Syllable) : Nat :=
  match majorOf w with
  | 0x14 => 7
  | 0x16 => if sylField w 9 3 = 5 then 2 else 4
  | _ => busyBound w

/-- R16, R21: the registers that a form writes, which a window guards. -/
def windowRegs (i : Instr) : List Reg :=
  (targetsOf i).filterMap fun t => match t with
    | .x n => some (.x n)
    | .pred n => some (.pred n)
    | .v n => some (.v n)
    | .m n => some (.m n)
    | _ => none

/-- R18, R24, R25: what a bundle starts; `busy` takes the busy states too. -/
def startedBy (busy : Bool) (b : Bundle) : List UnderWay :=
  let slots := slotsOf b
  slots.zipIdx.flatMap fun x =>
    let w := x.1.2.1
    let reads := fun (y : Nat × Syllable × Option Lend) => (vectorReads y.2.1 y.2.2).map fun n => (y.1, Reg.v n)
    let late := bankPenalty ((slots.take x.2).flatMap reads) (vectorReads w x.1.2.2)
    let regs := ((decode w x.1.2.2).toOption.map windowRegs).getD []
    let result := (leastBound w).map fun n =>
      ({ regs := regs, chain := if pushes w then some x.1.1 else none, cycles := n + late } : UnderWay)
    result.toList ++ (if busy then [{ regs := [], chain := none, cycles := leastBusy w }] else [])

/-- R18: how many entries a bundle pushes onto a chain. -/
def pushedOn (chain : Option Nat) (b : Bundle) : Nat :=
  ((slotsOf b).filter fun x => chain == some x.1 && pushes x.2.1).length

/-- The registers that name what is under way, after so many pushes onto its chain. -/
def UnderWay.names (u : UnderWay) (depth : Nat) : List Reg :=
  u.regs ++ match u.chain with
    | some c => if depth ≤ 3 then [.queue (4 * c + depth)] else []
    | none => []

/-- Whether a bundle that a program may reach in the next `n` cycles, from points with the pushes since, fails a test. -/
def meetsWithin (code : List (Nat × Bundle)) (chain : Option Nat) (test : Nat → Bundle → Bool) : Nat → List (CodePoint × Nat) → Bool
  | 0, _ => false
  | n + 1, xs =>
    xs.any (fun x => (codeAt code x.1.pc).any (test x.2)) ||
      meetsWithin code chain test n (xs.flatMap fun x =>
        let depth := x.2 + ((codeAt code x.1.pc).map (pushedOn chain)).getD 0
        (nextPoints code x.1).map fun y => (y, depth)).eraseDups

/-- Whether some bundle fails a test while something that an earlier bundle started is under way. -/
def meetsUnderWay (code : List (Nat × Bundle)) (busy : Bool) (test : UnderWay → Nat → Bundle → Bool) : Bool :=
  code.any fun x => (startedBy busy x.2).any fun u =>
    meetsWithin code u.chain (test u) (u.cycles - 1)
      (((pointsAt code x.1).flatMap (nextPoints code)).map fun y => (y, 0)).eraseDups

/-- R106: whether a program reads inside a window of the latency table. -/
def readsInWindow (code : List (Nat × Bundle)) : Bool :=
  meetsUnderWay code false fun u depth b => bundleReads (u.names depth) b

/-- R284: a `probe` and the rest of its bundle. -/
def probeCrowded (b : Bundle) : Bool :=
  bundleHas isProbeWord b && ((slotsOf b).filter fun x => x.2.1 != nopWord).length != 1

/-- R284: whether a `probe` stands beside another syllable, or where a result or a busy state is under way. -/
def probeMisplaced (code : List (Nat × Bundle)) : Bool :=
  code.any (fun x => probeCrowded x.2) || meetsUnderWay code true fun _ _ b => bundleHas isProbeWord b

end Sys2Proof.Machine
end

