-- ==== Sys2Proof/Machine/Images.lean ====
section
/-!
DEFINITION. Loading and unloading images (R415, R416, R419), with the checks of the loader (R106, R416).
-/

namespace Sys2Proof.Machine

/-! ## Reading an image -/

/-- R419: a byte of an image, if it lies in the partition's ranges and is not poisoned. -/
def imageByte (k : Package) (p : Partition) (draw pa : Nat) : Option Byte :=
  let r := match reach k false pa with
    | .held => .at' pa
    | r => r
  if !inPartition p pa 1 || !inTier k pa 1 || r == .fault || reachedBad k r then none else some (reachedByte k draw pa r)

/-- R419: bytes of an image. -/
def imageBytes (k : Package) (p : Partition) (draw pa n : Nat) : Option (List Byte) :=
  (List.range n).mapM fun i => imageByte k p draw (pa + i)

/-- An entry of OVLOFS (R415). -/
structure RegionEntry where
  present : Bool
  resident : Bool
  count : Nat
  code : Nat
deriving DecidableEq, Repr

/-- The header of an image (R415). -/
structure ImageHeader where
  portable : Bool
  nbv : Nat
  id : Nat
  gen : Nat
  nent : Nat
  ncard : Nat
  ovlofs : Nat
  entofs : Nat
  dataofs : Nat
  datalen : Nat
  nsafe : Nat
  safeofs : Nat
  cardofs : Nat
  bodyofs : Nat
  bodylen : Nat
deriving DecidableEq, Repr

/-- R415: the header's bytes, if every field lies within its limits (the error 1 of R419). -/
def parseHeader (b : List Byte) : Option ImageHeader :=
  let f := bytesField b
  let h : ImageHeader :=
    { portable := f 4 1 == 1, nbv := f 5 1, id := f 6 2, gen := f 8 4, nent := f 12 2, ncard := f 14 2, ovlofs := f 16 8
      entofs := f 24 8, dataofs := f 32 8, datalen := f 40 4, nsafe := f 44 4, safeofs := f 48 8, cardofs := f 56 8
      bodyofs := f 64 8, bodylen := f 72 8 }
  let ok := f 0 4 == 0x474D494B && f 4 1 ≤ 1 && h.id ≤ 0xFFFE && 1 ≤ h.nent && h.nent ≤ 64 && h.ncard ≤ 256 &&
    h.datalen ≤ 262144 && f 80 176 == 0 &&
    (if h.portable then h.nsafe == 0 && h.safeofs == 0 else h.bodyofs == 0 && h.bodylen == 0)
  if ok then some h else none

/-- R415: an entry of OVLOFS. -/
def parseRegion (b : List Byte) : RegionEntry :=
  let f := bytesField b
  { present := natBit (f 0 1) 0, resident := natBit (f 0 1) 1, count := f 4 4, code := f 8 8 }

/-- R415, R417: what an entry of OVLOFS may hold. -/
def RegionEntry.ok (portable : Bool) (e : RegionEntry) : Bool :=
  if portable then e.count == 0 && e.code == 0 else !e.present || (1 ≤ e.count && e.count ≤ 256)

/-! ## The checks of the loader -/

/-- R106: the static part of R14 for one bundle. -/
def bundleIllFormed (b : Bundle) : Bool :=
  let ws := (slotsOf b).map (·.2.1)
  ws.any isHeader || overCommitted ws || sameTarget ((decodedSlots b).map fun x => targetsOf x.2)

/-- R106: whether some syllable of a bundle would fault under R100 groups 1 or 2. -/
def bundleFaults (b : Bundle) : Bool := (slotsOf b).any fun x => staticFault x.2.1 x.2.2

/-- R26: whether a control-flow syllable stands in a delay bundle. -/
def inDelay (code : List (Nat × Bundle)) (x : Nat × Bundle) : Bool :=
  bundleHas (fun w => isControl w && !isLoop w) x.2 &&
    [1, 2, 3].any fun i => ((codeAt code (x.1 + i)).map (bundleHas isControl)).getD false

/-- R28, R29: whether a `loop` has no body, or a body with another loop or with control flow in its last four bundles (log
entry 32). -/
def loopBroken (code : List (Nat × Bundle)) (x : Nat × Bundle) : Bool :=
  match loopOffset x.2 with
  | none => false
  | some e =>
    e == 0 || (List.range e).any fun i =>
      match codeAt code (x.1 + 1 + i) with
      | none => false
      | some b => bundleHas isLoop b || (e ≤ i + 4 && bundleHas isControl b)

/-- R106: whether a program would fault at issue under R100 groups 1 or 2, or under R14, or, where its schedule is checked, reads
inside a window. -/
def codeFaults (checked : Bool) (code : List (Nat × Bundle)) : Bool :=
  code.any (fun x => bundleIllFormed x.2 || bundleFaults x.2 || inDelay code x || loopBroken code x) ||
    probeMisplaced code || (checked && readsInWindow code)

/-- R106, R415: whether some card template of an image has CHECK, as `.sched check` writes it. -/
def checkedCards (ncard : Nat) (cards : List Byte) : Bool :=
  (List.range ncard).any fun i => natBit (bytesField cards (256 * i + 8) 8) 13

/-- R416: whether some `safe` or `yield` is not in the safe-point table. -/
def unlistedSafe (code : List (Nat × Bundle)) (table : List (Nat × Nat)) : Bool :=
  code.any fun x => (slotsOf x.2).any fun y => match liveMaskOf y.2.1 with
    | some m => !table.contains (x.1, m)
    | none => false

/-! ## Loading -/

/-- The error codes of IMGSTAT (R419). -/
def imgHeader : BitVec 8 := 1
def imgNbv : BitVec 8 := 2
def imgChecks : BitVec 8 := 3
def imgTranslate : BitVec 8 := 4
def imgInUse : BitVec 8 := 5
def imgFull : BitVec 8 := 6
def imgUnreadable : BitVec 8 := 7

/-- The error of a step of the loader that reads bytes or finds nothing. -/
def orError {α : Type} (e : BitVec 8) : Option α → Except (BitVec 8) α
  | some x => .ok x
  | none => .error e

/-- R415: the bundles of a region of a native image. -/
def imageRegion (k : Package) (p : Partition) (draw base : Nat) (x : RegionEntry × Nat) :
    Except (BitVec 8) (List (Nat × Bundle)) :=
  if !x.1.present then .ok []
  else match imageBytes k p draw (base + x.1.code) (16 * x.1.count) with
    | none => .error imgUnreadable
    | some bs => .ok ((List.range x.1.count).map fun i =>
        (256 * x.2 + i, BitVec.ofNat 128 (bytesField bs (16 * i) 16)))

/-- R415, R416: the code of a native image, checked. -/
def loadNative (k : Package) (p : Partition) (draw base : Nat) (h : ImageHeader) (regions : List RegionEntry)
    (checked : Bool) : Except (BitVec 8) (List (Nat × Bundle)) := do
  let code := (← regions.zipIdx.mapM (imageRegion k p draw base)).flatten
  let table ← orError imgUnreadable (imageBytes k p draw (base + h.safeofs) (4 * h.nsafe))
  let safes := (List.range h.nsafe).map fun i =>
    (natField (bytesField table (4 * i) 4) 0 12, natField (bytesField table (4 * i) 4) 12 9)
  if codeFaults checked code || unlistedSafe code safes then .error imgChecks else .ok code

/-- R417: the tables of a portable body, read and parsed. -/
def loadBody (k : Package) (p : Partition) (draw base len : Nat) : Except (BitVec 8) (List PortBlock × List PortRecord) := do
  let head ← orError imgUnreadable (imageBytes k p draw base 64)
  let h ← orError imgTranslate (portHeader head len)
  let bb ← orError imgUnreadable (imageBytes k p draw (base + h.blkofs) (16 * h.nblk))
  let bo ← orError imgUnreadable (imageBytes k p draw (base + h.opsofs) (16 * h.nops))
  let bd ← orError imgUnreadable (imageBytes k p draw (base + h.depofs) (8 * h.ndep))
  let blocks ← orError imgTranslate ((List.range h.nblk).mapM (portBlock bb))
  let deps ← orError imgTranslate ((List.range h.ndep).mapM (portDep bd))
  let recs ← orError imgTranslate ((List.range h.nops).mapM (portRecord bo deps))
  .ok (blocks, recs)

/-- R416 to R418: a portable body translated. -/
def loadPortable (k : Package) (p : Partition) (draw base : Nat) (h : ImageHeader) : Except (BitVec 8) Translated := do
  let (blocks, recs) ← loadBody k p draw (base + h.bodyofs) h.bodylen
  orError imgTranslate (translate blocks recs)

/-- R415, R417: the entry points; those of a portable image name blocks. -/
def loadEntries (es : List Nat) (starts : Option (List Nat)) : Except (BitVec 8) (List Nat) :=
  match starts with
  | none => .ok es
  | some ss => orError imgTranslate (es.mapM fun e => ss[e]?)

/-- R415 to R418: the image at an address. -/
def readImage (k : Package) (p : Partition) (draw base : Nat) : Except (BitVec 8) Image := do
  let head ← orError imgUnreadable (imageBytes k p draw base 256)
  let h ← orError imgHeader (parseHeader head)
  if h.nbv ≠ 1 then .error imgNbv
  if h.gen ≠ (if h.portable then 0 else 1) then .error imgChecks
  let ovl ← orError imgUnreadable (imageBytes k p draw (base + h.ovlofs) 256)
  let regions := (List.range 16).map fun i => parseRegion ((ovl.drop (16 * i)).take 16)
  if !regions.all (RegionEntry.ok h.portable) then .error imgHeader
  let ents ← orError imgUnreadable (imageBytes k p draw (base + h.entofs) (2 * h.nent))
  let es := (List.range h.nent).map fun i => natField (bytesField ents (2 * i) 2) 0 12
  let bytes ← orError imgUnreadable (imageBytes k p draw (base + h.dataofs) h.datalen)
  let cards ← orError imgUnreadable (imageBytes k p draw (base + h.cardofs) (256 * h.ncard))
  let t ← (if h.portable then loadPortable k p draw base h
    else (loadNative k p draw base h regions (checkedCards h.ncard cards)).map fun c => { code := c, starts := [] })
  let entries ← loadEntries es (if h.portable then some t.starts else none)
  .ok { id := BitVec.ofNat 16 h.id, nbv := h.nbv, entries := entries, code := t.code
        regions := (regions.zipIdx.filter (·.1.present)).map fun x => (x.2, x.1.resident), data := bytes }

/-- R419: whether a live task, or a card in a queue of the partition, names an image. -/
def imageInUse (s : State) (part : Nat) (id : BitVec 16) : Bool :=
  let p := partOf s.pkg part
  (taskCores s part).any (fun x => cardImage (taskCard x.2) == id) ||
    p.waiting.any fun w => cardImage (cardWords p w.card) == id

/-- R223, R419: every region tag of an image is cleared. -/
def clearTags (part : Nat) (id : BitVec 16) (s : State) : State :=
  let clear := fun (c : Core) =>
    { c with overlays := c.overlays.map fun t => if t.image = id && t.part = part then { t with valid := false } else t }
  (listedCores s).foldl (fun s x => onCoreAt x.1 clear s) s

/-- R419: the outcome of a command. -/
def imageError (part : Nat) (e : BitVec 8) : State → State := onPkg (onPart part fun p => { p with imgErr := e })

/-- R419: an image put in the place of any earlier one of its id. -/
def installImage (part : Nat) (i : Image) (s : State) : State :=
  let others := (partOf s.pkg part).images.filter fun x => x.id != i.id
  if imageInUse s part i.id then imageError part imgInUse s
  else if 64 ≤ others.length then imageError part imgFull s
  else imageError part 0 (clearTags part i.id (onPkg (onPart part fun p => { p with images := others ++ [i] }) s))

/-- R419: a load from IMGPA. -/
def takeImage (part : Nat) (s : State) : State :=
  let p := partOf s.pkg part
  let draw := s.choice
  let s := { s with choice := s.choice + 1 }
  match readImage s.pkg p draw p.imgpa.toNat with
  | .error e => imageError part e s
  | .ok i => installImage part i s

/-- R419: the command of a partition is over. -/
def endImageCommand (part : Nat) : State → State := onPkg (onPart part fun p => { p with imgCmd := none })

/-- R419: an id in use is not unloaded; one that is not loaded is done with. -/
def dropImage (part : Nat) (id : BitVec 16) (s : State) : State :=
  if imageInUse s part id then imageError part imgInUse s
  else imageError part 0 (clearTags part id
    (onPkg (onPart part fun q => { q with images := q.images.filter fun x => x.id != id }) s))

/-- R419: a load that has been commanded comes to its end. -/
def execImageLoad (p : Nat) (s : State) : Host.Outcome State Fault Refusal :=
  .next (if (partOf s.pkg p).imgCmd = some .load then endImageCommand p (takeImage p s) else s)

/-- R419: an unload that has been commanded comes to its end. -/
def execImageUnload (p : Nat) (id : BitVec 16) (s : State) : Host.Outcome State Fault Refusal :=
  .next (if (partOf s.pkg p).imgCmd = some (.unload id) then endImageCommand p (dropImage p id s) else s)

end Sys2Proof.Machine
end

