-- ==== Sys2Proof/Machine/Registers.lean ====
section
/-!
DEFINITION. The host's register accesses through BAR0: the registers at their offsets (R409 to R411), what a 32-bit access
reaches (R409), and what each write does (R5, R6).
-/

namespace Sys2Proof.Machine

/-- The registers of BAR0 that a write reaches: those of the package (R410), then those of a partition's window (R411), with
the number of the partition first. -/
inductive Register where
  | pcfg (n : Nat) | pmem (n k : Nat) | plim (n k : Nat)
  | apcfg (n : Nat) | apback (n : Nat) | app0 (n : Nat) | app1 (n : Nat)
  | mold (n : Nat) | mnew (n : Nat) | mlen (n : Nat) | mctl (n : Nat) | mhold
  | frepa (f : Nat) | frepb (f : Nat) | frapply (f : Nat)
  | pnode | ptbound | ppctl (k : Nat) | ppstat (k : Nat) | rtab (n : Nat)
  | qown | repcmd | pwrlim | clksel | therm
  | ptroot (p : Nat) | tlbiva (p : Nat) | tlbicmd (p : Nat) | sage (p : Nat) | wdclr (p : Nat)
  | imgpa (p : Nat) | imgcmd (p : Nat)
  | rbase (p k : Nat) | rcfg (p k : Nat) | rrst (p k : Nat) | qwdog (p k : Nat)
  | cqbase (p q : Nat) | cqcfg (p q : Nat) | cqridx (p q : Nat)
  | wgm (p i : Nat) | mbbase (p : Nat) | mbcfg (p : Nat) | mbrptr (p : Nat) | ordstall (p : Nat) | wclr (p : Nat)
  | grp (p g : Nat) | counter (p i : Nat) | stopsel (p : Nat) | stopcmd (p : Nat)
deriving DecidableEq, Repr

/-! ## The offsets -/

/-- R410: the writable register at an offset of package control space. -/
def packageRegister (o : Nat) : Option Register :=
  let block := o / 0x10000
  let r := o % 0x10000
  match block with
  | 0 =>
    let n := r / 0x100
    let i := r % 0x100
    if 16 ≤ n then none
    else if i = 0 then some (.pcfg n)
    else if 0x40 ≤ i && i < 0xC0 then
      (if i % 16 = 0 then some (.pmem n ((i - 0x40) / 16)) else if i % 16 = 8 then some (.plim n ((i - 0x40) / 16)) else none)
    else none
  | 1 =>
    let n := r / 0x20
    if 64 ≤ n then none
    else match r % 0x20 with
      | 0 => some (.apcfg n)
      | 8 => some (.apback n)
      | 16 => some (.app0 n)
      | 24 => some (.app1 n)
      | _ => none
  | 2 =>
    let n := r / 0x40
    if r = 0x400 then some .mhold
    else if 16 ≤ n then none
    else match r % 0x40 with
      | 0 => some (.mold n)
      | 8 => some (.mnew n)
      | 0x10 => some (.mlen n)
      | 0x20 => some (.mctl n)
      | _ => none
  | 3 =>
    let f := r / 0x20
    if 16 ≤ f then none
    else match r % 0x20 with
      | 0 => some (.frepa f)
      | 8 => some (.frepb f)
      | 16 => some (.frapply f)
      | _ => none
  | 4 =>
    if r = 0 then some .pnode
    else if r = 8 then some .ptbound
    else if 0x100 ≤ r && r < 0x200 then
      (if r % 16 = 0 then some (.ppctl ((r - 0x100) / 16)) else if r % 16 = 8 then some (.ppstat ((r - 0x100) / 16)) else none)
    else if 0x400 ≤ r && r < 0xC00 && r % 8 = 0 then some (.rtab ((r - 0x400) / 8))
    else none
  | 5 => if r = 0 then some .qown else none
  | 6 =>
    match r with
    | 0 => some .repcmd
    | 0x10 => some .pwrlim
    | 0x20 => some .clksel
    | 0x28 => some .therm
    | _ => none
  | _ => none

/-- R411: the writable register at an offset of the window of partition `p`. -/
def windowRegister (p o : Nat) : Option Register :=
  match o with
  | 0x000 => some (.ptroot p)
  | 0x008 => some (.tlbiva p)
  | 0x010 => some (.tlbicmd p)
  | 0x100 => some (.sage p)
  | 0x208 => some (.wdclr p)
  | 0x400 => some (.imgpa p)
  | 0x408 => some (.imgcmd p)
  | 0x2200 => some (.mbbase p)
  | 0x2208 => some (.mbcfg p)
  | 0x2218 => some (.mbrptr p)
  | 0x2220 => some (.ordstall p)
  | 0x2230 => some (.wclr p)
  | 0x10000 => some (.stopsel p)
  | 0x14000 => some (.stopcmd p)
  | _ =>
    if 0x1000 ≤ o && o < 0x1200 then
      let k := (o - 0x1000) / 0x40
      (match o % 0x40 with
       | 0 => some (.rbase p k)
       | 8 => some (.rcfg p k)
       | 0x20 => some (.rrst p k)
       | 0x28 => some (.qwdog p k)
       | _ => none)
    else if 0x1400 ≤ o && o < 0x1600 then
      let q := (o - 0x1400) / 0x20
      (match o % 0x20 with
       | 0 => some (.cqbase p q)
       | 8 => some (.cqcfg p q)
       | 24 => some (.cqridx p q)
       | _ => none)
    else if 0x2000 ≤ o && o < 0x2200 && o % 8 = 0 then some (.wgm p ((o - 0x2000) / 0x20 * 4 + (o - 0x2000) % 0x20 / 8))
    else if 0x4008 ≤ o && o < 0x4800 && o % 8 = 0 then some (.grp p ((o - 0x4000) / 8))
    else if 0x8000 ≤ o && o < 0x10000 && o % 8 = 0 then some (.counter p ((o - 0x8000) / 8))
    else none

/-- R409: the register that an aligned offset of a function's BAR0 reaches. -/
def registerAt (fn o : Nat) : Option Register :=
  if 16 ≤ fn then none
  else if fn ≠ 0 then (if o < 0x200000 then windowRegister fn o else none)
  else if o < 0x2000000 then packageRegister o
  else if o < 0x4000000 then windowRegister ((o - 0x2000000) / 0x200000) (o % 0x200000)
  else none

/-! ## What a register holds -/

/-- A truth value as the lowest bit of a register. -/
def regBit (b : Bool) : BitVec 64 := if b then 1 else 0

/-- R5: the fields of a register that a host's write of one half keeps; a register whose fields are all write-only has none,
and a bit that clears on a 1 counts as 0. -/
def registerValue (k : Package) : Register → BitVec 64
  | .pcfg n => (partOf k n).frames.setWidth 64 ||| (partOf k n).ports.setWidth 64 <<< 16 ||| regBit (partOf k n).en <<< 32
  | .pmem n j => vget (partOf k n).pmem j 0
  | .plim n j => vget (partOf k n).plim j 0
  | .apcfg n => (apertureOf k n).cfg
  | .apback n => (apertureOf k n).back
  | .app0 n => (apertureOf k n).p0
  | .app1 n => (apertureOf k n).p1
  | .mold n => (migrationOf k n).old
  | .mnew n => (migrationOf k n).new
  | .mlen n => (migrationOf k n).lines.setWidth 64
  | .mctl n => regBit (migrationOf k n).en
  | .mhold => k.mhold.setWidth 64
  | .frepa f => (vget k.frames f Frame.reset).frepa
  | .frepb f => (vget k.frames f Frame.reset).frepb
  | .frapply _ => 0
  | .pnode => k.pnode.setWidth 64
  | .ptbound => k.ptbound.setWidth 64
  | .ppctl n => regBit (portOf k n).en ||| regBit (portOf k n).wagReg <<< 1
  | .ppstat _ => 0
  | .rtab n => ((k.rtab.find? fun e => e.1 == n).map fun e => e.2.setWidth 64).getD 0
  | .qown => k.qown.setWidth 64
  | .repcmd => 0
  | .pwrlim => k.pwrlim.setWidth 64
  | .clksel => k.clksel.setWidth 64
  | .therm => k.warn.setWidth 64 <<< 8
  | .ptroot p => (partOf k p).ptroot
  | .tlbiva p => (partOf k p).tlbiva
  | .tlbicmd _ => 0
  | .sage p => (partOf k p).sage.setWidth 64
  | .wdclr _ => 0
  | .imgpa p => (partOf k p).imgpa
  | .imgcmd _ => 0
  | .rbase p r => (ringOf (partOf k p) r).base
  | .rcfg p r => BitVec.ofNat 64 (ringOf (partOf k p) r).log2n ||| regBit (ringOf (partOf k p) r).en <<< 8
  | .rrst _ _ => 0
  | .qwdog p r => (ringOf (partOf k p) r).limit.setWidth 64
  | .cqbase p q => (queueOf (partOf k p) q).base
  | .cqcfg p q => BitVec.ofNat 64 (queueOf (partOf k p) q).log2n ||| regBit (queueOf (partOf k p) q).en <<< 8
  | .cqridx p q => (queueOf (partOf k p) q).ridx.setWidth 64
  | .wgm p i => (((partOf k p).wgm.find? fun e => e.1 == i).map (·.2)).getD 0
  | .mbbase p => (partOf k p).mbbase
  | .mbcfg p => BitVec.ofNat 64 (partOf k p).mbLog2n ||| (partOf k p).mbSig.setWidth 64 <<< 16
  | .mbrptr p => (partOf k p).mbrptr
  | .ordstall p => (partOf k p).ordstall.setWidth 64
  | .wclr _ => 0
  | .grp p g => BitVec.ofNat 64 (groupOf (partOf k p) g).size
  | .counter p i => counterOf (partOf k p) i
  | .stopsel p => (partOf k p).stopsel
  | .stopcmd _ => 0

/-- R409: the 64 bits that a 32-bit write of the low or high half amounts to. -/
def mergeHalf (old v : BitVec 64) (high : Bool) : BitVec 64 :=
  let w := v &&& 0xFFFFFFFF
  if high then (old &&& 0xFFFFFFFF) ||| w <<< 32 else (old &&& 0xFFFFFFFF00000000) ||| w

/-! ## What a write does -/

/-- An entry of a list by number, replaced. -/
def putEntry {α : Type} (n : Nat) (x : α) (l : List (Nat × α)) : List (Nat × α) := (l.filter fun e => e.1 != n) ++ [(n, x)]

/-- R423: a write to an aperture register, ignored while the aperture belongs to a locked partition. -/
def writeAperture (n : Nat) (f : Aperture → Aperture) (k : Package) : Package :=
  if apertureLocked k n then k else onAperture n f k

/-- R244: a write of TLBICMD. -/
def writeTlbicmd (p : Nat) (v : BitVec 64) (s : State) : Host.Outcome State Fault Refusal :=
  if v.getLsbD 32 then execTlbRefresh p (v.setWidth 32) s else execTlbRevoke p (v.setWidth 32) s

/-- R419: a write of IMGCMD starts a command; 0 and 3 are ignored, and so is a write while a command runs. -/
def writeImgcmd (v : BitVec 64) (p : Partition) : Partition :=
  if p.imgCmd.isSome then p
  else match (v.extractLsb' 0 2).toNat with
  | 1 => { p with imgCmd := some .load }
  | 2 => { p with imgCmd := some (.unload (v.extractLsb' 16 16)) }
  | _ => p

/-- R353: a write of STOPCMD; a CMD of 0 or 3 is ignored, and so is a write with a reserved bit that is not 0. -/
def writeStopcmd (p : Nat) (v : BitVec 64) (s : State) : Host.Outcome State Fault Refusal :=
  if v &&& ~~~0xFF03#64 ≠ 0 then .next s
  else match (v.extractLsb' 0 2).toNat with
  | 1 => execStopcmdResume p s
  | 2 => execStopcmdEnd p (v.extractLsb' 8 8) s
  | _ => .next s

/-- R426: a write of REPCMD; another KIND is ignored. -/
def writeRepcmd (v : BitVec 64) (s : State) : Host.Outcome State Fault Refusal :=
  match (v.extractLsb' 0 4).toNat with
  | 1 => execHbmRowRepair v s
  | 2 => execHbmBankRepair v s
  | 3 => execUcieLaneRepair v s
  | 4 => execPodLaneRepair v s
  | 5 => execSuperTierRemap v s
  | _ => .next s

/-- R251: a write of MCTL. -/
def writeMctl (n : Nat) (v : BitVec 64) (s : State) : Host.Outcome State Fault Refusal :=
  if v.getLsbD 0 then execMigrationStart n s else execMigrationRetire n s

/-- R430: WARN is written, WARNED clears on a 1. A threshold that comes down to TMAX is a warning (log entry 68). -/
def writeTherm (v : BitVec 64) (k : Package) : Package :=
  let new := { k with warn := v.extractLsb' 8 8, warned := k.warned && !v.getLsbD 16 }
  if k.warn ≤ k.tmax then new else warnHeat new

/-- R208: a write of RCFG. -/
def writeRcfg (v : BitVec 64) (r : Ring) : Ring := { r with log2n := writeLog2n r.log2n v, en := v.getLsbD 8 }

/-- A write to a register, all 64 bits of it; the reserved bits of each are ignored (R6). -/
def writeRegister (r : Register) (v : BitVec 64) (s : State) : Host.Outcome State Fault Refusal :=
  let pkg := fun (f : Package → Package) => (.next (onPkg f s) : Host.Outcome State Fault Refusal)
  let part := fun (p : Nat) (f : Partition → Partition) => pkg (onPart p f)
  match r with
  | .pcfg n => execPcfgWrite n v s
  | .pmem n j => execPmemWrite n j v s
  | .plim n j => execPlimWrite n j v s
  | .apcfg n => execApcfgWrite n v s
  | .apback n => pkg (writeAperture n fun a => { a with back := v &&& 0x000FFFFFFFFFFFC0 })
  | .app0 n => pkg (writeAperture n fun a => { a with p0 := v })
  | .app1 n => pkg (writeAperture n fun a => { a with p1 := v })
  | .mold n => pkg (onMigration n fun m => { m with old := v &&& 0x000FFFFFFFFFFF00 })
  | .mnew n => pkg (onMigration n fun m => { m with new := v &&& 0x000FFFFFFFFFFF00 })
  | .mlen n => pkg (onMigration n fun m => { m with lines := v.setWidth 32 })
  | .mctl n => writeMctl n v s
  | .mhold => pkg fun k => { k with mhold := v.setWidth 32 }
  | .frepa f => pkg (onFrame f fun x => { x with frepa := writeColumns x.frepa v })
  | .frepb f => pkg (onFrame f fun x => { x with frepb := writeColumns x.frepb v })
  | .frapply f => if v.getLsbD 0 then execFrapplyGo f s else .next s
  | .pnode => pkg fun k => { k with pnode := v.setWidth 8 }
  | .ptbound => pkg fun k => { k with ptbound := v.setWidth 16 }
  | .ppctl n => execPpctlWrite n v s
  | .ppstat n => pkg (onPort n fun p => { p with terr := p.terr && !v.getLsbD 1, regr := p.regr && !v.getLsbD 2 })
  | .rtab n => pkg fun k => { k with rtab := putEntry n (v.setWidth 5) k.rtab }
  | .qown => execQownWrite v s
  | .repcmd => writeRepcmd v s
  | .pwrlim => execPwrlimWrite v s
  | .clksel => execClkselWrite v s
  | .therm => pkg (writeTherm v)
  | .ptroot p => part p fun q => { q with ptroot := v &&& 0x00FFFFFFFFF00001 }
  | .tlbiva p => part p fun q => { q with tlbiva := v &&& 0x007FFFFFFFFF0000 }
  | .tlbicmd p => writeTlbicmd p v s
  | .sage p => part p fun q => { q with sage := v.setWidth 32 }
  | .wdclr p => if v.getLsbD 0 then execWdclrGo p s else .next s
  | .imgpa p => part p fun q => { q with imgpa := v &&& 0x000FFFFFFFFFFF00 }
  | .imgcmd p => part p (writeImgcmd v)
  | .rbase p n => part p (onRing n fun x => { x with base := v &&& 0x007FFFFFFFFFFF00 })
  | .rcfg p n => part p (onRing n (writeRcfg v))
  | .rrst p n => execRingReset p n (v.setWidth 32) s
  | .qwdog p n => part p (onRing n fun x => { x with limit := v.setWidth 32 })
  | .cqbase p n => part p (onQueue n fun x => { x with base := v &&& 0x000FFFFFFFFFFF00 })
  | .cqcfg p n => execCqcfgWrite p n v s
  | .cqridx p n => part p (onQueue n fun x => { x with ridx := v.setWidth 32 })
  | .wgm p i => part p fun q => { q with wgm := putEntry i v q.wgm }
  | .mbbase p => execMbbaseWrite p v s
  | .mbcfg p => execMbcfgWrite p v s
  | .mbrptr p => execMbrptrWrite p v s
  | .ordstall p => part p fun q => { q with ordstall := v.setWidth 32 }
  | .wclr p => if v.getLsbD 0 then execWclrGo p s else .next s
  | .grp p g => execGrpWrite p g v s
  | .counter p i => execEventCounterWrite p i v s
  | .stopsel p => part p fun q => { q with stopsel := v &&& 0xBF3F }
  | .stopcmd p => writeStopcmd p v s

/-- R208, R251, R409: a write of the half of MCTL or of CQCFG that holds no writable field does nothing. -/
def touchesNothing (high : Bool) : Register → Bool
  | .mctl _ => high
  | .cqcfg _ _ => high
  | _ => false

/-- R409: a write of a function to BAR0: 64 bits at an offset of 8, or 32 at an offset of 4; any other, and one that reaches no
writable register, is ignored. -/
def writeBar0 (r : HostReg) (v : BitVec 64) (s : State) : Host.Outcome State Fault Refusal :=
  let o := r.offset / 8 * 8
  if r.offset % (if r.wide then 8 else 4) ≠ 0 then .next s
  else match registerAt r.fn o with
    | none => .next s
    | some x =>
      if touchesNothing (!r.wide && r.offset % 8 = 4) x then .next s
      else writeRegister x (if r.wide then v else mergeHalf (registerValue s.pkg x) v (r.offset % 8 = 4)) s

/-- R412: a write of a function to BAR2: an aligned 32-bit write at the offset of a ring's doorbell, or nothing. -/
def writeBar2 (r : HostReg) (v : BitVec 64) (s : State) : Host.Outcome State Fault Refusal :=
  if !r.wide && r.offset % 0x1000 = 0 && r.offset < 0x8000 && r.fn < 16 then execDoorbell r.fn (r.offset / 0x1000) (v.setWidth 32) s
  else .next s

/-! ## MSI-X -/

/-- R414: the pending messages of a function that nothing holds back any more are raised. -/
def sendPending (fn : Nat) (k : Package) : Package :=
  (List.range 64).foldl (fun k v =>
    let t := msixOf k fn
    if t.pending.getLsbD v && t.passes v then
      { k with raised := (fn, v) :: k.raised, msix := vset k.msix fn { t with pending := setBit t.pending v false } }
    else k) k

/-- R414: a 32-bit write to the MSI-X structure of a function: the mask of a vector in its entry of 16 bytes, or Enable and
Function Mask in the capability (log entry 66). -/
def writeMsix (fn offset : Nat) (v : BitVec 32) (k : Package) : Package :=
  let t := msixOf k fn
  if 16 ≤ fn then k
  else if offset = 0x1000 then sendPending fn { k with msix := vset k.msix fn { t with en := v.getLsbD 31, hush := v.getLsbD 30 } }
  else if offset < 0x400 && offset % 16 = 12 then
    sendPending fn { k with msix := vset k.msix fn { t with masks := setBit t.masks (offset / 16) (v.getLsbD 0) } }
  else k

/-- R414: 32 bits of the MSI-X structure: a vector's mask, the pending bits from 0x800, and the capability's control (log entry 66). -/
def readMsix (fn offset : Nat) (k : Package) : BitVec 32 :=
  let t := msixOf k fn
  if offset = 0x1000 then
    (if t.en then 0x80000000 else 0) ||| (if t.hush then 0x40000000 else 0) ||| 0x003F0000
  else if offset = 0x800 then t.pending.setWidth 32
  else if offset = 0x804 then (t.pending >>> 32).setWidth 32
  else if offset < 0x400 && offset % 16 = 12 then (if t.masks.getLsbD (offset / 16) then 1 else 0)
  else 0

end Sys2Proof.Machine
end

