-- ==== Sys2Proof/Machine/HostRead.lean ====
section
/-!
DEFINITION. What the host reads through BAR0 (R409 to R411): every register with its read-only fields, the stop record of the
core that STOPSEL selects (R350 to R352), STOPSTAT (R353), and the error logs (R425); and the host's accesses to registers as a
whole (R408, R409, R412, R414, R421).
-/

namespace Sys2Proof.Machine

/-! ## The stop record -/

/-- R352: word `j` of the entry that a queue snapshot holds for a command. -/
def snapshotWord (m : Command) (j : Nat) : BitVec 64 :=
  let two := m.kind == .g2g
  match j with
  | 0 => m.syl.setWidth 64 ||| m.lend.setWidth 64 <<< 32 ||| m.pc.setWidth 64 <<< 48
  | 1 => m.op1
  | 2 => m.op2
  | 3 => if two then m.op3 else 0
  | 4 => m.str0.setWidth 64
  | 5 => m.str1.setWidth 64
  | 6 => m.cidx.setWidth 64
  | 7 => BitVec.ofNat 64 m.done
  | 8 => handleItem m.src 0
  | 9 => handleItem m.src 1
  | 10 => handleItem m.src 2
  | 12 => if two then handleItem m.dst 0 else 0
  | 13 => if two then handleItem m.dst 1 else 0
  | 14 => if two then handleItem m.dst 2 else 0
  | _ => 0

/-- R351: word `j` of a queue snapshot, oldest command first. -/
def queueWord (ms : List Command) (j : Nat) : BitVec 64 :=
  match ms[j / 16]? with
  | some m => snapshotWord m (j % 16)
  | none => 0

/-- R351: word `j` of the entry of stream C0 or C1. -/
def copyEntryWord (f : Option StreamFault) (retries queued j : Nat) : BitVec 64 :=
  match f with
  | none => 0
  | some f =>
    match j with
    | 0 => f.code.setWidth 64 ||| f.cause.setWidth 64 <<< 8 ||| f.pc.setWidth 64 <<< 16 ||| BitVec.ofNat 64 (min 15 retries) <<< 32
    | 1 => f.addr
    | 2 => BitVec.ofNat 64 queued
    | _ => 0

/-- R351: word `j` of the entry of stream M. -/
def matrixEntryWord (f : Option StreamFault) (j : Nat) : BitVec 64 :=
  match f, j with
  | some f, 0 => f.code.setWidth 64 ||| f.pc.setWidth 64 <<< 16 ||| BitVec.ofNat 64 (f.tile % 16) <<< 32 |||
      BitVec.ofNat 64 (f.qb % 2) <<< 36 ||| regBit f.onBank <<< 37
  | _, _ => 0

/-- R351: word `j` of the entry of stream D. -/
def decodeEntryWord (r : StopRecord) (j : Nat) : BitVec 64 :=
  match r.d with
  | none => 0
  | some f =>
    match j with
    | 0 => f.code.setWidth 64 ||| f.pc.setWidth 64 <<< 16 ||| regBit (f.stream == 1) <<< 32
    | 1 => BitVec.ofNat 64 (r.dTile % 2 ^ 21)
    | 2 => BitVec.ofNat 64 (r.dPos % 2 ^ 32 + r.dWptr % 2 ^ 32 * 2 ^ 32)
    | _ => 0

/-- R351: word `j` of the entry of stream S. -/
def sequencerEntryWord (r : StopRecord) (j : Nat) : BitVec 64 :=
  if !r.streams.getLsbD 0 then 0
  else match j with
    | 0 => r.pc.setWidth 64 ||| regBit r.transfer.taken <<< 12 ||| BitVec.ofNat 64 (r.transfer.count % 4) <<< 13 |||
        regBit r.ended <<< 15 ||| (if r.transfer.taken then r.transfer.target.setWidth 64 <<< 16 else 0) |||
        r.slotMask.setWidth 64 <<< 28 ||| r.slotCodes.setWidth 64 <<< 32
    | 1 => r.faddr
    | _ => 0

/-- R350, R351: the 8 bytes of a stop record from offset 8 × `i`. -/
def recordWord (r : StopRecord) (i : Nat) : BitVec 64 :=
  if i = 0 then
    regBit r.valid ||| regBit r.fatal <<< 1 ||| regBit r.held <<< 2 ||| r.streams.setWidth 64 <<< 3 ||| r.code.setWidth 64 <<< 16
  else if i = 1 then r.serial.setWidth 64 ||| r.replica.setWidth 64 <<< 24 ||| r.image.setWidth 64 <<< 36
  else if i = 2 then r.cyc
  else if i = 3 then r.frz
  else if 8 ≤ i && i < 16 then sequencerEntryWord r (i - 8)
  else if 16 ≤ i && i < 24 then copyEntryWord r.c0 r.retries0 r.queue0.length (i - 16)
  else if 24 ≤ i && i < 32 then copyEntryWord r.c1 r.retries1 r.queue1.length (i - 24)
  else if 32 ≤ i && i < 40 then matrixEntryWord r.m (i - 32)
  else if 40 ≤ i && i < 48 then decodeEntryWord r (i - 40)
  else if 64 ≤ i && i < 320 then queueWord r.queue0 (i - 64)
  else if 320 ≤ i && i < 576 then queueWord r.queue1 (i - 320)
  else if 576 ≤ i && i < 704 then queueWord r.queueD (i - 576)
  else 0

/-! ## Read-only registers -/

/-- R353: no bundle issues on a core that a stop holds (log entry 58). -/
def Mode.stoppedStat : Mode → Bool
  | .stopping => true
  | .stopped _ => true
  | .forced => true
  | _ => false

/-- R353: STOPSTAT of a core. -/
def stopStat (c : Core) : BitVec 64 := regBit c.mode.stoppedStat ||| regBit (c.mode == .stopped true) <<< 1

/-- R425: word `i` of an error log. -/
def logWord (l : ErrorLog) (i : Nat) : BitVec 64 :=
  if i = 1024 then BitVec.ofNat 64 l.index
  else if i = 1025 then BitVec.ofNat 64 l.overflow
  else if 1024 < i then 0
  else match l.entries[i / 4]? with
    | none => 0
    | some e =>
      match i % 4 with
      | 0 => e.kind.setWidth 64 ||| e.unit.setWidth 64 <<< 8 ||| e.count.setWidth 64 <<< 16
      | 1 => e.addr
      | 2 => e.time
      | _ => 0

/-- R410: what an offset of package control space holds that no write reaches. -/
def packageReadOnly (k : Package) (o : Nat) : BitVec 64 :=
  let r := o % 0x10000
  match o / 0x10000 with
  | 0 => if r < 0x1000 && r % 0x100 = 8 then (partOf k (r / 0x100)).pmiss.setWidth 64 else 0
  | 2 => if r < 0x400 && r % 0x40 = 0x18 then (migrationOf k (r / 0x40)).p.setWidth 64 else 0
  | 3 =>
    let f := vget k.frames (r / 0x20) Frame.reset
    if r < 0x200 && r % 0x20 = 0x18 then f.failcol.setWidth 64 ||| BitVec.ofNat 64 (activeColumns f) <<< 16 else 0
  | 6 =>
    if r = 8 then regBit k.repBusy ||| k.repErr.setWidth 64 <<< 8
    else if r = 0x18 then k.power.setWidth 64 ||| BitVec.ofNat 64 k.duty <<< 12
    else if r = 0x30 then BitVec.ofNat 64 k.supcap
    else 0
  | 7 => logWord k.log (r / 8)
  | _ => 0

/-- R411: what an offset of a partition's window holds that no write reaches. -/
def windowReadOnly (s : State) (n o : Nat) : BitVec 64 :=
  let p := partOf s.pkg n
  let selected := (selectedCore s.pkg n).map (coreState s)
  if o = 0x018 then regBit p.tlbiBusy
  else if o = 0x200 then
    regBit p.draining ||| regBit p.stopped <<< 1 ||| BitVec.ofNat 64 (p.wdRing % 8) <<< 2 ||| p.wdForced.setWidth 64 <<< 16 |||
      p.wdLost.setWidth 64 <<< 32
  else if o = 0x410 then regBit p.imgCmd.isSome ||| p.imgErr.setWidth 64 <<< 8
  else if 0x1000 ≤ o && o < 0x1200 then
    let r := ringOf p ((o - 0x1000) / 0x40)
    (if o % 0x40 = 0x10 then regBit r.overrun else if o % 0x40 = 0x18 then r.r.setWidth 64 else 0)
  else if 0x1400 ≤ o && o < 0x1600 then
    (if o % 0x20 = 0x10 then (queueOf p ((o - 0x1400) / 0x20)).widx.setWidth 64 else 0)
  else if o = 0x2210 then p.mbw.setWidth 64
  else if o = 0x2228 then regBit p.stalled ||| BitVec.ofNat 64 (p.stallPort % 32) <<< 1 ||| BitVec.ofNat 64 (p.stallCause % 4) <<< 6
  else if 0x12000 ≤ o && o < 0x14000 then (selected.map fun c => recordWord c.record ((o - 0x12000) / 8)).getD 0
  else if o = 0x14008 then (selected.map stopStat).getD 0
  else if 0x20000 ≤ o && o < 0x30000 then logWord p.log ((o - 0x20000) / 8)
  else 0

/-! ## A read -/

/-- The fields of a writable register that a write of one half does not keep: read-only ones, and those that clear on a 1. -/
def readOnlyFields (k : Package) : Register → BitVec 64
  | .mctl n => regBit (migrationOf k n).done <<< 1
  | .ppstat n =>
    let p := portOf k n
    regBit p.up ||| regBit p.terr <<< 1 ||| regBit p.regr <<< 2 ||| p.lanes.setWidth 64 <<< 8 ||| p.misr.setWidth 64 <<< 16
  | .therm => k.tmax.setWidth 64 ||| regBit k.warned <<< 16
  | .cqcfg p q => (queueOf (partOf k p) q).drop.setWidth 64 <<< 16
  | .grp p g => (groupOf (partOf k p) g).gen.setWidth 64 <<< 32
  | _ => 0

/-- R409: the 64 bits at an aligned offset of a function's BAR0; an offset that nothing is at reads 0. -/
def barWord (s : State) (fn o : Nat) : BitVec 64 :=
  match registerAt fn o with
  | some r => registerValue s.pkg r ||| readOnlyFields s.pkg r
  | none =>
    if 16 ≤ fn then 0
    else if fn ≠ 0 then (if o < 0x200000 then windowReadOnly s fn o else 0)
    else if o < 0x2000000 then packageReadOnly s.pkg o
    else if o < 0x4000000 then windowReadOnly s ((o - 0x2000000) / 0x200000) (o % 0x200000)
    else 0

/-- R409, R424: what a function reads through BAR0: 64 bits at an offset of 8, or 32 at an offset of 4; any other access reads 0.
A package that has not booted, or is in recovery mode, does not respond. -/
def hostRead (s : State) (r : HostReg) : Option (BitVec 64) :=
  let w := barWord s r.fn (r.offset / 8 * 8)
  if !s.pkg.booted then none
  else if r.offset % (if r.wide then 8 else 4) ≠ 0 then some 0
  else if r.wide then some w
  else some (if r.offset % 8 = 4 then w >>> 32 else w &&& 0xFFFFFFFF)

/-! ## The host's accesses -/

/-- The bytes of an access. -/
def accessSize (r : HostReg) : Nat := if r.wide then 8 else 4

/-- R409, R412, R414: the data of a read; what configuration space holds beyond the MSI-X capability is free (log entry 66). -/
def readData (r : HostReg) (s : State) : BitVec 64 :=
  match r.space with
  | .bar0 => (hostRead s r).getD 0
  | .bar2 => 0
  | .msix =>
    if r.wide then readMsix r.fn (r.offset + 4) s.pkg ++ readMsix r.fn r.offset s.pkg
    else (readMsix r.fn r.offset s.pkg).setWidth 64
  | .config => BitVec.ofNat 64 (Config.freeValue 5002 s.choice r.offset)

/-- R409, R412, R414: a write. -/
def writeData (r : HostReg) (v : BitVec 64) (s : State) : Host.Outcome State Fault Refusal :=
  match r.space with
  | .bar0 => writeBar0 r v s
  | .bar2 => writeBar2 r v s
  | .msix =>
    .next (onPkg (fun k =>
      let k := writeMsix r.fn r.offset (v.setWidth 32) k
      if r.wide then writeMsix r.fn (r.offset + 4) ((v >>> 32).setWidth 32) k else k) s)
  | .config => .next s

/-- R408, R409, R421: a host's access to registers: a configuration request to a package that has not booted is to be tried again, an
AtomicOp is unsupported, a read completes with its data, and so does a configuration write with none. -/
def execRegisterWrite (r : HostReg) (v : BitVec 64) (s : State) : Host.Outcome State Fault Refusal :=
  let done := fun (bytes : List Byte) (st : CompletionStatus) (s : State) =>
    onPkg (complete { fn := r.fn, bytes := bytes, poisoned := false, status := st }) s
  if r.space = .config && !s.pkg.booted then .next (done [] .retry s)
  else match r.op with
    | .atomic => .next (done [] .unsupported s)
    | .read => .next { done (toBytes (accessSize r) (readData r s).toNat) .ok s with choice := s.choice + 1 }
    | .write => if r.space = .config then .next (done [] .ok s) else writeData r v s

end Sys2Proof.Machine
end

