-- ==== Sys2Proof/Machine/Agenda.lean ====
section
/-!
DEFINITION. The steps of one package cycle in order (log entries 1 and 2), what may come from outside between them, and
placing an instruction for the next step.
-/

namespace Sys2Proof.Machine

/-! ## What is drawn -/

/-- A step of a cycle, and whether it is drawn that it happens in this cycle. -/
structure Planned where
  drawn : Bool
  step : DeviceStep
deriving DecidableEq, Repr

/-- A step that happens in its cycle, and one that traffic of variable delay may put off. -/
def sure (i : DeviceStep) : Planned := { drawn := false, step := i }
def maybe (i : DeviceStep) : Planned := { drawn := true, step := i }

/-- The steps that happen, draws counted from `base` (log entry 2). -/
def settlePlan (base : Nat) (ps : List Planned) : List DeviceStep :=
  (ps.zipIdx.filter fun x => !x.1.drawn || Config.proceeds (base + x.2)).map fun x => x.1.step

/-- R245, R303: traffic of one cycle in a drawn order (log entry 2). -/
def shuffle (base : Nat) (ps : List Planned) : List Planned :=
  let keyed := ps.zipIdx.map fun x => (Config.freeValue 5004 base x.2, x.1)
  (keyed.mergeSort fun a b => a.1 ≤ b.1).map (·.2)

/-! ## Cores -/

/-- What may happen to a global access of core `n`. -/
def accessSteps (n : Nat) (c : Core) (a : Access) : List Planned :=
  match a.kind with
  | .load _ _ _ =>
    if !a.performed then [maybe (.memoryAccessPerformed n a.id)]
    else if a.faulted then [maybe (.apertureFaultReport n a.id)]
    else if allHere a.places then [maybe (.globalLoadReturn n a.id)] else []
  | .store =>
    if !a.performed then [maybe (.memoryAccessPerformed n a.id)]
    else if a.faulted then [maybe (.apertureFaultReport n a.id)]
    else if allHere a.places then [maybe (.postedWriteAck n a.id)] else []
  | .amo _ _ _ _ _ _ =>
    if !a.performed then [maybe (.amoPerformed n a.id)]
    else if a.faulted then [maybe (.apertureFaultReport n a.id)]
    else if !allHere a.places then []
    else if a.returns c then [maybe (.atomicReturn n a.id)] else [maybe (.postedWriteAck n a.id)]

/-- The engines of a core: C0, C1, the decode engine, and one for each bound command. -/
def engineNumbers (c : Core) : List Nat := List.range (3 + c.bound.length)

/-- Whether an answer to a command needs nothing from outside the package: no copy of an `osend`, and no acknowledgement of
another package's participant. -/
def answersHere (k : Package) (c : Core) (e i : Nat) : Bool :=
  match answerAt k (engineQueue c e) i with
  | none => false
  | some (m, j) =>
    if m.kind = .osend then false
    else if m.kind.collective then j < m.parts.length || 2 * m.parts.length ≤ j
    else true

/-- The answer that comes to an engine in a cycle, if any: which one is drawn (log entry 2). -/
def answerSteps (k : Package) (n : Nat) (c : Core) (e : Nat) : List Planned :=
  let total := ((engineQueue c e).map (answerSlots k)).sum
  let i := Config.freeValue 5005 k.cycle (8192 * e + n) % total
  if total = 0 || !answersHere k c e i then [] else [maybe (.engineResponseArrival n e i)]

/-- R303: the request that an engine may send in a cycle; an edge-copy engine's are those of its frame. -/
def sendSteps (n : Nat) (c : Core) (e : Nat) : List Planned :=
  if 3 ≤ e && (c.bound[e - 3]?).any (·.kind == 2) then [] else [maybe (.engineRequestSend n e)]

/-- R385: the commands in the queue of a frame's edge-copy engine, by engine number, with the requests that each has left. -/
def edgeCommands (k : Package) (c : Core) (f : Nat) : List (Nat × Nat) :=
  (frameAt k f).edge.filterMap fun x => (c.bound.zipIdx.find? fun b => b.1.cmd.serial == x.2.2).map fun b =>
    (3 + b.2, requestTotal b.1.cmd - b.1.cmd.sent + b.1.cmd.redo.length)

/-- R385: how an edge-copy engine shares out its requests of a cycle, its oldest command first. -/
def shareRequests (left : Nat) : List (Nat × Nat) → List Nat
  | [] => []
  | (e, r) :: rest => List.replicate (min left r) e ++ shareRequests (left - min left r) rest

/-- R385: the edge-copy engine of each frame sends up to sixteen requests. -/
def edgeSteps (k : Package) (n : Nat) (c : Core) : List Planned :=
  if n = queenCore then
    (List.range 16).flatMap fun f => (shareRequests 16 (edgeCommands k c f)).map fun e => maybe (.engineRequestSend n e)
  else []

/-- What the engines of core `n` do in a cycle. -/
def engineSteps (k : Package) (n : Nat) (c : Core) : List Planned :=
  ((engineNumbers c).flatMap fun e =>
    [sure (.remoteWriteInjection n e), sure (.cellCommandTakesEffect n e), sure (.engineCommandBegin n e)] ++
      (if e = 2 then [0, 1].flatMap fun d => [sure (.loadSegment n d), sure (.decodeRound n d)] else sendSteps n c e) ++
      answerSteps k n c e ++ [sure (.migrationHoldTimeout n e), sure (.engineCommandComplete n e)]) ++
    edgeSteps k n c

/-- What a core's own timetable does in a cycle: landings and busy states first, then the bundle, then the matrix unit. -/
def coreSteps (n : Nat) : List Planned :=
  [sure (.resultLanding n), sure (.busyStateEnd n), sure (.bundleIssue n), sure (.matrixStep n)]

/-- What the hubs and firmware do about core `n` after the cycle's bundles. -/
def hubSteps (n : Nat) (c : Core) : List Planned :=
  [sure (.stopRecordWrite n), maybe (.automaticResume n), sure (.retirement n), maybe (.contextSave n),
    maybe (.contextRestore n)] ++
    (if (c.probe.map (·.result.isNone)).getD false then [maybe (.translationWalkDone n)] else [])

/-- Steps of remote writes: each leg within a frame takes its cycles, and the entry into the next frame is at some slot of its
pattern (R234, R236, R378; log entry 62). -/
def writeSteps (w : RemoteWrite) : List Planned :=
  match w.state with
  | .flying _ _ => [sure (.remoteWriteHeaderArrival w.id)]
  | .edge _ _ => [maybe (.remoteWriteHeaderArrival w.id)]
  | .waiting _ => [sure (.remoteWriteHeaderArrival w.id)]
  | .held _ => []
  | .accepted _ => [sure (.remoteWriteAccept w.id)]
  | .returning _ _ _ => [sure (.remoteWriteAckArrival w.id)]
  | .returnEdge _ _ _ => [maybe (.remoteWriteAckArrival w.id)]

/-! ## Partitions -/

/-- The partitions that do anything. -/
def liveParts (k : Package) : List Nat := (List.range 16).filter fun p => (partOf k p).en

/-- R219, R364 to R366: what comes before the bundles of a cycle in a partition. -/
def earlySteps (k : Package) (n : Nat) : List Planned :=
  let p := partOf k n
  (if (p.drain.bind (·.settled)).isSome then [sure (.partitionReset n)] else []) ++
    ((List.range 8).filter fun r => (ringOf p r).limit != 0).map (fun r => sure (.watchdogExpiry n r)) ++
    (if (p.drain.map (·.last.isNone)).getD false then [sure (.drainDeadline n)] else []) ++
    (List.range p.arriving.length).reverse.map fun i => sure (.barrierArrival n i)

/-- R244, R419: the commands of TLBI and IMGCMD that run for a partition, enabled or not, may end. -/
def commandSteps (k : Package) (n : Nat) : List Planned :=
  let p := partOf k n
  (if p.tlbiBusy then [maybe (.tlbiComplete n)] else []) ++
    match p.imgCmd with
    | none => []
    | some .load => [maybe (.imageLoad n)]
    | some (.unload id) => [maybe (.imageUnload n id)]

/-- R206 to R214, R224: what the hubs do for a partition after the bundles of a cycle. -/
def partSteps (k : Package) (n : Nat) : List Planned :=
  let p := partOf k n
  (p.graphs.map fun g => sure (.graphInstanceComplete n g.id)) ++
    ((p.due.map (·.queue)).eraseDups.map fun q => maybe (.completionRecordWrite n q)) ++
    (((List.range 8).filter fun r => (ringOf p r).en && (ringOf p r).w != (ringOf p r).r).map fun r => maybe (.ringFetch n r)) ++
    [sure (.schedulerDecision n)] ++
    ((List.range 8).filter fun r => (ringOf p r).limit != 0).map fun r => sure (.watchdogExpiry n r)

/-- R393 to R399: the waggle class of a partition. -/
def wagglePartSteps (n : Nat) : List Planned :=
  [maybe (.injectorAccept n), maybe (.waggleDelivery n), maybe (.mailboxRecordComplete n), sure (.deliveryStall n)]

/-- R395: whether a port's watermark is due. -/
def watermarkDue (k : Package) (n : Nat) : Bool :=
  let p := portOf k n
  let t := k.time.toNat
  (if t < p.carried + 1000 then 64 else 1000) ≤ t - p.sentAt

/-- R389, R395: a port of the waggle class, or one that is to enter it, sends when it is due, and may send sooner. -/
def portSteps (k : Package) (n : Nat) : List Planned :=
  if (portOf k n).wag || (portOf k n).wagReg then [if watermarkDue k n then sure (.watermarkSend n) else maybe (.watermarkSend n)] else []

/-! ## A cycle -/

/-- R428: the boundary of the duty, with the average power of the last millisecond. -/
def dutySteps (k : Package) : List Planned :=
  if k.cycle % 1024 = 0 then [sure (.dutyBoundary (Config.freeValue 5003 k.cycle 0))] else []

/-- R235, R237: a held header meets its cell as it stood before the bundles of the cycle. -/
def WriteState.isHeld : WriteState → Bool
  | .held _ => true
  | _ => false
def heldSteps (k : Package) : List Planned :=
  (k.writes.filter fun w => w.state.isHeld).map fun w => sure (.remoteWriteAccept w.id)

/-- The steps before the bundles of a cycle. -/
def beforeBundles (k : Package) (cores : List (Nat × Core)) : List Planned :=
  dutySteps k ++ (liveParts k).flatMap (earlySteps k) ++
    cores.flatMap (fun x => [maybe (.taskStart x.1), sure (.releaseArrival x.1)]) ++ heldSteps k

/-- R383: the commands bound to the frames are delivered, at one engine position 0 before position 1. -/
def deliverySteps (cores : List (Nat × Core)) : List Planned :=
  let bound := ((cores.find? fun x => x.1 == queenCore).map fun x => x.2.bound.zipIdx).getD []
  (bound.filter (·.1.position == 0) ++ bound.filter (·.1.position != 0)).map fun b => sure (.boundCommandDelivery b.2)

/-- The traffic of a cycle: its effects are seen by the bundles of the next one. The acknowledgement of a remote write completes
a command within the cycle (R237). -/
def trafficSteps (k : Package) (cores : List (Nat × Core)) : List Planned :=
  shuffle k.cycle (cores.flatMap fun x => x.2.accesses.flatMap (accessSteps x.1 x.2)) ++
    k.writes.flatMap writeSteps ++ deliverySteps cores ++ cores.flatMap (fun x => engineSteps k x.1 x.2) ++
    ((List.range 16).filter fun n => (migrationOf k n).en).map fun n => maybe (.migrationLineCopy n)

/-- R214, R366: requests arrive, those of a drain at once. -/
def requestSteps (x : Nat × Core) : List Planned :=
  match x.2.request with
  | none => [maybe (.preemptionRequestArrival x.1)]
  | some r => [if r.byDrain then sure (.preemptionRequestArrival x.1) else maybe (.preemptionRequestArrival x.1)]

/-- The steps of the hubs in a cycle. -/
def hubPlan (k : Package) (cores : List (Nat × Core)) : List Planned :=
  cores.flatMap (fun x => hubSteps x.1 x.2) ++ (liveParts k).flatMap (partSteps k) ++
    (List.range 16).flatMap (commandSteps k) ++ cores.flatMap (fun x => requestSteps x ++ [sure (.requestLapse x.1)]) ++ (liveParts k).flatMap wagglePartSteps ++
    (List.range 16).flatMap (portSteps k) ++ (liveParts k).map fun n => sure (.drainDeadline n)

/-- All that a cycle plans. -/
def cyclePlan (k : Package) (cores : List (Nat × Core)) : List Planned :=
  beforeBundles k cores ++ cores.flatMap (fun x => coreSteps x.1) ++ trafficSteps k cores ++ hubPlan k cores

/-- R364: the watchdogs of every partition count the cycle. -/
def countAll (s : State) : State :=
  (liveParts s.pkg).foldl (fun s n => onPkg (onPart n (countWatchdogs s n)) s) s

/-- R413: the signals of the last cycle are over. -/
def clearBumps (k : Package) : Package := { k with parts := k.parts.map fun p => { p with bumps := [] } }

/-- The start of a package cycle; a package that has not booted has none. -/
def startCycle (s : State) : State :=
  if !s.pkg.booted then s
  else
    let s := meetUpsets (countAll (onPkg (fun k => clearBumps (passTime k)) s))
    let s := onPkg (finishRepair s.choice) s
    let plan := cyclePlan s.pkg (listedCores s)
    { s with agenda := settlePlan (s.choice + 1) plan, choice := s.choice + 1 + plan.length }

/-! ## Taking a step of the package's own -/

/-- A step of the package's own has the meaning of the instruction of that name. -/
def runDevice (d : DeviceStep) (s : State) : Host.Outcome State Fault Refusal :=
  match d with
  | .resultLanding c => execResultLanding c s
  | .busyStateEnd c => execBusyStateEnd c s
  | .bundleIssue c => execBundleIssue c s
  | .matrixStep c => execMatrixStep c s
  | .memoryAccessPerformed c id => execMemoryAccessPerformed c id s
  | .amoPerformed c id => execAmoPerformed c id s
  | .globalLoadReturn c id => execGlobalLoadReturn c id none s
  | .atomicReturn c id => execAtomicReturn c id none s
  | .postedWriteAck c id => execPostedWriteAck c id s
  | .apertureFaultReport c id => execApertureFaultReport c id s
  | .translationWalkDone c => execTranslationWalkDone c s
  | .remoteWriteInjection c e => execRemoteWriteInjection c e s
  | .cellCommandTakesEffect c e => execCellCommandTakesEffect c e s
  | .engineCommandBegin c e => execEngineCommandBegin c e s
  | .engineRequestSend c e => execEngineRequestSend c e s
  | .engineResponseArrival c e i => execEngineResponseArrival c e i none s
  | .migrationHoldTimeout c e => execMigrationHoldTimeout c e s
  | .engineCommandComplete c e => execEngineCommandComplete c e s
  | .loadSegment c d => execLoadSegment c d s
  | .decodeRound c d => execDecodeRound c d s
  | .remoteWriteHeaderArrival id => execRemoteWriteHeaderArrival id s
  | .remoteWriteAccept id => execRemoteWriteAccept id s
  | .remoteWriteAckArrival id => execRemoteWriteAckArrival id s
  | .boundCommandDelivery i => execBoundCommandDelivery i s
  | .migrationLineCopy n => execMigrationLineCopy n s
  | .tlbiComplete p => execTlbiComplete p s
  | .stopRecordWrite c => execStopRecordWrite c s
  | .automaticResume c => execAutomaticResume c s
  | .retirement c => execRetirement c s
  | .contextSave c => execContextSave c s
  | .contextRestore c => execContextRestore c s
  | .taskStart c => execTaskStart c s
  | .releaseArrival c => execReleaseArrival c s
  | .barrierArrival p i => execBarrierArrival p i s
  | .graphInstanceComplete p g => execGraphInstanceComplete p g s
  | .completionRecordWrite p q => execCompletionRecordWrite p q s
  | .ringFetch p k => execRingFetch p k s
  | .schedulerDecision p => execSchedulerDecision p s
  | .preemptionRequestArrival c => execPreemptionRequestArrival c s
  | .requestLapse c => execRequestLapse c s
  | .watchdogExpiry p k => execWatchdogExpiry p k s
  | .drainDeadline p => execDrainDeadline p s
  | .partitionReset p => execPartitionReset p s
  | .injectorAccept p => execInjectorAccept p s
  | .waggleDelivery p => execWaggleDelivery p s
  | .mailboxRecordComplete p => execMailboxRecordComplete p s
  | .deliveryStall p => execDeliveryStall p s
  | .watermarkSend k => execWatermarkSend k s
  | .dutyBoundary watts => execDutyBoundary watts s
  | .imageLoad p => execImageLoad p s
  | .imageUnload p id => execImageUnload p id s

/-! ## What comes from outside -/

/-- What the host, another package, the board and the sensors do: the events that are no steps of the package's own. -/
def fromOutside : Instr → Bool
  | .globalLoadReturn _ _ _ => true
  | .atomicReturn _ _ _ => true
  | .postedWriteAck _ _ => true
  | .apertureFaultReport _ _ => true
  | .engineResponseArrival _ _ _ _ => true
  | .engineFault _ _ _ _ => true
  | .collectiveCombine _ _ _ => true
  | .migrationStart _ => true
  | .migrationRetire _ => true
  | .tlbRevoke _ _ => true
  | .tlbRefresh _ _ => true
  | .apcfgWrite _ _ => true
  | .doorbell _ _ _ => true
  | .ringReset _ _ _ => true
  | .cqcfgWrite _ _ _ => true
  | .grpWrite _ _ _ => true
  | .eventCounterWrite _ _ _ => true
  | .stopcmdResume _ => true
  | .stopcmdEnd _ _ => true
  | .wdclrGo _ => true
  | .pcfgWrite _ _ => true
  | .pmemWrite _ _ _ => true
  | .plimWrite _ _ _ => true
  | .frapplyGo _ => true
  | .qownWrite _ => true
  | .portTraining _ _ _ => true
  | .timeExchange _ _ => true
  | .watermarkReceive _ _ => true
  | .wagglePacketArrival _ _ => true
  | .wclrGo _ => true
  | .flitForward _ _ => true
  | .remoteRequestArrival _ _ => true
  | .ppctlWrite _ _ => true
  | .hbmRowRepair _ => true
  | .hbmBankRepair _ => true
  | .ucieLaneRepair _ => true
  | .podLaneRepair _ => true
  | .superTierRemap _ => true
  | .packageReset => true
  | .powerOnBoot _ => true
  | .recoveryImage _ _ => true
  | .spdmRequest _ => true
  | .pwrlimWrite _ => true
  | .clkselWrite _ => true
  | .thermalWarning _ => true
  | .thermalTrip => true
  | .powerLoss => true
  | .hostMemoryAccess _ _ => true
  | .mbbaseWrite _ _ => true
  | .mbcfgWrite _ _ => true
  | .mbrptrWrite _ _ => true
  | .registerWrite _ _ => true
  | .podPortLinkLoss _ => true
  | .tdispRequest _ _ => true
  | _ => false

/-- R421, R424, R431: what reaches a package that has not booted: power and reset, the boot itself, a configuration request, and in
recovery mode the DOE mailbox of the physical function alone. -/
def reachesUnbooted (k : Package) : Instr → Bool
  | .powerOnBoot _ => true
  | .powerLoss => true
  | .thermalTrip => true
  | .packageReset => k.powered
  | .recoveryImage _ _ => k.recovery
  | .spdmRequest fn => k.recovery && fn == 0
  | .registerWrite r _ => k.powered && !k.recovery && r.space == .config
  | _ => false

/-- Whether an input is taken; any other is lost. -/
def takesInput (k : Package) (i : Instr) : Bool := fromOutside i && (k.booted || reachesUnbooted k i)

/-! ## Placing an instruction -/

/-- A task for a core that has none. -/
def plainTask : Task :=
  { card := List.replicate 32 0, replica := 0, part := 0, serial := 0, stamp := 0, origin := .partitionQueue, ring := 0
    cardId := 0 }

/-- R12, R223: the core fetches a bundle of one syllable and three nops at its pc, and nothing holds the fetch. -/
def fetchReady (b : Bundle) (c : Core) : Core :=
  let region := c.pc.toNat / 256
  let image := cardImage ((c.task.getD plainTask).card)
  let part := (c.task.getD plainTask).part
  { c with
      task := some (c.task.getD plainTask)
      mode := .running
      imem := setBundle c.pc.toNat b c.imem
      imemBad := c.imemBad.filter (· != c.pc.toNat)
      overlays := vset c.overlays region { valid := true, image := image, part := part }
      stop := none
      trap := none
      mistimed := []
      hold := []
      landings := c.landings.filter fun l => l.awaits.isNone
      macs := [] }

/-- A syllable in slot 0 with nops beside it. -/
def lonelyBundle (w : Nat) : Bundle :=
  BitVec.ofNat 128 (w % 2 ^ 32 + 2 ^ 32 * (nopWord.toNat + 2 ^ 32 * (nopWord.toNat + 2 ^ 32 * nopWord.toNat)))

/-- The state that issues a bundle of one syllable as its next step (log entry 5). -/
def placeWord (s : State) (w : Nat) : State :=
  { s with core := fetchReady (lonelyBundle w) s.core, inputs := [], agenda := [.bundleIssue s.here]
           pkg := { s.pkg with duty := 0 } }

end Sys2Proof.Machine
end

