-- ==== Sys2Proof/Machine/Dispatch.lean ====
section
/-!
DEFINITION. The meaning of every instruction: one arm per constructor, each a call of that instruction's own meaning.
-/

namespace Sys2Proof.Machine

def exec (i : Instr) (s : State) : Host.Outcome State Fault Refusal :=
  match i with
  | .add d a b l => Sys2Proof.Machine.execAdd d a b l s
  | .sub d a b l => Sys2Proof.Machine.execSub d a b l s
  | .mul d a b l => Sys2Proof.Machine.execMul d a b l s
  | .mulh d a b l => Sys2Proof.Machine.execMulh d a b l s
  | .mulhn d a b l => Sys2Proof.Machine.execMulhn d a b l s
  | .div d a b l => Sys2Proof.Machine.execDiv d a b l s
  | .divn d a b l => Sys2Proof.Machine.execDivn d a b l s
  | .rem d a b l => Sys2Proof.Machine.execRem d a b l s
  | .remn d a b l => Sys2Proof.Machine.execRemn d a b l s
  | .and d a b l => Sys2Proof.Machine.execAnd d a b l s
  | .or d a b l => Sys2Proof.Machine.execOr d a b l s
  | .xor d a b l => Sys2Proof.Machine.execXor d a b l s
  | .andn d a b l => Sys2Proof.Machine.execAndn d a b l s
  | .orn d a b l => Sys2Proof.Machine.execOrn d a b l s
  | .shl d a b l => Sys2Proof.Machine.execShl d a b l s
  | .shr d a b l => Sys2Proof.Machine.execShr d a b l s
  | .sra d a b l => Sys2Proof.Machine.execSra d a b l s
  | .rol d a b l => Sys2Proof.Machine.execRol d a b l s
  | .ror d a b l => Sys2Proof.Machine.execRor d a b l s
  | .min d a b l => Sys2Proof.Machine.execMin d a b l s
  | .max d a b l => Sys2Proof.Machine.execMax d a b l s
  | .minn d a b l => Sys2Proof.Machine.execMinn d a b l s
  | .maxn d a b l => Sys2Proof.Machine.execMaxn d a b l s
  | .clz d a l => Sys2Proof.Machine.execClz d a l s
  | .ctz d a l => Sys2Proof.Machine.execCtz d a l s
  | .popc d a l => Sys2Proof.Machine.execPopc d a l s
  | .bswap d a l => Sys2Proof.Machine.execBswap d a l s
  | .sel d a b l => Sys2Proof.Machine.execSel d a b l s
  | .addw d a b l => Sys2Proof.Machine.execAddw d a b l s
  | .subw d a b l => Sys2Proof.Machine.execSubw d a b l s
  | .mulw d a b l => Sys2Proof.Machine.execMulw d a b l s
  | .sext d a w l => Sys2Proof.Machine.execSext d a w l s
  | .bext d a b l => Sys2Proof.Machine.execBext d a b l s
  | .bins d a b l => Sys2Proof.Machine.execBins d a b l s
  | .cmpEq d a b l => Sys2Proof.Machine.execCmpEq d a b l s
  | .cmpNe d a b l => Sys2Proof.Machine.execCmpNe d a b l s
  | .cmpLt d a b l => Sys2Proof.Machine.execCmpLt d a b l s
  | .cmpGe d a b l => Sys2Proof.Machine.execCmpGe d a b l s
  | .cmpLtn d a b l => Sys2Proof.Machine.execCmpLtn d a b l s
  | .cmpGen d a b l => Sys2Proof.Machine.execCmpGen d a b l s
  | .cmpTst d a b l => Sys2Proof.Machine.execCmpTst d a b l s
  | .addi d a i0 l => Sys2Proof.Machine.execAddi d a i0 l s
  | .andi d a i0 l => Sys2Proof.Machine.execAndi d a i0 l s
  | .ori d a i0 l => Sys2Proof.Machine.execOri d a i0 l s
  | .xori d a i0 l => Sys2Proof.Machine.execXori d a i0 l s
  | .shli d a i0 l => Sys2Proof.Machine.execShli d a i0 l s
  | .shri d a i0 l => Sys2Proof.Machine.execShri d a i0 l s
  | .srai d a i0 l => Sys2Proof.Machine.execSrai d a i0 l s
  | .muli d a i0 l => Sys2Proof.Machine.execMuli d a i0 l s
  | .cmpiEq d a i0 l => Sys2Proof.Machine.execCmpiEq d a i0 l s
  | .cmpiNe d a i0 l => Sys2Proof.Machine.execCmpiNe d a i0 l s
  | .cmpiLt d a i0 l => Sys2Proof.Machine.execCmpiLt d a i0 l s
  | .cmpiLtn d a i0 l => Sys2Proof.Machine.execCmpiLtn d a i0 l s
  | .li d i0 l => Sys2Proof.Machine.execLi d i0 l s
  | .lic d i0 l => Sys2Proof.Machine.execLic d i0 l s
  | .fadd d a b t l => Sys2Proof.Machine.execFadd d a b t l s
  | .fsub d a b t l => Sys2Proof.Machine.execFsub d a b t l s
  | .fmul d a b t l => Sys2Proof.Machine.execFmul d a b t l s
  | .fma d a b t l => Sys2Proof.Machine.execFma d a b t l s
  | .fdiv d a b t l => Sys2Proof.Machine.execFdiv d a b t l s
  | .fsqrt d a t l => Sys2Proof.Machine.execFsqrt d a t l s
  | .fmin d a b t l => Sys2Proof.Machine.execFmin d a b t l s
  | .fmax d a b t l => Sys2Proof.Machine.execFmax d a b t l s
  | .fabs d a t l => Sys2Proof.Machine.execFabs d a t l s
  | .fneg d a t l => Sys2Proof.Machine.execFneg d a t l s
  | .fcmpEq d a b t l => Sys2Proof.Machine.execFcmpEq d a b t l s
  | .fclass d a t l => Sys2Proof.Machine.execFclass d a t l s
  | .fcvt d a u t l => Sys2Proof.Machine.execFcvt d a u t l s
  | .fcvti d a m t l => Sys2Proof.Machine.execFcvti d a m t l s
  | .fcvtf d a t l => Sys2Proof.Machine.execFcvtf d a t l s
  | .fcmpLt d a b t l => Sys2Proof.Machine.execFcmpLt d a b t l s
  | .fcmpLe d a b t l => Sys2Proof.Machine.execFcmpLe d a b t l s
  | .fcmpUn d a b t l => Sys2Proof.Machine.execFcmpUn d a b t l s
  | .br o => Sys2Proof.Machine.execBr o s
  | .brc p n o => Sys2Proof.Machine.execBrc p n o s
  | .nop => Sys2Proof.Machine.execNop s
  | .call t l => Sys2Proof.Machine.execCall t l s
  | .ret l => Sys2Proof.Machine.execRet l s
  | .jr a l => Sys2Proof.Machine.execJr a l s
  | .loop a e => Sys2Proof.Machine.execLoop a e s
  | .safe m => Sys2Proof.Machine.execSafe m s
  | .yield m => Sys2Proof.Machine.execYield m s
  | .endTask l => Sys2Proof.Machine.execEndTask l s
  | .post a y x k l => Sys2Proof.Machine.execPost a y x k l s
  | .gbar s0 l => Sys2Proof.Machine.execGbar s0 l s
  | .wait c l => Sys2Proof.Machine.execWait c l s
  | .trap c l => Sys2Proof.Machine.execTrap c l s
  | .brk c l => Sys2Proof.Machine.execBrk c l s
  | .chk a o => Sys2Proof.Machine.execChk a o s
  | .chkv v o => Sys2Proof.Machine.execChkv v o s
  | .ldImm r h s0 i0 l => Sys2Proof.Machine.execLdImm r h s0 i0 l s
  | .ldIndexed r h s0 x i0 l => Sys2Proof.Machine.execLdIndexed r h s0 x i0 l s
  | .ldxImm r h s0 i0 l => Sys2Proof.Machine.execLdxImm r h s0 i0 l s
  | .ldxIndexed r h s0 x i0 l => Sys2Proof.Machine.execLdxIndexed r h s0 x i0 l s
  | .stImm r h s0 i0 l => Sys2Proof.Machine.execStImm r h s0 i0 l s
  | .stIndexed r h s0 x i0 l => Sys2Proof.Machine.execStIndexed r h s0 x i0 l s
  | .ldSImm r h s0 i0 l => Sys2Proof.Machine.execLdSImm r h s0 i0 l s
  | .ldSIndexed r h s0 x i0 l => Sys2Proof.Machine.execLdSIndexed r h s0 x i0 l s
  | .amoAdd d h b c z o l => Sys2Proof.Machine.execAmoAdd d h b c z o l s
  | .amoAnd d h b c z o l => Sys2Proof.Machine.execAmoAnd d h b c z o l s
  | .amoOr d h b c z o l => Sys2Proof.Machine.execAmoOr d h b c z o l s
  | .amoXor d h b c z o l => Sys2Proof.Machine.execAmoXor d h b c z o l s
  | .amoMin d h b c z o l => Sys2Proof.Machine.execAmoMin d h b c z o l s
  | .amoMax d h b c z o l => Sys2Proof.Machine.execAmoMax d h b c z o l s
  | .amoMinn d h b c z o l => Sys2Proof.Machine.execAmoMinn d h b c z o l s
  | .amoMaxn d h b c z o l => Sys2Proof.Machine.execAmoMaxn d h b c z o l s
  | .amoSwap d h b c z o l => Sys2Proof.Machine.execAmoSwap d h b c z o l s
  | .amoCas d h b c z o l => Sys2Proof.Machine.execAmoCas d h b c z o l s
  | .amoFadd d h b c z o l => Sys2Proof.Machine.execAmoFadd d h b c z o l s
  | .amoAddsr d h b c o l => Sys2Proof.Machine.execAmoAddsr d h b c o l s
  | .fence c o => Sys2Proof.Machine.execFence c o s
  | .fenceE => Sys2Proof.Machine.execFenceE s
  | .probe d h b p => Sys2Proof.Machine.execProbe d h b p s
  | .xlat d h b p => Sys2Proof.Machine.execXlat d h b p s
  | .hinv h => Sys2Proof.Machine.execHinv h s
  | .hinfo d h b => Sys2Proof.Machine.execHinfo d h b s
  | .mfsr r s0 l => Sys2Proof.Machine.execMfsr r s0 l s
  | .mtsr r s0 l => Sys2Proof.Machine.execMtsr r s0 l s
  | .ldcImm r c z i0 l => Sys2Proof.Machine.execLdcImm r c z i0 l s
  | .ldcIndexed r c z x i0 l => Sys2Proof.Machine.execLdcIndexed r c z x i0 l s
  | .ldcxImm r c z i0 l => Sys2Proof.Machine.execLdcxImm r c z i0 l s
  | .ldcxIndexed r c z x i0 l => Sys2Proof.Machine.execLdcxIndexed r c z x i0 l s
  | .stcImm r c z i0 l => Sys2Proof.Machine.execStcImm r c z i0 l s
  | .stcIndexed r c z x i0 l => Sys2Proof.Machine.execStcIndexed r c z x i0 l s
  | .vadd w d a b t l => Sys2Proof.Machine.execVadd w d a b t l s
  | .vsub w d a b t l => Sys2Proof.Machine.execVsub w d a b t l s
  | .vmul w d a b t l => Sys2Proof.Machine.execVmul w d a b t l s
  | .vmulh w d a b t l => Sys2Proof.Machine.execVmulh w d a b t l s
  | .vmin w d a b t l => Sys2Proof.Machine.execVmin w d a b t l s
  | .vmax w d a b t l => Sys2Proof.Machine.execVmax w d a b t l s
  | .vand w d a b t l => Sys2Proof.Machine.execVand w d a b t l s
  | .vor w d a b t l => Sys2Proof.Machine.execVor w d a b t l s
  | .vxor w d a b t l => Sys2Proof.Machine.execVxor w d a b t l s
  | .vshl w d a b t l => Sys2Proof.Machine.execVshl w d a b t l s
  | .vshr w d a b t l => Sys2Proof.Machine.execVshr w d a b t l s
  | .vabs w d a t l => Sys2Proof.Machine.execVabs w d a t l s
  | .vadds w d a b t l => Sys2Proof.Machine.execVadds w d a b t l s
  | .vsubs w d a b t l => Sys2Proof.Machine.execVsubs w d a b t l s
  | .vcmp w d a b t l => Sys2Proof.Machine.execVcmp w d a b t l s
  | .vdot4 w d a b t l => Sys2Proof.Machine.execVdot4 w d a b t l s
  | .vfadd w d a b t l => Sys2Proof.Machine.execVfadd w d a b t l s
  | .vfsub w d a b t l => Sys2Proof.Machine.execVfsub w d a b t l s
  | .vfmul w d a b t l => Sys2Proof.Machine.execVfmul w d a b t l s
  | .vfma w d a b t l => Sys2Proof.Machine.execVfma w d a b t l s
  | .vfnma w d a b t l => Sys2Proof.Machine.execVfnma w d a b t l s
  | .vfmin w d a b t l => Sys2Proof.Machine.execVfmin w d a b t l s
  | .vfmax w d a b t l => Sys2Proof.Machine.execVfmax w d a b t l s
  | .vfabs w d a t l => Sys2Proof.Machine.execVfabs w d a t l s
  | .vfneg w d a t l => Sys2Proof.Machine.execVfneg w d a t l s
  | .vfcmp w d a b t l => Sys2Proof.Machine.execVfcmp w d a b t l s
  | .vfclass w d a t l => Sys2Proof.Machine.execVfclass w d a t l s
  | .vfscl w d a b t l => Sys2Proof.Machine.execVfscl w d a b t l s
  | .vfsel w d a b t l => Sys2Proof.Machine.execVfsel w d a b t l s
  | .vcvt w d a f s0 m l => Sys2Proof.Machine.execVcvt w d a f s0 m l s
  | .vqnt w d a f s0 m l => Sys2Proof.Machine.execVqnt w d a f s0 m l s
  | .vdeq w d a f s0 m l => Sys2Proof.Machine.execVdeq w d a f s0 m l s
  | .vbq w d a f s0 m l => Sys2Proof.Machine.execVbq w d a f s0 m l s
  | .vbdq w d a f s0 m l => Sys2Proof.Machine.execVbdq w d a f s0 m l s
  | .vrng w d l => Sys2Proof.Machine.execVrng w d l s
  | .vrecip w d a t l => Sys2Proof.Machine.execVrecip w d a t l s
  | .vrsqrt w d a t l => Sys2Proof.Machine.execVrsqrt w d a t l s
  | .vsqrt w d a t l => Sys2Proof.Machine.execVsqrt w d a t l s
  | .vdiv w d a b t l => Sys2Proof.Machine.execVdiv w d a b t l s
  | .vexp2 w d a t l => Sys2Proof.Machine.execVexp2 w d a t l s
  | .vlog2 w d a t l => Sys2Proof.Machine.execVlog2 w d a t l s
  | .vexp w d a t l => Sys2Proof.Machine.execVexp w d a t l s
  | .vmov w d a t l => Sys2Proof.Machine.execVmov w d a t l s
  | .vbcst w d a t l => Sys2Proof.Machine.execVbcst w d a t l s
  | .vli w d t l => Sys2Proof.Machine.execVli w d t l s
  | .vperm w d a b t l => Sys2Proof.Machine.execVperm w d a b t l s
  | .vshuf w d a p t l => Sys2Proof.Machine.execVshuf w d a p t l s
  | .vrot w d a c t l => Sys2Proof.Machine.execVrot w d a c t l s
  | .vred w d a t l => Sys2Proof.Machine.execVred w d a t l s
  | .vmsk w d a b l => Sys2Proof.Machine.execVmsk w d a b l s
  | .vxtr w a n t => Sys2Proof.Machine.execVxtr w a n t s
  | .vins w d a n t => Sys2Proof.Machine.execVins w d a n t s
  | .vbitx w d a => Sys2Proof.Machine.execVbitx w d a s
  | .vcmpr w d a t l => Sys2Proof.Machine.execVcmpr w d a t l s
  | .vexpd w d a t l => Sys2Proof.Machine.execVexpd w d a t l s
  | .vld w v c x i0 l => Sys2Proof.Machine.execVld w v c x i0 l s
  | .vst w v c x i0 l => Sys2Proof.Machine.execVst w v c x i0 l s
  | .vgat w v c x i0 l => Sys2Proof.Machine.execVgat w v c x i0 l s
  | .vsct w v c x i0 l => Sys2Proof.Machine.execVsct w v c x i0 l s
  | .vldg w v h x i0 l => Sys2Proof.Machine.execVldg w v h x i0 l s
  | .vstg w v h x i0 l => Sys2Proof.Machine.execVstg w v h x i0 l s
  | .vldS w v h x i0 l => Sys2Proof.Machine.execVldS w v h x i0 l s
  | .vqadd q r v f l => Sys2Proof.Machine.execVqadd q r v f l s
  | .vqr q r v f m l => Sys2Proof.Machine.execVqr q r v f m l s
  | .vqz q r l => Sys2Proof.Machine.execVqz q r l s
  | .mma q a b f z t => Sys2Proof.Machine.execMma q a b f z t s
  | .mmn q a b f z t => Sys2Proof.Machine.execMmn q a b f z t s
  | .mmx q a b f z t => Sys2Proof.Machine.execMmx q a b f z t s
  | .mms q a b c f z t => Sys2Proof.Machine.execMms q a b c f z t s
  | .mmz q a s0 f z => Sys2Proof.Machine.execMmz q a s0 f z s
  | .qzero q => Sys2Proof.Machine.execQzero q s
  | .qrnd q t f m s0 => Sys2Proof.Machine.execQrnd q t f m s0 s
  | .qst q c l => Sys2Proof.Machine.execQst q c l s
  | .qld q c l => Sys2Proof.Machine.execQld q c l s
  | .qmsk q t => Sys2Proof.Machine.execQmsk q t s
  | .qadd q => Sys2Proof.Machine.execQadd q s
  | .qscl q e => Sys2Proof.Machine.execQscl q e s
  | .qtl q t f => Sys2Proof.Machine.execQtl q t f s
  | .tld d c i0 l => Sys2Proof.Machine.execTld d c i0 l s
  | .tst a c i0 l => Sys2Proof.Machine.execTst a c i0 l s
  | .tmov d a => Sys2Proof.Machine.execTmov d a s
  | .ttr d a => Sys2Proof.Machine.execTtr d a s
  | .tcvt d a s0 m => Sys2Proof.Machine.execTcvt d a s0 m s
  | .tzero d => Sys2Proof.Machine.execTzero d s
  | .msl h a b r f => Sys2Proof.Machine.execMsl h a b r f s
  | .rstat d q f s0 => Sys2Proof.Machine.execRstat d q f s0 s
  | .cpG2c c h o n t l => Sys2Proof.Machine.execCpG2c c h o n t l s
  | .cpC2g c h o n k => Sys2Proof.Machine.execCpC2g c h o n k s
  | .cpGat c h o n t l => Sys2Proof.Machine.execCpGat c h o n t l s
  | .cpSct c h o n => Sys2Proof.Machine.execCpSct c h o n s
  | .cpBmg c h o n t l => Sys2Proof.Machine.execCpBmg c h o n t l s
  | .cpG2g h o n l => Sys2Proof.Machine.execCpG2g h o n l s
  | .cpOvl r h o => Sys2Proof.Machine.execCpOvl r h o s
  | .cpC2r c a b => Sys2Proof.Machine.execCpC2r c a b s
  | .cellArm c a b => Sys2Proof.Machine.execCellArm c a b s
  | .cellSeal c t l => Sys2Proof.Machine.execCellSeal c t l s
  | .cellFree c => Sys2Proof.Machine.execCellFree c s
  | .cellExpect c a => Sys2Proof.Machine.execCellExpect c a s
  | .cellOpen c a => Sys2Proof.Machine.execCellOpen c a s
  | .decTab c s0 => Sys2Proof.Machine.execDecTab c s0 s
  | .decOpen c t s0 i0 l => Sys2Proof.Machine.execDecOpen c t s0 i0 l s
  | .decSeek s0 k => Sys2Proof.Machine.execDecSeek s0 k s
  | .decSave c s0 o => Sys2Proof.Machine.execDecSave c s0 o s
  | .decLoad c s0 o => Sys2Proof.Machine.execDecLoad c s0 o s
  | .osend c a b k => Sys2Proof.Machine.execOsend c a b k s
  | .collMx c a b e => Sys2Proof.Machine.execCollMx c a b e s
  | .collBs c a b e => Sys2Proof.Machine.execCollBs c a b e s
  | .collBc c a b => Sys2Proof.Machine.execCollBc c a b s
  | .collAg c a b => Sys2Proof.Machine.execCollAg c a b s
  | .bundleIssue c => Sys2Proof.Machine.execBundleIssue c s
  | .resultLanding c => Sys2Proof.Machine.execResultLanding c s
  | .busyStateEnd c => Sys2Proof.Machine.execBusyStateEnd c s
  | .matrixStep c => Sys2Proof.Machine.execMatrixStep c s
  | .globalLoadReturn c id r => Sys2Proof.Machine.execGlobalLoadReturn c id r s
  | .atomicReturn c id r => Sys2Proof.Machine.execAtomicReturn c id r s
  | .memoryAccessPerformed c id => Sys2Proof.Machine.execMemoryAccessPerformed c id s
  | .amoPerformed c id => Sys2Proof.Machine.execAmoPerformed c id s
  | .apertureFaultReport c id => Sys2Proof.Machine.execApertureFaultReport c id s
  | .postedWriteAck c id => Sys2Proof.Machine.execPostedWriteAck c id s
  | .migrationStart n => Sys2Proof.Machine.execMigrationStart n s
  | .migrationRetire n => Sys2Proof.Machine.execMigrationRetire n s
  | .migrationLineCopy n => Sys2Proof.Machine.execMigrationLineCopy n s
  | .migrationHoldTimeout c e => Sys2Proof.Machine.execMigrationHoldTimeout c e s
  | .tlbRevoke p pages => Sys2Proof.Machine.execTlbRevoke p pages s
  | .tlbRefresh p pages => Sys2Proof.Machine.execTlbRefresh p pages s
  | .tlbiComplete p => Sys2Proof.Machine.execTlbiComplete p s
  | .apcfgWrite n v => Sys2Proof.Machine.execApcfgWrite n v s
  | .translationWalkDone c => Sys2Proof.Machine.execTranslationWalkDone c s
  | .remoteWriteInjection c e => Sys2Proof.Machine.execRemoteWriteInjection c e s
  | .remoteWriteHeaderArrival id => Sys2Proof.Machine.execRemoteWriteHeaderArrival id s
  | .remoteWriteAccept id => Sys2Proof.Machine.execRemoteWriteAccept id s
  | .remoteWriteAckArrival id => Sys2Proof.Machine.execRemoteWriteAckArrival id s
  | .engineCommandBegin c e => Sys2Proof.Machine.execEngineCommandBegin c e s
  | .engineRequestSend c e => Sys2Proof.Machine.execEngineRequestSend c e s
  | .engineResponseArrival c e k r => Sys2Proof.Machine.execEngineResponseArrival c e k r s
  | .engineCommandComplete c e => Sys2Proof.Machine.execEngineCommandComplete c e s
  | .cellCommandTakesEffect c e => Sys2Proof.Machine.execCellCommandTakesEffect c e s
  | .engineFault c e code cause => Sys2Proof.Machine.execEngineFault c e code cause s
  | .stopRecordWrite c => Sys2Proof.Machine.execStopRecordWrite c s
  | .automaticResume c => Sys2Proof.Machine.execAutomaticResume c s
  | .boundCommandDelivery k => Sys2Proof.Machine.execBoundCommandDelivery k s
  | .loadSegment c d => Sys2Proof.Machine.execLoadSegment c d s
  | .decodeRound c d => Sys2Proof.Machine.execDecodeRound c d s
  | .collectiveCombine i0 j full => Sys2Proof.Machine.execCollectiveCombine i0 j full s
  | .schedulerDecision p => Sys2Proof.Machine.execSchedulerDecision p s
  | .requestLapse c => Sys2Proof.Machine.execRequestLapse c s
  | .taskStart c => Sys2Proof.Machine.execTaskStart c s
  | .ringFetch p k => Sys2Proof.Machine.execRingFetch p k s
  | .graphInstanceComplete p g => Sys2Proof.Machine.execGraphInstanceComplete p g s
  | .doorbell p k v => Sys2Proof.Machine.execDoorbell p k v s
  | .ringReset p k v => Sys2Proof.Machine.execRingReset p k v s
  | .cqcfgWrite p q v => Sys2Proof.Machine.execCqcfgWrite p q v s
  | .retirement c => Sys2Proof.Machine.execRetirement c s
  | .completionRecordWrite p q => Sys2Proof.Machine.execCompletionRecordWrite p q s
  | .contextSave c => Sys2Proof.Machine.execContextSave c s
  | .contextRestore c => Sys2Proof.Machine.execContextRestore c s
  | .barrierArrival p k => Sys2Proof.Machine.execBarrierArrival p k s
  | .releaseArrival c => Sys2Proof.Machine.execReleaseArrival c s
  | .grpWrite p g v => Sys2Proof.Machine.execGrpWrite p g v s
  | .eventCounterWrite p i0 v => Sys2Proof.Machine.execEventCounterWrite p i0 v s
  | .stopcmdResume p => Sys2Proof.Machine.execStopcmdResume p s
  | .stopcmdEnd p code => Sys2Proof.Machine.execStopcmdEnd p code s
  | .watchdogExpiry p k => Sys2Proof.Machine.execWatchdogExpiry p k s
  | .drainDeadline p => Sys2Proof.Machine.execDrainDeadline p s
  | .partitionReset p => Sys2Proof.Machine.execPartitionReset p s
  | .wdclrGo p => Sys2Proof.Machine.execWdclrGo p s
  | .pcfgWrite n v => Sys2Proof.Machine.execPcfgWrite n v s
  | .pmemWrite n k v => Sys2Proof.Machine.execPmemWrite n k v s
  | .plimWrite n k v => Sys2Proof.Machine.execPlimWrite n k v s
  | .frapplyGo f => Sys2Proof.Machine.execFrapplyGo f s
  | .qownWrite v => Sys2Proof.Machine.execQownWrite v s
  | .portTraining k t lanes => Sys2Proof.Machine.execPortTraining k t lanes s
  | .timeExchange k t => Sys2Proof.Machine.execTimeExchange k t s
  | .watermarkSend k => Sys2Proof.Machine.execWatermarkSend k s
  | .watermarkReceive k v => Sys2Proof.Machine.execWatermarkReceive k v s
  | .wagglePacketArrival k w => Sys2Proof.Machine.execWagglePacketArrival k w s
  | .injectorAccept p => Sys2Proof.Machine.execInjectorAccept p s
  | .waggleDelivery p => Sys2Proof.Machine.execWaggleDelivery p s
  | .mailboxRecordComplete p => Sys2Proof.Machine.execMailboxRecordComplete p s
  | .deliveryStall p => Sys2Proof.Machine.execDeliveryStall p s
  | .wclrGo p => Sys2Proof.Machine.execWclrGo p s
  | .flitForward k f => Sys2Proof.Machine.execFlitForward k f s
  | .remoteRequestArrival k q => Sys2Proof.Machine.execRemoteRequestArrival k q s
  | .ppctlWrite k v => Sys2Proof.Machine.execPpctlWrite k v s
  | .imageLoad p => Sys2Proof.Machine.execImageLoad p s
  | .imageUnload p id => Sys2Proof.Machine.execImageUnload p id s
  | .hbmRowRepair v => Sys2Proof.Machine.execHbmRowRepair v s
  | .hbmBankRepair v => Sys2Proof.Machine.execHbmBankRepair v s
  | .ucieLaneRepair v => Sys2Proof.Machine.execUcieLaneRepair v s
  | .podLaneRepair v => Sys2Proof.Machine.execPodLaneRepair v s
  | .superTierRemap v => Sys2Proof.Machine.execSuperTierRemap v s
  | .packageReset => Sys2Proof.Machine.execPackageReset s
  | .powerOnBoot b => Sys2Proof.Machine.execPowerOnBoot b s
  | .recoveryImage image ok => Sys2Proof.Machine.execRecoveryImage image ok s
  | .spdmRequest fn => Sys2Proof.Machine.execSpdmRequest fn s
  | .pwrlimWrite v => Sys2Proof.Machine.execPwrlimWrite v s
  | .dutyBoundary watts => Sys2Proof.Machine.execDutyBoundary watts s
  | .clkselWrite v => Sys2Proof.Machine.execClkselWrite v s
  | .thermalWarning t => Sys2Proof.Machine.execThermalWarning t s
  | .thermalTrip => Sys2Proof.Machine.execThermalTrip s
  | .powerLoss => Sys2Proof.Machine.execPowerLoss s
  | .hostMemoryAccess fn a => Sys2Proof.Machine.execHostMemoryAccess fn a s
  | .mbbaseWrite p v => Sys2Proof.Machine.execMbbaseWrite p v s
  | .mbcfgWrite p v => Sys2Proof.Machine.execMbcfgWrite p v s
  | .mbrptrWrite p v => Sys2Proof.Machine.execMbrptrWrite p v s
  | .registerWrite r v => Sys2Proof.Machine.execRegisterWrite r v s
  | .preemptionRequestArrival c => Sys2Proof.Machine.execPreemptionRequestArrival c s
  | .podPortLinkLoss k => Sys2Proof.Machine.execPodPortLinkLoss k s
  | .tdispRequest n locked => Sys2Proof.Machine.execTdispRequest n locked s

end Sys2Proof.Machine
end

