-- ==== Sys2Proof/Machine/Step.lean ====
section
/-!
DEFINITION. One step of the machine: the oldest input from outside, else the next step of this package cycle, else the start
of the next cycle; and placing an instruction where the next step issues it.
-/

namespace Sys2Proof.Machine

/-- One step. An input from outside is taken between any two steps of a cycle (log entry 1). -/
def step (s : State) : Host.Outcome State Fault Refusal :=
  match s.inputs with
  | i :: rest => if takesInput s.pkg i then exec i { s with inputs := rest } else .next { s with inputs := rest }
  | [] =>
    match s.agenda with
    | d :: rest => runDevice d { s with agenda := rest }
    | [] => .next (startCycle s)

/-- The state with an instruction placed at the pc of the core in issue, in a bundle of its own, and the issue of that bundle
as the next step (log entry 5). -/
def State.withFetchWord (s : State) (nbits w : Nat) : State := placeWord s (if nbits = 32 then w else 0)

end Sys2Proof.Machine
end

