-- ==== Sys2Proof/Safety.lean ====
section
/-!
DEFINITION. What counts as a safe run: one step after another answers a next state.
-/

namespace Sys2Proof

/-- A step of the machine answers a next state. -/
def stepsSafely (s : Machine.State) : Prop := ∃ t, Machine.step s = .next t

/-- The machine takes `n` steps from a state, each to a next state. -/
def runsSafely : Nat → Machine.State → Prop
  | 0, _ => True
  | n + 1, s => ∃ t, Machine.step s = .next t ∧ runsSafely n t

end Sys2Proof
end

