-- ==== Sys2Proof/Certificates/Slice0/Obligations.lean ====
section
/-!
DEFINITION. The statements for the provers. The words they share stand first, in the namespace of claims; each statement is
one proposition, named for what it states.
-/

namespace Sys2Proof.Claims

open Sys2Proof.Machine

/-! ## What a syllable in issue leaves alone -/

/-- A syllable in issue touches only the core it issues on and the record of its bundle (R15): the core as it stood before the
bundle, every other core, and everything outside the cores stay. -/
def Keeps (s t : State) : Prop :=
  t.before = s.before ∧ t.here = s.here ∧ t.cores = s.cores ∧ t.pkg = s.pkg ∧ t.agenda = s.agenda ∧ t.inputs = s.inputs ∧
    t.choice = s.choice

/-- The syllable notes these registers as read, raises these faults and has these reasons to wait, and records nothing else
about its bundle. -/
def NotesWaits (s t : State) (reads : List Reg) (faults : List SlotFault) (waits : List Wait) : Prop :=
  t.issue = { s.issue with
    reads := s.issue.reads ++ reads.map (fun r => (s.issue.slot, r))
    faults := s.issue.faults ++ faults
    waits := s.issue.waits ++ waits }

/-- The same with no reason to wait. -/
def Notes (s t : State) (reads : List Reg) (faults : List SlotFault) : Prop := NotesWaits s t reads faults []

/-- A fault of the syllable in issue. -/
def slotFault (s : State) (code : BitVec 8) (addr : BitVec 64) : SlotFault :=
  { slot := s.issue.slot, code := code, faddr := addr }

/-- A result of the syllable in issue that lands `lat` unfrozen cycles after it (R19), or when the access `awaits` brings its
value (R22). -/
def resultOf (s : State) (d : Dest) (v : Nat) (poison : Bool) (flags : Flags) (lat : Nat) (awaits : Option Nat) : Landing :=
  { dest := d, value := v, poison := poison, flags := flags, due := s.core.clk + lat, pc := s.core.pc
    slot := s.issue.slot, awaits := awaits }

/-- The only change to the core: these results are in flight. -/
def Lands (s t : State) (ls : List Landing) : Prop := t.core = { s.core with landings := s.core.landings ++ ls }

/-- R18, R355: the chain of the syllable's slot shifts by one entry, the oldest of the four is lost, and the new entry awaits the
result in flight; the error marks move with their entries, and the other chains stay. Nothing else of the core changes. -/
def Pushes (s t : State) (v : Nat) (poison : Bool) (flags : Flags) (lat : Nat) (awaits : Option Nat) : Prop :=
  (∀ n : Fin 16, t.core.queue[n.val] =
    if n.val / 4 ≠ s.issue.slot then s.core.queue[n.val]
    else if n.val % 4 = 0 then { value := 0, poison := false, awaits := some s.core.serial }
    else s.core.queue[n.val - 1]) ∧
  (∀ i < 16, t.core.aBad.getLsbD i =
    if i / 4 ≠ s.issue.slot then s.core.aBad.getLsbD i else i % 4 ≠ 0 && s.core.aBad.getLsbD (i - 1)) ∧
  t.core = { s.core with
    queue := t.core.queue
    aBad := t.core.aBad
    serial := s.core.serial + 1
    landings := s.core.landings ++ [resultOf s (.queue s.core.serial) v poison flags lat awaits] }

/-- The syllable changes nothing of its core. -/
def LeavesCore (s t : State) : Prop := t.core = s.core

/-- A scalar result by its destination code (R17, R72, R108, R109): code 0 discards it, 1 to 31 name x registers, 32 pushes
it, 48 is p0 and discards it, 49 to 55 name predicates; a poisoned value for a predicate is a poison-consumed fault. -/
def ScalarAwaits (s t : State) (d : BitVec 6) (v : XWord) (poison : Bool) (flags : Flags) (lat : Nat) (awaits : Option Nat)
    (reads : List Reg) (waits : List Wait) : Prop :=
  (d = 0 → (∃ w, Lands s t [resultOf s .none w false flags lat awaits]) ∧ NotesWaits s t reads [] waits) ∧
  (1 ≤ d.toNat → d.toNat ≤ 31 →
    Lands s t [resultOf s (.x d.toNat) v.toNat poison flags lat awaits] ∧ NotesWaits s t reads [] waits) ∧
  (d = 32 → Pushes s t v.toNat poison flags lat awaits ∧ NotesWaits s t reads [] waits) ∧
  (48 ≤ d.toNat → poison = true → LeavesCore s t ∧ NotesWaits s t reads [slotFault s 0x16 0] waits) ∧
  (d = 48 → poison = false →
    (∃ w, Lands s t [resultOf s .none w false flags lat awaits]) ∧ NotesWaits s t reads [] waits) ∧
  (49 ≤ d.toNat → d.toNat ≤ 55 → poison = false →
    Lands s t [resultOf s (.pred (d.toNat - 48)) v.toNat false flags lat awaits] ∧ NotesWaits s t reads [] waits)

/-- A scalar result that is known at issue. -/
def ScalarLands (s t : State) (d : BitVec 6) (v : XWord) (poison : Bool) (flags : Flags) (lat : Nat) (reads : List Reg) :
    Prop := ScalarAwaits s t d v poison flags lat none reads []

/-- The codes of R72 that may be a source, and those that may be a destination. -/
def Source (c : BitVec 6) : Prop := c.toNat ≤ 55
def Destination (c : BitVec 6) : Prop := c.toNat ≤ 32 ∨ 48 ≤ c.toNat ∧ c.toNat ≤ 55
def ReadDestination (c : BitVec 6) : Prop := 1 ≤ c.toNat ∧ c.toNat ≤ 31

/-- R70: a guard is true when the predicate it names, as it stood before the bundle, differs from its invert bit. -/
def GuardTrue (s : State) (l : Lend) : Prop := readP s.before (l.extractLsb' 0 3).toNat ≠ l.getLsbD 3

/-- A source's value and its poison as they stood before the bundle (R15, R108). -/
def value (s : State) (c : BitVec 6) : XWord := (readSource s.before c).bits
def poisoned (s : State) (c : BitVec 6) : Bool := (readSource s.before c).poison

/-! ## The integer scalar forms -/

/-- The forms of R110 to R113 with two sources and one result: the result of each, and its bound. -/
def intTable : List ((BitVec 6 → BitVec 6 → BitVec 6 → Lend → Instr) × (XWord → XWord → XWord) × Nat) := [
  (.add, fun a b => a + b, 1),
  (.sub, fun a b => a - b, 1),
  (.mul, fun a b => a * b, 3),
  (.mulh, fun a b => (a.signExtend 128 * b.signExtend 128).extractLsb' 64 64, 3),
  (.mulhn, fun a b => (a.setWidth 128 * b.setWidth 128).extractLsb' 64 64, 3),
  (.div, fun a b => if b = 0 then -1 else a.sdiv b, 24),
  (.divn, fun a b => if b = 0 then -1 else a / b, 24),
  (.rem, fun a b => if b = 0 then a else a.srem b, 24),
  (.remn, fun a b => if b = 0 then a else a % b, 24),
  (.and, fun a b => a &&& b, 1),
  (.or, fun a b => a ||| b, 1),
  (.xor, fun a b => a ^^^ b, 1),
  (.andn, fun a b => a &&& ~~~b, 1),
  (.orn, fun a b => a ||| ~~~b, 1),
  (.min, fun a b => if a.toInt ≤ b.toInt then a else b, 1),
  (.max, fun a b => if a.toInt ≤ b.toInt then b else a, 1),
  (.minn, fun a b => if a.toNat ≤ b.toNat then a else b, 1),
  (.maxn, fun a b => if a.toNat ≤ b.toNat then b else a, 1),
  (.addw, fun a b => (a.extractLsb' 0 32 + b.extractLsb' 0 32).signExtend 64, 1),
  (.subw, fun a b => (a.extractLsb' 0 32 - b.extractLsb' 0 32).signExtend 64, 1),
  (.mulw, fun a b => (a.extractLsb' 0 32 * b.extractLsb' 0 32).signExtend 64, 3)]

/-- R112: the shifts, rotates and `bext`. -/
def shiftTable : List ((BitVec 6 → BitVec 6 → BitVec 6 → Lend → Instr) × (XWord → XWord → XWord)) := [
  (.shl, fun a b => a <<< (b.extractLsb' 0 6).toNat),
  (.shr, fun a b => a >>> (b.extractLsb' 0 6).toNat),
  (.sra, fun a b => a.sshiftRight (b.extractLsb' 0 6).toNat),
  (.rol, fun a b => a <<< (b.extractLsb' 0 6).toNat ||| a >>> (64 - (b.extractLsb' 0 6).toNat)),
  (.ror, fun a b => a >>> (b.extractLsb' 0 6).toNat ||| a <<< (64 - (b.extractLsb' 0 6).toNat)),
  (.bext, fun a b =>
    let pos := (b.extractLsb' 0 6).toNat
    (a >>> pos) &&& (BitVec.allOnes 64 >>> (64 - min (b.extractLsb' 8 7).toNat (64 - pos))))]

/-- R113: the compares. -/
def compareTable : List ((BitVec 6 → BitVec 6 → BitVec 6 → Lend → Instr) × (XWord → XWord → Prop)) := [
  (.cmpEq, fun a b => a = b),
  (.cmpNe, fun a b => a ≠ b),
  (.cmpLt, fun a b => a.toInt < b.toInt),
  (.cmpGe, fun a b => b.toInt ≤ a.toInt),
  (.cmpLtn, fun a b => a.toNat < b.toNat),
  (.cmpGen, fun a b => b.toNat ≤ a.toNat),
  (.cmpTst, fun a b => ∃ i < 64, a.getLsbD i = true ∧ b.getLsbD i = true)]

/-- R110: what the result `r` of each form with one source is to its source. -/
def unaryTable : List ((BitVec 6 → BitVec 6 → Lend → Instr) × (XWord → XWord → Prop)) := [
  (.clz, fun a r => r.toNat ≤ 64 ∧ a.toNat < 2 ^ (64 - r.toNat) ∧ (r.toNat < 64 → 2 ^ (63 - r.toNat) ≤ a.toNat)),
  (.ctz, fun a r => r.toNat ≤ 64 ∧ 2 ^ r.toNat ∣ a.toNat + (if a = 0 then 2 ^ 64 else 0) ∧
    (r.toNat < 64 → a.getLsbD r.toNat = true)),
  (.popc, fun a r => r.toNat = (List.range 64).countP (fun i => a.getLsbD i)),
  (.bswap, fun a r => ∀ i < 8, r.extractLsb' (8 * i) 8 = a.extractLsb' (56 - 8 * i) 8)]

/-- R114: the forms with an immediate, and the bound of each. -/
def immediateTable :
    List ((BitVec 6 → BitVec 6 → BitVec 11 → Option Lend → Instr) × (XWord → XWord → XWord) × Nat) := [
  (.addi, fun a i => a + i, 1),
  (.andi, fun a i => a &&& i, 1),
  (.ori, fun a i => a ||| i, 1),
  (.xori, fun a i => a ^^^ i, 1),
  (.shli, fun a i => a <<< i.toNat, 1),
  (.shri, fun a i => a >>> i.toNat, 1),
  (.srai, fun a i => a.sshiftRight i.toNat, 1),
  (.muli, fun a i => a * i, 3),
  (.cmpiEq, fun a i => if a = i then 1 else 0, 1),
  (.cmpiNe, fun a i => if a = i then 0 else 1, 1),
  (.cmpiLt, fun a i => if a.toInt < i.toInt then 1 else 0, 1),
  (.cmpiLtn, fun a i => if a.toNat < i.toNat then 1 else 0, 1)]

/-- R69, R114: the immediate of an SI form, sign-extended: 11 bits, or 20 bits with the lend above them. -/
def immediate11 (i : BitVec 11) (l : Option Lend) : XWord :=
  match l with
  | none => i.signExtend 64
  | some h => (h ++ i).signExtend 64

/-! ## The scalar floating-point forms -/

/-- The type codes of SF: d, f and t32 (R77). -/
def FloatType (t : BitVec 4) : Prop := t = 0 ∨ t = 1 ∨ t = 9

/-- R116: the layout of a type; the es of t32 is bits 5:4 of `sys.tes`. -/
def floatLayout (s : State) (t : BitVec 4) : Layout :=
  if t = 0 then .ieee 11 52 else if t = 1 then .ieee 8 23 else .taper 32 (s.before.tes.extractLsb' 4 2).toNat

/-- R116: the pattern of a source: all 64 bits for d, the low 32 for f and t32. -/
def pattern (s : State) (t : BitVec 4) (c : BitVec 6) : Nat := (value s c).toNat % 2 ^ (if t = 0 then 64 else 32)

/-- The number that a source holds. -/
def number (s : State) (t : BitVec 4) (c : BitVec 6) : Machine.Num := decodeNum (floatLayout s t) (pattern s t c)

/-- R52: SR and SR-SAT are modes 5 and 7. -/
def Stochastic (rm : BitVec 3) : Prop := rm = 5 ∨ rm = 7

/-- R116, R54: how a form rounds: by `sys.rm`, and under SR and SR-SAT with the generator at S = `sys.srstep` and A = x17. -/
def roundsBy (s : State) : RoundIn :=
  { rm := s.before.rm
    r := if s.before.rm = 5 ∨ s.before.rm = 7 then gen s.before.srkey s.before.srstep (readX s.before 17).bits else 0 }

/-- R21, R116: under stochastic rounding a form reads x17 as well. -/
def x17If (s : State) : List Reg := if s.before.rm = 5 ∨ s.before.rm = 7 then [.x 17] else []

/-- A rounding form of SF on some sources: its rounded result lands with its flags; poison of x17 under stochastic rounding is
consumed instead (R109, R116). -/
def FloatLands (s t : State) (d : BitVec 6) (r : Rounded) (poison : Bool) (lat : Nat) (reads : List Reg) : Prop :=
  (Stochastic s.before.rm → (readX s.before 17).poison = true →
    LeavesCore s t ∧ Notes s t (reads ++ [.x 17]) [slotFault s 0x16 0]) ∧
  (¬ (Stochastic s.before.rm ∧ (readX s.before 17).poison = true) →
    ScalarLands s t d (BitVec.ofNat 64 r.bits) poison r.flags lat (reads ++ x17If s))

/-- R117: the arithmetic of two sources, each formed plainly and rounded once, and its bound: 5 for t32 and 4 otherwise, and 16
for a division. -/
def floatTable : List ((BitVec 6 → BitVec 6 → BitVec 6 → BitVec 4 → Lend → Instr) ×
    (Layout → RoundIn → Machine.Num → Machine.Num → Rounded) × (BitVec 4 → Nat)) := [
  (.fadd, addOp, fun t => if t = 9 then 5 else 4),
  (.fsub, subOp, fun t => if t = 9 then 5 else 4),
  (.fmul, mulOp, fun t => if t = 9 then 5 else 4),
  (.fdiv, divOp, fun _ => 16)]

/-- R118: the lesser or the greater of two patterns; a NaN or NaR operand decides before that (R57, R59). -/
def picks (least : Bool) (y : Layout) (a b : Nat) : Rounded :=
  match nanOperand y [decodeNum y a, decodeNum y b] with
  | some r => r
  | none => { bits := if (orderKey y a < orderKey y b) = least then a else b, flags := 0 }

/-- R118: the sign forms on the pattern of each type. -/
def signTable : List ((BitVec 6 → BitVec 6 → BitVec 4 → Lend → Instr) × (BitVec 64 → BitVec 64) × (BitVec 32 → BitVec 32) ×
    (BitVec 32 → BitVec 32)) := [
  (.fabs, fun v => v &&& 0x7FFFFFFFFFFFFFFF#64, fun v => v &&& 0x7FFFFFFF#32, fun v => if v.toInt < 0 then -v else v),
  (.fneg, fun v => v ^^^ 0x8000000000000000#64, fun v => v ^^^ 0x80000000#32, fun v => -v)]

/-- R119: the conditions on d and f, with when each raises NV. -/
def floatCompareTable : List ((BitVec 6 → BitVec 6 → BitVec 6 → BitVec 4 → Lend → Instr) × (Machine.Num → Machine.Num → Bool) ×
    (Machine.Num → Machine.Num → Bool) × (BitVec 32 → BitVec 32 → Bool)) := [
  (.fcmpEq, fun a b => !a.isNan && !b.isNan && numEq a b, fun a b => a.signals || b.signals, fun a b => a == b),
  (.fcmpLt, fun a b => !a.isNan && !b.isNan && numLt a b, fun a b => a.isNan || b.isNan, fun a b => a.toInt < b.toInt),
  (.fcmpLe, fun a b => !a.isNan && !b.isNan && (numLt a b || numEq a b), fun a b => a.isNan || b.isNan,
    fun a b => a.toInt ≤ b.toInt),
  (.fcmpUn, fun a b => a.isNan || b.isNan, fun a b => a.signals || b.signals, fun _ _ => false)]

/-- R120: the class of a d or f pattern by its sign, its exponent field and its fraction field. -/
def classBit (exp frac : Nat) (neg : Bool) (e f : Nat) : Nat :=
  if e = 2 ^ exp - 1 then
    (if f = 0 then (if neg then 0 else 7) else if f < 2 ^ (frac - 1) then 8 else 9)
  else if e = 0 then (if f = 0 then (if neg then 3 else 4) else (if neg then 2 else 5))
  else (if neg then 1 else 6)

/-! ## One rounding of an exact value -/

/-- R35, R37: a binary format: its fraction bits, the exponent of its smallest subnormal, its largest finite pattern, the pattern that an
overflow goes to, which is its infinity, for E4M3 its NaN, and for E2M1 its largest, and its default NaN. -/
structure BinaryFormat where
  layout : Layout
  frac : Nat
  lsb : Int
  greatest : Nat
  beyond : Nat
  nan : Nat

def formatD : BinaryFormat := ⟨.ieee 11 52, 52, -1074, 0x7FEFFFFFFFFFFFFF, 0x7FF0000000000000, 0x7FF8000000000000⟩
def formatF : BinaryFormat := ⟨.ieee 8 23, 23, -149, 0x7F7FFFFF, 0x7F800000, 0x7FC00000⟩
def formatBf : BinaryFormat := ⟨.ieee 8 7, 7, -133, 0x7F7F, 0x7F80, 0x7FC0⟩
def formatH : BinaryFormat := ⟨.ieee 5 10, 10, -24, 0x7BFF, 0x7C00, 0x7E00⟩
def formatE5 : BinaryFormat := ⟨.ieee 5 2, 2, -16, 0x7B, 0x7C, 0x7E⟩
def formatE4 : BinaryFormat := ⟨.e4m3, 3, -9, 0x7E, 0x7F, 0x7F⟩
def formatE2 : BinaryFormat := ⟨.e2m1, 1, -1, 7, 7, 0⟩

/-- The sign bit of a pattern. -/
def BinaryFormat.sign (f : BinaryFormat) (neg : Bool) : Nat := if neg then 2 ^ (f.layout.bits - 1) else 0

/-- The magnitude that pattern `p` stands for, in units of 2^(lsb − 25); patterns go on past the largest as if the exponent had no
bound. -/
def BinaryFormat.grid (f : BinaryFormat) (p : Nat) : Nat :=
  2 ^ 25 * (if p < 2 ^ f.frac then p else (2 ^ f.frac + p % 2 ^ f.frac) * 2 ^ (p / 2 ^ f.frac - 1))
def BinaryFormat.unit (f : BinaryFormat) : Int := f.lsb - 25

/-- A magnitude is known by what lies below it: whether `u` units of 2^q are at most, or less than, (m / d) × 2^e; and the same for
the square root of m × 2^e and for its inverse. -/
def Fraction (q : Int) (m d : Nat) (e : Int) (u : Nat) (strictly : Bool) : Prop :=
  let a := u * d * 2 ^ (q - e).toNat
  let b := m * 2 ^ (e - q).toNat
  if strictly then a < b else a ≤ b
def Root (q : Int) (m : Nat) (e : Int) (u : Nat) (strictly : Bool) : Prop :=
  let a := u * u * 2 ^ (2 * q - e).toNat
  let b := m * 2 ^ (e - 2 * q).toNat
  if strictly then a < b else a ≤ b

def RootInverse (q : Int) (m : Nat) (e : Int) (u : Nat) (strictly : Bool) : Prop :=
  let a := u * u * m * 2 ^ (2 * q + e).toNat
  let b := 2 ^ (-(2 * q + e)).toNat
  if strictly then a < b else a ≤ b

/-- R52, R55: whether a magnitude between two neighbours is rounded to the greater: to the nearest with ties to even (0, 6) or away
from zero (4), by direction (1, 2, 3), or by the 24 bits below the kept ones and the generator's value (5, 7). -/
def StepsUp (rm : BitVec 3) (neg : Bool) (r : Nat) (x : Nat → Bool → Prop) (odd : Prop) (lo hi : Nat) : Prop :=
  x lo true ∧
    (((rm = 0 ∨ rm = 6) ∧ (x ((lo + hi) / 2) true ∨ (odd ∧ x ((lo + hi) / 2) false))) ∨
     (rm = 2 ∧ neg = false) ∨ (rm = 3 ∧ neg = true) ∨ (rm = 4 ∧ x ((lo + hi) / 2) false) ∨
     ((rm = 5 ∨ rm = 7) ∧ x (lo + (hi - lo) / 2 ^ 24 * (2 ^ 24 - r)) false))

/-- R36, R53, R55: the one rounding of a magnitude that is not zero to a binary format, with its flags: NX when it is inexact, OF and
NX when it overflows, and UF when it is inexact and tiny after rounding. -/
def Rounds (f : BinaryFormat) (rm : BitVec 3) (sat neg : Bool) (r : Nat) (x : Nat → Bool → Prop) (t : Rounded) : Prop :=
  let normal := f.grid (2 ^ f.frac)
  let tiny := ¬ x normal false ∧
    ¬ (x (normal - 2 ^ 24) false ∧ StepsUp rm neg r x True (normal - 2 ^ 24) normal)
  ∃ p k, x (f.grid p) false ∧ ¬ x (f.grid (p + 1)) false ∧
    (StepsUp rm neg r x (p % 2 = 1) (f.grid p) (f.grid (p + 1)) → k = p + 1) ∧
    (¬ StepsUp rm neg r x (p % 2 = 1) (f.grid p) (f.grid (p + 1)) → k = p) ∧
    (f.greatest < k → t = {
      bits := f.sign neg + (if sat = true ∨ rm = 1 ∨ rm = 6 ∨ rm = 7 ∨ rm = 2 ∧ neg = true ∨ rm = 3 ∧ neg = false
        then f.greatest else f.beyond)
      flags := 20 }) ∧
    (k ≤ f.greatest → t.bits = f.sign neg + k ∧
      (¬ x (f.grid p) true → t.flags = 0) ∧ (x (f.grid p) true → tiny → t.flags = 24) ∧
      (x (f.grid p) true → ¬ tiny → t.flags = 16))

/-- R44, R53: the one rounding of a magnitude, in units of 2^−24, to an integer of some bits. -/
def RoundsInt (signed : Bool) (w : Nat) (rm : BitVec 3) (neg : Bool) (r : Nat) (x : Nat → Bool → Prop) (t : Rounded) : Prop :=
  let least : Int := if signed then -2 ^ (w - 1) else 0
  let greatest : Int := if signed then 2 ^ (w - 1) - 1 else 2 ^ w - 1
  ∃ p k : Nat, x (p * 2 ^ 24) false ∧ ¬ x ((p + 1) * 2 ^ 24) false ∧
    (StepsUp rm neg r x (p % 2 = 1) (p * 2 ^ 24) ((p + 1) * 2 ^ 24) → k = p + 1) ∧
    (¬ StepsUp rm neg r x (p % 2 = 1) (p * 2 ^ 24) ((p + 1) * 2 ^ 24) → k = p) ∧
    let v : Int := if neg then -k else k
    (v < least → t = { bits := (least % 2 ^ w).toNat, flags := 1 }) ∧
    (greatest < v → t = { bits := (greatest % 2 ^ w).toNat, flags := 1 }) ∧
    (least ≤ v → v ≤ greatest → t.bits = (v % 2 ^ w).toNat ∧
      (¬ x (p * 2 ^ 24) true → t.flags = 0) ∧ (x (p * 2 ^ 24) true → t.flags = 16))

/-- A finite number in units of 2^k, for k at most its exponent. -/
def inUnits (k : Int) (neg : Bool) (m : Nat) (e : Int) : Int := (if neg then -1 else 1) * (m * 2 ^ (e - k).toNat : Nat)

/-- R36: the rounding of the exact sum of two finite numbers; a zero sum is −0 when both are −0, and else under RDN alone. -/
def SumRounds (f : BinaryFormat) (i : RoundIn) (n : Bool) (m : Nat) (e : Int) (n' : Bool) (m' : Nat) (e' : Int) (t : Rounded) : Prop :=
  let k := min e e'
  let sum := inUnits k n m e + inUnits k n' m' e'
  (sum ≠ 0 → Rounds f i.rm false (decide (sum < 0)) i.r (Fraction f.unit sum.natAbs 1 k) t) ∧
  (sum = 0 → t = { bits := f.sign ((n && n' && m == 0 && m' == 0) || i.rm == 3), flags := 0 })

/-- An infinity of a format, and its signed zero, as results that raise nothing; and what an invalid operation gives (R57). -/
def infinite (f : BinaryFormat) (neg : Bool) : Rounded := { bits := f.sign neg + f.beyond, flags := 0 }
def zero (f : BinaryFormat) (neg : Bool) : Rounded := { bits := f.sign neg, flags := 0 }
def invalid (f : BinaryFormat) : Rounded := { bits := f.nan, flags := 1 }

/-- R35: the NaN patterns of a format, those that signal, and a NaN quieted. -/
def NanPattern (f : BinaryFormat) (a : Nat) : Prop := f.beyond < a % 2 ^ (f.layout.bits - 1)
def Signals (f : BinaryFormat) (a : Nat) : Prop := NanPattern f a ∧ a.testBit (f.frac - 1) = false
def quiet (f : BinaryFormat) (a : Nat) : Nat := a ||| 2 ^ (f.frac - 1)

/-- R57: a result that a NaN operand fixes; it raises NV when an operand signals. -/
def IsQuiet (f : BinaryFormat) (a : Nat) (signals : Prop) (t : Rounded) : Prop :=
  t.bits = quiet f a ∧ (signals → t.flags = 1) ∧ (¬ signals → t.flags = 0)

/-- R152, R154: no number of a block has a greater magnitude than m × 2^e, which one of them has. -/
def Greatest (xs : List Machine.Num) (m : Nat) (e : Int) : Prop :=
  (∃ n, Machine.Num.fin n m e ∈ xs) ∧ ∀ n k j, Machine.Num.fin n k j ∈ xs → k ≠ 0 →
    k * 2 ^ (j - min e j).toNat ≤ m * 2 ^ (e - min e j).toNat

/-- R152: the exponent that a block is scaled by, for a format whose largest magnitude has the exponent `emax`. -/
def BlockExponent (xs : List Machine.Num) (emax E : Int) : Prop :=
  ((∀ n m e, Machine.Num.fin n m e ∈ xs → m = 0) → E = -127) ∧
  ∀ m e, m ≠ 0 → Greatest xs m e → E = min (max ((Nat.log2 m : Int) + e - emax) (-127)) 127

/-- R152, R154: what a block with a NaN or an infinity becomes: every element has this pattern, and the first raises NV. -/
def Invalidated (ts : List Rounded) (n bits : Nat) : Prop :=
  ts.length = n ∧ ∀ i < n, ts.getD i (zero formatF false) = { bits := bits, flags := if i = 0 then 1 else 0 }

/-! ## Guards and operands -/

/-- The G-kind forms of SX with three operand codes, and the bound of each. -/
def guardedForms : List ((BitVec 6 → BitVec 6 → BitVec 6 → Lend → Instr) × Nat) :=
  intTable.map (fun r => (r.1, r.2.2)) ++ shiftTable.map (fun r => (r.1, 1)) ++ compareTable.map (fun r => (r.1, 1))

/-- The forms of SF with three operand codes, and the bound of each by type. -/
def guardedFloats : List ((BitVec 6 → BitVec 6 → BitVec 6 → BitVec 4 → Lend → Instr) × (BitVec 4 → Nat)) :=
  floatTable.map (fun r => (r.1, r.2.2)) ++ floatCompareTable.map (fun r => (r.1, fun _ => 2)) ++
    [(.fmin, fun _ => 2), (.fmax, fun _ => 2)]

/-- The forms of SF with two operand codes, and the bound of each. -/
def guardedFloats2 : List ((BitVec 6 → BitVec 6 → BitVec 4 → Lend → Instr) × Nat) :=
  signTable.map (fun r => (r.1, 2)) ++ [(.fclass, 2), (.fsqrt, 16), (.fcvtf, 3)]

/-- R70: a syllable under a false guard reads its guard alone, raises nothing and changes nothing, but a pushing one still
shifts its chain, where 0 will land. -/
def Suppresses (s : State) (i : Instr) (l : Lend) (pushes : Bool) (lat : Nat) : Prop :=
  ∃ t, exec i s = .next t ∧ Keeps s t ∧ Notes s t [guardReg l] [] ∧
    (if pushes then Pushes s t 0 false 0 lat none else LeavesCore s t)

/-- R100: the syllable raises an illegal-operand fault and changes nothing. -/
def RefusesOperand (s : State) (i : Instr) (reads : List Reg) : Prop :=
  ∃ t, exec i s = .next t ∧ Keeps s t ∧ LeavesCore s t ∧ Notes s t reads [slotFault s 0x03 0]

/-! ## Control flow -/

/-- R125: the syllable sets the pending transfer: three delay bundles to go, taken or not, and its target when it is taken. -/
def Transfers (s t : State) (taken : Bool) (target : BitVec 12) (ls : List Landing) : Prop :=
  t.core = { s.core with transfer := t.core.transfer, landings := s.core.landings ++ ls } ∧
  t.core.transfer.count = 3 ∧ t.core.transfer.taken = taken ∧ (taken = true → t.core.transfer.target = target)

/-- A syllable whose only effect is on the record of its bundle. -/
def OnlyNotes (s : State) (i : Instr) (issue : Issue) : Prop := exec i s = .next { s with issue := issue }

/-- The record of a bundle once a syllable has noted some reads. -/
def readNoted (s : State) (reads : List Reg) : Issue :=
  { s.issue with reads := s.issue.reads ++ reads.map (fun r => (s.issue.slot, r)) }

/-! ## The comb -/

/-- A number from its bytes, the lowest first. -/
def littleEndian : List Byte → Nat
  | [] => 0
  | b :: rest => b.toNat + 256 * littleEndian rest

/-- The `n` bytes of the comb from an address up, as they stood before the bundle. -/
def combBytes (s : State) (lo n : Nat) : List Byte := (List.range n).map fun i => memByte s.before.comb (lo + i)

/-- R226, R355: whether an 8-byte word that a range of the comb touches holds an uncorrectable error. -/
def CombBad (s : State) (lo n : Nat) : Prop := ∃ i < n, (lo + i) / 8 ∈ s.before.combBad

/-- Cell `c` of the core as it stood before the bundle. -/
def cell (s : State) (c : Nat) : Cell := cellOf s.before c

/-- The reasons of a comb access to wait (R178, R306). -/
def combWaits (s : State) (lo n : Nat) (writes : Bool) : List Wait :=
  (if combHazard s.before lo n writes then [.event] else []) ++ (if combBusy s.before lo n writes then [.scoreboard] else [])

/-- R232, R354: the first local load of a cell checks its tag; a bundle that resumes from the tag's fault passes the check. -/
def TagPasses (s : State) (c : Nat) : Prop :=
  (cell s c).ckp = true → (cell s c).tag = (cell s c).etag ∨ s.before.relief = 0x04

/-- R134, R230, R232: when a local load of `n` bytes at an offset within a cell has its effect. -/
def MayLoad (s : State) (c : Nat) (off : Int) (n align : Nat) : Prop :=
  ((cell s c).state = .full ∨ (cell s c).state = .draining) ∧ 0 ≤ off ∧ off + n ≤ (cell s c).size ∧
  off % (align : Int) = 0 ∧ TagPasses s c

/-- R134, R230: when a local store has its effect. -/
def MayStore (s : State) (c : Nat) (off : Int) (n align : Nat) : Prop :=
  ((cell s c).state = .empty ∨ (cell s c).state = .full) ∧ 0 ≤ off ∧ off + n ≤ (cell s c).size ∧ off % (align : Int) = 0

/-- R232: the state once the first local load of a cell has cleared its check; no other field of the core differs. -/
def checkCleared (s : State) (c : Nat) : State :=
  { s with core := { s.core with cells := s.core.cells.setIfInBounds c { cell s c with ckp := false } } }

/-- No cell command of the bundle has touched the cell. -/
def CellUntouched (s : State) (c : Nat) : Prop := cellOf s.core c = cellOf s.before c

/-- R136, R226: a local store of some bytes: they stand in the comb from `lo` up, every other byte of the comb reads as before,
a word written whole loses its error, and nothing else of the core changes. -/
def CombStored (s t : State) (lo : Nat) (bs : List Byte) : Prop :=
  (∀ a, memByte t.core.comb a = if lo ≤ a ∧ a < lo + bs.length then bs.getD (a - lo) 0 else memByte s.core.comb a) ∧
  (∀ w, w ∈ t.core.combBad ↔ w ∈ s.core.combBad ∧ ¬ (lo ≤ 8 * w ∧ 8 * w + 8 ≤ lo + bs.length)) ∧
  Memory.wf t.core.comb = true ∧
  t.core = { s.core with comb := t.core.comb, combBad := t.core.combBad }

/-- The offset of an SCM form with an immediate (R133): imm10, or 19 bits with the lend above it, in units of the size. -/
def immediateOffset (i : BitVec 10) (l : Option Lend) (z : BitVec 2) : Int :=
  (match l with | none => i.toNat | some h => (h ++ i).toNat : Nat) * 2 ^ z.toNat

/-- The offset of an SCM form with an index register (R133). -/
def indexedAt (s : State) (x : BitVec 6) (i : BitVec 4) (z : BitVec 2) : Int :=
  (value s x).toInt + i.toInt * 2 ^ z.toNat

/-- What a load of `2^z` bytes gives a register, zero-extended or sign-extended. -/
def extended (signed : Bool) (z : BitVec 2) (bs : List Byte) : XWord :=
  if signed then (BitVec.ofNat (8 * 2 ^ z.toNat) (littleEndian bs)).signExtend 64 else BitVec.ofNat 64 (littleEndian bs)

/-- R135: a local load lands its value, poisoned where the comb holds an error, and clears the cell's check. -/
def CombLoads (s : State) (i : Instr) (signed : Bool) (r c : BitVec 6) (z : BitVec 2) (off : Int) (reads : List Reg) : Prop :=
  ∃ t bad, exec i s = .next t ∧ Keeps s t ∧
    let lo := (cell s c.toNat).base + off.toNat
    (bad = true ↔ CombBad s lo (2 ^ z.toNat)) ∧
    ScalarAwaits (checkCleared s c.toNat) t r (extended signed z (combBytes s lo (2 ^ z.toNat))) bad 0 3 none reads
      (combWaits s lo (2 ^ z.toNat) false)

/-- R136: a local store. -/
def CombStores (s : State) (i : Instr) (r c : BitVec 6) (z : BitVec 2) (off : Int) (reads : List Reg) : Prop :=
  ∃ t, exec i s = .next t ∧ Keeps s t ∧
    let lo := (cell s c.toNat).base + off.toNat
    CombStored s t lo ((List.range (2 ^ z.toNat)).map fun k => (value s r).extractLsb' (8 * k) 8) ∧
    NotesWaits s t reads [] (combWaits s lo (2 ^ z.toNat) true)

/-- A syllable that raises one fault and changes nothing. -/
def Faults (s : State) (i : Instr) (code : BitVec 8) (addr : BitVec 64) (reads : List Reg) : Prop :=
  ∃ t, exec i s = .next t ∧ Keeps s t ∧ LeavesCore s t ∧ Notes s t reads [slotFault s code addr]

/-- R134: an offset of `2^z` bytes that lies outside a cell, or is not aligned to its size. -/
def OutOfCell (s : State) (c : BitVec 6) (z : BitVec 2) (off : Int) : Prop :=
  off < 0 ∨ ((cell s c.toNat).size : Int) < off + 2 ^ z.toNat ∨ off % 2 ^ z.toNat ≠ 0

/-- R134, R230, R232, R351: what turns a local load away: the state of its cell, then its bounds, then its tag. -/
def LoadTurnedAway (s : State) (i : Instr) (c : BitVec 6) (z : BitVec 2) (off : Int) (reads : List Reg) : Prop :=
  let ready := (cell s c.toNat).state = .full ∨ (cell s c.toNat).state = .draining
  (¬ ready → Faults s i 0x06 (c.setWidth 64) reads) ∧
  (ready → OutOfCell s c z off → Faults s i 0x07 (c.setWidth 64) reads) ∧
  (ready → ¬ OutOfCell s c z off → ¬ TagPasses s c.toNat → Faults s i 0x04 (c.setWidth 64) reads)

/-- R134, R230: what turns a local store away. -/
def StoreTurnedAway (s : State) (i : Instr) (c : BitVec 6) (z : BitVec 2) (off : Int) (reads : List Reg) : Prop :=
  let ready := (cell s c.toNat).state = .empty ∨ (cell s c.toNat).state = .full
  (¬ ready → Faults s i 0x06 (c.setWidth 64) reads) ∧
  (ready → OutOfCell s c z off → Faults s i 0x07 (c.setWidth 64) reads)

/-! ## Global accesses -/

/-- Handle `n` of the core as it stood before the bundle. -/
def handle (s : State) (n : Nat) : Handle := handleOf s.before n

/-- The access that a syllable issues: `n` bytes at a virtual address, each at the place its translation gives (R240), and the
places of its scope. -/
def accessAt (s : State) (kind : AccessKind) (va n : Nat) (data : List Byte) (scope : BitVec 18) : Access :=
  { id := s.core.serial, pc := s.before.pc, kind := kind, va := va
    places := (List.range n).map fun i => placeOf s.before.tlb (va + i)
    data := data, scope := scope, within := 0, parts := [], performed := false, result := [], poisoned := false
    faulted := false }

/-- R254 to R256, R379: the places that a scope of the core contains: frame `f` is place `f`, the north hub place 16, and the host
and every other package place 17. Frame scope is the core's own frame, or the hub for the queen core; package scope adds the frames
of `sys.dm` as it stood at issue; both hold the hub; system scope holds every place. -/
def InScope (s : State) (code : BitVec 2) (p : Nat) : Prop :=
  p < 18 ∧ (2 ≤ code.toNat ∨ p = 16 ∨ (s.here ≠ queenCore ∧ p = frameOf s.here) ∨
    (code = 1 ∧ p < 16 ∧ s.before.dm.getLsbD p = true))
def scopePlaces (s : State) (code : BitVec 2) : BitVec 18 := scopeOf s.here code s.before.dm

/-- The core has one more access outstanding; no other field of the core differs but the count that numbers them. -/
def accessIssued (s : State) (a : Access) : State :=
  { s with core := { s.core with accesses := s.core.accesses ++ [a], serial := s.core.serial + 1 } }

/-- R306: an access waits for the engine commands and the earlier accesses of the core that it meets. -/
def accessWaits (s : State) (a : Access) : List Wait :=
  if commandHazard s.pkg s.before (accessZones s.pkg a) ∨ accessHazard s.pkg s.before a then [.event] else []

/-- R269: a range of `n` bytes that lies in a valid handle, aligned. -/
def InHandle (s : State) (h : Nat) (va : Int) (n align : Nat) : Prop :=
  (handle s h).valid = true ∧ va % (align : Int) = 0 ∧ ((handle s h).base.toNat : Int) ≤ va ∧
  va + n ≤ (handle s h).base.toNat + (handle s h).len.toNat

/-- R265: the footprint modes R, RW and N allow loads, W and RW stores, and A atomics. -/
def LoadMode (m : BitVec 3) : Prop := m = 1 ∨ m = 3 ∨ m = 5
def StoreMode (m : BitVec 3) : Prop := m = 2 ∨ m = 3

/-- R273: the address of an access through a handle. -/
def through (s : State) (h : Nat) (off : XWord) : Int := (handle s h).base.toNat + off.toInt

/-- The offset of an SM form with an immediate (R273): imm12, or 21 bits with the lend above it, signed, in units of the
size. -/
def scaledOffset (i : BitVec 12) (l : Option Lend) (z : BitVec 2) : XWord :=
  BitVec.ofInt 64 ((match l with | none => i.toInt | some k => (k ++ i).toInt) * 2 ^ z.toNat)

/-- The offset of an SM form with an index register (R273). -/
def indexedBy (s : State) (x i : BitVec 6) (z : BitVec 2) : XWord := value s x + BitVec.ofNat 64 (i.toNat * 2 ^ z.toNat)

/-- R273: a load has been issued and its result awaits it. -/
def LoadIssued (s : State) (i : Instr) (kind : AccessKind) (r : BitVec 6) (va : Int) (n : Nat) (poison : Bool)
    (reads : List Reg) : Prop :=
  let a := accessAt s kind va.toNat n [] 0
  ∃ t, exec i s = .next t ∧ Keeps s t ∧
    ScalarAwaits (accessIssued s a) t r 0 poison 0 64 (some s.core.serial) reads (accessWaits s a)

/-- R275: a posted store has been issued: it stands among the accesses with its bytes, and nothing else of the core changes. -/
def StoreIssued (s : State) (i : Instr) (va : Int) (bytes : List Byte) (reads : List Reg) : Prop :=
  let a := accessAt s .store va.toNat bytes.length bytes 0
  ∃ t, exec i s = .next t ∧ Keeps s t ∧ t.core = (accessIssued s a).core ∧ NotesWaits s t reads [] (accessWaits s a)

/-- R269, R265: what turns a load of `2^z` bytes away, in order: its handle, its bounds and alignment, the mode of its region. -/
def GlobalLoadTurnedAway (s : State) (i : Instr) (h : Nat) (z : BitVec 2) (va : Int) (reads : List Reg) : Prop :=
  let ok := InHandle s h va (2 ^ z.toNat) (2 ^ z.toNat)
  ((handle s h).valid = false → Faults s i 0x08 (BitVec.ofNat 64 h) reads) ∧
  ((handle s h).valid = true → ¬ ok → Faults s i 0x09 (BitVec.ofInt 64 va) reads) ∧
  (ok → ¬ LoadMode (handle s h).mode → Faults s i 0x0C (BitVec.ofInt 64 va) reads)

/-- R269, R265: what turns a store away: the same, and the permission of its region and of its pages. -/
def GlobalStoreTurnedAway (s : State) (i : Instr) (h : Nat) (z : BitVec 2) (va : Int) (reads : List Reg) : Prop :=
  let ok := InHandle s h va (2 ^ z.toNat) (2 ^ z.toNat)
  let mode := (handle s h).mode
  ((handle s h).valid = false → Faults s i 0x08 (BitVec.ofNat 64 h) reads) ∧
  ((handle s h).valid = true → ¬ ok → Faults s i 0x09 (BitVec.ofInt 64 va) reads) ∧
  (ok → LoadMode mode → mode ≠ 3 → Faults s i 0x0A (BitVec.ofInt 64 va) reads) ∧
  (ok → ¬ LoadMode mode → ¬ StoreMode mode → Faults s i 0x0C (BitVec.ofInt 64 va) reads) ∧
  (ok → StoreMode mode → (handle s h).w = false → Faults s i 0x0A (BitVec.ofInt 64 va) reads)

/-- R274: a speculative load that the checks turn away raises nothing: its result is poisoned where it goes to an x register or a
queue, and a predicate takes 0. -/
def SpeculationDefers (s : State) (i : Instr) (r : BitVec 6) (h : Nat) (z : BitVec 2) (va : Int) (reads : List Reg) : Prop :=
  ¬ (InHandle s h va (2 ^ z.toNat) (2 ^ z.toNat) ∧ LoadMode (handle s h).mode) → ∃ t, exec i s = .next t ∧ Keeps s t ∧
    ScalarLands s t r 0 (decide (r.toNat < 48)) 0 64 reads

/-- The low bytes of a value, the lowest first. -/
def bytesOf {w : Nat} (v : BitVec w) (n : Nat) : List Byte := (List.range n).map fun k => v.extractLsb' (8 * k) 8

/-- R276: the atomics of ops 0 to 10, and the operation of each. -/
def atomicTable : List ((BitVec 6 → BitVec 4 → BitVec 6 → BitVec 2 → BitVec 2 → BitVec 2 → Lend → Instr) × AmoOp) := [
  (.amoAdd, .add), (.amoAnd, .and), (.amoOr, .or), (.amoXor, .xor), (.amoMin, .min), (.amoMax, .max), (.amoMinn, .minn),
  (.amoMaxn, .maxn), (.amoSwap, .swap), (.amoCas, .cas), (.amoFadd, .fadd)]

/-- R265, R269, R408: when an atomic may go through a handle: in mode A, with AT, and over the host only for the operations
that PCI Express carries. -/
def MayAtomic (s : State) (h : Nat) (op : AmoOp) : Prop :=
  (handle s h).mode = 4 ∧ (handle s h).at' = true ∧
  ((handle s h).hs = true → op = .add ∨ op = .swap ∨ op = .cas)

/-- R277: an atomic has been issued with its value, its compare value and the generator's key and step; with d = x0 it is
posted, and else its old value lands at bound 96 or when it arrives. -/
def AtomicIssued (s : State) (i : Instr) (op : AmoOp) (d : BitVec 6) (h : Nat) (b x : BitVec 6) (n : Nat) (code order : BitVec 2) :
    Prop :=
  let cmp := if op = .cas then (value s d).toNat else 0
  let a := accessAt s (.amo op (value s b).toNat cmp s.before.srkey s.before.srstep order)
    (through s h (value s x)).toNat n (List.replicate n 0) (scopePlaces s code)
  let reads := [sourceReg x, sourceReg b] ++ (if op = .cas then [Reg.x d.toNat] else [])
  ∃ t, exec i s = .next t ∧ Keeps s t ∧ NotesWaits s t reads [] (accessWaits s a) ∧
    (d = 0 → t.core = (accessIssued s a).core) ∧
    (d ≠ 0 → Lands (accessIssued s a) t [resultOf s (.x d.toNat) 0 false 0 96 (some s.core.serial)])

/-- R278: what each integer atomic leaves in memory, from the old value and B at width w. -/
def atomicNew (w : Nat) (old b c : BitVec w) : AmoOp → BitVec w
  | .add => old + b
  | .and => old &&& b
  | .or => old ||| b
  | .xor => old ^^^ b
  | .min => if old.toInt ≤ b.toInt then old else b
  | .max => if old.toInt ≤ b.toInt then b else old
  | .minn => if old.toNat ≤ b.toNat then old else b
  | .maxn => if old.toNat ≤ b.toNat then b else old
  | .swap => b
  | .cas => if old = c then b else old
  | _ => old

/-! ## System registers -/

/-- R20, R23, R27, R42, R52, R56, R60, R61, R170, R172, R174, R256, R327, R382, R391: the value of each system register. -/
def systemValue (s : State) (n : Nat) : XWord :=
  let c := s.before
  match n with
  | 0x00 => 1
  | 0x01 => BitVec.ofNat 64 ((if c.strict then 1 else 0) + (if c.check then 2 else 0))
  | 0x02 => c.cyc
  | 0x03 => c.frz
  | 0x04 => c.lc
  | 0x05 => c.lps.setWidth 64
  | 0x06 => c.lpe.setWidth 64
  | 0x20 => c.rm.setWidth 64
  | 0x21 => c.fflags.setWidth 64
  | 0x22 => BitVec.ofNat 64 ((if c.nve then 1 else 0) + (if c.qoe then 32 else 0))
  | 0x23 => c.srkey.setWidth 64
  | 0x24 => c.srstep.setWidth 64
  | 0x25 => c.tes.setWidth 64
  | 0x50 => c.tpitch.setWidth 64
  | 0x51 => c.banks[0].tag.setWidth 64 + (c.banks[1].tag.setWidth 64 <<< 4)
  | 0x60 => c.dm.setWidth 64
  | 0x80 => c.cstride0.setWidth 64
  | 0x81 => c.cstride1.setWidth 64
  | 0x82 => c.cidx.setWidth 64
  | 0xA0 => c.bind0.setWidth 64
  | 0xA1 => c.bind1.setWidth 64
  | 0xA2 => c.skew0.setWidth 64
  | 0xA3 => c.skew1.setWidth 64
  | 0xC0 => s.pkg.time.setWidth 64
  | 0xC1 => s.pkg.ptbound.setWidth 64
  | n =>
    let g := tileGeometry c (n - 0x40)
    g.fmt.setWidth 64 ||| (g.es.setWidth 64 <<< 5) ||| (g.rows.setWidth 64 <<< 8) ||| (g.cols.setWidth 64 <<< 16)

/-- R31, R382: the assigned system register numbers; the queen core alone has 0xA0 to 0xA3. -/
def Assigned (s : State) (n : Nat) : Prop :=
  n ≤ 6 ∨ 0x20 ≤ n ∧ n ≤ 0x25 ∨ 0x40 ≤ n ∧ n ≤ 0x51 ∨ n = 0x60 ∨ 0x80 ≤ n ∧ n ≤ 0x82 ∨
  s.here = 4096 ∧ 0xA0 ≤ n ∧ n ≤ 0xA3 ∨ n = 0xC0 ∨ n = 0xC1

/-! ## Handles -/

/-- R285: a range that a binding form accepts, and the mode of the region that holds it. -/
def Bindable (s : State) (d b : BitVec 6) (p : BitVec 2) (mode : BitVec 3) : Prop :=
  Source d ∧ Source b ∧ poisoned s d = false ∧ poisoned s b = false ∧
  0 < (value s b).toNat ∧ (value s b).toNat < 2 ^ 48 ∧ (value s d).toNat + (value s b).toNat ≤ 2 ^ 55 ∧
  ((holdingRegion s.before (value s d).toNat (value s b).toNat).map (·.mode) = some mode) ∧
  (mode = 1 ∧ p = 0 ∨ mode = 5 ∧ p = 0 ∨ mode = 2 ∧ p = 1 ∨ mode = 3 ∧ p ≤ 1 ∨ mode = 4 ∧ p = 2)

/-- R242, R243, R285: the handle that a range and the entries that cover it give: W, AT, HS, RM and AP are those of its pages, W only
with a permission that writes, and AT only where no page lies in a window. -/
def Binds (es : List TlbEntry) (va len : Nat) (p : BitVec 2) (mode : BitVec 3) (e : Handle) : Prop :=
  e.valid = true ∧ e.base.toNat = va ∧ e.len.toNat = len ∧ e.mode = mode ∧ e.perm = p ∧
  (e.w = true ↔ p ≠ 0 ∧ ∀ x ∈ es, x.w = true) ∧
  (e.at' = true ↔ (∀ x ∈ es, x.at' = true) ∧ mapsWindow es va len = false) ∧
  (e.hs = true ↔ ∃ x ∈ es, x.hs = true) ∧ (e.rm = true ↔ ∃ x ∈ es, x.rm = true) ∧ e.ap = mapsWindow es va len

/-! ## Vector forms -/

/-- Lane `i` of a v register, in lanes of some bits (R137). -/
def laneAt (s : State) (r : BitVec 6) (bits i : Nat) : Nat := (readV s.before r.toNat).toNat / 2 ^ (bits * i) % 2 ^ bits

/-- R137: the lanes of a width, and the bits of a width code. -/
def lanesIn (w : BitVec 2) (bits : Nat) : Nat := 256 * 2 ^ w.toNat / bits

/-- R139: the mask register of a lend of kind M or F, whether it zeroes, and whether a lane is active under it. -/
def maskReg (l : Lend) : Nat := (l.extractLsb' 0 3).toNat
def zeroes (l : Lend) : Bool := l.getLsbD 3
def Active (s : State) (m i : Nat) : Prop := (readM s.before m).getLsbD i = true

/-- R138 to R141: a vector result lands in its register at the bound plus the bank penalty (R25) of the v registers it reads:
active lanes take `f`, inactive ones 0 or the destination's old lane; the flags are those of the active lanes together, and the
result is poisoned when a register it reads is. A merging form under a mask other than m0 reads its destination. -/
def VectorLands (s t : State) (w : BitVec 2) (bits m : Nat) (z : Bool) (d : BitVec 6) (srcs : List (BitVec 6)) (readsD : Bool)
    (lat : Nat) (f : Nat → Rounded) (pre : List Reg) (poison : Bool) : Prop :=
  let regs := srcs.map (·.toNat) ++ (if readsD ∨ (z = false ∧ m ≠ 0) then [d.toNat] else [])
  ∃ v flags, Notes s t (pre ++ [.m m] ++ regs.map Reg.v) [] ∧
    Lands s t [resultOf s (.v d.toNat 0 (256 * 2 ^ w.toNat) false) v (poison || regs.any (poisonV s.before)) flags
      (lat + bankPenalty s.issue.reads regs) none] ∧
    (∀ i < lanesIn w bits,
      (Active s m i → v / 2 ^ (bits * i) % 2 ^ bits = (f i).bits % 2 ^ bits) ∧
      (¬ Active s m i → v / 2 ^ (bits * i) % 2 ^ bits = if z then 0 else laneAt s d bits i)) ∧
    (∀ k < 6, flags.getLsbD k = true ↔ ∃ i < lanesIn w bits, Active s m i ∧ (f i).flags.getLsbD k = true)

/-- A result with no flags. -/
def plainly (v : Nat) : Rounded := { bits := v, flags := 0 }

/-- R85: the element bits of a VI type, whether it is signed, and a lane as its integer. -/
def elemBits (t : BitVec 3) : Nat := 8 * 2 ^ (t.toNat % 4)
def laneInt (s : State) (t : BitVec 3) (r : BitVec 6) (i : Nat) : Int :=
  if t.toNat < 4 then (BitVec.ofNat (elemBits t) (laneAt s r (elemBits t) i)).toInt else laneAt s r (elemBits t) i

/-- R142: the least and the greatest value of a type. -/
def typeLeast (t : BitVec 3) : Int := if t.toNat < 4 then -2 ^ (elemBits t - 1) else 0
def typeGreatest (t : BitVec 3) : Int := if t.toNat < 4 then 2 ^ (elemBits t - 1) - 1 else 2 ^ elemBits t - 1

/-- R142: the lane-wise integer forms: the result of each before it wraps to the lane, and its bound. -/
def vecIntTable : List ((BitVec 2 → BitVec 6 → BitVec 6 → BitVec 6 → BitVec 3 → Lend → Instr) ×
    (BitVec 3 → Int → Int → Int) × Nat) := [
  (.vadd, fun _ x y => x + y, 2),
  (.vsub, fun _ x y => x - y, 2),
  (.vmul, fun _ x y => x * y, 4),
  (.vmulh, fun t x y => x * y / 2 ^ elemBits t, 4),
  (.vmin, fun _ x y => if x ≤ y then x else y, 2),
  (.vmax, fun _ x y => if x ≤ y then y else x, 2),
  (.vshl, fun t x y => x * 2 ^ (y % elemBits t).toNat, 2),
  (.vshr, fun t x y => x / 2 ^ (y % elemBits t).toNat, 2),
  (.vadds, fun t x y => if x + y < typeLeast t then typeLeast t else if typeGreatest t < x + y then typeGreatest t else x + y, 2),
  (.vsubs, fun t x y => if x - y < typeLeast t then typeLeast t else if typeGreatest t < x - y then typeGreatest t else x - y, 2)]

/-- R142: the bitwise forms. -/
def vecBitTable : List ((BitVec 2 → BitVec 6 → BitVec 6 → BitVec 6 → BitVec 3 → Lend → Instr) × (Nat → Nat → Nat)) := [
  (.vand, fun x y => x &&& y), (.vor, fun x y => x ||| y), (.vxor, fun x y => x ^^^ y)]

/-- R143: the conditions of `vcmp` by its code. -/
def vecCondition (k : Nat) (x y : Int) : Prop :=
  match k with
  | 0 => x = y
  | 1 => x ≠ y
  | 2 => x < y
  | 3 => x ≤ y
  | 4 => y < x
  | _ => y ≤ x

/-- R143, R148: a mask result lands in a mask register, or nowhere for m0: active lanes take the condition, inactive ones keep
their bit or become 0, and bits from the lane count up become 0. A poisoned source is consumed (R140). -/
def MaskLands (s t : State) (w : BitVec 2) (bits m : Nat) (z : Bool) (d : BitVec 3) (srcs : List (BitVec 6))
    (holds : Nat → Prop) (raised : Nat → Flags) : Prop :=
  let regs := srcs.map (·.toNat)
  let reads := Reg.m m :: (if z = false ∧ m ≠ 0 then [Reg.m d.toNat] else [])
  (regs.any (poisonV s.before) = true → LeavesCore s t ∧ Notes s t reads [slotFault s 0x16 0]) ∧
  (regs.any (poisonV s.before) = false → ∃ v flags, Notes s t (reads ++ regs.map Reg.v) [] ∧
    Lands s t [resultOf s (if d = 0 then .none else .m d.toNat) v false flags (2 + bankPenalty s.issue.reads regs) none] ∧
    (∀ i, v.testBit i = true ↔ i < lanesIn w bits ∧
      (Active s m i → holds i) ∧ (¬ Active s m i → z = false ∧ (readM s.before d.toNat).getLsbD i = true)) ∧
    (∀ k < 6, flags.getLsbD k = true ↔ ∃ i < lanesIn w bits, Active s m i ∧ (raised i).getLsbD k = true))

/-- R86, R42: the layout of a VF or VS type. -/
def vectorLayout (s : State) (t : BitVec 3) : Layout :=
  match t.toNat with
  | 0 => .ieee 11 52
  | 1 => .ieee 8 23
  | 2 => .ieee 8 7
  | 3 => .ieee 5 10
  | 4 => .taper 32 (s.before.tes.extractLsb' 4 2).toNat
  | _ => .taper 16 (s.before.tes.extractLsb' 2 2).toNat

/-- The element bits of a VF or VS type. -/
def floatBits (t : BitVec 3) : Nat := if t = 0 then 64 else if t = 1 ∨ t = 4 then 32 else 16

/-- R68, R145: the rounding mode of an F-kind lend: its own where its override bit is 1, else `sys.rm`. -/
def modeOf (s : State) (l : Lend) : BitVec 3 := if l.getLsbD 4 then l.extractLsb' 5 3 else s.before.rm

/-- R71: the x register of the SR base bit. -/
def baseReg (l : Lend) : Nat := if l.getLsbD 8 then 17 else 0

/-- R54, R145: how lane `i` of elements of `z` bytes rounds under a mode: A is the base register plus the lane's offset. -/
def laneRounds (s : State) (rm : BitVec 3) (l : Lend) (z i : Nat) : RoundIn :=
  { rm := rm
    r := if rm = 5 ∨ rm = 7 then
      gen s.before.srkey s.before.srstep ((readX s.before (baseReg l)).bits + BitVec.ofNat 64 (i * z)) else 0 }

/-- A lane as a number. -/
def laneNum (s : State) (t : BitVec 3) (r : BitVec 6) (i : Nat) : Machine.Num :=
  decodeNum (vectorLayout s t) (laneAt s r (floatBits t) i)

/-- R145, R71, R109: a rounding vector form. Under SR and SR-SAT it reads its base register, and a poisoned one is consumed. -/
def RoundedLanes (s t : State) (w : BitVec 2) (ty : BitVec 3) (l : Lend) (d : BitVec 6) (srcs : List (BitVec 6))
    (readsD : Bool) (lat : Nat) (f : RoundIn → Nat → Rounded) : Prop :=
  let rm := modeOf s l
  let base := readX s.before (baseReg l)
  let go := fun pre => VectorLands s t w (floatBits ty) (maskReg l) (zeroes l) d srcs readsD lat
    (fun i => f (laneRounds s rm l (floatBits ty / 8) i) i) pre false
  (¬ Stochastic rm → go []) ∧
  (Stochastic rm → base.poison = false → go [.x (baseReg l)]) ∧
  (Stochastic rm → base.poison = true → LeavesCore s t ∧ Notes s t [.x (baseReg l)] [slotFault s 0x16 0])

/-- R146, R157: the forms of two rounded operands, with their bounds by type (R24). -/
def vecFloatTable : List ((BitVec 2 → BitVec 6 → BitVec 6 → BitVec 6 → BitVec 3 → Lend → Instr) ×
    (Layout → RoundIn → Machine.Num → Machine.Num → Rounded) × (BitVec 3 → Nat)) := [
  (.vfadd, addOp, fun t => if t = 4 ∨ t = 5 then 5 else 4),
  (.vfsub, subOp, fun t => if t = 4 ∨ t = 5 then 5 else 4),
  (.vfmul, mulOp, fun t => if t = 4 ∨ t = 5 then 5 else 4),
  (.vdiv, divOp, fun t => if t = 0 then 16 else 10)]

/-- R157: the special functions of one operand. -/
def vecSpecialTable : List ((BitVec 2 → BitVec 6 → BitVec 6 → BitVec 3 → Lend → Instr) ×
    (Layout → RoundIn → Machine.Num → Rounded)) := [
  (.vrecip, recipOp), (.vrsqrt, rsqrtOp), (.vsqrt, sqrtOp), (.vexp2, exp2Op), (.vlog2, log2Op), (.vexp, expOp)]

/-- R147: the sign forms on a pattern: the sign bit, or the two's complement of a tapered pattern. -/
def absPattern (t : BitVec 3) (v : Nat) : Nat :=
  if t = 4 ∨ t = 5 then (if 2 ^ (floatBits t - 1) ≤ v then 2 ^ floatBits t - v else v) else v % 2 ^ (floatBits t - 1)
def negPattern (t : BitVec 3) (v : Nat) : Nat :=
  if t = 4 ∨ t = 5 then (2 ^ floatBits t - v) % 2 ^ floatBits t else (v + 2 ^ (floatBits t - 1)) % 2 ^ floatBits t

/-- R148: the class word of a pattern. -/
def classPattern (t : BitVec 3) (v : Nat) : Nat :=
  let n := floatBits t
  if t = 4 ∨ t = 5 then 2 ^ (if v = 2 ^ (n - 1) then 9 else if v = 0 then 4 else if 2 ^ (n - 1) ≤ v then 1 else 6)
  else
    let fb := if t = 0 then 52 else if t = 1 then 23 else if t = 2 then 7 else 10
    2 ^ classBit (n - 1 - fb) fb (2 ^ (n - 1) ≤ v) (v / 2 ^ fb % 2 ^ (n - 1 - fb)) (v % 2 ^ fb)

/-- R87: the source format of a VX lend. -/
def sourceFormat (l : Lend) : BitVec 5 := l.extractLsb' 0 5

/-- R42: the layout of a format code under `sys.tes`. -/
def formatLayout (s : State) (f : BitVec 5) : Layout :=
  layoutOf f (if f = 9 then (s.before.tes.extractLsb' 4 2).toNat else if f = 10 then (s.before.tes.extractLsb' 2 2).toNat
    else if f = 11 then (s.before.tes.extractLsb' 0 2).toNat else 0)

/-- R150: the lanes of a conversion between two formats, and the registers of the side whose elements have `f`. -/
def convertLanes (w : BitVec 2) (f g : BitVec 5) : Nat := 256 * 2 ^ w.toNat / min (fmtBits f) (fmtBits g)
def sideRegs (w : BitVec 2) (f g : BitVec 5) : Nat := (convertLanes w f g * fmtBits f + 1023) / 1024

/-- R150: element `i` of `bits` bits in the group of v registers from `a` up. -/
def groupElement (s : State) (a : BitVec 6) (bits i : Nat) : Nat :=
  (readV s.before (a.toNat + bits * i / 1024)).toNat / 2 ^ (bits * i % 1024) % 2 ^ bits

/-- R150: the results of a conversion land over a group of registers, whose further bits stay, `extra` after them. The flags
stand with the first. -/
def GroupLands (s t : State) (d : BitVec 6) (total v : Nat) (poison : Bool) (flags : Flags) (lat : Nat) (extra : List Landing) :
    Prop :=
  Lands s t ((List.range ((total + 1023) / 1024)).map (fun j =>
    resultOf s (.v (d.toNat + j) 0 (min 1024 (total - 1024 * j)) false) (v / 2 ^ (1024 * j) % 2 ^ 1024) poison
      (if j = 0 then flags else 0) lat none) ++ extra)

/-- R150, R71: what every conversion shares: registers within v0 to v63, and a base register that is not poisoned under SR and
SR-SAT. -/
def MayConvert (s : State) (d a : BitVec 6) (dsts srcs : Nat) (m : BitVec 3) (l : Lend) : Prop :=
  d.toNat + dsts ≤ 64 ∧ a.toNat + srcs ≤ 64 ∧ 0 < dsts ∧ 0 < srcs ∧
  (Stochastic m → (readX s.before (baseReg l)).poison = false)

/-- The registers that a conversion reads: its base register under SR and SR-SAT, then its sources. -/
def convertReads (m : BitVec 3) (l : Lend) (a : BitVec 6) (srcs : Nat) : List Reg :=
  (if m = 5 ∨ m = 7 then [.x (baseReg l)] else []) ++ (List.range srcs).map fun j => .v (a.toNat + j)

/-- R25: the bank penalty of a conversion, and the poison of its sources. -/
def convertPenalty (s : State) (a : BitVec 6) (srcs : Nat) : Nat :=
  bankPenalty s.issue.reads ((List.range srcs).map (a.toNat + ·))
def convertPoison (s : State) (a : BitVec 6) (srcs : Nat) : Bool := (List.range srcs).any fun j => poisonV s.before (a.toNat + j)

/-- The lane and flag values of some results. -/
def Holds (v : Nat) (flags : Flags) (bits n : Nat) (f : Nat → Rounded) : Prop :=
  (∀ i < n, v / 2 ^ (bits * i) % 2 ^ bits = (f i).bits % 2 ^ bits) ∧
  (∀ k < 6, flags.getLsbD k = true ↔ ∃ i < n, (f i).flags.getLsbD k = true)

/-! ## Vector accesses to the comb and to memory -/

/-- R137: the bytes of a width. -/
def blockBytes (w : BitVec 2) : Nat := 32 * 2 ^ w.toNat

/-- R164, R289: the offset of a contiguous form: an index register, and imm4 or 13 bits with the lend above it, in units of the
width. -/
def contiguousAt (s : State) (w : BitVec 2) (x : BitVec 6) (i : BitVec 4) (l : Option Lend) : Int :=
  (value s x).toInt + (match l with | none => i.toInt | some k => (k ++ i).toInt) * (blockBytes w : Nat)

/-- R164: the element bytes, the mask and the index of lane `j` of a gather or scatter. -/
def gatherSize (l : Lend) : Nat := 2 ^ (l.extractLsb' 0 2).toNat
def gatherBy (l : Lend) : Nat := (l.extractLsb' 2 3).toNat
def laneOffsetIn (s : State) (w : BitVec 2) (x : BitVec 6) (i : BitVec 4) (l : Lend) (j : Nat) : Int :=
  i.toInt * (blockBytes w : Nat) + (laneAt s x (8 * gatherSize l) j * gatherSize l : Nat)

/-- R139: whether lane `j` of a gather or scatter takes part. -/
def Gathers (s : State) (w : BitVec 2) (l : Lend) (j : Nat) : Prop :=
  j < lanesIn w (8 * gatherSize l) ∧ Active s (gatherBy l) j

/-- R165: every lane that takes part lies within the cell. -/
def LanesWithin (s : State) (w : BitVec 2) (c x : BitVec 6) (i : BitVec 4) (l : Lend) : Prop :=
  ∀ j, Gathers s w l j → 0 ≤ laneOffsetIn s w x i l j ∧ laneOffsetIn s w x i l j + gatherSize l ≤ (cell s c.toNat).size

/-- The reasons of a gather or scatter to wait: those of every lane that takes part. -/
def gatherWaits (s : State) (w : BitVec 2) (c x : BitVec 6) (i : BitVec 4) (l : Lend) (writes : Bool) : List Wait :=
  ((List.range (lanesIn w (8 * gatherSize l))).filter fun j => (readM s.before (gatherBy l)).getLsbD j).flatMap fun j =>
    combWaits s ((cell s c.toNat).base + (laneOffsetIn s w x i l j).toNat) (gatherSize l) writes

/-- The v registers that a gather reads (R25): its destination where it merges, and its index. -/
def gatherReads (v x : BitVec 6) (l : Lend) : List Nat :=
  (if l.getLsbD 5 = false ∧ gatherBy l ≠ 0 then [v.toNat] else []) ++ [x.toNat]

/-- R289: the address of a global vector form. -/
def vectorAt (s : State) (w : BitVec 2) (h : BitVec 4) (x : BitVec 6) (i : BitVec 4) (l : Option Lend) : Int :=
  through s h.toNat (BitVec.ofInt 64 (contiguousAt s w x i l))

/-- R289, R290: a global vector load has been issued and its register awaits it. -/
def VectorIssued (s : State) (i : Instr) (kind : AccessKind) (w : BitVec 2) (v : BitVec 6) (va : Int) (poison : Bool)
    (reads : List Reg) : Prop :=
  let a := accessAt s kind va.toNat (blockBytes w) [] 0
  ∃ t, exec i s = .next t ∧ Keeps s t ∧ NotesWaits s t reads [] (accessWaits s a) ∧
    Lands (accessIssued s a) t
      [resultOf s (.v v.toNat 0 (256 * 2 ^ w.toNat) false) 0 poison 0 64 (some s.core.serial)]

/-! ## Quire banks -/

/-- R47: the granules that a slot of each view covers. -/
def View (g : Nat) : Prop := g = 1 ∨ g = 2 ∨ g = 4 ∨ g = 16

/-- R173: the view of a bank's tag. -/
def viewOf (tag : BitVec 3) : Nat := if tag = 0 then 4 else if tag = 1 ∨ tag = 2 then 2 else if tag = 3 then 1 else 16

/-- R47: an extended value modulo 2^(W + 12g), as a signed number. -/
def aliased (g : Nat) (x : Int) : Int := (BitVec.ofInt (284 * g) x).toInt

/-- R48: a slot that holds an extended value: OVF says whether it lies outside the view's range. -/
def slotSettled (g : Nat) (status : BitVec 4) (x : Int) : Slot :=
  { x := aliased g x
    status := (status &&& 7) |||
      (if aliased g x < -2 ^ (272 * g - 1) ∨ 2 ^ (272 * g - 1) ≤ aliased g x then 8 else 0) }

/-- ⌊±m × 2^k⌋. -/
def exactFloor (neg : Bool) (m : Nat) (k : Int) : Int :=
  if 0 ≤ k then (if neg then -(m : Int) else m) * 2 ^ k.toNat else (if neg then -(m : Int) else m) / 2 ^ (-k).toNat

/-- R48: what an exact value leaves in a slot. -/
def accumulated (g : Nat) (s : Slot) : Machine.Num → Slot
  | .nan _ _ _ => slotSettled g (s.status ||| 1) s.x
  | .nar => slotSettled g (s.status ||| 1) s.x
  | .inf neg => slotSettled g (s.status ||| (if neg then 4 else 2)) s.x
  | .fin neg m e => slotSettled g s.status (s.x + exactFloor neg m (e + 136 * g))

/-- R50: what a slot rounds to, by the first case that applies. -/
def roundedOut (l : Layout) (rm : BitVec 3) (sat : Bool) (r g : Nat) (s : Slot) : Rounded :=
  let q := (BitVec.ofInt (272 * g) s.x).toInt
  if s.status &&& 1 ≠ 0 ∨ s.status &&& 6 = 6 then { bits := if l.isInt then 0 else l.defaultNan, flags := flagNV }
  else if s.status &&& 2 ≠ 0 then convertInf l rm sat false
  else if s.status &&& 4 ≠ 0 then convertInf l rm sat true
  else if s.status &&& 8 ≠ 0 then { bits := if l.isInt then 0 else l.defaultNan, flags := flagQO }
  else if q = 0 then plainly 0
  else roundExact l rm sat r { neg := q < 0, m := q.natAbs, e := -(136 * g : Nat), sticky := false }

/-- A bank as it stood before the bundle. -/
def bank (s : State) (q : BitVec 1) : Bank := bankOf s.before q.toNat

/-- R175: a busy operation keeps a resource from a syllable that reads some and writes others. -/
def Blocks (reads writes : List Resource) (b : BusyOp) : Bool :=
  decide ((∃ r ∈ reads, r ∈ b.writes) ∨ ∃ r ∈ writes, r ∈ b.writes ∨ r ∈ b.reads)

/-- R175, R307, R312: the reasons of a matrix syllable to wait for the resources it reads and writes; a wait for the row-statistics
engine alone is one of its own. -/
def resourceWaits (s : State) (reads writes : List Resource) : List Wait :=
  if ∃ b ∈ s.before.busy, Blocks reads writes b = true then
    (if ∀ b ∈ s.before.busy, Blocks reads writes b = true → Resource.rowStats ∈ b.writes then [.rows] else [.scoreboard])
  else []

/-- R355: whether a tile or bank that an operation reads holds an uncorrectable error. -/
def Marred (s : State) (r : Resource) : Prop :=
  (∃ n, r = .tile n ∧ s.before.tileBad.getLsbD n = true) ∨ (∃ n, r = .bank n ∧ s.before.bankBad.getLsbD n = true)

/-- R175: an operation of some busy count that has started: what it reads and writes is busy until its count of mclk cycles is
over, and then its effects take place; one that reads a marred resource then faults. -/
def Starts (s t : State) (count : Nat) (reads writes : List Resource) (effects : List BusyEffect) (flags : Flags)
    (fault : BitVec 8) (comb : Nat × Nat × Bool) : Prop :=
  ∃ b : BusyOp, t.core = { s.core with busy := s.core.busy ++ [b] } ∧ b.pc = s.before.pc ∧ b.reads = reads ∧
    b.writes = writes ∧ b.endsAt = s.before.mclk + count ∧ b.effects = effects ∧ b.flags = flags ∧
    (b.combLo, b.combLen, b.combWrites) = comb ∧
    ((∀ r ∈ reads, ¬ Marred s r) → b.fault = fault) ∧ ((∃ r ∈ reads, Marred s r) → b.fault = 0x16)

/-- R174: a syllable that starts an operation which leaves the slots of a bank as `P` says, and its tag as it is or this one. -/
def BankTakes (s : State) (i : Instr) (q : BitVec 1) (count : Nat) (reads : List Resource) (regs : List Reg)
    (tag : Option (BitVec 3)) (P : Bank → Prop) : Prop :=
  ∃ t b, exec i s = .next t ∧ Keeps s t ∧ NotesWaits s t regs [] (resourceWaits s reads [.bank q.toNat]) ∧ P b ∧
    Starts s t count reads [.bank q.toNat] (.bank q.toNat b :: (tag.map (BusyEffect.tag q.toNat)).toList) 0 0 (0, 0, false)

/-- A matrix syllable that one of the checks of R180 turns away. -/
def TurnedAway (s : State) (i : Instr) (code : BitVec 8) : Prop :=
  ∃ t, exec i s = .next t ∧ Keeps s t ∧ LeavesCore s t ∧ t.issue.faults = s.issue.faults ++ [slotFault s code 0]

/-- R51: a full quire as one number: Q, then the status fields, then the wrap fields of its granules. -/
def quireNumber (b : Bank) (j : Nat) : Nat :=
  let g := fun k => granule b (4 * j + k)
  (List.range 4).foldl (fun a k => a + (g k).q.toNat * 2 ^ (272 * k) + (g k).status.toNat * 2 ^ (1088 + 4 * k) +
    (g k).wrap.toNat * 2 ^ (1104 + 12 * k)) 0

/-- The `n` bytes of a number, the lowest first. -/
def numberBytes (v n : Nat) : List Byte := (List.range n).map fun k => BitVec.ofNat 8 (v / 256 ^ k)

/-! ## Tiles -/

/-- The geometry of a tile (R170), as it stood before the bundle, and its rows, columns and element width. -/
def geometry (s : State) (n : BitVec 4) : Geometry := tileGeometry s.before n.toNat
def rows (s : State) (n : BitVec 4) : Nat := (geometry s n).rows.toNat + 1
def columns (s : State) (n : BitVec 4) : Nat := (geometry s n).cols.toNat + 1
def width (s : State) (n : BitVec 4) : Nat := fmtBits (geometry s n).fmt

/-- R171: a valid geometry. -/
def Valid (s : State) (n : BitVec 4) : Prop :=
  (geometry s n).fmt.toNat ≤ 15 ∧
  ((geometry s n).es = 0 ∨ 9 ≤ (geometry s n).fmt.toNat ∧ (geometry s n).fmt.toNat ≤ 11) ∧
  rows s n * columns s n * width s n ≤ 32768 ∧ (width s n = 4 → columns s n % 2 = 0)

/-- R172: the bytes of a tile. -/
def tileBytes (s : State) (n : BitVec 4) : Nat := (rows s n * columns s n * width s n + 7) / 8

/-- A tile as a number, and element (r, c) of it as a pattern and as a value (R169). -/
def tileNumber (s : State) (n : BitVec 4) : Nat := (tileOf s.before n.toNat).toNat
def element (s : State) (n : BitVec 4) (r c : Nat) : Nat :=
  tileNumber s n / 2 ^ (width s n * (r * columns s n + c)) % 2 ^ width s n
def tileLayout (s : State) (n : BitVec 4) : Layout := layoutOf (geometry s n).fmt (geometry s n).es.toNat

/-- R169: what an operation that writes a tile through its geometry leaves there: its elements, and the old bits above them. -/
def TileHolds (s : State) (d : BitVec 4) (w : TileWord) (f : Nat → Nat → Nat) : Prop :=
  (∀ r < rows s d, ∀ c < columns s d,
    w.toNat / 2 ^ (width s d * (r * columns s d + c)) % 2 ^ width s d = f r c % 2 ^ width s d) ∧
  w.toNat / 2 ^ (width s d * (rows s d * columns s d)) = tileNumber s d / 2 ^ (width s d * (rows s d * columns s d))

/-- The flags of every element of a rounded tile together. -/
def TileFlags (s : State) (d : BitVec 4) (flags : Flags) (f : Nat → Nat → Rounded) : Prop :=
  ∀ k < 6, flags.getLsbD k = true ↔ ∃ r < rows s d, ∃ c < columns s d, (f r c).flags.getLsbD k = true

/-- R54, R187, R192: how element (r, c) of a tile rounds under a mode: A is its byte offset among the elements. -/
def elementRounds (s : State) (n : BitVec 4) (rm : BitVec 3) (r c : Nat) : Nat :=
  if rm = 5 ∨ rm = 7 then gen s.before.srkey s.before.srstep
    (BitVec.ofNat 64 ((r * columns s n + c) * (tileLayout s n).bytes)) else 0

/-- R187, R192: the modes of operand that round out of a bank or between tiles. -/
def ElementFormat (f : BitVec 5) : Prop := f.toNat ≤ 5 ∨ 9 ≤ f.toNat ∧ f.toNat ≤ 15

/-- R191: the offset of a tile in its cell. -/
def tileOffset (i : BitVec 9) (l : Option Lend) : Nat := (match l with | none => i.toNat | some k => (k ++ i).toNat) * 64

/-- R172: the bytes of a row, where byte `k` of a tile stands in the comb, the length of the whole range, and whether a pitch
suits the geometry. -/
def rowLength (s : State) (n : BitVec 4) : Nat := columns s n * width s n / 8
def tilePlace (s : State) (n : BitVec 4) (k : Nat) : Nat :=
  if s.before.tpitch = 0 then k else k / rowLength s n * s.before.tpitch.toNat + k % rowLength s n
def tileRange (s : State) (n : BitVec 4) : Nat :=
  if s.before.tpitch = 0 then tileBytes s n else (rows s n - 1) * s.before.tpitch.toNat + rowLength s n
def PitchSuits (s : State) (n : BitVec 4) : Prop :=
  s.before.tpitch = 0 ∨ s.before.tpitch.toNat % 8 = 0 ∧ rowLength s n ≤ s.before.tpitch.toNat

/-- The registers that an operation on tiles reads: their geometries (R170). -/
def geometryReads (ts : List (BitVec 4)) : List Reg := ts.map fun n => Reg.sys (0x40 + n.toNat)

/-- R191, R192: an operation whose result is a tile. -/
def TileTakes (s : State) (i : Instr) (d : BitVec 4) (count : Nat) (srcs : List (BitVec 4)) (regs : List Reg)
    (P : TileWord → Flags → Prop) : Prop :=
  let reads := srcs.map fun n => Resource.tile n.toNat
  ∃ t w flags, exec i s = .next t ∧ Keeps s t ∧ NotesWaits s t regs [] (resourceWaits s reads [.tile d.toNat]) ∧ P w flags ∧
    Starts s t count reads [.tile d.toNat] [.tile d.toNat w] flags 0 (0, 0, false)

/-! ## The MAC array -/

/-- R181: B(p, j), from the tile or its transpose; and the reduction length and columns that B gives. -/
def factorB (s : State) (b : BitVec 4) (bt : Bool) (p j : Nat) : Nat := if bt then element s b j p else element s b p j
def depthB (s : State) (b : BitVec 4) (bt : Bool) : Nat := if bt then columns s b else rows s b
def columnsB (s : State) (b : BitVec 4) (bt : Bool) : Nat := if bt then rows s b else columns s b

/-- R181: the geometries of A and B suit a form of a format with a reduction length. -/
def Suits (s : State) (a b : BitVec 4) (f : BitVec 5) (bt : Bool) (depth : Nat) : Prop :=
  Valid s a ∧ Valid s b ∧ (geometry s a).fmt = f ∧ (geometry s b).fmt = f ∧ rows s a ≤ (shapeOf f).m ∧
  columnsB s b bt ≤ (shapeOf f).n ∧ depthB s b bt = depth

/-- R181: the tag of the bank that a form accumulates into. -/
def TagSuits (s : State) (q : BitVec 1) (f : BitVec 5) (z : Bool) : Prop := z = true ∨ (bank s q).tag = (shapeOf f).code

/-- R177: an MM syllable waits for the array. -/
def arrayWaits (s : State) : List Wait := if s.before.mclk < s.before.arrayFree then [.scoreboard] else []

/-- R175 to R177, R181: a multiply-accumulate has started: the array holds its operands as they stood before the bundle, takes
its steps from two cycles on, and the next syllable may follow after them; Z starts it from a clear bank with the tag set.
Nothing else of the core, which is `after` but for this, changes. -/
def MacStarts (s : State) (after : Core) (i : Instr) (form : MacForm) (q : BitVec 1) (f : BitVec 5) (z : Bool) (reads : List Resource)
    (regs : List Reg) (waits : List Wait) (P : MacOp → Prop) : Prop :=
  let r := reads ++ (if z then [] else [.bank q.toNat])
  ∃ t m b, exec i s = .next t ∧ Keeps s t ∧
    NotesWaits s t regs [] (resourceWaits s r [.bank q.toNat] ++ arrayWaits s ++ waits) ∧ P m ∧
    t.core = { after with
      macs := s.core.macs ++ [m], arrayFree := s.core.mclk + m.steps, busy := s.core.busy ++ [b] } ∧
    m.form = form ∧ m.qb = q.toNat ∧ m.fmt = f ∧ m.step = 0 ∧ m.start = s.before.mclk + 2 ∧
    (z = false → m.bank = bank s q) ∧
    (z = true → m.bank.tag = (shapeOf f).code ∧ ∀ k < 256, granule m.bank k = { q := 0, status := 0, wrap := 0 }) ∧
    b.pc = s.before.pc ∧ b.reads = r ∧ b.writes = [.bank q.toNat] ∧ b.endsAt = s.before.mclk + 6 + m.steps ∧
    b.effects = (if z then [BusyEffect.tag q.toNat (shapeOf f).code] else []) ∧
    b.flags = 0 ∧ b.combLen = 0 ∧ b.qb = q.toNat ∧ b.onBank = true

/-- R181: the operands that the array holds. -/
def HoldsFactors (s : State) (m : MacOp) (a b : BitVec 4) (bt : Bool) (depth : Nat) (fa : Nat → Nat → Nat) : Prop :=
  m.rowsN = rows s a ∧ m.colsN = columnsB s b bt ∧ m.depth = depth ∧ m.es = (geometry s a).es.toNat ∧
  m.esB = (geometry s b).es.toNat ∧
  (∀ i < m.rowsN, ∀ p < depth, m.a.getD (i * depth + p) 0 = fa i p) ∧
  (∀ p < depth, ∀ j < m.colsN, m.b.getD (p * m.colsN + j) 0 = factorB s b bt p j)

/-- R184: the logical positions within a group that its metadata names, in order. -/
def named (s : State) (c : BitVec 4) (i g : Nat) : List Nat :=
  if (geometry s c).fmt = 13 then
    let nib := element s c i (g / 2) / 2 ^ (4 * (g % 2)) % 16
    [nib % 4, nib / 4]
  else (List.range 4).map fun k => element s c i g / 2 ^ (3 * k) % 8

/-- R184: the group size of each pattern, and what metadata is good. -/
def starGroup (s : State) (c : BitVec 4) : Nat := if (geometry s c).fmt = 13 then 4 else 8
def GoodMetadata (s : State) (a c : BitVec 4) : Prop :=
  ∀ i < rows s a, ∀ g < 2 * columns s a / starGroup s c, (named s c i g).Pairwise (· < ·) ∧
    ((geometry s c).fmt ≠ 13 → element s c i g / 2 ^ 12 % 16 = 0)
def MetadataSuits (s : State) (a c : BitVec 4) : Prop :=
  Valid s c ∧ ((geometry s c).fmt = 13 ∨ (geometry s c).fmt = 14) ∧ 2 * columns s a % starGroup s c = 0 ∧
  rows s a ≤ rows s c ∧ 2 * columns s a ≤ 8 * columns s c

/-- R184: logical element (i, p) of the compressed A. -/
def expanded (s : State) (a c : BitVec 4) (i p : Nat) : Nat :=
  let n := starGroup s c
  match (named s c i (p / n)).findIdx? (· == p % n) with
  | some k => element s a i (n / 2 * (p / n) + k)
  | none => 0

/-- R181, R182: the product at (i, j, p) of an operation of the array, under the latches of a core. -/
def productAt (c : Core) (m : MacOp) (i j p b : Nat) : Machine.Num :=
  let x := mulNum (decodeNum (layoutOf m.fmt m.es) (m.a.getD (i * m.depth + p) 0)) (decodeNum (layoutOf m.fmt m.esB) b)
  let k := vget c.latches (p / 16 % 32) { a := 0, b := 0 }
  let scaled := if m.fmt = 6 ∨ m.fmt = 7 ∨ m.fmt = 8 then
      mulNum x (mulNum (decodeScale (k.a.toNat / 2 ^ (8 * i) % 256)) (decodeScale (k.b.toNat / 2 ^ (8 * j) % 256)))
    else x
  if m.form = .mmn then negNum scaled else scaled

/-! ## Copy-class commands -/

/-- A list of checks, each a condition with its fault; the first that holds gives the fault (R165, R330, R402). -/
def FirstFails (checks : List (Prop × BitVec 8 × BitVec 64)) (code : BitVec 8) (addr : BitVec 64) : Prop :=
  ∃ pre p post, checks = pre ++ (p, code, addr) :: post ∧ (∀ q ∈ pre, ¬ q.1) ∧ p
def NoneFails (checks : List (Prop × BitVec 8 × BitVec 64)) : Prop := ∀ q ∈ checks, ¬ q.1

/-- A syllable that faults and changes nothing of its core. -/
def Stopped (s : State) (i : Instr) (code : BitVec 8) (addr : BitVec 64) : Prop :=
  ∃ t, exec i s = .next t ∧ Keeps s t ∧ LeavesCore s t ∧ t.issue.faults = s.issue.faults ++ [slotFault s code addr]

/-- R383: the KIND and the FRAME that bind the copy position of the syllable. -/
def bindWord (s : State) : BitVec 6 := if s.issue.copies = 0 then s.before.bind0 else s.before.bind1
def bindKind (s : State) : Nat := if s.here = queenCore then ((bindWord s).extractLsb' 4 2).toNat else 0
def bindFrame (s : State) : Nat := ((bindWord s).extractLsb' 0 4).toNat

/-- R383: a form that accepts some KINDs may start here: unbound, or bound by such a KIND to a frame of the partition. -/
def BindingSuits (s : State) (kinds : List Nat) : Prop :=
  bindKind s = 0 ∨ bindKind s ∈ kinds ∧ frameIn s.pkg (taskPart s.before) (bindFrame s) = true

/-- R301, R304, R384: there is an entry in the engine's queue, or a credit of the frame. -/
def HasRoom (s : State) (decode : Bool) : Prop :=
  if bindKind s = 0 then
    (if decode then s.core.dq.length < 8 else if s.issue.copies = 0 then s.core.c0.length < 16 else s.core.c1.length < 16)
  else vget s.core.credits (bindFrame s + 16 * (bindKind s - 1)) 0 ≠ 0

/-- R301, R302, R383: the core once a command has taken its entry, or its credit. -/
def queued (s : State) (decode : Bool) (k : Command) : Core :=
  if bindKind s = 0 then
    (if decode then { s.core with dq := s.core.dq ++ [k], serial := s.core.serial + 1 }
    else if s.issue.copies = 0 then { s.core with c0 := s.core.c0 ++ [k], serial := s.core.serial + 1 }
    else { s.core with c1 := s.core.c1 ++ [k], serial := s.core.serial + 1 })
  else
    let n := bindFrame s + 16 * (bindKind s - 1)
    { s.core with
      bound := s.core.bound ++ [
        { frame := bindFrame s, kind := bindKind s, position := s.issue.copies
          due := s.pkg.cycle +
            max (if s.issue.copies = 0 then s.before.skew0 else s.before.skew1).toNat (treeLatency (bindFrame s))
          delivered := false, cmd := k }]
      credits := vset s.core.credits n (vget s.core.credits n 0 - 1), serial := s.core.serial + 1 }

/-- R302: what every command reads as it starts, and that nothing of it is done. -/
def Fresh (s : State) (i : Instr) (k : Command) : Prop :=
  k.serial = s.core.serial ∧ (encode i).map (·.1) = some k.syl ∧ k.lend = ((encode i).bind (·.2)).getD 0 ∧
  k.pc = s.before.pc ∧ k.pos = s.issue.copies ∧ k.str0 = s.before.cstride0 ∧ k.str1 = s.before.cstride1 ∧
  k.cidx = s.before.cidx ∧ k.runs = s.before.tlb ∧ k.begun = false ∧ k.applied = false ∧ k.sent = 0 ∧ k.done = 0 ∧
  k.pending = [] ∧ k.readDone = false ∧ k.writeDone = false ∧ k.carried = false

/-- R301, R302: a command starts. The transition of its cell takes place now unless earlier commands on the cell still have
theirs to make (R231, R292). -/
def CommandStarts (s : State) (i : Instr) (decode : Bool) (reads : List Reg) (waits : List Wait) (P : Command → Prop) : Prop :=
  ∃ t k, exec i s = .next t ∧ Keeps s t ∧ NotesWaits s t reads [] waits ∧ Fresh s i k ∧ P k ∧
    let u := queued s decode k
    let moves := ((fillCell k).isSome ∨ (copyOutCell k).isSome) ∧ mayApply u k = true
    (moves → t.core = applyCommand k u) ∧ (¬ moves → t.core = u)

/-- A command that finds no room: its bundle waits (R302, R307). -/
def CommandWaits (s : State) (i : Instr) : Prop := ∃ t, exec i s = .next t ∧ Keeps s t ∧ Wait.event ∈ t.issue.waits

/-- R328: bytes per row, rows, the pitch and the extent of the comb side of a length. -/
def rowWidth (n : XWord) : Nat := n.toNat % 2 ^ 32
def rowTotal (n : XWord) : Nat := max (n.toNat / 2 ^ 32) 1
def combSpan (s : State) (n : XWord) : Nat :=
  (rowTotal n - 1) * (if s.before.cstride1 = 0 then rowWidth n else s.before.cstride1.toNat) + rowWidth n

/-- R328: the comb limits fail for a cell of some size. -/
def CombTooSmall (s : State) (n : XWord) (size : Nat) : Prop :=
  rowWidth n = 0 ∨ size < combSpan s n ∨
    s.before.cstride1 ≠ 0 ∧ (s.before.cstride1.toNat < rowWidth n ∨ 2 ^ 18 ≤ s.before.cstride1.toNat)

/-- R327: the index cell, index size and index offset of `sys.cidx`. -/
def indexNumber (s : State) : Nat := (s.before.cidx.extractLsb' 0 6).toNat
def indexCode (s : State) : Nat := (s.before.cidx.extractLsb' 6 2).toNat
def indexFrom (s : State) : Nat := (s.before.cidx.extractLsb' 8 18).toNat

/-- R328: the virtual address of global row `r`. -/
def globalRow (h : Handle) (off : XWord) (stride : BitVec 48) (r : Nat) : Int :=
  (h.base.toNat : Int) + off.toInt + r * stride.toInt
def RowOutside (h : Handle) (va : Int) (n : XWord) : Prop :=
  va < h.base.toNat ∨ (h.base.toNat : Int) + h.len.toNat < va + rowWidth n

/-- R265, R330: the checks of a mode and of W. -/
def modeChecks (h : Handle) (store : Bool) (va : Int) : List (Prop × BitVec 8 × BitVec 64) :=
  let a : BitVec 64 := BitVec.ofInt 64 va
  if store then [(¬ LoadMode h.mode ∧ ¬ StoreMode h.mode, 0x0C, a), (¬ StoreMode h.mode, 0x0A, a), (h.w = false, 0x0A, a)]
  else [(¬ LoadMode h.mode, 0x0C, a)]

/-- R230: the issue states that admit a fill, and those that an engine may read. -/
def Fillable (x : Cell) : Prop := x.state = .empty ∨ x.state = .fillingLocal ∧ x.sealed = false
def EngineReads (x : Cell) : Prop := x.state = .full ∨ x.state = .draining

/-- A form of CG between a cell and memory: whether it fills the cell, uses `sys.cidx`, has its rows checked at issue, and what
it says of K, of sealing and of the tag. -/
structure CopyRow where
  syllable : Instr
  kind : CmdKind
  fills : Bool
  index : Bool
  rows : Bool
  keep : Bool
  sealing : Bool
  tag : BitVec 16

/-- R331 to R334: those forms. -/
def copyRows (c : BitVec 6) (h : BitVec 4) (o n : BitVec 6) (t : Bool) (l : Lend) : List CopyRow := [
  ⟨.cpG2c c h o n t l, .g2c, true, false, true, false, t, l.setWidth 16⟩,
  ⟨.cpGat c h o n t l, .gat, true, true, false, false, t, l.setWidth 16⟩,
  ⟨.cpBmg c h o n t l, .bmg, true, true, true, false, t, l.setWidth 16⟩,
  ⟨.cpC2g c h o n t, .c2g, false, false, true, t, false, 0⟩,
  ⟨.cpSct c h o n, .sct, false, true, false, false, false, 0⟩]

/-- R330: the checks of such a form, in order. -/
def copyChecks (s : State) (r : CopyRow) (c : BitVec 6) (h : BitVec 4) (o n : BitVec 6) :
    List (Prop × BitVec 8 × BitVec 64) :=
  let x := issueCell s.core c.toNat
  let y := issueCell s.core (indexNumber s)
  let len := value s n
  let indexBytes := if r.kind = .bmg then (rowTotal len + 7) / 8 else rowTotal len * (if indexCode s = 0 then 2 else 4)
  let g := handle s h.toNat
  let first := globalRow g (value s o) s.before.cstride0 0
  let last := globalRow g (value s o) s.before.cstride0 (rowTotal len - 1)
  [(poisoned s o = true ∨ poisoned s n = true, 0x16, 0),
    (¬ (if r.fills then Fillable x else x.state = .full), 0x06, c.setWidth 64),
    (r.index = true ∧ ¬ EngineReads y, 0x06, BitVec.ofNat 64 (indexNumber s)),
    (CombTooSmall s len x.size, 0x07, c.setWidth 64),
    (r.index = true ∧ (2 ≤ indexCode s ∨ y.size < indexFrom s + indexBytes), 0x07, BitVec.ofNat 64 (indexNumber s)),
    (g.valid = false, 0x08, h.setWidth 64),
    (r.rows = true ∧ RowOutside g first len, 0x09, BitVec.ofInt 64 first),
    (r.rows = true ∧ RowOutside g last len, 0x09, BitVec.ofInt 64 last)] ++ modeChecks g (!r.fills) first

/-- R330, R335: the checks of `cp.g2g`. -/
def moveChecks (s : State) (h : BitVec 4) (o n : BitVec 6) (l : Lend) : List (Prop × BitVec 8 × BitVec 64) :=
  let d := l.extractLsb' 0 4
  let toReg := readX s.before (l.extractLsb' 4 5).toNat
  let len := value s n
  let first := fun (g : Handle) (off : XWord) (k : BitVec 48) => globalRow g off k 0
  let last := fun (g : Handle) (off : XWord) (k : BitVec 48) => globalRow g off k (rowTotal len - 1)
  let src := handle s h.toNat
  let dst := handle s d.toNat
  let a := value s o
  let j := s.before.cstride0
  let k := s.before.cstride1
  [(poisoned s o = true ∨ poisoned s n = true ∨ toReg.poison = true, 0x16, 0), (src.valid = false, 0x08, h.setWidth 64),
    (dst.valid = false, 0x08, d.setWidth 64), (rowWidth len = 0, 0x09, BitVec.ofInt 64 (first src a j)),
    (RowOutside src (first src a j) len, 0x09, BitVec.ofInt 64 (first src a j)),
    (RowOutside src (last src a j) len, 0x09, BitVec.ofInt 64 (last src a j)),
    (RowOutside dst (first dst toReg.bits k) len, 0x09, BitVec.ofInt 64 (first dst toReg.bits k)),
    (RowOutside dst (last dst toReg.bits k) len, 0x09, BitVec.ofInt 64 (last dst toReg.bits k))] ++
    modeChecks src false (first src a j) ++ modeChecks dst true (first dst toReg.bits k)

/-- R229, R230: whether a range meets a live cell other than `n`. -/
def Overlaps (s : State) (n lo len : Nat) : Prop :=
  ∃ i < 64, i ≠ n ∧ (issueCell s.core i).state ≠ .absent ∧ 0 < len ∧ 0 < (issueCell s.core i).size ∧
    lo < (issueCell s.core i).base + (issueCell s.core i).size ∧ (issueCell s.core i).base < lo + len

/-- R292: a cell command takes effect at once where the hazard unit lets it, and else takes an entry. -/
def CellChanges (s : State) (i : Instr) (n : Nat) (reads : List Reg) (P : Command → Prop) (after : Cell → Cell) : Prop :=
  ∃ t k, exec i s = .next t ∧ Keeps s t ∧ NotesWaits s t reads [] [] ∧ Fresh s i k ∧ P k ∧ k.cell = n ∧
    (cellHeld s.core k = false → t.core = settleCells { s.core with
      cells := vset s.core.cells n (after (cellOf s.core n)), serial := s.core.serial + 1 }) ∧
    (cellHeld s.core k = true → t.core = queued s false k)

/-- R402, R403: the checks of a collective that reads its descriptor in a cell. -/
def collectiveChecks (s : State) (kind : CmdKind) (c a b e : BitVec 6) : List (Prop × BitVec 8 × BitVec 64) :=
  let x := issueCell s.core c.toNat
  let y := issueCell s.core e.toNat
  let d := descriptorIn s c.toNat
  let src := handle s d.src
  let dst := handle s d.dst
  let from' := (src.base.toNat : Int) + (value s a).toInt
  let putVa := (dst.base.toNat : Int) + (value s b).toInt
  let reads := if kind = .collMx ∨ kind = .collBs then 4 * d.n else d.n
  let writes := if kind = .collBs then 4 * d.n else if kind = .collAg then d.count * d.n else d.n
  let out := fun (g : Handle) (va : Int) (n : Nat) => va < g.base.toNat ∨ (g.base.toNat : Int) + g.len.toNat < va + n
  [(poisoned s a = true ∨ poisoned s b = true, 0x16, 0), (¬ EngineReads x, 0x06, c.setWidth 64),
    (x.size < 64 + 4 * d.count, 0x07, c.setWidth 64), (d.bad s kind = true, 0x03, 0)] ++
    (if kind = .collMx then [(¬ Fillable y, 0x06, e.setWidth 64)]
      else if kind = .collBs then [(¬ EngineReads y, 0x06, e.setWidth 64)] else []) ++
    (if kind = .collMx ∨ kind = .collBs then [(y.size < 2 * d.n / 256, 0x07, e.setWidth 64)] else []) ++
    [(src.valid = false, 0x08, BitVec.ofNat 64 d.src), (out src from' reads, 0x09, BitVec.ofInt 64 from')] ++
    modeChecks src false from' ++
    (if kind = .collMx then []
      else [(dst.valid = false, 0x08, BitVec.ofNat 64 d.dst), (out dst putVa writes, 0x09, BitVec.ofInt 64 putVa)] ++
        modeChecks dst true putVa)

/-! ## Steps of the package -/

/-- The machine with core `n` replaced. -/
def withCore (s : State) (n : Nat) (c : Core) : State :=
  if n = s.here then { s with core := c } else { s with cores := storeCore n c s.cores }

/-- The step makes core `n` this, and changes nothing else of the machine. -/
def CoreBecomes (s : State) (i : Instr) (n : Nat) (c : Core) : Prop := exec i s = .next (withCore s n c)

/-- The step makes the package this, and changes no core. -/
def PkgBecomes (s : State) (i : Instr) (k : Package) : Prop := exec i s = .next { s with pkg := k }

/-- A package with partition `p` replaced. -/
def setPart (k : Package) (p : Nat) (q : Partition) : Package := { k with parts := k.parts.setIfInBounds p q }

/-- The step makes partition `p` this, and changes nothing else of the machine. -/
def PartBecomes (s : State) (i : Instr) (p : Nat) (q : Partition) : Prop := PkgBecomes s i (setPart s.pkg p q)

/-- The step finds nothing to do. -/
def Nothing (s : State) (i : Instr) : Prop := exec i s = .next s

/-- In a memory in its canonical form the bytes from `lo` up become these, and every other byte reads as before. -/
def BytesBecome (m m' : List Host.Cell) (lo : Nat) (bs : List Byte) : Prop :=
  Memory.wf m = true → Memory.wf m' = true ∧
    ∀ a, memByte m' a = if lo ≤ a ∧ a < lo + bs.length then bs.getD (a - lo) 0 else memByte m a

/-- The bytes at these places become these, and every other byte reads as before; a word written whole loses its poison mark
(R226), and each word written has the writer's place among its writers (R263). Nothing else of the package changes. -/
def Stores (who : Nat) (k k' : Package) (ps : List Nat) (bs : List Byte) : Prop :=
  (∃ m bad u ws, k' = { k with mem := m, memBad := bad, undef := u, writers := ws }) ∧
  (∀ w, w ∈ k'.memBad ↔ w ∈ k.memBad ∧ ¬ ∀ i < 8, 8 * w + i ∈ ps) ∧
  (∀ w, ((∃ p ∈ ps, p / 8 = w) → writersOf k'.writers w = writersOf k.writers w ||| onlyPlace who) ∧
    ((∀ p ∈ ps, p / 8 ≠ w) → writersOf k'.writers w = writersOf k.writers w)) ∧
  (Memory.wf k.mem = true → Memory.wf k'.mem = true ∧
    (∀ i (h : i < ps.length), memAt k' ps[i] = bs.getD i 0) ∧
    (∀ a, a ∉ ps → memAt k' a = memAt k a))

/-- R263: no access is performed for some agents and not for all. -/
def Unscoped (s : State) : Prop :=
  ∀ c, c = s.core ∨ (∃ n, (n, c) ∈ s.cores) → ∀ a ∈ c.accesses, a.within = 0 ∨ a.performed = true

/-! ## Busy states and the array -/

/-- R61: no trap of the core is enabled for the flags. -/
def Untrapped (c : Core) (f : Flags) : Prop :=
  ¬ (c.nve = true ∧ f.getLsbD 0 = true) ∧ ¬ (c.qoe = true ∧ f.getLsbD 5 = true)

/-- R175: of the operations of the core that are busy, this one ends now and no other. -/
def OneEnds (c : Core) (b : BusyOp) (rest : List BusyOp) : Prop :=
  (c.mode = .running ∨ ∃ st, c.mode = .ending st) ∧ c.busy = b :: rest ∧ b.endsAt ≤ c.mclk ∧ ∀ x ∈ rest, c.mclk < x.endsAt

/-- R183: a load of `run` latches of a page from `first` up that lands in cycle `now` leads a block operation as it should: the
boundary of its first block is in that cycle, and the operation has the blocks. -/
def LatchLeads (c : Core) (page first run now : Nat) : Prop :=
  ∃ m ∈ c.macs, (m.fmt = 6 ∨ m.fmt = 7 ∨ m.fmt = 8) ∧
    m.start + (if m.form = .mms then 8 else 16) * (32 * page + first) / (shapeOf m.fmt).k = now ∧
    32 * page + first + run ≤ (m.depth + 15) / 16

/-- The stop that holds one fault on the matrix stream (R311). -/
def matrixStop (b : BusyOp) (code : BitVec 8) : Stop :=
  { slots := [], bundleCode := 0, bundleAddr := 0, c0 := none, c1 := none, d := none
    m := some { code := code, cause := 0, pc := b.pc, addr := 0, tile := b.tile, qb := b.qb, onBank := b.onBank, stream := 0 } }

/-- R185: how many symbols the next step of an `mmz` takes: 64, or what is left of them. -/
def symbolsTaken (m : MacOp) : Nat := min 64 (m.depth * m.colsN - 64 * m.step)

/-- R185, R321: the next step of an operation has its symbols, decoded before this cycle. -/
def Supplied (s : State) (c : Core) (m : MacOp) : Prop :=
  m.form = .mmz →
    symbolsTaken m ≤ ((vget c.streams m.stream Stream.reset).ready.filter fun x => x.2 < s.pkg.cycle).length

/-- R175: the bank that an operation has accumulated into takes effect when its busy state ends. -/
def bankEnds (m : MacOp) (b : BusyOp) : BusyOp :=
  if b.onBank = true ∧ b.writes = [.bank m.qb] then { b with effects := .bank m.qb m.bank :: b.effects } else b

/-! ## Global accesses as they are performed -/

/-- R257: some aligned parts of 8 bytes of a range at a virtual address that are not done yet; of a range within one part, that one. -/
def Picks (va n : Nat) (done now : List Nat) : Prop :=
  (∀ w ∈ now, va / 8 ≤ w ∧ 8 * w < va + n ∧ w ∉ done) ∧ ((va + n - 1) / 8 = va / 8 → done = [] → now = [va / 8])

/-- R257: every part of a range is done. -/
def AllParts (va n : Nat) (done : List Nat) : Prop := ∀ w, va / 8 ≤ w → 8 * w < va + n → w ∈ done

/-- R246, R251: an address of HBM or the super tier that no aperture window and no run of an enabled migration holds. -/
def Plain (k : Package) (pa : Nat) : Prop :=
  ¬ (0x80000000000 ≤ pa ∧ pa < 0x90000000000) ∧
  ∀ m ∈ k.migrations.toList, m.en = true →
    ¬ (migOld m ≤ pa ∧ pa < migOld m + migLen m) ∧ ¬ (migNew m ≤ pa ∧ pa < migNew m + migLen m)

/-- R246: an address of the windows that no enabled aperture holds. -/
def Unwindowed (k : Package) (pa : Nat) : Prop :=
  0x80000000000 ≤ pa ∧ pa < 0x90000000000 ∧
  ∀ a ∈ k.apertures.toList, a.en = true → ¬ (a.window ≤ pa ∧ pa < a.window + a.size)

/-- R252: an address of the line that one enabled migration is to copy next. -/
def InCopy (k : Package) (pa : Nat) : Prop :=
  ¬ (0x80000000000 ≤ pa ∧ pa < 0x90000000000) ∧
  ∃ m ∈ k.migrations.toList, m.en = true ∧ migOld m + 256 * m.p.toNat ≤ pa ∧ pa < migOld m + 256 * m.p.toNat + 256 ∧
    pa < migOld m + migLen m ∧
    ∀ x ∈ k.migrations.toList, x.en = true → migOld x ≤ pa → pa < migOld x + migLen x → x = m

/-- R277: a returning access: a result of the core awaits it. -/
def Returns (c : Core) (a : Access) : Prop := ∃ l ∈ c.landings, l.awaits = some a.id

/-- R281: an access that is an atomic which acquires, or one which releases; a posted atomic does not acquire. -/
def Acquires (c : Core) (a : Access) : Prop := Returns c a ∧ ∃ op b d k j o, a.kind = .amo op b d k j o ∧ (o = 1 ∨ o = 3)
def Releases (a : Access) : Prop := ∃ op b d k j o, a.kind = .amo op b d k j o ∧ (o = 2 ∨ o = 3)

/-- An access of no window. -/
def NoWindow (a : Access) : Prop := ∀ pa, Place.here pa ∈ a.places → ¬ (0x80000000000 ≤ pa ∧ pa < 0x90000000000)

/-- R259: an access that is not performed yet, between those issued before and after it, and goes after no earlier one that is
not performed: none that overlaps it, none that acquires, and none at all if it releases. -/
def InTurn (c : Core) (a : Access) (pre post : List Access) : Prop :=
  c.accesses = pre ++ a :: post ∧ (c.accesses.map (·.id)).Pairwise (· < ·) ∧ a.performed = false ∧
  ∀ x ∈ pre, x.performed = true ∨
    ((∀ p ∈ x.places, p ∉ a.places) ∧ NoWindow x ∧ NoWindow a ∧ ¬ Acquires c x ∧ ¬ Releases a)

/-- R260, R263: no fence that holds the core for an access, and no later release, is for less than every agent. -/
def ForAllAgents (c : Core) (a : Access) (post : List Access) : Prop :=
  (∀ ids sc, Hold.fence ids sc ∈ c.hold → a.id ∈ ids → sc = BitVec.allOnes 18) ∧
  ∀ x ∈ post, Releases x → x.scope = BitVec.allOnes 18

/-- R260, R263: one access of the machine is performed for the agents of a scope and not for all. -/
def OneScoped (s : State) (n : Nat) (a : Access) : Prop :=
  (s.cores.map (·.1)).Pairwise (· < ·) ∧ a ∈ (coreState s n).accesses ∧ a.within ≠ 0 ∧ a.performed = false ∧
  ∀ m, ∀ x ∈ (coreState s m).accesses, x.within ≠ 0 → x.performed = false → m = n ∧ x = a

/-- R258, R263: memory as the agents of a place find it: as it is, or with a store that is performed for their place and not for
all. -/
def Finds (s : State) (place : Nat) (k : Package) : Prop :=
  (Unscoped s ∧ k = s.pkg) ∨ ∃ m b qs, OneScoped s m b ∧ b.kind = .store ∧ ¬ Returns (coreState s m) b ∧
    b.places = (qs : List Nat).map .here ∧ qs.Nodup ∧ b.data.length = qs.length ∧ (∀ p ∈ qs, Plain s.pkg p) ∧
    (b.within.getLsbD place = true → Stores (placeNumber m) s.pkg k qs b.data) ∧
    (b.within.getLsbD place = false → k = s.pkg)

/-- The core with one of its accesses changed. -/
def withAccess (c : Core) (pre : List Access) (a : Access) (post : List Access) : Core :=
  { c with accesses := pre ++ a :: post }

/-- An access of the core, by its number, that no other shares. -/
def HasAccess (c : Core) (a : Access) : Prop := a ∈ c.accesses ∧ (c.accesses.map (·.id)).Nodup

/-- The results of the core with a value arrived for those that await the access `id` (R273). -/
def arrived (c : Core) (id v : Nat) (poison : Bool) : List Landing :=
  c.landings.map fun l =>
    if l.awaits = some id then
      { l with value := v, awaits := none, poison := match l.dest with
        | .pred _ => false
        | _ => l.poison || poison }
    else l

/-- The accesses of the core but for one. -/
def without (c : Core) (id : Nat) : List Access := c.accesses.filter fun x => x.id != id

/-- R272, R289: what a load gives its destination: its bytes, extended to 64 bits as its form says. -/
def loaded (signed : Bool) (bs : List Byte) : Nat :=
  if signed then ((BitVec.ofNat (8 * bs.length) (ofBytes bs)).signExtend 64).toNat else ofBytes bs

/-- The word of 8 bytes at an address of memory (R4). -/
def memWord (k : Package) (pa : Nat) : Nat := ofBytes ((List.range 8).map fun i => memAt k (pa + i))

/-- R238: a table entry that points to the table at physical page `pfn`. -/
def PointsTo (w pfn : Nat) : Prop :=
  w % 2 = 1 ∧ w / 2 % 2 ^ 19 = 0 ∧ w / 2 ^ 20 % 2 ^ 36 = pfn ∧ w / 2 ^ 56 = 0 ∧ pfn * 65536 < 0x8000000000

/-- R239, R240: a leaf of local memory: a run of pages that lies in a tier and in the ranges of the partition. -/
def LocalLeaf (k : Package) (part w : Nat) : Prop :=
  w % 2 = 1 ∧ w / 8 % 32 = 0 ∧ w / 2 ^ 56 = 0 ∧
  inTier k (w / 2 ^ 20 % 2 ^ 36 * 65536) ((w / 256 % 2 ^ 12 + 1) * 65536) = true ∧
  inPartition (partOf k part) (w / 2 ^ 20 % 2 ^ 36 * 65536) ((w / 256 % 2 ^ 12 + 1) * 65536) = true

/-- R238, R239: the leaf that the three tables of a partition give a page. -/
def LeafOf (k : Package) (part vpn w : Nat) : Prop :=
  ∃ l2 l1, (partOf k part).ptroot.getLsbD 0 = true ∧
    (let root := ((partOf k part).ptroot.extractLsb' 20 36).toNat
     PointsTo (memWord k (root * 65536 + 8 * (vpn / 2 ^ 26 % 2 ^ 13))) l2) ∧
    PointsTo (memWord k (l2 * 65536 + 8 * (vpn / 2 ^ 13 % 2 ^ 13))) l1 ∧
    w = memWord k (l1 * 65536 + 8 * (vpn % 2 ^ 13))

/-- No migration is enabled (R251). -/
def NoMigration (k : Package) : Prop := ∀ m ∈ k.migrations.toList, m.en = false

/-! ## Maps, partitions and the host's registers -/

/-- Two ranges of addresses share no byte. -/
def Apart (a la b lb : Nat) : Prop := la = 0 ∨ lb = 0 ∨ a + la ≤ b ∨ b + lb ≤ a

/-- R245: a range lies in HBM or in the super tier. -/
def InMemory (k : Package) (lo len : Nat) : Prop :=
  len = 0 ∨ lo + len ≤ 0x8000000000 ∨ (0x20000000000 ≤ lo ∧ lo + len ≤ 0x20000000000 + k.supcap * 2 ^ 30)

/-- R251: the runs of migration entry `n` lie in memory, apart from each other and from those of every other enabled entry. -/
def MayMigrate (k : Package) (n : Nat) : Prop :=
  let m := migrationOf k n
  let len := migLen m
  InMemory k (migOld m) len ∧ InMemory k (migNew m) len ∧ Apart (migOld m) len (migNew m) len ∧
  ∀ i < 16, i ≠ n → (migrationOf k i).en = true →
    let x := migrationOf k i
    Apart (migOld m) len (migOld x) (migLen x) ∧ Apart (migOld m) len (migNew x) (migLen x) ∧
    Apart (migNew m) len (migOld x) (migLen x) ∧ Apart (migNew m) len (migNew x) (migLen x)

/-- A package with migration entry `n` replaced. -/
def setMigration (k : Package) (n : Nat) (m : Migration) : Package :=
  { k with migrations := k.migrations.setIfInBounds n m }

/-- The cores that are listed stand in order of their numbers, each once. -/
def CoresInOrder (s : State) : Prop := (s.cores.map (·.1)).Pairwise (· < ·)

/-- The core holds a task of partition `p`. -/
def TaskOf (c : Core) (p : Nat) : Prop := c.task.map (·.part) = some p

/-- R244: a run of pages meets those of a command; a count of 0 is the whole space. -/
def MeetsPages (first count : Nat) (e : TlbEntry) : Prop :=
  count = 0 ∨ (first < e.vpn + e.pages ∧ e.vpn < first + count)

/-- R242: a handle depends on an entry whose run its range touches. -/
def DependsOn (h : Handle) (e : TlbEntry) : Prop :=
  h.valid = true ∧ ¬ Apart (e.vpn * 65536) (e.pages * 65536) h.base.toNat h.len.toNat

/-- The handles of a core, bound and in flight. -/
def AnyHandle (c : Core) (h : Handle) : Prop := h ∈ c.handles.toList ∨ ∃ l ∈ c.landings, ∃ n, l.dest = .handle n h

/-- R244: what a revoke leaves of a core: no entry that the command meets, no valid handle that depended on one, no entry on
which no valid handle depends, and a walk of a `probe` to do again. -/
def Revoked (c c' : Core) (first count : Nat) : Prop :=
  let dead := fun (h : Handle) => ∃ e ∈ c.tlb, MeetsPages first count e ∧ DependsOn h e
  c' = { c with
    tlb := c'.tlb, handles := c'.handles, landings := c'.landings
    probe := c.probe.map fun p => { p with result := none } } ∧
  (∀ i : Fin 16, (dead c.handles[i.val] → c'.handles[i.val] = { c.handles[i.val] with valid := false }) ∧
    (¬ dead c.handles[i.val] → c'.handles[i.val] = c.handles[i.val])) ∧
  c'.landings.length = c.landings.length ∧
  (∀ i (h : i < c.landings.length) (h' : i < c'.landings.length),
    (∀ n x, c.landings[i].dest = .handle n x → ∃ x', c'.landings[i] = { c.landings[i] with dest := .handle n x' } ∧
      (dead x → x' = { x with valid := false }) ∧ (¬ dead x → x' = x)) ∧
    ((∀ n x, c.landings[i].dest ≠ .handle n x) → c'.landings[i] = c.landings[i])) ∧
  (∀ e, e ∈ c'.tlb ↔ e ∈ c.tlb ∧ ¬ MeetsPages first count e ∧ ∃ h, AnyHandle c' h ∧ DependsOn h e)

/-- R244: the first page that TLBIVA names. -/
def firstPageOf (k : Package) (p : Nat) : Nat := ((partOf k p).tlbiva.extractLsb' 16 39).toNat

/-- R362: a task of the partition is live, or a card waits in a queue of it. -/
def Live (s : State) (n : Nat) : Prop := taskCores s n ≠ [] ∨ (partOf s.pkg n).waiting ≠ []

/-- R362: some frame or port of these is another enabled partition's. -/
def SharesFrames (k : Package) (n : Nat) (frames ports : BitVec 16) : Prop :=
  ∃ m < 16, m ≠ n ∧ (partOf k m).en = true ∧ ∃ i < 16,
    ((partOf k m).frames.getLsbD i = true ∧ frames.getLsbD i = true) ∨
    ((partOf k m).ports.getLsbD i = true ∧ ports.getLsbD i = true)

/-- R362: enabled range `j` of a partition is these bytes. -/
def HasRange (p : Partition) (j lo len : Nat) : Prop :=
  j < 8 ∧
  let m := vget p.pmem j 0
  let l := vget p.plim j 0
  m.getLsbD 0 = true ∧ lo = (m.extractLsb' 16 36).toNat * 65536 ∧ lo ≤ (l.extractLsb' 16 36).toNat * 65536 ∧
  lo + len = ((l.extractLsb' 16 36).toNat + 1) * 65536

/-- R362: an enabled range of partition `n` meets one of another partition. -/
def SharesMemory (k : Package) (n : Nat) : Prop :=
  ∃ m < 16, m ≠ n ∧ ∃ i j lo len lo' len', HasRange (partOf k m) i lo len ∧ HasRange (partOf k n) j lo' len' ∧
    ¬ Apart lo len lo' len'

/-- An address that an enabled range of a partition holds. -/
def OfPartition (p : Partition) (a : Nat) : Prop := ∃ j lo len, HasRange p j lo len ∧ lo ≤ a ∧ a < lo + len

/-- R2, R362: an enabled range of the partition lies in no tier. -/
def OutsideTiers (k : Package) (p : Partition) : Prop :=
  ∃ j lo len, HasRange p j lo len ∧ ¬ InMemory k lo len ∧ ¬ (0x80000000000 ≤ lo ∧ lo + len ≤ 0x90000000000)

/-- R423: the bytes at some addresses are under another key: they are undefined from now on, with no poison mark. -/
def Rekeyed (k k' : Package) (mine : Nat → Prop) (draw : Nat) : Prop :=
  (∃ m bad u ws, k' = { k with mem := m, memBad := bad, undef := u, writers := ws }) ∧
  (∀ w, w ∈ k'.memBad ↔ w ∈ k.memBad ∧ ¬ mine (8 * w)) ∧
  (Memory.wf k.mem = true → Memory.wf k'.mem = true ∧
    ∀ a, (mine a → memAt k' a = BitVec.ofNat 8 (Config.freeValue 5000 draw a)) ∧ (¬ mine a → memAt k' a = memAt k a))

/-- R2, R246: the window of an aperture register with these contents leaves the window range or meets the window of another
enabled aperture, or its backing begins in no memory tier. -/
def WindowRefused (k : Package) (n : Nat) (a : Aperture) : Prop :=
  0x90000000000 < a.window + a.size ∨ ¬ InMemory k a.backing 1 ∨
  ∃ m < 64, m ≠ n ∧ (apertureOf k m).en = true ∧
    ¬ Apart (apertureOf k m).window (apertureOf k m).size a.window a.size

/-- R423: the backing of aperture `n` meets a range of a partition whose TDI is locked. -/
def ApertureLocked (k : Package) (n : Nat) : Prop :=
  ∃ m < 16, (partOf k m).locked = true ∧ ∃ j lo len, HasRange (partOf k m) j lo len ∧
    ¬ Apart (apertureOf k n).backing (apertureOf k n).size lo len

/-- R409: a write of the physical function to the register at offset `o` of package control space. -/
def Control (o : Nat) (r : HostReg) : Prop := o < 0x2000000 ∧ r.space = .bar0 ∧ r.op = .write ∧ r.fn = 0 ∧ r.offset = o

/-- R409: a host's write to the register at offset `o` of the window of partition `p`: the physical function reaches the
windows above 0x2000000, a virtual function reaches its own at 0. -/
def Window (p o : Nat) (r : HostReg) : Prop :=
  p < 16 ∧ o < 0x200000 ∧ r.space = .bar0 ∧ r.op = .write ∧ ((r.fn = 0 ∧ r.offset = 0x2000000 + 0x200000 * p + o) ∨ (r.fn = p ∧ p ≠ 0 ∧ r.offset = o))

/-- R411: the registers of a window that a write of 64 bits only stores into, and what each then holds. -/
def plainWindow : List (Nat × (BitVec 64 → Partition → Partition)) := [
  (0x000, fun v p => { p with ptroot := v &&& 0x00FFFFFFFFF00001 }),
  (0x008, fun v p => { p with tlbiva := v &&& 0x007FFFFFFFFF0000 }),
  (0x100, fun v p => { p with sage := v.setWidth 32 }),
  (0x400, fun v p => { p with imgpa := v &&& 0x000FFFFFFFFFFF00 }),
  (0x2220, fun v p => { p with ordstall := v.setWidth 32 }),
  (0x10000, fun v p => { p with stopsel := v &&& 0xBF3F })]

/-- R208, R411: the same of the registers of ring `k`, at 0x1000 + 0x40 k. -/
def ringWindow : List (Nat × (BitVec 64 → Ring → Ring)) := [
  (0x00, fun v r => { r with base := v &&& 0x007FFFFFFFFFFF00 }),
  (0x08, fun v r => { r with
    en := v.getLsbD 8
    log2n := if 4 ≤ (v.extractLsb' 0 5).toNat ∧ (v.extractLsb' 0 5).toNat ≤ 16 then (v.extractLsb' 0 5).toNat
      else r.log2n }),
  (0x28, fun v r => { r with limit := v.setWidth 32 })]

/-- R208, R411: the same of the registers of completion queue `q`, at 0x1400 + 0x20 q. -/
def queueWindow : List (Nat × (BitVec 64 → CompQueue → CompQueue)) := [
  (0x00, fun v q => { q with base := v &&& 0x000FFFFFFFFFFF00 }),
  (0x18, fun v q => { q with ridx := v.setWidth 32 })]

/-- R411: the registers of a window whose write is a step of its own, with that step. -/
def WindowStep (p : Nat) (v : BitVec 64) (o : Nat) (i : Instr) : Prop :=
  (o = 0x010 ∧ v.getLsbD 32 = true ∧ i = .tlbRefresh p (v.setWidth 32)) ∨
  (o = 0x010 ∧ v.getLsbD 32 = false ∧ i = .tlbRevoke p (v.setWidth 32)) ∨
  (o = 0x208 ∧ v.getLsbD 0 = true ∧ i = .wdclrGo p) ∨ (o = 0x2230 ∧ v.getLsbD 0 = true ∧ i = .wclrGo p) ∨
  (o = 0x14000 ∧ v &&& 0xFFFFFFFFFFFF00FC#64 = 0 ∧
    ((v.extractLsb' 0 2 = 1 ∧ i = .stopcmdResume p) ∨ (v.extractLsb' 0 2 = 2 ∧ i = .stopcmdEnd p (v.extractLsb' 8 8)))) ∨
  (o = 0x2200 ∧ i = .mbbaseWrite p v) ∨ (o = 0x2208 ∧ i = .mbcfgWrite p v) ∨ (o = 0x2218 ∧ i = .mbrptrWrite p v)

/-- R410: the same of the registers of package control. -/
def PackageStep (v : BitVec 64) (o : Nat) (i : Instr) : Prop :=
  (o = 0x50000 ∧ i = .qownWrite v) ∨ (o = 0x60010 ∧ i = .pwrlimWrite v) ∨ (o = 0x60020 ∧ i = .clkselWrite v) ∨
  (∃ n < 16, o = 0x100 * n ∧ i = .pcfgWrite n v) ∨
  (∃ n < 16, ∃ j < 8, o = 0x100 * n + 0x40 + 16 * j ∧ i = .pmemWrite n j v) ∨
  (∃ n < 16, ∃ j < 8, o = 0x100 * n + 0x48 + 16 * j ∧ i = .plimWrite n j v) ∨
  (∃ n < 64, o = 0x10000 + 0x20 * n ∧ i = .apcfgWrite n v) ∨
  (∃ n < 16, o = 0x20020 + 0x40 * n ∧ v.getLsbD 0 = true ∧ i = .migrationStart n) ∨
  (∃ n < 16, o = 0x20020 + 0x40 * n ∧ v.getLsbD 0 = false ∧ i = .migrationRetire n) ∨
  (∃ f < 16, o = 0x30010 + 0x20 * f ∧ v.getLsbD 0 = true ∧ i = .frapplyGo f) ∨
  (∃ k < 16, o = 0x40100 + 16 * k ∧ i = .ppctlWrite k v) ∨
  (o = 0x60000 ∧ ((v.extractLsb' 0 4 = 1 ∧ i = .hbmRowRepair v) ∨ (v.extractLsb' 0 4 = 2 ∧ i = .hbmBankRepair v) ∨
    (v.extractLsb' 0 4 = 3 ∧ i = .ucieLaneRepair v) ∨ (v.extractLsb' 0 4 = 4 ∧ i = .podLaneRepair v) ∨
    (v.extractLsb' 0 4 = 5 ∧ i = .superTierRemap v)))

/-- R251, R389, R430: the registers of package control whose write of 64 bits only stores into them, and what the package then
holds. -/
def plainControl (v : BitVec 64) (k : Package) : List (Nat × Package) :=
  [(0x20400, { k with mhold := v.setWidth 32 }), (0x40000, { k with pnode := v.setWidth 8 }),
    (0x40008, { k with ptbound := v.setWidth 16 })] ++
  ((List.range 16).flatMap fun n =>
    let m := migrationOf k n
    [(0x20000 + 0x40 * n, setMigration k n { m with old := v &&& 0x000FFFFFFFFFFF00#64 }),
      (0x20008 + 0x40 * n, setMigration k n { m with new := v &&& 0x000FFFFFFFFFFF00#64 }),
      (0x20010 + 0x40 * n, setMigration k n { m with lines := v.setWidth 32 }),
      (0x40108 + 16 * n, { k with ports := k.ports.setIfInBounds n (
        let p := vget k.ports n Port.reset
        { p with terr := p.terr && !v.getLsbD 1, regr := p.regr && !v.getLsbD 2 }) })]) ++
  (List.range 256).map fun n =>
    (0x40400 + 8 * n, { k with rtab := (k.rtab.filter fun e => e.1 != n) ++ [(n, v.setWidth 5)] })

/-- R246: the same of the registers of aperture `n`. -/
def apertureControl (v : BitVec 64) (a : Aperture) : List (Nat × Aperture) :=
  [(8, { a with back := v &&& 0x000FFFFFFFFFFFC0#64 }), (16, { a with p0 := v }), (24, { a with p1 := v })]

/-- R375: a map of eight columns with a new value written: a field above 16 keeps what it was. -/
def ColumnsWritten (old v new : BitVec 64) : Prop :=
  new.extractLsb' 40 24 = 0 ∧ ∀ c < 8, new.extractLsb' (5 * c) 5 =
    if (v.extractLsb' (5 * c) 5).toNat ≤ 16 then v.extractLsb' (5 * c) 5 else old.extractLsb' (5 * c) 5

/-- R410, R411: the offsets at which a register stands that takes writes, of package control and of a partition's window. -/
def ControlOffset (o : Nat) : Prop :=
  (∃ n < 16, o = 0x100 * n ∨ ∃ j < 16, o = 0x100 * n + 0x40 + 8 * j) ∨ (∃ n < 64, ∃ i < 4, o = 0x10000 + 0x20 * n + 8 * i) ∨
  o = 0x20400 ∨ (∃ n < 16, ∃ i ∈ [0, 8, 0x10, 0x20], o = 0x20000 + 0x40 * n + i) ∨
  (∃ f < 16, ∃ i ∈ [0, 8, 0x10], o = 0x30000 + 0x20 * f + i) ∨ (∃ k < 32, o = 0x40100 + 8 * k) ∨ (∃ n < 256, o = 0x40400 + 8 * n) ∨
  o ∈ [0x40000, 0x40008, 0x50000, 0x60000, 0x60010, 0x60020, 0x60028]
def WindowOffset (o : Nat) : Prop :=
  o ∈ [0, 8, 0x10, 0x100, 0x208, 0x400, 0x408, 0x2200, 0x2208, 0x2218, 0x2220, 0x2230, 0x10000, 0x14000] ∨
  (∃ k < 8, ∃ i ∈ [0, 8, 0x20, 0x28], o = 0x1000 + 0x40 * k + i) ∨ (∃ q < 16, ∃ i ∈ [0, 8, 0x18], o = 0x1400 + 0x20 * q + i) ∨
  (∃ i < 64, o = 0x2000 + 8 * i) ∨ (∃ g, 1 ≤ g ∧ g < 256 ∧ o = 0x4000 + 8 * g) ∨ (∃ i < 4096, o = 0x8000 + 8 * i)

/-! ## Engines at work -/

/-- The core with these commands in the queue of engine `e` (0 C0, 1 C1, 2 the decode engine), and none anywhere else. -/
def onlyQueue (c : Core) (e : Nat) (ms : List Command) : Core :=
  { c with
    c0 := if e = 0 then ms else [], c1 := if e = 1 then ms else [], dq := if e = 2 then ms else [], bound := [] }

/-- These are the outstanding commands of the core, all on engine `e`, in order of issue. -/
def Has (c : Core) (e : Nat) (ms : List Command) : Prop :=
  e < 3 ∧ c = onlyQueue c e ms ∧ (ms.map (·.serial)).Pairwise (· < ·)

/-- Nothing beside its commands uses the comb or memory: no busy transfer, no access under way, no open stream. -/
def Quiet (c : Core) : Prop := c.busy = [] ∧ c.accesses = [] ∧ ∀ st ∈ c.streams.toList, st.isOpen = false

/-- The command moves a cell between states as a fill or a copy-out (R230). -/
def Moves (m : Command) : Prop := (fillCell m).isSome ∨ (copyOutCell m).isSome

/-- R328: requests of 64 bytes per row, the row and the offset of request `i`, its length, and the pitch of the comb side. -/
def rowParts (m : Command) : Nat := (rowWidth m.op2 + 63) / 64
def partRow (m : Command) (i : Nat) : Nat := i / rowParts m
def partOffset (m : Command) (i : Nat) : Nat := 64 * (i % rowParts m)
def partLength (m : Command) (i : Nat) : Nat := min 64 (rowWidth m.op2 - partOffset m i)
def pitch (m : Command) : Nat := if m.str1 = 0 then rowWidth m.op2 else m.str1.toNat
def partCount (m : Command) : Nat := rowTotal m.op2 * rowParts m

/-- R328, R331, R332: request `i` of a copy between a cell and memory, sent in some cycle; a copy-out carries its comb bytes. -/
def partOf' (c : Core) (cycle : Nat) (m : Command) (i : Nat) (out : Bool) : Request :=
  let lo := (cellOf c m.cell).base + partRow m i * pitch m + partOffset m i
  { index := i, since := cycle, va := (globalRow m.src m.op1 m.str0 (partRow m i)).toNat + partOffset m i, lo := lo
    len := partLength m i
    bytes := if out then memBytes c.comb lo (partLength m i) else []
    bad := if out then (List.range (partLength m i)).map fun k => decide ((lo + k) / 8 ∈ c.combBad) else []
    parts := [], got := [], gotBad := [] }

/-- The stop of a core that holds one fault on the stream of engine `e` (R308, R309). -/
def engineStop (e : Nat) (f : StreamFault) : Stop :=
  { slots := [], bundleCode := 0, bundleAddr := 0, m := none
    c0 := if e = 0 then some f else none, c1 := if e = 1 then some f else none, d := if e = 2 then some f else none }

/-- The core stopped by one fault of its engine `e`, with these commands in the queue. -/
def engineStopped (c : Core) (e : Nat) (ms : List Command) (f : StreamFault) : Core :=
  { onlyQueue c e ms with mode := .stopping, halted := .running, request := none, stop := some (engineStop e f) }

/-- A fault of a command on its engine's stream. -/
def faultOf (m : Command) (code : BitVec 8) (cause : BitVec 4) (addr : Nat) : StreamFault :=
  { code := code, cause := cause, pc := m.pc, addr := BitVec.ofNat 64 addr, tile := 0, qb := 0, onBank := false
    stream := m.stream }

/-- R311: the counts of engine `e`, of resumptions after link faults and of retries of a read, start again. -/
def retriesCleared (c : Core) (e : Nat) : Core :=
  { c with
    retries0 := if e = 0 then 0 else c.retries0, retries1 := if e = 1 then 0 else c.retries1
    rereads0 := if e = 0 then 0 else c.rereads0, rereads1 := if e = 1 then 0 else c.rereads1
    rereadsD := if e = 2 then 0 else c.rereadsD }
def rereadsAt (c : Core) (e : Nat) : Nat := if e = 0 then c.rereads0 else if e = 1 then c.rereads1 else c.rereadsD

/-- R303: engine `e` of the core has accepted its response of a cycle. -/
def accepted (c : Core) (e cycle : Nat) : Core :=
  { retriesCleared c e with answered := (e, cycle) :: c.answered.filter fun x => x.1 != e }

/-- R230: what becomes of a cell once nothing is filling it or copying it out. -/
def finished (x : Cell) : Cell :=
  if x.state = .fillingLocal ∧ x.sealed = true then
    { x with state := .full, tag := x.sealTag, ckp := true, sealed := false }
  else if x.state = .draining then { x with state := .empty } else x

/-- R229, R230: what a cell command makes of its cell. -/
def cellAfter (m : Command) (x : Cell) : Cell :=
  match m.kind with
  | .cellArm => ⟨m.op1.toNat, m.op2.toNat, .empty, 0, 0, 0, false, false, 0⟩
  | .cellSeal =>
    if x.state = .empty then { x with state := .full, tag := m.tag, ckp := true, sealed := false }
    else if x.state = .fillingLocal then { x with sealed := true, sealTag := m.tag } else x
  | .cellFree => Cell.reset
  | .cellExpect => { x with etag := m.tag, ckp := x.ckp || x.state == .full || x.state == .draining }
  | .cellOpen => { x with state := .fillingRemote, filler := m.target }
  | _ => x

/-- No frame's engine holds the command (R301). -/
def NotInFrames (k : Package) (n serial : Nat) : Prop :=
  ∀ f ∈ k.frames.toList, ∀ x ∈ f.coll ++ f.edge, ¬ (x.1 = n ∧ x.2.2 = serial)

/-- The bytes that a piece of a command names lie at these places of this package. -/
def PlacedAt (m : Command) (q : Request) (ps : List Nat) : Prop := placesOf m.runs q.va q.len = ps.map .here

/-! ## Remote writes -/

/-- R236: the slot in which a core injects. -/
def mySlot (n : Nat) : Nat := (n % 64 % 16 + n / 64 % 16) % 16

/-- R234: the distance between two cores on the mesh. -/
def distance (a b : Nat) : Nat :=
  ((a % 64 : Nat) - (b % 64 : Nat) : Int).natAbs + ((a / 64 : Nat) - (b / 64 : Nat) : Int).natAbs

/-- R234, R378: what a flit at core `a` for core `b` heads for next: `b` itself within its frame, or else the first core of the next
frame on the way, along the row of `a` and then along the column of `b`. -/
def Heads (a b x : Nat) : Prop :=
  (a % 64 / 16 = b % 64 / 16 ∧ a / 64 / 16 = b / 64 / 16 ∧ x = b) ∨
  (a % 64 / 16 < b % 64 / 16 ∧ x = a / 64 * 64 + (a % 64 / 16 + 1) * 16) ∨
  (b % 64 / 16 < a % 64 / 16 ∧ x = a / 64 * 64 + (a % 64 / 16 * 16 - 1)) ∨
  (a % 64 / 16 = b % 64 / 16 ∧ a / 64 / 16 < b / 64 / 16 ∧ x = (a / 64 / 16 + 1) * 16 * 64 + b % 64) ∨
  (a % 64 / 16 = b % 64 / 16 ∧ b / 64 / 16 < a / 64 / 16 ∧ x = (a / 64 / 16 * 16 - 1) * 64 + b % 64)

/-- R234: the way from `a` to `b` takes the link from `u` to its neighbour `v`. -/
def Takes (a b u v : Nat) : Prop :=
  (u / 64 = a / 64 ∧ v / 64 = a / 64 ∧
    ((a % 64 ≤ u % 64 ∧ v % 64 = u % 64 + 1 ∧ v % 64 ≤ b % 64) ∨ (b % 64 ≤ v % 64 ∧ u % 64 = v % 64 + 1 ∧ u % 64 ≤ a % 64))) ∨
  (u % 64 = b % 64 ∧ v % 64 = b % 64 ∧
    ((a / 64 ≤ u / 64 ∧ v / 64 = u / 64 + 1 ∧ v / 64 ≤ b / 64) ∨ (b / 64 ≤ v / 64 ∧ u / 64 = v / 64 + 1 ∧ u / 64 ≤ a / 64)))

/-- R237: a header that is to be at `at'` in cycle `due` comes now to the last link into a core, on which another waits. -/
def Blocked (k : Package) (w : RemoteWrite) (at' due : Nat) : Prop :=
  ∃ v ∈ k.writes, ∃ since u, v.id ≠ w.id ∧ v.state = .waiting since ∧ Takes v.src v.dst u v.dst ∧ Takes w.src w.dst u v.dst ∧
    distance w.src v.dst ≤ distance w.src at' ∧ due = k.cycle + distance v.dst at'

/-- A write of the package, by its number, that no other shares. -/
def WriteIs (k : Package) (w : RemoteWrite) : Prop := w ∈ k.writes ∧ ∀ v ∈ k.writes, v.id = w.id → v = w

/-- The package with the state of one write changed. -/
def writeState (k : Package) (id : Nat) (x : WriteState) : Package :=
  { k with writes := k.writes.map fun v => if v.id = id then { v with state := x } else v }

/-- R235: no earlier write from the same core to the same core is still on its way so far. -/
def NoneBefore (k : Package) (w : RemoteWrite) (p : WriteState → Prop) : Prop :=
  ∀ v ∈ k.writes, v.id < w.id → v.src = w.src → v.dst = w.dst → ¬ p v.state
def OnMesh (x : WriteState) : Prop := (∃ a d, x = .flying a d) ∨ (∃ a d, x = .edge a d) ∨ ∃ d, x = .waiting d
def Unwritten (x : WriteState) : Prop := OnMesh x ∨ (∃ d, x = .held d) ∨ ∃ a, x = .accepted a

/-- R236, R237: the data flits of a core's write that waits before a full buffer are injected a cycle later. -/
def flitsDelayed (k : Package) (n : Nat) : Package :=
  { k with injected := k.injected.map fun p => if p.1 = n ∧ k.cycle ≤ p.2 then (p.1, p.2 + 1) else p }

/-- R237: a header is held for the task on its core. -/
def headerHeld (k : Package) (id tenant : Nat) : Package :=
  { k with writes := k.writes.map fun v => if v.id = id then { v with state := .held k.cycle, tenant := tenant } else v }

/-- The stamp of the task on a core. -/
def tenant (c : Core) : Nat := (c.task.map (·.stamp)).getD 0

/-- The headers that the arrival buffer of a core holds (R237). -/
def heldAt (k : Package) (n : Nat) : Nat :=
  (k.writes.filter fun w => w.dst == n && match w.state with
    | .held _ => true
    | _ => false).length

/-! ## The decode engine -/

/-- R323: bytes that the decoder may read in a cell. -/
def DecoderReads (c : Core) (cell off len : Nat) (bs : List Byte) : Prop :=
  EngineReads (cellOf c cell) ∧ off + len ≤ (cellOf c cell).size ∧
  (∀ i < len, ((cellOf c cell).base + off + i) / 8 ∉ c.combBad) ∧ bs = memBytes c.comb ((cellOf c cell).base + off) len

/-- R319: the state of its lane after one symbol, before a refill. -/
def laneAfter (t : DecTable) (x s : Nat) : Nat := t.freq.getD s 0 * (x / 4096) + x % 4096 - (t.freq.take s).sum

/-- R319: `s` is the symbol of lane state `x`. -/
def SymbolOf (t : DecTable) (x s : Nat) : Prop :=
  s < t.freq.length ∧ (t.freq.take s).sum ≤ x % 4096 ∧ x % 4096 < (t.freq.take s).sum + t.freq.getD s 0

/-- R321: the values that some symbols in turn deliver, and the stream after them. -/
def Decodes (c : Core) (t : DecTable) : Stream → List Nat → Stream → Prop
  | st, [], st' => st' = st
  | st, v :: vs, st' => ∃ u, decodeSymbol c t st = .ok (u, v) ∧ Decodes c t u vs st'

/-- R321: the symbols that a cycle of decoding takes: what is left of a round of the segment, as far as draws demand and the
store of 128 has room. -/
def symbolsDue (t : DecTable) (st : Stream) : Nat :=
  let j := st.pos % t.rint
  min (min ((j / 32 + 1) * 32) (min t.rint (t.nsym - (st.pos - j))) - j) (min (st.ipos - st.pos) (128 - st.ready.length))

/-- R317: entry `i` of the index table. -/
def IndexIs (c : Core) (t : DecTable) (i v : Nat) : Prop :=
  let n := t.ntiles * ((t.nsym + t.rint - 1) / t.rint)
  (i = n ∧ v = t.dlen) ∨ (i ≠ n ∧ v % 2 = 0 ∧ ∃ bs, DecoderReads c t.cell (t.iofs + 8 * i) 8 bs ∧ ofBytes bs = v)

/-- R324: the 160 bytes of the image of a stream. -/
def imageOf (st : Stream) : List Byte :=
  st.xs.toList.flatMap (fun x => toBytes 4 x.toNat) ++ toBytes 4 st.pos ++ toBytes 4 st.wptr ++ toBytes 4 st.segend ++
    toBytes 4 (st.tile % 2 ^ 21 + 2 ^ 21 * st.slot + 2 ^ 23 * st.dcell + (if st.rst then 2 ^ 29 else 0) +
      (if st.isOpen then 2 ^ 31 else 0)) ++ toBytes 8 st.base ++ toBytes 8 0

/-- R406: two items that a switch may combine. -/
def Combinable (i j : CollItem) : Prop :=
  (i.op = 1 ∨ i.op = 2) ∧ i.op = j.op ∧ i.part = j.part ∧ i.ident = j.ident ∧ i.count = j.count ∧ i.parts = j.parts ∧
  i.block = j.block ∧ ∀ r ∈ i.ranks, r ∉ j.ranks

/-- R406: an item of the collective that a command takes part in. -/
def ItemFor (m : Command) (part : Nat) (i : CollItem) : Prop :=
  i.part = part ∧ (m.kind = .collMx ∧ i.op = 1 ∨ m.kind = .collBs ∧ i.op = 2) ∧ i.ident = m.ident ∧ i.count = m.count ∧
  i.parts = m.parts

/-! ## Stops, and the life of a task -/

/-- Every command of a core, in whatever queue. -/
def everyCommand (c : Core) : List Command := c.c0 ++ c.c1 ++ c.dq ++ c.bound.map (·.cmd)

/-- R308, R312: no result of the core is in flight but those of the row-statistics engine, whose steps stand still, and no trap is
to be taken. -/
def AllLanded (c : Core) : Prop := (∀ l ∈ c.landings, ∃ v len, l.dest = .rows v len) ∧ c.trap = none

/-- R308: no request of core `n` is unanswered, no result is in flight, and no remote write of it is on its way. -/
def Settled (k : Package) (n : Nat) (c : Core) : Prop :=
  (∀ m ∈ everyCommand c, m.pending = [] ∧ m.kind ≠ .osend) ∧ c.accesses = [] ∧ AllLanded c ∧ ∀ w ∈ k.writes, w.src ≠ n

/-- R347: the codes of the sequencer's stream that end a task. -/
def Fatal (code : BitVec 8) : Prop :=
  code ≠ 0 ∧ code ≠ 0x04 ∧ code ≠ 0x05 ∧ code ≠ 0x0B ∧ code ≠ 0x14 ∧ code ≠ 0x15

/-- The faults of a stop on the streams C0, C1, M and D, in that order. -/
def otherFaults (p : Stop) : List StreamFault := [p.c0, p.c1, p.m, p.d].filterMap id

/-- The faults of a stop on the stream S. -/
def HasCode (p : Stop) (code : BitVec 8) : Prop :=
  (∃ f ∈ p.slots, f.code = code) ∨ (p.bundleCode = code ∧ code ≠ 0)

/-- R346 to R348: a stop that ends the task, one that is held for the host, and one that firmware resumes. -/
def EndsTask (p : Stop) : Prop := ∃ code, HasCode p code ∧ Fatal code
def IsHeld (p : Stop) : Prop := ¬ EndsTask p ∧ (p.slots ≠ [] ∨ p.bundleCode ≠ 0 ∨ ∃ f ∈ otherFaults p, f.code ≠ 0)
def IsAutomatic (p : Stop) : Prop := p.slots = [] ∧ p.bundleCode = 0 ∧ ∀ f ∈ otherFaults p, f.code = 0

/-- R348, R351: the status of a stop, and the address of its record: of the lowest faulting slot, else of the bundle, else of the
first stream that has a code. -/
def StatusOf (p : Stop) (code : BitVec 8) (addr : BitVec 64) : Prop :=
  (∃ f ∈ p.slots, f.slot < 4 ∧ (∀ g ∈ p.slots, g = f ∨ f.slot < g.slot) ∧ code = f.code ∧ addr = f.faddr) ∨
  (p.slots = [] ∧ p.bundleCode ≠ 0 ∧ code = p.bundleCode ∧ addr = p.bundleAddr) ∨
  (p.slots = [] ∧ p.bundleCode = 0 ∧ addr = p.bundleAddr ∧
    code = (((otherFaults p).map (·.code)).find? (· != 0)).getD 0)

/-- R350, R351: the record of a stop. -/
def Records (c : Core) (p : Stop) (r : StopRecord) : Prop :=
  r.valid = true ∧ (r.fatal = true ↔ EndsTask p) ∧ (r.held = true ↔ IsHeld p) ∧ r.pc = c.pc ∧ r.transfer = c.transfer ∧
  r.ended = c.ended ∧ r.cyc = c.cyc ∧ r.frz = c.frz ∧ r.c0 = p.c0 ∧ r.c1 = p.c1 ∧ r.m = p.m ∧ r.d = p.d ∧
  r.retries0 = min 15 c.retries0 ∧ r.retries1 = min 15 c.retries1 ∧
  (∀ t, c.task = some t → r.serial = BitVec.ofNat 24 t.serial ∧ r.replica = BitVec.ofNat 12 t.replica ∧
    r.image = cardImage t.card) ∧
  (∀ code addr, StatusOf p code addr → r.code = code ∧ r.faddr = addr) ∧
  (∀ i < 4, r.slotMask.getLsbD i = true ↔ ∃ f ∈ p.slots, f.slot = i)

/-- R220, R349: the core whose task ends with a status. -/
def ended (c : Core) (status : BitVec 8) : Core :=
  { c with
    mode := .ending status, ended := true, transfer := { count := 0, taken := false, target := 0 }, lc := 0, hold := []
    request := none, probe := none }

/-- R411: the core that STOPSEL of a partition selects, which is one of its own. -/
def Selects (k : Package) (p n : Nat) : Prop :=
  let v := (partOf k p).stopsel
  coreIn k p n = true ∧
    n = if v.getLsbD 15 then queenCore else (v.extractLsb' 8 6).toNat * 64 + (v.extractLsb' 0 6).toNat

/-- R351: the code that a stop record holds for slot `i`. -/
def slotCode (r : StopRecord) (i : Nat) : BitVec 8 := r.slotCodes.extractLsb' (8 * i) 8

/-- R221: everything of a task on core `n` is over but its record. -/
def Drained (k : Package) (n : Nat) (c : Core) : Prop :=
  c.busy = [] ∧ c.macs = [] ∧ c.landings = [] ∧ c.trap = none ∧ everyCommand c = [] ∧ c.accesses = [] ∧ ∀ w ∈ k.writes, w.src ≠ n

/-- R209: the fields of a completion record. -/
def RecordBits (b : BitVec 128) (serial replica : Nat) (status : BitVec 8) (issued frozen : Nat) : Prop :=
  b.extractLsb' 0 24 = BitVec.ofNat 24 serial ∧ b.extractLsb' 24 12 = BitVec.ofNat 12 replica ∧ b.extractLsb' 36 8 = status ∧
  b.extractLsb' 44 4 = 0 ∧ (b.extractLsb' 48 48).toNat = min issued (2 ^ 48 - 1) ∧
  (b.extractLsb' 96 32).toNat = min frozen (2 ^ 32 - 1)

/-- R221: a core that its task has left keeps its instruction memory, its overlay tags and its stop record; the counters of the
model that no register shows go on. -/
def Freed (c c' : Core) : Prop :=
  c' = { Core.reset with
    imem := c.imem, imemBad := c.imemBad, overlays := c.overlays, record := c.record, clk := c.clk, mclk := c.mclk
    arrayFree := c.arrayFree, serial := c.serial, credits := c.credits }

/-- R222: card `id` with replica `r` retired with a status. -/
def retired (cards : List Card) (id r : Nat) (status : BitVec 8) : List Card :=
  cards.map fun x => if x.id = id then { x with left := x.left - 1, statuses := x.statuses ++ [(r, status)] } else x

/-- The card of the number is in the list, and no other has it. -/
def CardIs (p : Partition) (x : Card) : Prop := x ∈ p.cards ∧ ∀ y ∈ p.cards, y.id = x.id → y = x

/-- A record that stands first of those due in queue `q`. -/
def FirstDue (p : Partition) (q : Nat) (d : DueRecord) (rest : List DueRecord) : Prop :=
  ∃ pre post, p.due = pre ++ d :: post ∧ rest = pre ++ post ∧ d.queue = q ∧ ∀ x ∈ pre, x.queue ≠ q

/-- The core once its completion record is written. -/
def recorded (c : Core) : Core :=
  match c.mode with
  | .recording st => { c with mode := .recorded st }
  | _ => c

/-- The places in this package of a range of virtual addresses within one page of local memory that the tables map. -/
def OnePage (k : Package) (part va len : Nat) (w : Nat) (ps : List Nat) : Prop :=
  NoMigration k ∧ 0 < len ∧ (va + len - 1) / 65536 = va / 65536 ∧ va + len ≤ 2 ^ 55 ∧ LeafOf k part (va / 65536) w ∧
  LocalLeaf k part w ∧
  ps = (List.range len).map (fun i => w / 2 ^ 20 % 2 ^ 36 * 65536 + va % 65536 + i) ∧ ∀ p ∈ ps, Plain k p

/-- One core holds a task of partition `p`, and no other does. -/
def OnlyTask (s : State) (p n : Nat) (t : Task) : Prop :=
  CoresInOrder s ∧ (coreState s n).task = some t ∧ t.part = p ∧ ∀ m, m ≠ n → ¬ TaskOf (coreState s m) p

/-- No core holds a task of partition `p`. -/
def NoTask (s : State) (p : Nat) : Prop := CoresInOrder s ∧ ∀ m, ¬ TaskOf (coreState s m) p

/-! ## Bundles -/

/-- The first entry of a list that satisfies a test. -/
def FirstOf {α : Type} (p : α → Prop) (xs : List α) (x : α) : Prop :=
  ∃ pre post, xs = pre ++ x :: post ∧ p x ∧ ∀ y ∈ pre, ¬ p y

/-- R22, R219, R260, R282, R283, R291, R302: what a hold still waits for: its cell to be full, the release of its barrier, an access
of a fence that is not performed for some place of the fence's scope, an engine command, row statistics among them, or the oldest
command of a full queue. -/
def Awaits (c : Core) : Hold → Prop
  | .cell n _ => (cellOf c n).state ≠ .full ∧ (cellOf c n).state ≠ .draining
  | .barrier _ => True
  | .fence ids scope => ∃ a ∈ c.accesses, a.id ∈ ids ∧ a.performed = false ∧
      (a.within = 0 ∨ ∃ p < 18, scope.getLsbD p = true ∧ a.within.getLsbD p = false)
  | .fenceE => everyCommand c ≠ [] ∨ ∃ b ∈ c.busy, Resource.rowStats ∈ b.writes
  | .entry n => ∃ m ∈ everyCommand c, m.serial = n

/-- R22: a global load or atomic whose value has not come when its result is due. -/
def LateValue (c : Core) (l : Landing) : Prop := l.due ≤ c.clk ∧ l.awaits ≠ none

/-- R291: a cell at `wait` that is still awaited, and the pc of its bundle. -/
def LateCell (c : Core) (pc : BitVec 12) (h : Hold) : Prop := ∃ n, h = .cell n pc ∧ Awaits c h

/-- R22, R185: a step of an `mmz` that is due has not all its symbols. -/
def Starving (s : State) : Prop :=
  ∃ m ∈ s.core.macs, m.start + m.step ≤ s.core.mclk ∧ m.step < m.steps ∧ ¬ Supplied s s.core m

/-- R22, R428: the core in issue is frozen before its bundle is looked at: in the duty of the power limit, for symbols, for a late
value, or by a hold. Under STRICT the late value and the cell are timing faults. -/
def Frozen (s : State) : Prop :=
  s.pkg.cycle % 1024 < s.pkg.duty ∨ Starving s ∨ (s.core.strict = false ∧ ∃ l ∈ s.core.landings, LateValue s.core l) ∨
  ∃ h ∈ s.core.hold, Awaits s.core h ∧ (s.core.strict = true → ∀ n pc, h ≠ .cell n pc)

/-- R22: a timing fault is due. -/
def TimingDue (s : State) : Prop :=
  s.core.strict = true ∧ ((∃ l ∈ s.core.landings, LateValue s.core l) ∨ ∃ h ∈ s.core.hold, ∃ pc, LateCell s.core pc h)

/-- R223: the overlay tag that covers the pc names the image and the partition of the task. -/
def Covered (c : Core) : Prop :=
  ∃ tag, c.overlays[c.pc.toNat / 256]? = some tag ∧ tag.valid = true ∧ tag.image = cardImage (taskCard c) ∧ tag.part = taskPart c

/-- Nothing keeps the core in issue from issuing the bundle at its pc: it runs, no stop, freeze, trap or timing fault is in the way,
the fetch is good and the bundle is well-formed (R14, R22, R61, R223). -/
def Issues (s : State) : Prop :=
  s.core.mode = .running ∧ s.core.stop = none ∧ s.core.trap = none ∧ ¬ Frozen s ∧ ¬ TimingDue s ∧ Covered s.core ∧
  s.core.pc.toNat ∉ s.core.imemBad ∧ formFault s.core (bundleAt s.core) = false

/-- R15: the state in which the first syllable of a bundle reads: the core stands as it is, and nothing is recorded yet. -/
def issueStart (s : State) : State := { s with before := s.core, issue := Issue.reset }

/-- The state in which the syllable at a position has its meaning. -/
def atSlot (n : Nat) (s : State) : State := { s with issue := { s.issue with slot := n } }

/-- R301: a copy-class syllable takes a position in the command count of its bundle. -/
def copyCounted (w : Syllable) (s : State) : State :=
  if isCopy w then { s with issue := { s.issue with copies := s.issue.copies + 1 } } else s

/-- The syllables of a bundle, in order: each decodes to an instruction and has its meaning by `exec`, or decodes to none and is an
illegal syllable (R100). -/
def RunsInOrder : List (Nat × Syllable × Option Lend) → State → State → Prop
  | [], s, t => t = s
  | (n, w, l) :: rest, s, t =>
    ∃ u, RunsInOrder rest (copyCounted w u) t ∧
      ((∃ i, decode w l = .ok i ∧ exec i (atSlot n s) = .next u) ∨
        ((∃ e, decode w l = .error e) ∧ u = { s with issue := { s.issue with
          slot := n, faults := s.issue.faults ++ [{ slot := n, code := 0x01, faddr := 0 }] } }))

/-- R26, R28, R126: the next pc: a transfer that fires, else the start of a loop body with passes left, else what the bundle
set, else the next bundle. -/
def nextPc (s t : State) : BitVec 12 :=
  if s.core.transfer.count = 1 ∧ s.core.transfer.taken = true then s.core.transfer.target
  else if s.core.lc ≠ 0 ∧ s.core.pc = s.core.lpe ∧ s.core.lc ≠ 1 then s.core.lps
  else t.issue.nextPc.getD (s.core.pc + 1)

/-- R125: the pending transfer after a bundle that commits. -/
def nextTransfer (s t : State) : Transfer :=
  if s.core.transfer.count = 0 then t.core.transfer
  else if s.core.transfer.count = 1 then { count := 0, taken := false, target := 0 }
  else { s.core.transfer with count := s.core.transfer.count - 1 }

/-- R307, R312: in a scoreboard freeze an operation of the row-statistics engine lasts a cycle longer. -/
def longer (b : BusyOp) : BusyOp := if Resource.rowStats ∈ b.writes then { b with endsAt := b.endsAt + 1 } else b

/-- R312: where it is that engine alone which is awaited, its result comes as the package's cycles pass. -/
def sooner (l : Landing) : Landing :=
  match l.dest with
  | .rows _ _ => { l with due := l.due - 1 }
  | _ => l

/-- R22, R23, R302, R307: a bundle that waits leaves its core as it was, but for the walk of its `probe`, for the queue entry it now
holds out for, and for what a freeze of its kind counts. -/
def Waits (s t u : State) : Prop :=
  let c := { s.core with
    cyc := s.core.cyc + 1, probe := t.core.probe
    hold := s.core.hold ++ t.issue.hold.filter fun (h : Hold) => match h with | .entry _ => true | _ => false }
  u.pkg = s.pkg ∧
  (Wait.event ∈ t.issue.waits → u.core = { c with frz := s.core.frz + 1 }) ∧
  (Wait.event ∉ t.issue.waits → Wait.scoreboard ∈ t.issue.waits →
    u.core = { c with mclk := s.core.mclk + 1, busy := s.core.busy.map longer }) ∧
  (Wait.event ∉ t.issue.waits → Wait.scoreboard ∉ t.issue.waits →
    u.core = { c with mclk := s.core.mclk + 1, landings := s.core.landings.map sooner })

/-- R21: a register that is read before an earlier result for it has landed. -/
def InWindow (c : Core) (r : Reg) : Prop :=
  (∃ l ∈ c.landings, l.dest.reg = some r) ∨
  ∃ (n : Nat) (e : QueueEntry), r = .queue n ∧ c.queue[n]? = some e ∧ e.awaits ≠ none

/-- R21: under CHECK, a slot reads inside a window, or its result would land before an earlier one for the same register. A bundle
resumed from a schedule fault is not checked again (R354). -/
def WindowFault (s t : State) (n : Nat) : Prop :=
  s.core.check = true ∧ s.core.relief ≠ 0x04 ∧
  ((∃ r, (n, r) ∈ t.issue.reads ∧ InWindow s.core r) ∨
    ∃ l ∈ t.core.landings.drop s.core.landings.length, l.slot = n ∧
      ∃ k ∈ s.core.landings, ∃ r, k.dest.reg = some r ∧ l.dest.reg = some r ∧ l.due < k.due)

/-- R14: the one fault of a slot: an encoding fault goes before a schedule fault, and that before any other. -/
def FaultOf (s t : State) (n : Nat) (f : SlotFault) : Prop :=
  let encoding := fun (g : SlotFault) => g.slot = n ∧ (g.code = 0x01 ∨ g.code = 0x03)
  FirstOf encoding t.issue.faults f ∨
  ((∀ g ∈ t.issue.faults, ¬ encoding g) ∧ WindowFault s t n ∧ f = { slot := n, code := 0x04, faddr := 0 }) ∨
  ((∀ g ∈ t.issue.faults, ¬ encoding g) ∧ ¬ WindowFault s t n ∧ FirstOf (fun g => g.slot = n) t.issue.faults f)

/-- R14: the faults of a bundle, one for each slot that has one, in order. -/
def StopFaults (s t : State) (fs : List SlotFault) : Prop :=
  (fs.map (·.slot)).Pairwise (· < ·) ∧ ∀ f, f ∈ fs ↔ ∃ n < 4, FaultOf s t n f

/-- R183: under CHECK, a load of latches that has landed and leads no operation as it should. -/
def Mistimed (c : Core) (pc : BitVec 12) (rest : List (BitVec 12)) : Prop :=
  c.check = true ∧ c.relief ≠ 0x04 ∧ c.mistimed = pc :: rest

/-- R15, R308: a bundle that faults commits nothing: the core stands as it was but for its mode, the counted cycle and the stop. -/
def Refused (s : State) (p : Stop) : Core :=
  { s.core with
    cyc := s.core.cyc + 1, clk := s.core.clk + 1, mclk := s.core.mclk + 1, mode := .stopping, halted := .running
    stop := some p, request := none, relief := 0, reliefSlots := 0, trap := none }

/-- A stop with these faults of slots, and a fault that names none. -/
def stopOf (fs : List SlotFault) (code : BitVec 8) (addr : BitVec 64) : Stop :=
  { slots := fs, bundleCode := code, bundleAddr := addr, c0 := none, c1 := none, m := none, d := none }

/-- R202, R204: a card that the task on core `n` posts: it takes the next number and stamp, waits last in its queue, and stands in
stream order after the last card that the task has posted, or else after the task's own. -/
def CardTaken (k k' : Package) (n : Nat) (t : Task) (words : List XWord) (q : Origin) : Prop :=
  let p := partOf k t.part
  let mine := fun (x : Card) => x.poster = some (t.cardId, t.replica)
  ∃ (c : Card) (pre post : List Card),
    k' = { setPart k t.part { p with
      cards := pre ++ c :: post
      waiting := p.waiting ++ [{
        card := k.nextId, stamp := p.stamp, origin := q, replicas := (List.range c.left).map fun r => (r, 0)
        resumed := false, readyAt := none, checked := false, request := none, postedBy := some n }]
      stamp := p.stamp + 1 } with nextId := k.nextId + 1 } ∧
    p.cards = pre ++ post ∧
    ((∃ x ∈ p.cards, mine x) → (∃ y, pre.getLast? = some y ∧ mine y) ∧ ∀ x ∈ post, ¬ mine x) ∧
    ((∀ x ∈ p.cards, ¬ mine x) → (∃ x ∈ p.cards, x.id = t.cardId) →
      (∃ y, pre.getLast? = some y ∧ y.id = t.cardId) ∧ ∀ x ∈ post, x.id ≠ t.cardId) ∧
    ((∀ x ∈ p.cards, ¬ mine x ∧ x.id ≠ t.cardId) → post = []) ∧
    c.id = k.nextId ∧ c.ring = t.ring ∧ c.serial = p.stamp ∧ c.statuses = [] ∧ c.graph = none ∧ mine c ∧
    c.words.tail = words.tail ∧ c.left = ((words.getD 1 0).extractLsb' 0 12).toNat + 1 ∧
    (c.met = true ↔ counterMet p c.words = true) ∧
    (words ≠ [] → ∀ i < 64, ((c.words.getD 0 0).getLsbD i =
      if 32 ≤ i ∧ i < 36 then t.part.testBit (i - 32) else (words.getD 0 0).getLsbD i))

/-- R219, R383: the cycles from a core to the hub of the barrier tree. -/
def toHub (n : Nat) : Nat := if n = 4096 then 0 else 8 + 4 * (frameOf n / 4)

/-- R204, R219: what a bundle sends as it commits, in syllable order: cards, and arrivals on their way to the hub. -/
def Sends (n : Nat) (t : Task) : List Post → Package → Package → Prop
  | [], k, k' => k' = k
  | .card words q :: rest, k, k' => ∃ m, CardTaken k m n t words q ∧ Sends n t rest m k'
  | .arrival g :: rest, k, k' =>
    Sends n t rest (setPart k t.part { partOf k t.part with
      arriving := (partOf k t.part).arriving ++ [(n, g, k.cycle + toHub n)] }) k'

/-- R15, R26, R125, R126, R302: the core as a bundle that commits leaves it; its commands know the accesses that go before them. -/
def committed (s t : State) : Core :=
  let f := fun (m : Command) => if s.core.serial ≤ m.serial then { m with limit := t.core.serial } else m
  { t.core with
    c0 := t.core.c0.map f, c1 := t.core.c1.map f, bound := t.core.bound.map fun b => { b with cmd := f b.cmd }
    pc := nextPc s t, transfer := nextTransfer s t
    lc := if s.core.lc ≠ 0 ∧ s.core.pc = s.core.lpe then s.core.lc - 1 else t.core.lc
    cyc := t.core.cyc + 1, clk := t.core.clk + 1, mclk := t.core.mclk + 1, hold := t.issue.hold
    relief := 0, reliefSlots := 0, mistimed := [] }

/-- R214: a request is pending through the cycle of its expiry. -/
def RequestPending (k : Package) (c : Core) (r : PreemptRequest) : Prop :=
  c.request = some r ∧ ∃ e, r.expires = some e ∧ k.cycle ≤ e

/-- R356, R357: the bytes of a save of a core's live sections: the header, and each section that the mask names. -/
def saveSize (c : Core) (mask : BitVec 9) : Nat :=
  let cells := ((c.cells.toList.filter fun x => decide (x.state ≠ .absent)).map (·.size)).sum
  384 + (((List.range 9).filter fun i => mask.getLsbD i).map fun i =>
    ([256, 192, 8384, 66304, 9216, 9216, 256, 384, 1024 + cells] : List Nat).getD i 0).sum

/-- R233, R358: a save fits, and no cell of the core will be filled from another core, once its commands on cells are done. -/
def SaveFits (c : Core) (mask : BitVec 9) : Prop :=
  let cells := Vector.ofFn fun (i : Fin 64) => issueCell c i.val
  saveSize { c with cells := cells } mask ≤ cardSaveSize (taskCard c) ∧ ∀ x ∈ cells.toList, x.state ≠ .fillingRemote

/-- R213, R214: the request that a task answers stays with it, and keeps its core for the card that made it, unless a drain did. -/
def Answers (k k' : Package) (n : Nat) (c : Core) : Prop :=
  (∀ r, RequestPending k c r → r.byDrain = false →
    k' = setPart k (taskPart c) { partOf k (taskPart c) with reserved := (partOf k (taskPart c)).reserved ++ [(n, r.stamp)] }) ∧
  ((∀ r, RequestPending k c r → r.byDrain = true) → k' = k)

/-- R215, R220: what a bundle does once it has committed: its task ends, gives up its core at a safe point, or goes on. A safe
point gives the core up when a request is pending, and a `yield` also when a ready card could take it. -/
def Concluded (s t u : State) (k : Package) : Prop :=
  let c := committed s t
  let mask := t.issue.safe.getD 0 ||| t.issue.yield.getD 0
  let asked := ∃ r, RequestPending k c r
  let wanted := t.issue.yield ≠ none ∧ couldPlace { t with core := c, pkg := k } (taskPart c) t.here (cardPrio (taskCard c)) = true
  let leaves := (t.issue.safe ≠ none ∨ t.issue.yield ≠ none) ∧ (asked ∨ wanted) ∧ SaveFits c mask
  (t.issue.ends = true → u.pkg = k ∧ u.core = { ended c 0 with pc := s.core.pc + 1 }) ∧
  (t.issue.ends = false → leaves → Answers k u.pkg s.here c ∧ ∃ r, u.core = { c with mode := .givingUp mask, hold := [], request := r } ∧
    (asked → r = c.request) ∧ (¬ asked → r = none)) ∧
  (t.issue.ends = false → ¬ leaves → u.pkg = k ∧ u.core = c)

/-- What follows from the syllables of a bundle: a wait freezes it whole (R22), a fault commits none of it (R15), and else it
commits: what it sends is sent, and its task ends, gives up its core or goes on. -/
def Concludes (s t u : State) : Prop :=
  (t.issue.waits ≠ [] → Waits s t u) ∧
  (t.issue.waits = [] → ∀ fs, StopFaults s t fs →
    (∀ pc rest, Mistimed s.core pc rest →
      u.pkg = s.pkg ∧ u.core = { Refused s (stopOf fs 0x04 (pc.setWidth 64)) with mistimed := [], probe := none }) ∧
    ((∀ pc rest, ¬ Mistimed s.core pc rest) →
      (fs ≠ [] → u.pkg = s.pkg ∧ u.core = { Refused s (stopOf fs 0 0) with probe := none }) ∧
      (fs = [] →
        (s.core.task = none → Concluded s t u s.pkg) ∧
        (∀ x, s.core.task = some x → ∃ k, Sends s.here x t.issue.posts s.pkg k ∧ Concluded s t u k))))

/-- What a fault of the bundle or of the core leaves of the core in issue: nothing commits, and the stop names no slot (R351). -/
def StopsWith (s u : State) (code : BitVec 8) (addr : BitVec 64) : Prop :=
  u.pkg = s.pkg ∧ u.cores = s.cores ∧ u.core = Refused s (stopOf [] code addr)

/-! ## Results that land -/

/-- R17, R19, R60, R109, R132, R138, R140, R243: one result lands in its destination with its poison bit. -/
def Landed (l : Landing) (c c' : Core) : Prop :=
  (l.dest = .none → c' = c) ∧
  (∀ n, l.dest = .x n → n < 32 →
    c' = { c with x := c.x.setIfInBounds n (BitVec.ofNat 64 l.value), xPoison := c'.xPoison, xBad := c'.xBad } ∧
    ∀ i < 32, c'.xPoison.getLsbD i = (if i = n then l.poison else c.xPoison.getLsbD i) ∧
      c'.xBad.getLsbD i = (i != n && c.xBad.getLsbD i)) ∧
  (∀ n, l.dest = .pred n → n < 8 → c' = { c with p := c'.p } ∧
    ∀ i < 8, c'.p.getLsbD i = if i = n then l.value % 2 == 1 else c.p.getLsbD i) ∧
  (∀ id, l.dest = .queue id → c' = { c with queue := c'.queue, aBad := c'.aBad } ∧
    ∀ i : Fin 16,
      c'.queue[i.val] = (if (c.queue[i.val]).awaits = some id
        then { value := BitVec.ofNat 64 l.value, poison := l.poison, awaits := none } else c.queue[i.val]) ∧
      c'.aBad.getLsbD i.val = if (c.queue[i.val]).awaits = some id then false else c.aBad.getLsbD i.val) ∧
  (∀ n lo len keep, l.dest = .v n lo len keep → n < 64 → lo + len ≤ 1024 → l.value < 2 ^ len →
    ∃ v, c' = { c with v := c.v.setIfInBounds n v, vPoison := c'.vPoison, vBad := c'.vBad } ∧
    (∀ i < 1024, v.getLsbD i = if lo ≤ i ∧ i < lo + len then l.value.testBit (i - lo) else (readV c n).getLsbD i) ∧
    ∀ i < 64, c'.vPoison.getLsbD i = (if i = n ∧ keep = false then l.poison else c.vPoison.getLsbD i) ∧
      c'.vBad.getLsbD i = if i = n ∧ len = 1024 then false else c.vBad.getLsbD i) ∧
  (∀ n, l.dest = .m n → c' = { c with m := c.m.setIfInBounds n (BitVec.ofNat 128 l.value) }) ∧
  (∀ n, l.dest = .sys n → c' = sysWrite n (BitVec.ofNat 64 l.value) c) ∧
  (∀ n h, l.dest = .handle n h → c' = { c with handles := c.handles.setIfInBounds n h, tlb := c'.tlb } ∧
    ∀ e, e ∈ c'.tlb ↔ e ∈ c.tlb ∧ ∃ x, AnyHandle c' x ∧ DependsOn x e) ∧
  (∀ n len, l.dest = .rows n len → n < 64 → len ≤ 1024 → l.value < 2 ^ len →
    ∃ v, c' = { c with v := c.v.setIfInBounds n v, vPoison := c'.vPoison, vBad := c'.vBad } ∧
    (∀ i < 1024, v.getLsbD i = if i < len then l.value.testBit i else (readV c n).getLsbD i) ∧
    ∀ i < 64, c'.vPoison.getLsbD i = (i != n && c.vPoison.getLsbD i) ∧
      c'.vBad.getLsbD i = if i = n ∧ len = 1024 then false else c.vBad.getLsbD i)

/-- Results land one after another. -/
def LandInOrder : List Landing → Core → Core → Prop
  | [], c, c' => c' = c
  | l :: rest, c, c' => ∃ m, Landed l c m ∧ LandInOrder rest m c'

/-- R19, R22: a result that is due and has its value. -/
def Due (c : Core) (l : Landing) : Prop := l.due ≤ c.clk ∧ l.awaits = none

/-- R60, R132: the result of an `mtsr`. -/
def ForSystem (l : Landing) : Prop := ∃ n, l.dest = .sys n

/-! ## The events of a package cycle -/

/-- R1, R15, R303: an event that the package takes of its own accord is the instruction of its name; an answer is one from this
package. -/
def EventIs (x : Instr) : DeviceStep → Prop
  | .resultLanding c => x = .resultLanding c
  | .busyStateEnd c => x = .busyStateEnd c
  | .bundleIssue c => x = .bundleIssue c
  | .matrixStep c => x = .matrixStep c
  | .memoryAccessPerformed c id => x = .memoryAccessPerformed c id
  | .amoPerformed c id => x = .amoPerformed c id
  | .globalLoadReturn c id => x = .globalLoadReturn c id none
  | .atomicReturn c id => x = .atomicReturn c id none
  | .postedWriteAck c id => x = .postedWriteAck c id
  | .apertureFaultReport c id => x = .apertureFaultReport c id
  | .translationWalkDone c => x = .translationWalkDone c
  | .remoteWriteInjection c e => x = .remoteWriteInjection c e
  | .cellCommandTakesEffect c e => x = .cellCommandTakesEffect c e
  | .engineCommandBegin c e => x = .engineCommandBegin c e
  | .engineRequestSend c e => x = .engineRequestSend c e
  | .engineResponseArrival c e i => x = .engineResponseArrival c e i none
  | .migrationHoldTimeout c e => x = .migrationHoldTimeout c e
  | .engineCommandComplete c e => x = .engineCommandComplete c e
  | .loadSegment c d => x = .loadSegment c d
  | .decodeRound c d => x = .decodeRound c d
  | .remoteWriteHeaderArrival id => x = .remoteWriteHeaderArrival id
  | .remoteWriteAccept id => x = .remoteWriteAccept id
  | .remoteWriteAckArrival id => x = .remoteWriteAckArrival id
  | .boundCommandDelivery i => x = .boundCommandDelivery i
  | .migrationLineCopy n => x = .migrationLineCopy n
  | .tlbiComplete p => x = .tlbiComplete p
  | .stopRecordWrite c => x = .stopRecordWrite c
  | .automaticResume c => x = .automaticResume c
  | .retirement c => x = .retirement c
  | .contextSave c => x = .contextSave c
  | .contextRestore c => x = .contextRestore c
  | .taskStart c => x = .taskStart c
  | .releaseArrival c => x = .releaseArrival c
  | .barrierArrival p i => x = .barrierArrival p i
  | .graphInstanceComplete p g => x = .graphInstanceComplete p g
  | .completionRecordWrite p q => x = .completionRecordWrite p q
  | .ringFetch p k => x = .ringFetch p k
  | .schedulerDecision p => x = .schedulerDecision p
  | .preemptionRequestArrival c => x = .preemptionRequestArrival c
  | .requestLapse c => x = .requestLapse c
  | .watchdogExpiry p k => x = .watchdogExpiry p k
  | .drainDeadline p => x = .drainDeadline p
  | .partitionReset p => x = .partitionReset p
  | .injectorAccept p => x = .injectorAccept p
  | .waggleDelivery p => x = .waggleDelivery p
  | .mailboxRecordComplete p => x = .mailboxRecordComplete p
  | .deliveryStall p => x = .deliveryStall p
  | .watermarkSend k => x = .watermarkSend k
  | .dutyBoundary watts => x = .dutyBoundary watts
  | .imageLoad p => x = .imageLoad p
  | .imageUnload p id => x = .imageUnload p id

/-! ## Rings, groups, the scheduler and the watchdog -/

/-- R414: the MSI-X structure of a function lets a vector through. -/
def LetsThrough (k : Package) (fn v : Nat) : Prop :=
  let t := vget k.msix fn MsixTable.reset
  t.en = true ∧ t.hush = false ∧ t.masks.getLsbD v = false

/-- A package with ring `k`, or completion queue `q`, of a partition replaced. -/
def setRing (p : Partition) (k : Nat) (r : Ring) : Partition := { p with rings := p.rings.setIfInBounds k r }
def setQueue (p : Partition) (q : Nat) (x : CompQueue) : Partition := { p with queues := p.queues.setIfInBounds q x }

/-- R207: a write index that declares OVERRUN: more cards than the ring holds, or an index that goes back. -/
def Overruns (r : Ring) (v : BitVec 32) : Prop := 2 ^ r.log2n < (v - r.r).toNat ∨ 2 ^ 31 < (v - r.w).toNat

/-- R208: LOG2N after a write; a value outside 4 to 16 is not taken. -/
def logWritten (old : Nat) (v : BitVec 64) : Nat :=
  if 4 ≤ (v.extractLsb' 0 5).toNat ∧ (v.extractLsb' 0 5).toNat ≤ 16 then (v.extractLsb' 0 5).toNat else old

/-- R217: what an entry of the group table holds; an unlisted entry is undefined, with no arrival. -/
def GroupIs (p : Partition) (g : Nat) (x : Group) : Prop :=
  (∃ e ∈ p.groups, e = (g, x) ∧ ∀ f ∈ p.groups, f.1 = g → f = e) ∨
  ((∀ e ∈ p.groups, e.1 ≠ g) ∧ x = { size := 0, gen := 0, arrived := [] })

/-- The entries of the group table but for one, which has become this. -/
def groupsWith (p : Partition) (g : Nat) (x : Group) : List (Nat × Group) :=
  (p.groups.filter fun e => e.1 != g) ++ [(g, x)]

/-- R200, R211, R212: a card of one replica, without group, region or counter to wait for, that is to run on core `n` of a
partition, by a rectangle of one core. -/
def OneCore (k : Package) (part n : Nat) (w : List XWord) : Prop :=
  cardReplicas w = 1 ∧ cardPackage w = false ∧ cardPlace w = 0 ∧ n < 4096 ∧
  cardParam w % 4096 = n ∧ coreIn k part n = true ∧ (∀ i < 4, cardGroup w i = 0) ∧
  ∀ i < 8, regionMode w i = 0

/-- R30, R212: what the core of a task is at its start. -/
def Begins (k : Package) (c c' : Core) (t : Task) : Prop :=
  ∃ d x, Freed c d ∧ c' = { d with
    pc := BitVec.ofNat 12 (cardEntry t.card), strict := cardStrict t.card, check := cardCheck t.card, tes := cardTes t.card
    srkey := cardKey t.card, dm := (partOf k t.part).frames, task := some t, mode := .starting, x := x, tlb := [] } ∧
  ∀ i : Fin 32, x[i.val] =
    if 1 ≤ i.val ∧ i.val ≤ 8 then cardArg t.card i.val
    else if i.val = 9 then BitVec.ofNat 64 t.replica
    else if i.val = 10 ∧ cardGroup t.card 0 ≠ 0 then BitVec.ofNat 64 (cardRank t.card 0 + t.replica) else 0

/-- The waiting entry of a card just accepted from ring `k`, and the card. -/
def newEntry (p : Partition) (id ring replicas : Nat) : Waiting :=
  ⟨id, p.stamp, .ring ring, (List.range replicas).map fun r => (r, 0), false, none, false, none, none⟩

/-- R367: the record of a force-stop. -/
def ForcedRecord (c : Core) (t : Task) (r : StopRecord) : Prop :=
  r.valid = true ∧ r.fatal = false ∧ r.held = false ∧ r.code = 0x18 ∧ r.serial = BitVec.ofNat 24 t.serial ∧
  r.replica = BitVec.ofNat 12 t.replica ∧ r.image = cardImage t.card ∧ r.cyc = c.cyc ∧ r.frz = c.frz ∧ r.slotMask = 0 ∧
  r.c0 = none ∧ r.c1 = none ∧ r.m = none ∧ r.d = none

/-! ## The pod, the waggle class and service -/

/-- A package with pod port `n` replaced. -/
def setPort (k : Package) (n : Nat) (p : Port) : Package := { k with ports := k.ports.setIfInBounds n p }

/-- R386, R389: an enabled and trained port that carries the traffic of a partition: the enabled one whose PCFG.PORTS names it. -/
def Carries (k : Package) (n part : Nat) : Prop :=
  n < 16 ∧ (portOf k n).en = true ∧ (portOf k n).up = true ∧ part < 16 ∧
  (∀ q < 16, q = part ↔ (partOf k q).en = true ∧ (partOf k q).ports.getLsbD n = true)

/-- R386, R389: a port that carries nothing: it is off or down, or no enabled partition names it. -/
def CarriesNothing (k : Package) (n : Nat) : Prop :=
  16 ≤ n ∨ (portOf k n).en = false ∨ (portOf k n).up = false ∨
  ∀ q < 16, ¬ ((partOf k q).en = true ∧ (partOf k q).ports.getLsbD n = true)

/-- R388: a discard on a port, counted in MISR, which saturates. -/
def discarded (k : Package) (n : Nat) : Package :=
  setPort k n { portOf k n with misr := if (portOf k n).misr = 0xFFFF then 0xFFFF else (portOf k n).misr + 1 }

/-- R388, R389: a route of a partition towards a node: the valid entry of RTAB names one of its enabled ports. -/
def RouteTo (k : Package) (part node out : Nat) : Prop :=
  ∃ v, (∀ e ∈ k.rtab, e.1 = node → e = (node, v)) ∧ (node, v) ∈ k.rtab ∧ v.getLsbD 4 = true ∧
    (v.extractLsb' 0 4).toNat = out ∧ (portOf k out).en = true ∧ (partOf k part).ports.getLsbD out = true

/-- R388: what leads towards a node, in its class, leads nowhere. -/
def NoRoute (k : Package) (part node : Nat) (waggle : Bool) : Prop :=
  ∀ e ∈ k.rtab, e.1 = node → e.2.getLsbD 4 = false ∨ (portOf k (e.2.extractLsb' 0 4).toNat).en = false ∨
    (partOf k part).ports.getLsbD (e.2.extractLsb' 0 4).toNat = false ∨
    (waggle = true ∧ (portOf k (e.2.extractLsb' 0 4).toNat).wag = false)

/-- A range that lies in a tier and in the partition's ranges, in no window and in no run of an enabled migration. -/
def InRange (k : Package) (q : Partition) (pa n : Nat) : Prop :=
  inTier k pa n = true ∧ inPartition q pa n = true ∧ ∀ i < n, Plain k (pa + i)

/-- The bytes of memory from an address up, and whether any stands in a word marked poisoned. -/
def bytesAt (k : Package) (pa n : Nat) : List Byte := (List.range n).map fun i => memAt k (pa + i)
def PoisonAt (k : Package) (pa n : Nat) : Prop := ∃ i < n, (pa + i) / 8 ∈ k.memBad

/-- R395: the injector term: T, or T − B when the injector has accepted no packet for a microsecond. -/
def ownTerm (k : Package) (part : Nat) : Nat :=
  if (partOf k part).accepted + 1000 ≤ k.time.toNat then k.time.toNat - k.ptbound.toNat else k.time.toNat

/-- R396, R397: an input of a receiver: a waggle-enabled port of its partition that has joined. -/
def Input (k : Package) (part n : Nat) : Prop :=
  n < 16 ∧ (partOf k part).ports.getLsbD n = true ∧ (portOf k n).en = true ∧ (portOf k n).wag = true ∧ (portOf k n).joined = true

/-- R395: the values whose minimum a port's watermark is. -/
def Bounds (k : Package) (part n v : Nat) : Prop :=
  v = ownTerm k part ∨ (∃ w ∈ (portOf k n).queue, v = w.stamp) ∨
  (∃ i, Input k part i ∧ (portOf k n).feeds.getLsbD i = true ∧ v = (portOf k i).received)

/-- R398: a package whose delivery is suspended, with the cause, the port and the code, and the partition's pod interrupt. -/
def stalls (k : Package) (part port cause : Nat) : Package :=
  raiseVector part 25 (setPart k part
    { partOf k part with stalled := true, stallPort := port, stallCause := cause, stallCode := 0x19 })

/-- R398: delivery is suspended; one that is suspended already keeps its cause. -/
def suspended (k : Package) (part port cause : Nat) : Package := if (partOf k part).stalled then k else stalls k part port cause

/-- R396, R398: a regression on a port: its port and cause are recorded whatever delivery waits for already. -/
def regressed (k : Package) (part n : Nat) : Package :=
  stalls (setPort k n { portOf k n with regr := true }) part n 1

/-- R389, R396: a port as a watermark finds it: what was written to WAG is in effect, and a port that leaves has not joined. -/
def wagTaken (p : Port) : Port := { p with wag := p.wagReg, joined := p.joined && p.wagReg }

/-- R397: the packets that an input has in the hold buffer. -/
def share (q : Partition) (port : Nat) : Nat := (q.held.filter fun h => h.port == port).length

/-- R397: the hold buffer is full, or the share of an input in it. -/
def NoSpace (q : Partition) (port : Nat) : Prop := 256 ≤ q.held.length ∨ 16 ≤ share q port

/-- R394: one key is below another. -/
def KeyBelow (a b : Packet) : Prop :=
  a.stamp < b.stamp ∨ (a.stamp = b.stamp ∧ (a.node < b.node ∨ (a.node = b.node ∧ a.seq < b.seq)))

/-- R397: of the packets held, this one has the smallest key. -/
def Smallest (q : Partition) (h : Held) : Prop := h ∈ q.held ∧ ∀ x ∈ q.held, x = h ∨ KeyBelow h.packet x.packet

/-- R397: every input's watermark lies above a stamp. -/
def Passed (k : Package) (part stamp : Nat) : Prop :=
  stamp < ownTerm k part ∧ ∀ n, Input k part n → stamp < (portOf k n).received

/-- R399: the slots of a record, and whether the mailbox has room for it. -/
def slotsFor (w : Packet) : Nat := 1 + w.payload.length / 64
def Room (q : Partition) (ridx : BitVec 32) (w : Packet) : Prop :=
  (q.mbw + BitVec.ofNat 32 (slotsFor w) - ridx).toNat ≤ 2 ^ q.mbLog2n

/-- A little-endian field of a list of bytes. -/
def fieldAt (bs : List Byte) (at' n : Nat) : Nat := littleEndian ((bs.drop at').take n)

/-- R399: the header of a record. -/
def RecordHead (q : Partition) (w : Packet) (bs : List Byte) : Prop :=
  bs.length = 64 ∧ fieldAt bs 0 6 = w.stamp % 2 ^ 48 ∧ fieldAt bs 6 1 = w.node % 2 ^ 8 ∧ fieldAt bs 7 1 = 0 ∧
  fieldAt bs 8 4 = w.seq % 2 ^ 32 ∧ fieldAt bs 12 2 = w.payload.length % 2 ^ 16 ∧ fieldAt bs 14 2 = 0 ∧
  fieldAt bs 16 8 = w.user.toNat ∧ fieldAt bs 24 4 = (w.x + 256 * w.y) % 2 ^ 32 ∧ fieldAt bs 28 4 = 0 ∧
  fieldAt bs 32 8 = q.didx.toNat ∧ fieldAt bs 40 24 = 0

/-- R399: where the bytes of a record go: consecutive slots, from the last on to slot 0. -/
def recordBytes (q : Partition) (n : Nat) : List Nat :=
  (List.range n).map fun j => q.mbbase.toNat + (q.mbw.toNat + j / 64) % 2 ^ q.mbLog2n * 64 + j % 64

/-- R205: a partition in which counter `i` has become one more, with what that does to the cards that wait for it; a number
that is no counter's signals nothing. -/
def Signalled (q y : Partition) (i : Nat) : Prop :=
  (4096 ≤ i → y = q) ∧
  (i < 4096 → y = { q with counters := y.counters, cards := y.cards, bumps := i :: q.bumps } ∧
    (∀ j < 4096, counterOf y j = if j = i then counterOf q i + 1 else counterOf q j) ∧
    y.cards.length = q.cards.length ∧
    ∀ h (a : h < q.cards.length) (b : h < y.cards.length), y.cards[h] = { q.cards[h] with met := y.cards[h].met } ∧
      (y.cards[h].met = true ↔ q.cards[h].met = true ∨ 4096 ≤ cardWaitIdx q.cards[h].words ∨
        cardWaitVal q.cards[h].words ≤ (counterOf y (cardWaitIdx q.cards[h].words)).toNat))

/-- R398: an input's watermark has not risen for LIMIT ticks while a held packet's stamp is at or above it. -/
def Late (k : Package) (part n : Nat) : Prop :=
  Input k part n ∧ ∃ h ∈ (partOf k part).held, (portOf k n).received ≤ h.packet.stamp ∧
    (portOf k n).rose + (partOf k part).ordstall.toNat ≤ k.time.toNat ∧ h.since + (partOf k part).ordstall.toNat ≤ k.time.toNat

/-- R393: the mailbox ring of these registers lies in the partition's enabled ranges. -/
def MailboxFits (k : Package) (q : Partition) : Prop :=
  inTier k q.mbbase.toNat (64 * 2 ^ q.mbLog2n) = true ∧ inPartition q q.mbbase.toNat (64 * 2 ^ q.mbLog2n) = true

/-- The step changes the partition so, and takes the next free number. -/
def PartTakes (s : State) (i : Instr) (p : Nat) (q : Partition) : Prop :=
  exec i s = .next { s with pkg := setPart s.pkg p q, choice := s.choice + 1 }

/-- The step makes the package this, and takes the next free number. -/
def PkgTakes (s : State) (i : Instr) (k : Package) : Prop := exec i s = .next { s with pkg := k, choice := s.choice + 1 }

/-- R387, R388: a bulk flit comes to port `n`: as such, or as the request that it carries. -/
def FlitComes (i : Instr) (n : Nat) (f : Flit) : Prop :=
  i = .flitForward n f ∨ ∃ q, i = .remoteRequestArrival n q ∧ f = ⟨q.dest, q.part, q.hops, .request q.src q.id q.pa q.kind⟩

/-- R387, R388: a package after it has sent a bulk flit by the route of its node; what has no route is lost. -/
def FlitSent (k k' : Package) (part dest : Nat) (body : BulkBody) : Prop :=
  (∀ out, RouteTo k part dest out →
    k' = setPort k out { portOf k out with flits := (portOf k out).flits ++ [⟨dest, part, 0, body⟩] }) ∧
  (NoRoute k part dest false → k' = k)

/-- R387: the length of what a request from another package touches. -/
def AsksFor (kind : RemoteKind) (len : Nat) : Prop :=
  kind = .read len ∨ (∃ bs bad, kind = .write bs bad ∧ len = bs.length) ∨ ∃ o b c j step va, kind = .amo o len b c j step va

/-- The bytes of a file in memory that the loader can read: in the partition's ranges, and not poisoned. -/
def Readable (k : Package) (q : Partition) (pa : Nat) (bs : List Byte) : Prop :=
  bs = bytesAt k pa bs.length ∧ ∀ i < bs.length,
    inTier k (pa + i) 1 = true ∧ inPartition q (pa + i) 1 = true ∧ Plain k (pa + i) ∧ (pa + i) / 8 ∉ k.memBad

/-- R415, R416: a native image at an address, whose header, sections and tables are within their limits: its bundles fault
under no check of the loader, its schedule among them where a card template asks for that, and each `safe` and `yield` stands in its safe-point table. -/
def NativeImage (k : Package) (q : Partition) (base : Nat) (i : Image) : Prop :=
  ∃ head ovl ents cards safes : List Byte, ∃ code : Nat → List Byte,
    let nent := fieldAt head 12 2
    let here := fun (n : Nat) => base + fieldAt head n 8
    let count := fun (g : Nat) => if (fieldAt ovl (16 * g) 1).testBit 0 then fieldAt ovl (16 * g + 4) 4 else 0
    Readable k q base head ∧ head.length = 256 ∧
    fieldAt head 0 4 = 0x474D494B ∧ fieldAt head 4 1 = 0 ∧ fieldAt head 5 1 = 1 ∧ fieldAt head 6 2 ≤ 0xFFFE ∧
    fieldAt head 8 4 = 1 ∧ 1 ≤ nent ∧ nent ≤ 64 ∧ fieldAt head 14 2 ≤ 256 ∧ fieldAt head 40 4 ≤ 262144 ∧
    (∀ j < 192, fieldAt head (64 + j) 1 = 0) ∧
    Readable k q (here 16) ovl ∧ ovl.length = 256 ∧
    Readable k q (here 24) ents ∧ ents.length = 2 * nent ∧
    Readable k q (here 32) i.data ∧ i.data.length = fieldAt head 40 4 ∧
    Readable k q (here 56) cards ∧ cards.length = 256 * fieldAt head 14 2 ∧
    Readable k q (here 48) safes ∧ safes.length = 4 * fieldAt head 44 4 ∧
    (∀ g < 16, (fieldAt ovl (16 * g) 1).testBit 0 = true →
      1 ≤ count g ∧ count g ≤ 256 ∧ Readable k q (base + fieldAt ovl (16 * g + 8) 8) (code g) ∧
      (code g).length = 16 * count g) ∧
    i.id = BitVec.ofNat 16 (fieldAt head 6 2) ∧ i.nbv = 1 ∧
    i.entries = (List.range nent).map (fun e => fieldAt ents (2 * e) 2 % 4096) ∧
    i.code = (List.range 16).flatMap (fun g => (List.range (count g)).map fun j =>
      (256 * g + j, BitVec.ofNat 128 (fieldAt (code g) (16 * j) 16))) ∧
    i.regions = ((List.range 16).filter fun g => (fieldAt ovl (16 * g) 1).testBit 0).map (fun g =>
      (g, (fieldAt ovl (16 * g) 1).testBit 1)) ∧
    (∃ checked, (checked = true ↔ ∃ n < fieldAt head 14 2, (fieldAt cards (256 * n + 8) 8).testBit 13 = true) ∧
      codeFaults checked i.code = false) ∧
    ∀ pc b, (pc, b) ∈ i.code → ∀ x ∈ slotsOf b, ∀ m, liveMaskOf x.2.1 = some m →
      ∃ e < fieldAt head 44 4, fieldAt safes (4 * e) 4 % 4096 = pc ∧ fieldAt safes (4 * e) 4 / 4096 % 512 = m

/-- R419: an image that a live task or a queued card names. -/
def InUse (s : State) (p : Nat) (id : BitVec 16) : Prop :=
  (∃ n t, (coreState s n).task = some t ∧ t.part = p ∧ cardImage t.card = id) ∨
  ∃ w ∈ (partOf s.pkg p).waiting, cardImage (cardWords (partOf s.pkg p) w.card) = id

/-- R223, R419: the machine after its cores have lost the region tags of an image, with the package replaced. -/
def TagsCleared (s t : State) (p : Nat) (id : BitVec 16) (k : Package) : Prop :=
  t = { s with core := t.core, cores := t.cores, pkg := k, choice := t.choice } ∧
  let clear := fun (g : OverlayTag) => if g.image = id ∧ g.part = p then { g with valid := false } else g
  ∀ n, coreState t n = { coreState s n with overlays := (coreState s n).overlays.map clear }

/-- R426: the repair commands: their numbers, and the kinds of log entry that name what each mends. -/
def Repairs (f : BitVec 64 → Instr) (kind : Nat) (kinds : List (BitVec 8)) : Prop :=
  (f = .hbmRowRepair ∧ kind = 1 ∧ kinds = [3, 4]) ∨ (f = .hbmBankRepair ∧ kind = 2 ∧ kinds = [3, 4]) ∨
  (f = .ucieLaneRepair ∧ kind = 3 ∧ kinds = [8]) ∨ (f = .podLaneRepair ∧ kind = 4 ∧ kinds = [9]) ∨
  (f = .superTierRemap ∧ kind = 5 ∧ kinds = [5, 6])

/-- R426: an entry that the package log or a partition log still holds. -/
def Logged (k : Package) (e : LogEntry) : Prop := e ∈ k.log.entries ∨ ∃ p < 16, e ∈ (partOf k p).log.entries

/-- What power-on and reset leave of a package: every register at its reset value but for what is no register: the flash, the
memory fitted, what has been sent, the topology and the errors still to come. -/
def afresh (k : Package) : Package :=
  { Package.reset with
    powered := false, booted := false, flash := k.flash, supcap := k.supcap, raised := k.raised, reports := k.reports
    completions := k.completions, nextId := k.nextId, upsets := k.upsets
    ports := k.ports.map fun p => { Port.reset with feeds := p.feeds } }

/-- R376: a frame after a package reset: its written maps are in effect. -/
def frameAfterReset (f : Frame) : Frame :=
  { Frame.reset with frepa := f.frepa, frepb := f.frepb, mapA := f.frepa, mapB := f.frepb, failcol := f.failcol }

/-- R376: what a package reset leaves: the written repair maps and the deferred repairs take effect. -/
def afterReset (k : Package) : Package :=
  { afresh k with
    powered := k.powered, mem := k.mem, memBad := k.memBad, undef := k.undef, writers := k.writers, tmax := k.tmax, trip := k.trip
    repaired := k.repaired ++ k.deferred
    frames := k.frames.map frameAfterReset }

/-- The machine with this package, nothing in issue, and every core at its reset state. -/
def allFresh (s : State) (k : Package) : State :=
  { s with
    core := Core.reset, before := Core.reset, here := 0, issue := Issue.reset, cores := [], agenda := [], pkg := k }

/-- R409: the physical address of a BAR4 byte: the ranges stand one behind the other. -/
def BarByte (ranges : List (Nat × Nat)) (a pa : Nat) : Prop :=
  ∃ pre r post, ranges = pre ++ r :: post ∧ (pre.map (·.2)).sum ≤ a ∧ a < (pre.map (·.2)).sum + r.2 ∧
    pa = r.1 + (a - (pre.map (·.2)).sum)

/-- The bytes at these places become these; a word written whole loses its poison mark, and a word that takes a byte with a
number among `bad` is marked (R226). Each word written has the writer's place among its writers (R263). Nothing else of the package
changes. -/
def StoresBad (who : Nat) (k k' : Package) (ps : List Nat) (bs : List Byte) (bad : Nat → Prop) : Prop :=
  ∃ k'', Stores who k k'' ps bs ∧ (∃ b, k' = { k'' with memBad := b }) ∧
    ∀ w, w ∈ k'.memBad ↔ (∃ i, ∃ h : i < ps.length, bad i ∧ ps[i] / 8 = w) ∨ w ∈ k''.memBad

/-- R425: an error log after an entry has been written: a ring of 256, in which a correctable error like the newest is counted there. -/
def LogTakes (l l' : ErrorLog) (e : LogEntry) : Prop :=
  let like := fun (x : LogEntry) => e.count = 1 ∧ x.kind = e.kind ∧ x.unit = e.unit ∧ x.addr = e.addr
  (l.entries = [] → l.index = 0 → l' = { l with entries := [e], index := 1 }) ∧
  (∀ pre x, l.entries = pre ++ [x] → l.index = pre.length + 1 → l.index ≤ 256 → like x →
    l' = { l with entries := pre ++ [{ x with count := if x.count = 0xFFFF then 0xFFFF else x.count + 1 }] }) ∧
  (∀ pre x, l.entries = pre ++ [x] → l.index = pre.length + 1 → l.index < 256 → ¬ like x →
    l' = { l with entries := l.entries ++ [e], index := l.index + 1 }) ∧
  (256 ≤ l.index → l.entries.length = 256 → (∀ x, l.entries[(l.index + 255) % 256]? = some x → ¬ like x) →
    l' = { entries := l.entries.set (l.index % 256) e, index := l.index + 1, overflow := l.overflow + 1 })

/-- R414, R425: a package after an error has been logged with this KIND, in the package's log or in a partition's, which has its
message. -/
def ErrorLogged (k k' : Package) (part : Option Nat) (kind : BitVec 8) : Prop :=
  ∃ unit addr l, let e : LogEntry := ⟨kind, unit, if kind ∈ [1, 3, 5, 7, 8, 9] then 1 else 0, addr, k.time.setWidth 64⟩
    (part = none → LogTakes k.log l e ∧ k' = { k with log := l }) ∧
    ∀ p, part = some p → LogTakes (partOf k p).log l e ∧ k' = raiseVector p 27 (setPart k p { partOf k p with log := l })

/-- R425: the partition whose errors a core's are, and the one whose memory an address is: the first of these, or none. -/
def LogOf (part : Option Nat) (holds : Nat → Prop) : Prop :=
  (part = none ∧ ∀ p < 16, ¬ holds p) ∨ ∃ p < 16, part = some p ∧ holds p ∧ ∀ q < p, ¬ holds q

/-- R226, R355: a core one of whose stores has an entry marked (0 x, 1 a, 2 v, 3 tiles, 4 banks, 5 table slots, 6 streams). -/
def StoreMarked (c c' : Core) (file n : Nat) : Prop :=
  (file = 0 → c' = { c with xBad := setBit c.xBad n true }) ∧ (file = 1 → c' = { c with aBad := setBit c.aBad n true }) ∧
  (file = 2 → c' = { c with vBad := setBit c.vBad n true }) ∧ (file = 3 → c' = { c with tileBad := setBit c.tileBad n true }) ∧
  (file = 4 → c' = { c with bankBad := setBit c.bankBad n true }) ∧
  (file = 5 → c' = { c with dslotBad := setBit c.dslotBad n true }) ∧
  (file = 6 → c' = { c with streamBad := setBit c.streamBad n true })

/-- R409: a host's read of 64 bits at offset `o` of package control space, and of the window of partition `p`. -/
def ReadsControl (o : Nat) (r : HostReg) : Prop := r.op = .read ∧ r.wide = true ∧ Control o { r with op := .write }
def ReadsWindow (p o : Nat) (r : HostReg) : Prop := r.op = .read ∧ r.wide = true ∧ Window p o { r with op := .write }

/-- R409 to R411: what a read of 64 bits finds: registers of package control space, and of the window of a partition. -/
def controlRead (k : Package) : List (Nat × BitVec 64) :=
  [(0x20400, k.mhold.setWidth 64), (0x40000, k.pnode.setWidth 64), (0x40008, k.ptbound.setWidth 64), (0x50000, k.qown.setWidth 64),
    (0x60010, k.pwrlim.setWidth 64), (0x60018, BitVec.ofNat 64 (k.power.toNat % 4096 + 4096 * k.duty)),
    (0x60020, k.clksel.setWidth 64), (0x60030, BitVec.ofNat 64 k.supcap),
    (0x60028, BitVec.ofNat 64 (k.tmax.toNat + 256 * k.warn.toNat + 65536 * k.warned.toNat))] ++
  (List.range 16).flatMap fun n =>
    let p := partOf k n
    let m := migrationOf k n
    let o := portOf k n
    [(0x100 * n, BitVec.ofNat 64 (p.frames.toNat + 65536 * p.ports.toNat + 2 ^ 32 * p.en.toNat)),
      (0x100 * n + 8, p.pmiss.setWidth 64), (0x20018 + 0x40 * n, m.p.setWidth 64),
      (0x20020 + 0x40 * n, BitVec.ofNat 64 (m.en.toNat + 2 * m.done.toNat)),
      (0x40108 + 16 * n, BitVec.ofNat 64
        (o.up.toNat + 2 * o.terr.toNat + 4 * o.regr.toNat + 256 * o.lanes.toNat + 65536 * o.misr.toNat))]
def windowRead (p : Partition) : List (Nat × BitVec 64) :=
  [(0x000, p.ptroot), (0x008, p.tlbiva), (0x018, BitVec.ofNat 64 p.tlbiBusy.toNat), (0x100, p.sage.setWidth 64),
    (0x200, BitVec.ofNat 64 (p.draining.toNat + 2 * p.stopped.toNat + 4 * (p.wdRing % 8) + 65536 * p.wdForced.toNat +
      2 ^ 32 * p.wdLost.toNat)),
    (0x400, p.imgpa), (0x410, BitVec.ofNat 64 (p.imgCmd.isSome.toNat + 256 * p.imgErr.toNat)), (0x2200, p.mbbase),
    (0x2210, p.mbw.setWidth 64), (0x2218, p.mbrptr), (0x2220, p.ordstall.setWidth 64),
    (0x2228, BitVec.ofNat 64 (p.stalled.toNat + 2 * (p.stallPort % 32) + 64 * (p.stallCause % 4)))] ++
  ((List.range 8).flatMap fun n =>
    let r := vget p.rings n Ring.reset
    [(0x1010 + 0x40 * n, BitVec.ofNat 64 r.overrun.toNat), (0x1018 + 0x40 * n, r.r.setWidth 64),
      (0x1028 + 0x40 * n, r.limit.setWidth 64)]) ++
  ((List.range 16).map fun n => (0x1410 + 0x20 * n, (vget p.queues n CompQueue.reset).widx.setWidth 64)) ++
  (List.range 4096).map fun n => (0x8000 + 8 * n, counterOf p n)

/-- R301, R399: a core after a copy of its `osend` has been acknowledged by a node. -/
def acked (c : Core) (node serial : Nat) : Core :=
  let g := fun (j : Command) =>
    if j.serial = serial then { j with parts := j.parts.filter fun p => p.toNat != node } else j
  { c with
    c0 := c.c0.map g, c1 := c.c1.map g, dq := c.dq.map g
    bound := c.bound.map fun b => { b with cmd := g b.cmd } }

/-- The machine after the source of a held packet has had its acknowledgement from this node. -/
def senderAcked (s : State) (h : Held) : State :=
  match h.sender with
  | none => s
  | some (n, _, serial) => withCore s n (acked (coreState s n) s.pkg.pnode.toNat serial)

/-! ## Encodings, the invariant and reset -/

/-- What every step keeps: memory and the comb of every core in their canonical form, and the cores that are listed in order, each
once. -/
def Canonical (s : State) : Prop :=
  Memory.wf s.pkg.mem = true ∧ Memory.wf s.core.comb = true ∧ (∀ x ∈ s.cores, Memory.wf x.2.comb = true) ∧ CoresInOrder s

end Sys2Proof.Claims

section

open Sys2Proof Sys2Proof.Machine Sys2Proof.Claims

/-- R110, R111 (R24 for the bounds): each integer form with two sources runs to a next state on every legal operand under a
true guard, and puts its result in flight; it changes nothing else of the machine.
R114, R115: the immediate forms, `li` and `lic`. -/
def Obligations.IntegerAndImmediateResults : Prop :=
  (∀ (s : State) (d a b : BitVec 6) (l : Lend), Destination d → Source a → Source b → GuardTrue s l →
    ∀ row ∈ intTable, ∃ t, exec (row.1 d a b l) s = .next t ∧ Keeps s t ∧
      ScalarLands s t d (row.2.1 (value s a) (value s b)) (poisoned s a || poisoned s b) 0 row.2.2
        [guardReg l, sourceReg a, sourceReg b]) ∧
  ((∀ (s : State) (d a : BitVec 6) (i : BitVec 11) (l : Option Lend), Destination d → Source a →
    ∀ row ∈ immediateTable, (row.1 d a i l).wf = true → ∃ t, exec (row.1 d a i l) s = .next t ∧ Keeps s t ∧
      ScalarLands s t d (row.2.1 (value s a) (immediate11 i l)) (poisoned s a) 0 row.2.2 [sourceReg a]) ∧
  (∀ (s : State) (d : BitVec 6) (i : BitVec 20), Destination d → ∃ t, exec (.li d i none) s = .next t ∧ Keeps s t ∧
    ScalarLands s t d (i.signExtend 64) false 0 1 []) ∧
  (∀ (s : State) (d : BitVec 6) (i : BitVec 20) (h : Lend), Destination d → ∃ t, exec (.li d i (some h)) s = .next t ∧
    Keeps s t ∧ ScalarLands s t d ((h ++ i).signExtend 64) false 0 1 []) ∧
  (∀ (s : State) (d : BitVec 6) (i : BitVec 20), ReadDestination d → ∃ t, exec (.lic d i none) s = .next t ∧ Keeps s t ∧
    ScalarLands s t d (value s d <<< 20 ||| i.setWidth 64) (poisoned s d) 0 1 [sourceReg d]) ∧
  (∀ (s : State) (d : BitVec 6) (i : BitVec 20) (h : Lend), ReadDestination d →
    ∃ t, exec (.lic d i (some h)) s = .next t ∧ Keeps s t ∧
      ScalarLands s t d (value s d <<< 29 ||| (h ++ i).setWidth 64) (poisoned s d) 0 1 [sourceReg d]))

/-- R112: shifts, rotates and bit fields.
R110: the counts, `bswap`, `sext`, and `sel`, whose guard selects the one operand it reads and which always writes. -/
def Obligations.ShiftFieldAndUnaryResults : Prop :=
  ((∀ (s : State) (d a b : BitVec 6) (l : Lend), Destination d → Source a → Source b → GuardTrue s l →
    ∀ row ∈ shiftTable, ∃ t, exec (row.1 d a b l) s = .next t ∧ Keeps s t ∧
      ScalarLands s t d (row.2 (value s a) (value s b)) (poisoned s a || poisoned s b) 0 1
        [guardReg l, sourceReg a, sourceReg b]) ∧
  (∀ (s : State) (d a b : BitVec 6) (l : Lend), ReadDestination d → Source a → Source b → GuardTrue s l →
    ∃ t r, exec (.bins d a b l) s = .next t ∧ Keeps s t ∧
      ScalarLands s t d r (poisoned s d || poisoned s a || poisoned s b) 0 1
        [guardReg l, sourceReg a, sourceReg b, sourceReg d] ∧
      ∀ i < 64,
        let pos := ((value s b).extractLsb' 0 6).toNat
        let n := min ((value s b).extractLsb' 8 7).toNat (64 - pos)
        r.getLsbD i = if pos ≤ i ∧ i < pos + n then (value s a).getLsbD (i - pos) else (value s d).getLsbD i)) ∧
  ((∀ (s : State) (d a : BitVec 6) (l : Lend), Destination d → Source a → GuardTrue s l →
    ∀ row ∈ unaryTable, ∃ t r, exec (row.1 d a l) s = .next t ∧ Keeps s t ∧
      ScalarLands s t d r (poisoned s a) 0 1 [guardReg l, sourceReg a] ∧ row.2 (value s a) r) ∧
  (∀ (s : State) (d a w : BitVec 6) (l : Lend), Destination d → Source a → w.toNat ≤ 2 → GuardTrue s l →
    ∃ t r, exec (.sext d a w l) s = .next t ∧ Keeps s t ∧ ScalarLands s t d r (poisoned s a) 0 1 [guardReg l, sourceReg a] ∧
      ∀ i < 64, r.getLsbD i = (value s a).getLsbD (min i (8 * 2 ^ w.toNat - 1))) ∧
  (∀ (s : State) (d a b : BitVec 6) (l : Lend), Destination d → Source a → Source b →
    ∀ c, (GuardTrue s l → c = a) → (¬ GuardTrue s l → c = b) →
    ∃ t, exec (.sel d a b l) s = .next t ∧ Keeps s t ∧
      ScalarLands s t d (value s c) (poisoned s c) 0 1 [guardReg l, sourceReg c]))

/-- R113: each compare writes 1 when its condition holds and 0 otherwise. -/
def Obligations.CompareResults : Prop :=
  ∀ (s : State) (d a b : BitVec 6) (l : Lend), Destination d → Source a → Source b → GuardTrue s l →
    ∀ row ∈ compareTable, ∃ t r, exec (row.1 d a b l) s = .next t ∧ Keeps s t ∧
      ScalarLands s t d r (poisoned s a || poisoned s b) 0 1 [guardReg l, sourceReg a, sourceReg b] ∧
      (row.2 (value s a) (value s b) → r = 1) ∧ (¬ row.2 (value s a) (value s b) → r = 0)

/-- R117, R116, R57, R58: the arithmetic forms of SF. -/
def Obligations.FloatArithmeticResults : Prop :=
  (∀ (s : State) (d a b : BitVec 6) (t : BitVec 4) (l : Lend), FloatType t → Destination d → Source a → Source b →
    GuardTrue s l → ∀ row ∈ floatTable, ∃ u, exec (row.1 d a b t l) s = .next u ∧ Keeps s u ∧
      FloatLands s u d (row.2.1 (floatLayout s t) (roundsBy s) (number s t a) (number s t b))
        (poisoned s a || poisoned s b) (row.2.2 t) [guardReg l, sourceReg a, sourceReg b]) ∧
  (∀ (s : State) (d a b : BitVec 6) (t : BitVec 4) (l : Lend), FloatType t → ReadDestination d → Source a → Source b →
    GuardTrue s l → ∃ u, exec (.fma d a b t l) s = .next u ∧ Keeps s u ∧
      FloatLands s u d (fmaOp (floatLayout s t) (roundsBy s) false (number s t a) (number s t b) (number s t d))
        (poisoned s a || poisoned s b || poisoned s d) (if t = 9 then 5 else 4)
        [guardReg l, sourceReg a, sourceReg b, sourceReg d]) ∧
  (∀ (s : State) (d a : BitVec 6) (t : BitVec 4) (l : Lend), FloatType t → Destination d → Source a → GuardTrue s l →
    ∃ u, exec (.fsqrt d a t l) s = .next u ∧ Keeps s u ∧
      FloatLands s u d (sqrtOp (floatLayout s t) (roundsBy s) (number s t a)) (poisoned s a) 16
        [guardReg l, sourceReg a])

/-- R118, R119, R120: minimum, maximum, the sign forms, the compares and the class word. None of them rounds.
R121, R44, R59, R122: the conversions of SF. `fcvti` takes its mode from its literal. -/
def Obligations.FloatPickCompareAndConversion : Prop :=
  (∀ (s : State) (d a b : BitVec 6) (t : BitVec 4) (l : Lend), FloatType t → Destination d → Source a → Source b →
    GuardTrue s l →
    (∀ row ∈ [((Instr.fmin : BitVec 6 → BitVec 6 → BitVec 6 → BitVec 4 → Lend → Instr), true), (.fmax, false)],
      ∃ u, exec (row.1 d a b t l) s = .next u ∧ Keeps s u ∧
        let r := picks row.2 (floatLayout s t) (pattern s t a) (pattern s t b)
        ScalarLands s u d (BitVec.ofNat 64 r.bits) (poisoned s a || poisoned s b) r.flags 2
          [guardReg l, sourceReg a, sourceReg b]) ∧
    (∀ row ∈ signTable, ∃ u, exec (row.1 d a t l) s = .next u ∧ Keeps s u ∧
      ScalarLands s u d
        (if t = 0 then row.2.1 (value s a) else if t = 1 then (row.2.2.1 ((value s a).setWidth 32)).setWidth 64
          else (row.2.2.2 ((value s a).setWidth 32)).setWidth 64)
        (poisoned s a) 0 2 [guardReg l, sourceReg a]) ∧
    (∀ row ∈ floatCompareTable, ∃ u, exec (row.1 d a b t l) s = .next u ∧ Keeps s u ∧
      let x := number s t a
      let y := number s t b
      let holds := if t = 9 then row.2.2.2 ((value s a).setWidth 32) ((value s b).setWidth 32) else row.2.1 x y
      ScalarLands s u d (if holds then 1 else 0) (poisoned s a || poisoned s b)
        (if t ≠ 9 ∧ row.2.2.1 x y = true then 1 else 0) 2 [guardReg l, sourceReg a, sourceReg b]) ∧
    (∃ u, exec (.fclass d a t l) s = .next u ∧ Keeps s u ∧
      let v := value s a
      let k :=
        if t = 0 then classBit 11 52 v.msb (v.extractLsb' 52 11).toNat (v.extractLsb' 0 52).toNat
        else if t = 1 then classBit 8 23 (v.getLsbD 31) (v.extractLsb' 23 8).toNat (v.extractLsb' 0 23).toNat
        else if v.setWidth 32 = (0x80000000#32) then 9 else if v.setWidth 32 = (0#32) then 4
        else if v.getLsbD 31 then 1 else 6
      ScalarLands s u d (BitVec.ofNat 64 (2 ^ k)) (poisoned s a) 0 2 [guardReg l, sourceReg a])) ∧
  ((∀ (s : State) (d a u : BitVec 6) (t : BitVec 4) (l : Lend), FloatType t → FloatType (u.setWidth 4) → u.toNat < 16 →
    Destination d → Source a → GuardTrue s l → ∃ v, exec (.fcvt d a u t l) s = .next v ∧ Keeps s v ∧
      let n := number s t a
      let r : Rounded :=
        if u.setWidth 4 ≠ t then roundNum (floatLayout s (u.setWidth 4)) s.before.rm false (roundsBy s).r n
        else if n.signals then
          { bits := pattern s t a + (if t = 0 then 2 ^ 51 else 2 ^ 22), flags := 1 }
        else { bits := pattern s t a, flags := 0 }
      FloatLands s v d r (poisoned s a) 3 [guardReg l, sourceReg a]) ∧
  (∀ (s : State) (d a : BitVec 6) (t : BitVec 4) (l : Lend), FloatType t → Destination d → Source a → GuardTrue s l →
    ∃ v, exec (.fcvtf d a t l) s = .next v ∧ Keeps s v ∧
      let x := (value s a).toInt
      FloatLands s v d (roundNum (floatLayout s t) s.before.rm false (roundsBy s).r (.fin (x < 0) x.natAbs 0))
        (poisoned s a) 3 [guardReg l, sourceReg a]) ∧
  (∀ (s : State) (d a m : BitVec 6) (t : BitVec 4) (l : Lend), FloatType t → m.toNat < 8 →
    ¬ Stochastic (m.setWidth 3) → Destination d → Source a → GuardTrue s l →
    ∃ v, exec (.fcvti d a m t l) s = .next v ∧ Keeps s v ∧
      let r := roundNum (.int true 64) (m.setWidth 3) false 0 (number s t a)
      ScalarLands s v d (BitVec.ofNat 64 r.bits) (poisoned s a) r.flags 3 [guardReg l, sourceReg a]) ∧
  (∀ (s : State) (d a m : BitVec 6) (t : BitVec 4) (l : Lend), FloatType t → m.toNat < 8 → Stochastic (m.setWidth 3) →
    (readX s.before 17).poison = false → Destination d → Source a → GuardTrue s l →
    ∃ v, exec (.fcvti d a m t l) s = .next v ∧ Keeps s v ∧
      let r := roundNum (.int true 64) (m.setWidth 3) false
        (gen s.before.srkey s.before.srstep (readX s.before 17).bits) (number s t a)
      ScalarLands s v d (BitVec.ofNat 64 r.bits) (poisoned s a) r.flags 3 [guardReg l, sourceReg a, .x 17]))

/-- R43, R44, R53, R57: what one rounding does. A finite number that binary32 or binary64 holds is its own rounding under every
mode and raises nothing; an integer in range is its own rounding to an integer, and one outside saturates and raises NV. R35 to
R37, R52, R53, R55: every other finite number is rounded by its mode to one of its two neighbours, with its flags; an infinity goes
as R53 has it. R36, R57, R58, R62, R117: a sum, a product, a quotient, a fused product and sum, and a square root are each the one
rounding of the exact value, with the signed zeros, the infinities, the invalid operations and the NaN rules. R59: a NaR operand
gives NaR. -/
def Obligations.RoundingIsExactWhereItCan : Prop :=
  (∀ (y : Layout) (bits : Nat) (rm : BitVec 3) (sat : Bool) (r : Nat), y = .ieee 11 52 ∨ y = .ieee 8 23 →
    bits < 2 ^ y.bits → (decodeNum y bits).isFinite = true → r < 2 ^ 24 →
    roundNum y rm sat r (decodeNum y bits) = { bits := bits, flags := 0 }) ∧
  (∀ (x : Int) (rm : BitVec 3) (sat : Bool) (r : Nat), r < 2 ^ 24 →
    roundNum (.int true 64) rm sat r (.fin (x < 0) x.natAbs 0) =
      if x < -2 ^ 63 then { bits := 2 ^ 63, flags := 1 }
      else if 2 ^ 63 ≤ x then { bits := 2 ^ 63 - 1, flags := 1 }
      else { bits := (BitVec.ofInt 64 x).toNat, flags := 0 }) ∧
  (∀ f ∈ [formatD, formatF, formatBf, formatH, formatE5, formatE4], ∀ (rm : BitVec 3) (sat neg : Bool) (r m : Nat) (e : Int),
    r < 2 ^ 24 →
    (m ≠ 0 → Rounds f rm sat neg r (Fraction f.unit m 1 e) (roundNum f.layout rm sat r (.fin neg m e))) ∧
    (m = 0 → roundNum f.layout rm sat r (.fin neg m e) = zero f neg) ∧
    (sat = true ∨ (f.layout = .e4m3 ∧ (rm = 6 ∨ rm = 7)) →
      roundNum f.layout rm sat r (.inf neg) = { bits := f.sign neg + f.greatest, flags := 16 }) ∧
    (sat = false → ¬ (f.layout = .e4m3 ∧ (rm = 6 ∨ rm = 7)) → roundNum f.layout rm sat r (.inf neg) = infinite f neg)) ∧
  (∀ (signed : Bool) (w : Nat) (rm : BitVec 3) (sat neg : Bool) (r m : Nat) (e : Int), w = 8 ∨ w = 16 ∨ w = 32 ∨ w = 64 →
    r < 2 ^ 24 → m ≠ 0 → RoundsInt signed w rm neg r (Fraction (-24) m 1 e) (roundNum (.int signed w) rm sat r (.fin neg m e))) ∧
  (∀ f ∈ [formatD, formatF, formatBf, formatH], ∀ (i : RoundIn), i.r < 2 ^ 24 →
    let y := f.layout
    (∀ (n n' : Bool) (m m' : Nat) (e e' : Int),
      SumRounds f i n m e n' m' e' (addOp y i (.fin n m e) (.fin n' m' e')) ∧
      SumRounds f i n m e (!n') m' e' (subOp y i (.fin n m e) (.fin n' m' e')) ∧
      (m * m' ≠ 0 → Rounds f i.rm false (n != n') i.r (Fraction f.unit (m * m') 1 (e + e'))
        (mulOp y i (.fin n m e) (.fin n' m' e'))) ∧
      (m * m' = 0 → mulOp y i (.fin n m e) (.fin n' m' e') = zero f (n != n')) ∧
      (m ≠ 0 → m' ≠ 0 → Rounds f i.rm false (n != n') i.r (Fraction f.unit m m' (e - e'))
        (divOp y i (.fin n m e) (.fin n' m' e'))) ∧
      (m = 0 → m' ≠ 0 → divOp y i (.fin n m e) (.fin n' m' e') = zero f (n != n')) ∧
      (m ≠ 0 → m' = 0 → divOp y i (.fin n m e) (.fin n' m' e') = { infinite f (n != n') with flags := 2 }) ∧
      (m = 0 → m' = 0 → divOp y i (.fin n m e) (.fin n' m' e') = invalid f) ∧
      (∀ (c : Bool) (j : Nat) (g : Int),
        SumRounds f i (n != n') (m * m') (e + e') c j g (fmaOp y i false (.fin n m e) (.fin n' m' e') (.fin c j g))) ∧
      (m ≠ 0 → n = false → Rounds f i.rm false false i.r (Root f.unit m e) (sqrtOp y i (.fin n m e))) ∧
      (m = 0 → sqrtOp y i (.fin n m e) = zero f n) ∧ (m ≠ 0 → n = true → sqrtOp y i (.fin n m e) = invalid f) ∧
      addOp y i (.inf n) (.inf n') = (if n = n' then infinite f n else invalid f) ∧
      addOp y i (.inf n) (.fin n' m' e') = infinite f n ∧ addOp y i (.fin n m e) (.inf n') = infinite f n' ∧
      subOp y i (.inf n) (.inf n') = (if n = n' then invalid f else infinite f n) ∧
      subOp y i (.inf n) (.fin n' m' e') = infinite f n ∧ subOp y i (.fin n m e) (.inf n') = infinite f (!n') ∧
      mulOp y i (.inf n) (.inf n') = infinite f (n != n') ∧
      mulOp y i (.inf n) (.fin n' m' e') = (if m' = 0 then invalid f else infinite f (n != n')) ∧
      mulOp y i (.fin n m e) (.inf n') = (if m = 0 then invalid f else infinite f (n != n')) ∧
      divOp y i (.inf n) (.inf n') = invalid f ∧ divOp y i (.inf n) (.fin n' m' e') = infinite f (n != n') ∧
      divOp y i (.fin n m e) (.inf n') = zero f (n != n') ∧
      sqrtOp y i (.inf n) = (if n then invalid f else infinite f false)) ∧
    (∀ a b c : Nat, a < 2 ^ y.bits → b < 2 ^ y.bits → c < 2 ^ y.bits →
      let x := decodeNum y a
      let z := decodeNum y b
      let u := decodeNum y c
      (∀ op ∈ [addOp y i, subOp y i, mulOp y i, divOp y i],
        (NanPattern f a → IsQuiet f a (Signals f a ∨ Signals f b) (op x z)) ∧
        (¬ NanPattern f a → NanPattern f b → IsQuiet f b (Signals f b) (op x z))) ∧
      (NanPattern f a → IsQuiet f a (Signals f a) (sqrtOp y i x)) ∧
      (NanPattern f a → IsQuiet f a (Signals f a ∨ Signals f b ∨ Signals f c) (fmaOp y i false x z u)) ∧
      (¬ NanPattern f a → NanPattern f b → IsQuiet f b (Signals f b ∨ Signals f c) (fmaOp y i false x z u)) ∧
      (¬ NanPattern f a → ¬ NanPattern f b → NanPattern f c →
        let undefined := (∃ n k e, x = .inf n ∧ z = .fin k 0 e) ∨ (∃ n k e, z = .inf n ∧ x = .fin k 0 e)
        IsQuiet f c (undefined ∨ Signals f c) (fmaOp y i false x z u)) ∧
      (¬ NanPattern f c → (∃ n k e, x = .inf n ∧ z = .fin k 0 e) ∨ (∃ n k e, z = .inf n ∧ x = .fin k 0 e) →
        fmaOp y i false x z u = invalid f))) ∧
  (∀ (es : Nat) (i : RoundIn) (x : Machine.Num), ∀ op ∈ [addOp, subOp, mulOp, divOp],
    op (.taper 32 es) i .nar x = { bits := 0x80000000, flags := 0 } ∧ op (.taper 32 es) i x .nar = { bits := 0x80000000, flags := 0 })

/-- R70: a false guard suppresses a scalar form, which still shifts its chain if it pushes.
R72, R100, R108: an operand code that R72 or the form does not admit is an illegal-operand fault, whatever the guard. -/
def Obligations.GuardsAndIllegalOperands : Prop :=
  (∀ (s : State) (l : Lend), ¬ GuardTrue s l →
    (∀ d a b, Destination d → Source a → Source b → ∀ row ∈ guardedForms,
      Suppresses s (row.1 d a b l) l (d = 32) row.2) ∧
    (∀ d a, Destination d → Source a → ∀ row ∈ unaryTable, Suppresses s (row.1 d a l) l (d = 32) 1) ∧
    (∀ d a w, Destination d → Source a → Suppresses s (.sext d a w l) l (d = 32) 1) ∧
    (∀ d a b, ReadDestination d → Source a → Source b → Suppresses s (.bins d a b l) l false 1) ∧
    (∀ d a b t, Destination d → Source a → Source b → ∀ row ∈ guardedFloats,
      Suppresses s (row.1 d a b t l) l (d = 32) (row.2 t)) ∧
    (∀ d a t, Destination d → Source a → ∀ row ∈ guardedFloats2, Suppresses s (row.1 d a t l) l (d = 32) row.2) ∧
    (∀ d a u t, Destination d → Source a → Suppresses s (.fcvt d a u t l) l (d = 32) 3 ∧
      Suppresses s (.fcvti d a u t l) l (d = 32) 3) ∧
    (∀ d a b t, ReadDestination d → Source a → Source b → Suppresses s (.fma d a b t l) l false 5) ∧
    (∀ r c z x i, Destination r → Source x → Suppresses s (.ldcIndexed r c z x i l) l (r = 32) 3 ∧
      Suppresses s (.ldcxIndexed r c z x i l) l (r = 32) 3) ∧
    (∀ r c z x i, Source r → Source x → Suppresses s (.stcIndexed r c z x i l) l false 1) ∧
    (∀ r h z x i, Destination r → Source x → Suppresses s (.ldIndexed r h z x i l) l (r = 32) 64 ∧
      Suppresses s (.ldxIndexed r h z x i l) l (r = 32) 64 ∧ Suppresses s (.ldSIndexed r h z x i l) l (r = 32) 64) ∧
    (∀ r h z x i, Source r → Source x → Suppresses s (.stIndexed r h z x i l) l false 1) ∧
    (∀ a y x k, Source a → Suppresses s (.post a y x k l) l true 4) ∧
    (∀ g c k, Suppresses s (.endTask l) l false 1 ∧ Suppresses s (.gbar g l) l false 1 ∧
      Suppresses s (.wait c l) l false 1 ∧ Suppresses s (.trap k l) l false 1 ∧ Suppresses s (.brk k l) l false 1) ∧
    (∀ r n, Assigned s n.toNat → (Destination r → Suppresses s (.mfsr r n l) l (r = 32) 2) ∧
      (Source r → Suppresses s (.mtsr r n l) l false 1))) ∧
  ((∀ (s : State) (d a b : BitVec 6) (l : Lend), ¬ (Destination d ∧ Source a ∧ Source b) →
    (∀ row ∈ guardedForms, RefusesOperand s (row.1 d a b l) [guardReg l]) ∧
    (∀ t, ∀ row ∈ guardedFloats, RefusesOperand s (row.1 d a b t l) [guardReg l]) ∧
    RefusesOperand s (.sel d a b l) [guardReg l]) ∧
  (∀ (s : State) (d a b : BitVec 6) (t : BitVec 4) (l : Lend), ¬ (ReadDestination d ∧ Source a ∧ Source b) →
    RefusesOperand s (.bins d a b l) [guardReg l] ∧ RefusesOperand s (.fma d a b t l) [guardReg l]) ∧
  (∀ (s : State) (d a : BitVec 6) (l : Lend), ¬ (Destination d ∧ Source a) →
    (∀ row ∈ unaryTable, RefusesOperand s (row.1 d a l) [guardReg l]) ∧
    (∀ t, ∀ row ∈ guardedFloats2, RefusesOperand s (row.1 d a t l) [guardReg l]) ∧
    (∀ i k, ∀ row ∈ immediateTable, RefusesOperand s (row.1 d a i k) [])) ∧
  (∀ (s : State) (d : BitVec 6) (i : BitVec 20) (k : Option Lend), (¬ Destination d → RefusesOperand s (.li d i k) []) ∧
    (¬ ReadDestination d → RefusesOperand s (.lic d i k) [])) ∧
  (∀ (s : State) (r : BitVec 6) (n : BitVec 12) (l : Lend), sysAssigned (s.here == queenCore) n.toNat = false →
    RefusesOperand s (.mfsr r n l) [guardReg l] ∧ RefusesOperand s (.mtsr r n l) [guardReg l]))

/-- R123, R124, R125, R127: what each transfer leaves for the bundles that follow; a poisoned target of `jr` or `ret` is
consumed. R28: `loop`. -/
def Obligations.TransferAndLoopResults : Prop :=
  ((∀ (s : State) (o : BitVec 23), ∃ t, exec (.br o) s = .next t ∧ Keeps s t ∧
    Transfers s t true (s.before.pc + o.extractLsb' 0 12) [] ∧ Notes s t [] []) ∧
  (∀ (s : State) (p : BitVec 3) (n : Bool) (o : BitVec 23), ∃ t taken, exec (.brc p n o) s = .next t ∧ Keeps s t ∧
    (taken = true ↔ readP s.before p.toNat ≠ n) ∧
    Transfers s t taken (s.before.pc + o.extractLsb' 0 12) [] ∧ Notes s t [.pred p.toNat] []) ∧
  (∀ (s : State) (k : BitVec 12) (l : Lend), GuardTrue s l → ∃ t, exec (.call k l) s = .next t ∧ Keeps s t ∧
    Transfers s t true k [resultOf s (.x 31) (s.before.pc + 4).toNat false 0 1 none] ∧ Notes s t [guardReg l] []) ∧
  (∀ (s : State) (a : BitVec 6) (l : Lend), Source a → poisoned s a = false → GuardTrue s l →
    (∃ t, exec (.jr a l) s = .next t ∧ Keeps s t ∧ Transfers s t true ((value s a).extractLsb' 0 12) [] ∧
      Notes s t [guardReg l, sourceReg a] []) ∧
    (a = 31 → ∃ t, exec (.ret l) s = .next t ∧ Keeps s t ∧ Transfers s t true ((value s a).extractLsb' 0 12) [] ∧
      Notes s t [guardReg l, sourceReg a] [])) ∧
  (∀ (s : State) (a : BitVec 6) (l : Lend), GuardTrue s l →
    (Source a → poisoned s a = true →
      (∃ t, exec (.jr a l) s = .next t ∧ Keeps s t ∧ Notes s t [guardReg l, sourceReg a] [slotFault s 0x16 0]) ∧
      (a = 31 → ∃ t, exec (.ret l) s = .next t ∧ Keeps s t ∧ Notes s t [guardReg l, sourceReg a] [slotFault s 0x16 0])) ∧
    (¬ Source a → ∃ t, exec (.jr a l) s = .next t ∧ Keeps s t ∧ Notes s t [guardReg l] [slotFault s 0x03 0])) ∧
  (∀ (s : State) (a : BitVec 6) (k : BitVec 12) (l : Lend), Source a → ¬ GuardTrue s l →
    ∀ i ∈ [Instr.call k l, .ret l, .jr a l], ∃ t, exec i s = .next t ∧ Keeps s t ∧ Transfers s t false 0 [] ∧
      Notes s t [guardReg l] []) ∧
  (∀ (s : State) (a : BitVec 6) (o : BitVec 15), Source a → ∃ t, exec (.chk a o) s = .next t ∧ Keeps s t ∧
    Transfers s t (poisoned s a) (s.before.pc + o.extractLsb' 0 12) [] ∧ Notes s t [sourceReg a] []) ∧
  (∀ (s : State) (v : BitVec 6) (o : BitVec 15), ∃ t, exec (.chkv v o) s = .next t ∧ Keeps s t ∧
    Transfers s t (poisonV s.before v.toNat) (s.before.pc + o.extractLsb' 0 12) [] ∧ Notes s t [.v v.toNat] [])) ∧
  (∀ (s : State) (a : BitVec 6) (e : BitVec 12), Source a →
    (s.before.lc ≠ 0 ∨ e = 0 →
      Faults s (.loop a e) 0x02 (s.before.pc.setWidth 64) [sourceReg a]) ∧
    (s.before.lc = 0 → e ≠ 0 → poisoned s a = true → Faults s (.loop a e) 0x16 0 [sourceReg a]) ∧
    (s.before.lc = 0 → e ≠ 0 → poisoned s a = false → value s a = 0 →
      OnlyNotes s (.loop a e) { readNoted s [sourceReg a] with nextPc := some (s.before.pc + e + 1) }) ∧
    (s.before.lc = 0 → e ≠ 0 → poisoned s a = false → value s a ≠ 0 →
      exec (.loop a e) s = .next { s with
        issue := readNoted s [sourceReg a]
        core := { s.core with lc := value s a, lps := s.before.pc + 1, lpe := s.before.pc + e } }))

/-- R128 to R130, R215, R219, R220, R291: the SC forms whose effect comes with the commit of their bundle. R204, R366:
`post` reads its card from the comb, never blocks, and pushes its status at bound 4. The card goes to its queue when the
status is 0. On the queen core the model refuses the frame queue and takes the local one (log entry 10). It is the model's
choice where the spec leaves the point open: log entries 10 and 48. -/
def Obligations.TaskAndPostResults : Prop :=
  ((∀ (s : State), exec .nop s = .next s) ∧
  (∀ (s : State) (m : BitVec 9),
    OnlyNotes s (.safe m) { s.issue with safe := some ((s.issue.safe.getD 0) ||| m) } ∧
    OnlyNotes s (.yield m) { s.issue with yield := some ((s.issue.yield.getD 0) ||| m) }) ∧
  (∀ (s : State) (l : Lend) (g : BitVec 2) (c : BitVec 6) (k : BitVec 15), GuardTrue s l →
    OnlyNotes s (.endTask l) { readNoted s [guardReg l] with ends := true } ∧
    (cardGroup (taskCard s.before) g.toNat = 0 → Faults s (.gbar g l) 0x1A 0 [guardReg l]) ∧
    (cardGroup (taskCard s.before) g.toNat ≠ 0 →
      OnlyNotes s (.gbar g l) { readNoted s [guardReg l] with
        hold := s.issue.hold ++ [.barrier (cardGroup (taskCard s.before) g.toNat)]
        posts := s.issue.posts ++ [.arrival (cardGroup (taskCard s.before) g.toNat)] }) ∧
    ((cell s c.toNat).state = .absent → Faults s (.wait c l) 0x06 (c.setWidth 64) [guardReg l]) ∧
    ((cell s c.toNat).state ≠ .absent →
      OnlyNotes s (.wait c l) { readNoted s [guardReg l] with hold := s.issue.hold ++ [.cell c.toNat s.before.pc] }) ∧
    Faults s (.trap k l) 0x13 (k.setWidth 64) [guardReg l] ∧
    (s.before.reliefSlots.getLsbD s.issue.slot = false → Faults s (.brk k l) 0x14 (k.setWidth 64) [guardReg l]) ∧
    (s.before.reliefSlots.getLsbD s.issue.slot = true → OnlyNotes s (.brk k l) (readNoted s [guardReg l])))) ∧
  (∀ (s : State) (a y x : BitVec 6) (k : BitVec 2) (l : Lend), Source a → GuardTrue s l → poisoned s a = false →
    ∀ off n, off = (value s a).toNat → off % 64 = 0 → off ≤ 0x3FF00 →
    cellHolding s.before off 256 = some n → CellUntouched s n →
    (cell s n).state = .full ∨ (cell s n).state = .draining → TagPasses s n →
    ¬ CombBad s off 256 →
    ∃ t st, exec (.post a y x k l) s = .next t ∧ Keeps s t ∧ Pushes (checkCleared s n) t st false 0 4 none ∧
      let card : List XWord := (List.range 32).map fun i => BitVec.ofNat 64 (littleEndian (combBytes s (off + 8 * i) 8))
      let p := partOf s.pkg (taskPart s.before)
      let queue : Option Origin :=
        if k = 0 then some (.localQueue s.here)
        else if k = 1 then (neighbourIn s.pkg (taskPart s.before) s.here x.toInt y.toInt).map .localQueue
        else if k = 2 then (if s.here = 4096 then none else some (.frameQueue (s.here / 64 / 16 * 4 + s.here % 64 / 16)))
        else some .partitionQueue
      (st = if p.draining ∨ p.stopped then 1
        else match queue with
          | none => 2
          | some q => if (card.getD 1 0).getLsbD 14 then 2 else if queueFull p q then 1 else 0) ∧
      t.issue = { readNoted s [guardReg l, sourceReg a] with
        waits := s.issue.waits ++ combWaits s off 256 false
        posts := s.issue.posts ++ (match queue with | some q => if st = 0 then [.card card q] else [] | none => []) })

/-- R133 to R135: the loads of SCM. R133, R134, R136: the stores of SCM. R134, R230, R232: the checks of a comb access in
order: poison, the cell's state, the bounds and alignment, the tag of a load; a resumed bundle passes the tag check it
stopped on. It is the model's choice where the spec leaves the point open: log entry 45. -/
def Obligations.CombAccessResults : Prop :=
  (∀ (s : State) (r c : BitVec 6) (z : BitVec 2), Destination r → CellUntouched s c.toNat →
    (∀ (i : BitVec 10) (l : Option Lend), MayLoad s c.toNat (immediateOffset i l z) (2 ^ z.toNat) (2 ^ z.toNat) →
      CombLoads s (.ldcImm r c z i l) false r c z (immediateOffset i l z) [] ∧
      CombLoads s (.ldcxImm r c z i l) true r c z (immediateOffset i l z) []) ∧
    (∀ (x : BitVec 6) (i : BitVec 4) (l : Lend), Source x → GuardTrue s l → poisoned s x = false →
      MayLoad s c.toNat (indexedAt s x i z) (2 ^ z.toNat) (2 ^ z.toNat) →
      CombLoads s (.ldcIndexed r c z x i l) false r c z (indexedAt s x i z) [guardReg l, sourceReg x] ∧
      CombLoads s (.ldcxIndexed r c z x i l) true r c z (indexedAt s x i z) [guardReg l, sourceReg x])) ∧
  (∀ (s : State) (r c : BitVec 6) (z : BitVec 2), Source r → poisoned s r = false → Memory.wf s.core.comb = true →
    (∀ (i : BitVec 10) (l : Option Lend), MayStore s c.toNat (immediateOffset i l z) (2 ^ z.toNat) (2 ^ z.toNat) →
      CombStores s (.stcImm r c z i l) r c z (immediateOffset i l z) [sourceReg r]) ∧
    (∀ (x : BitVec 6) (i : BitVec 4) (l : Lend), Source x → GuardTrue s l → poisoned s x = false →
      MayStore s c.toNat (indexedAt s x i z) (2 ^ z.toNat) (2 ^ z.toNat) →
      CombStores s (.stcIndexed r c z x i l) r c z (indexedAt s x i z) [guardReg l, sourceReg x, sourceReg r])) ∧
  (∀ (s : State) (r c : BitVec 6) (z : BitVec 2),
    (∀ (i : BitVec 10) (k : Option Lend), Destination r →
      ∀ form ∈ [Instr.ldcImm r c z i k, .ldcxImm r c z i k], LoadTurnedAway s form c z (immediateOffset i k z) []) ∧
    (∀ (x : BitVec 6) (i : BitVec 4) (l : Lend), Destination r → Source x → GuardTrue s l →
      ∀ form ∈ [Instr.ldcIndexed r c z x i l, .ldcxIndexed r c z x i l],
        (poisoned s x = true → Faults s form 0x16 0 [guardReg l, sourceReg x]) ∧
        (poisoned s x = false → LoadTurnedAway s form c z (indexedAt s x i z) [guardReg l, sourceReg x])) ∧
    (∀ (i : BitVec 10) (k : Option Lend), Source r →
      (poisoned s r = true → Faults s (.stcImm r c z i k) 0x16 0 [sourceReg r]) ∧
      (poisoned s r = false → StoreTurnedAway s (.stcImm r c z i k) c z (immediateOffset i k z) [sourceReg r])) ∧
    (∀ (x : BitVec 6) (i : BitVec 4) (l : Lend), Source r → Source x → GuardTrue s l →
      (poisoned s x = true → Faults s (.stcIndexed r c z x i l) 0x16 0 [guardReg l, sourceReg x]) ∧
      (poisoned s x = false → poisoned s r = true →
        Faults s (.stcIndexed r c z x i l) 0x16 0 [guardReg l, sourceReg x, sourceReg r]) ∧
      (poisoned s x = false → poisoned s r = false →
        StoreTurnedAway s (.stcIndexed r c z x i l) c z (indexedAt s x i z) [guardReg l, sourceReg x, sourceReg r])))

/-- Every syllable, whatever its operands, runs to a next state that keeps all the machine but the core in issue and the
record of its bundle (R15), and of that core it leaves the registers, the tiles and banks, the flags and special registers,
the pc and the counters, the image, the task and the stop as they are: they change when results land and bundles commit. It
is the model's choice where the spec leaves the point open: log entry 1. -/
def Obligations.SyllablesChangeNoRegister : Prop :=
  ∀ (i : Instr) (s : State), encode i ≠ none → ∃ t, exec i s = .next t ∧ Keeps s t ∧
    t.core.x = s.core.x ∧ t.core.xPoison = s.core.xPoison ∧ t.core.p = s.core.p ∧ t.core.v = s.core.v ∧
    t.core.vPoison = s.core.vPoison ∧ t.core.m = s.core.m ∧ t.core.t = s.core.t ∧ t.core.latches = s.core.latches ∧
    t.core.xBad = s.core.xBad ∧ t.core.vBad = s.core.vBad ∧ t.core.tileBad = s.core.tileBad ∧ t.core.bankBad = s.core.bankBad ∧
    t.core.banks = s.core.banks ∧ t.core.fflags = s.core.fflags ∧ t.core.rm = s.core.rm ∧ t.core.srkey = s.core.srkey ∧
    t.core.srstep = s.core.srstep ∧ t.core.tes = s.core.tes ∧ t.core.tg = s.core.tg ∧ t.core.tpitch = s.core.tpitch ∧
    t.core.dm = s.core.dm ∧ t.core.cstride0 = s.core.cstride0 ∧ t.core.cstride1 = s.core.cstride1 ∧
    t.core.cidx = s.core.cidx ∧ t.core.bind0 = s.core.bind0 ∧ t.core.bind1 = s.core.bind1 ∧
    t.core.skew0 = s.core.skew0 ∧ t.core.skew1 = s.core.skew1 ∧ t.core.nve = s.core.nve ∧ t.core.qoe = s.core.qoe ∧
    t.core.strict = s.core.strict ∧ t.core.check = s.core.check ∧ t.core.pc = s.core.pc ∧ t.core.cyc = s.core.cyc ∧
    t.core.frz = s.core.frz ∧ t.core.clk = s.core.clk ∧ t.core.mclk = s.core.mclk ∧ t.core.imem = s.core.imem ∧
    t.core.overlays = s.core.overlays ∧ t.core.mode = s.core.mode ∧ t.core.task = s.core.task ∧
    t.core.stop = s.core.stop ∧ t.core.record = s.core.record ∧ t.core.trap = s.core.trap ∧ t.core.hold = s.core.hold

/-- One step of the machine: the oldest input from outside if the package takes it, else it is lost; with none, the next
event of the package cycle, each as the instruction of its name; with none left, the start of the next cycle, which leaves the
cores and memory as they are where no error is found by then. A package that has not booted has no cycles (R421). It is the
model's choice where the spec leaves the point open: log entries 1 and 55. -/
def Obligations.StepTakesTheNextThing : Prop :=
  (∀ (s : State) (i : Instr) (rest : List Instr), s.inputs = i :: rest →
    (takesInput s.pkg i = true → Machine.step s = exec i { s with inputs := rest }) ∧
    (takesInput s.pkg i = false → Machine.step s = .next { s with inputs := rest })) ∧
  (∀ (s : State) (d : DeviceStep) (rest : List DeviceStep), s.inputs = [] → s.agenda = d :: rest →
    ∃ i, EventIs i d ∧ Machine.step s = exec i { s with agenda := rest }) ∧
  (∀ (s : State), s.inputs = [] → s.agenda = [] →
    (s.pkg.booted = false → Machine.step s = .next s) ∧
    (s.pkg.booted = true → ∃ t, Machine.step s = .next t ∧ t.pkg.cycle = s.pkg.cycle + 1 ∧ t.inputs = [] ∧ t.here = s.here ∧
      ((∀ u ∈ s.pkg.upsets, s.pkg.cycle + 1 < u.1) →
        t.core = s.core ∧ t.cores = s.cores ∧ t.pkg.mem = s.pkg.mem ∧ t.pkg.memBad = s.pkg.memBad)))

/-- R10, R11, R15: where nothing keeps the core in issue from issuing, a step runs the instructions that the syllables of the
bundle at its pc decode to, in syllable order, each by its own meaning, and then the bundle waits, stops or commits; no other
core changes. The step of another core is that of the machine with that core in issue. R14, R21, R183, R204, R215, R219, R220:
the faults of its slots and of the schedule, and the commit of a bundle with posts, arrivals, an `end` or a safe point, are what
the words of the claims say. It is the model's choice where the spec leaves the point open: log entries 1, 10 and 59. -/
def Obligations.StepRunsTheDecodedBundle : Prop :=
  (∀ s : State, Issues s → ∃ t u,
    RunsInOrder (slotsOf (bundleAt s.core)) (issueStart s) t ∧ Keeps (issueStart s) t ∧
    exec (.bundleIssue s.here) s = .next u ∧
    (∀ (z : State) (rest : List DeviceStep), z.inputs = [] → z.agenda = .bundleIssue s.here :: rest → s = { z with agenda := rest } →
      Machine.step z = .next u) ∧
    u.here = s.here ∧ u.cores = s.cores ∧ u.agenda = s.agenda ∧ u.inputs = s.inputs ∧ u.choice = s.choice ∧ Concludes s t u) ∧
  (∀ (s : State) (n : Nat), CoresInOrder s → n ≠ s.here → ∃ z : State,
    exec (.bundleIssue n) s = exec (.bundleIssue n) z ∧
    z.here = n ∧ z.core = coreState s n ∧ z.pkg = s.pkg ∧ z.agenda = s.agenda ∧ z.inputs = s.inputs ∧ z.choice = s.choice ∧
    CoresInOrder z ∧ ∀ m, coreState z m = coreState s m)

/-- R22, R23, R428: a frozen core issues nothing: in the duty of the power limit, where a decode stream starves a step of the
array, where a value is late without STRICT, and where a fence, a barrier, a cell or a full queue holds it; only its two cycle
counters change, and the holds that are over. R14, R15, R22, R61, R223: a trap that has landed, a late value or cell under STRICT,
a bundle that the overlay tags do not cover or whose fetch finds an error, and an ill-formed bundle each stop the core with the
code and the pc it names, and commit nothing. It is the model's choice where the spec leaves the point open: log entries 1, 45
and 46. -/
def Obligations.FreezesAndFaultsOfBundles : Prop :=
  (∀ s : State, s.core.mode = .running → s.core.stop = none → Frozen s →
    ∃ u h, exec (.bundleIssue s.here) s = .next u ∧ u.pkg = s.pkg ∧ u.cores = s.cores ∧ u.here = s.here ∧
      u.core = { s.core with cyc := s.core.cyc + 1, frz := s.core.frz + 1, hold := h } ∧
      ∀ x, x ∈ h ↔ x ∈ s.core.hold ∧ Awaits s.core x) ∧
  (∀ s : State, s.core.mode = .running → s.core.stop = none → ¬ Frozen s →
    let stops := fun (code : BitVec 8) (pc : BitVec 12) =>
      ∃ u, exec (.bundleIssue s.here) s = .next u ∧ StopsWith s u code (pc.setWidth 64)
    (∀ pc, s.core.trap = some pc → stops 0x15 pc) ∧
    (s.core.trap = none → s.core.strict = true →
      (∀ l, FirstOf (LateValue s.core) s.core.landings l → stops 0x05 l.pc) ∧
      ((∀ l ∈ s.core.landings, ¬ LateValue s.core l) →
        ∀ h pc, FirstOf (fun h => ∃ pc, LateCell s.core pc h) s.core.hold h → LateCell s.core pc h → stops 0x05 pc)) ∧
    (s.core.trap = none → ¬ TimingDue s →
      (¬ Covered s.core → stops 0x01 s.core.pc) ∧
      (Covered s.core → s.core.pc.toNat ∈ s.core.imemBad → stops 0x16 s.core.pc) ∧
      (Covered s.core → s.core.pc.toNat ∉ s.core.imemBad → formFault s.core (bundleAt s.core) = true →
        stops 0x02 s.core.pc)))

/-- R17, R19, R60, R109, R132, R138, R140, R243: the results of a core that are due and have their values land, those of `mtsr`
before the others, each in its destination with its poison bit; their flags join `sys.fflags` after that; the results that are not
due stay, and nothing else changes. R61: the first of them whose flags meet a trap then enabled is to be taken as the arithmetic
trap at the pc of its syllable. It is the model's choice where the spec leaves the point open: log entries 1 and 46. -/
def Obligations.ResultsLandOrTrap : Prop :=
  (∀ s : State, s.core.mode = .running ∨ s.core.mode = .stopping ∨ s.core.mode = .forced ∨ (∃ st, s.core.mode = .ending st) ∨
      (∃ mask, s.core.mode = .givingUp mask) →
    ∃ (first others due rest : List Landing) (c : Core) (trap : Option (BitVec 12)),
      (∀ l, l ∈ due ↔ l ∈ s.core.landings ∧ Due s.core l) ∧ due.Sublist s.core.landings ∧
      (∀ l, l ∈ rest ↔ l ∈ s.core.landings ∧ ¬ Due s.core l) ∧ rest.Sublist s.core.landings ∧
      due.length + rest.length = s.core.landings.length ∧
      (∀ l, l ∈ first ↔ l ∈ due ∧ ForSystem l) ∧ first.Sublist due ∧
      (∀ l, l ∈ others ↔ l ∈ due ∧ ¬ ForSystem l) ∧ others.Sublist due ∧ first.length + others.length = due.length ∧
      LandInOrder (first ++ others) { s.core with landings := rest } c ∧
      exec (.resultLanding s.here) s = .next { s with core := { c with
        fflags := due.foldl (fun f l => f ||| l.flags) c.fflags
        trap := s.core.trap.or trap } } ∧
      (∀ l, FirstOf (fun l => ¬ Untrapped c l.flags) due l → trap = some l.pc) ∧
      ((∀ l ∈ due, Untrapped c l.flags) → trap = none)) ∧
  (∀ s : State, (s.core.mode = .free ∨ s.core.mode = .restoring ∨ s.core.mode = .restored ∨ s.core.mode = .starting ∨
      ∃ held, s.core.mode = .stopped held) → exec (.resultLanding s.here) s = .next s)

/-- R272, R273, R274, R275: the loads and stores of SM through a handle that allows them. R269, R265, R274: the checks of a
global access in order: a handle that is not valid, bounds and alignment, the mode of the footprint region, the permission
of the page. A speculative load defers them all: its result is poisoned. It is the model's choice where the spec leaves the
point open: log entries 12 and 34. -/
def Obligations.GlobalAccessesIssueOrFault : Prop :=
  (∀ (s : State) (r : BitVec 6) (h : BitVec 4) (z : BitVec 2),
    (∀ (i : BitVec 12) (l : Option Lend), Destination r → LoadMode (handle s h.toNat).mode →
      let va := through s h.toNat (scaledOffset i l z)
      InHandle s h.toNat va (2 ^ z.toNat) (2 ^ z.toNat) →
      LoadIssued s (.ldImm r h z i l) (.load false false false) r va (2 ^ z.toNat) false [] ∧
      LoadIssued s (.ldxImm r h z i l) (.load true false false) r va (2 ^ z.toNat) false [] ∧
      LoadIssued s (.ldSImm r h z i l) (.load false true false) r va (2 ^ z.toNat) false []) ∧
    (∀ (x i : BitVec 6) (l : Lend), Destination r → Source x → GuardTrue s l → LoadMode (handle s h.toNat).mode →
      let va := through s h.toNat (indexedBy s x i z)
      InHandle s h.toNat va (2 ^ z.toNat) (2 ^ z.toNat) →
      (poisoned s x = false → LoadIssued s (.ldIndexed r h z x i l) (.load false false false) r va (2 ^ z.toNat) false
          [guardReg l, sourceReg x] ∧
        LoadIssued s (.ldxIndexed r h z x i l) (.load true false false) r va (2 ^ z.toNat) false
          [guardReg l, sourceReg x]) ∧
      LoadIssued s (.ldSIndexed r h z x i l) (.load false true false) r va (2 ^ z.toNat)
        (poisoned s x && decide (r.toNat < 48)) [guardReg l, sourceReg x]) ∧
    (∀ (i : BitVec 12) (l : Option Lend), Source r → poisoned s r = false → StoreMode (handle s h.toNat).mode →
      (handle s h.toNat).w = true →
      let va := through s h.toNat (scaledOffset i l z)
      InHandle s h.toNat va (2 ^ z.toNat) (2 ^ z.toNat) →
      StoreIssued s (.stImm r h z i l) va (bytesOf (value s r) (2 ^ z.toNat)) [sourceReg r]) ∧
    (∀ (x i : BitVec 6) (l : Lend), Source r → Source x → GuardTrue s l → poisoned s r = false → poisoned s x = false →
      StoreMode (handle s h.toNat).mode → (handle s h.toNat).w = true →
      let va := through s h.toNat (indexedBy s x i z)
      InHandle s h.toNat va (2 ^ z.toNat) (2 ^ z.toNat) →
      StoreIssued s (.stIndexed r h z x i l) va (bytesOf (value s r) (2 ^ z.toNat)) [guardReg l, sourceReg x, sourceReg r])) ∧
  (∀ (s : State) (r : BitVec 6) (h : BitVec 4) (z : BitVec 2),
    (∀ (i : BitVec 12) (l : Option Lend),
      let va := through s h.toNat (scaledOffset i l z)
      (Destination r →
        (∀ form ∈ [Instr.ldImm r h z i l, .ldxImm r h z i l], GlobalLoadTurnedAway s form h.toNat z va []) ∧
        SpeculationDefers s (.ldSImm r h z i l) r h.toNat z va []) ∧
      (Source r → poisoned s r = true → Faults s (.stImm r h z i l) 0x16 0 [sourceReg r]) ∧
      (Source r → poisoned s r = false → GlobalStoreTurnedAway s (.stImm r h z i l) h.toNat z va [sourceReg r])) ∧
    (∀ (x i : BitVec 6) (l : Lend), Source x → GuardTrue s l →
      let va := through s h.toNat (indexedBy s x i z)
      (Destination r →
        (∀ form ∈ [Instr.ldIndexed r h z x i l, .ldxIndexed r h z x i l],
          (poisoned s x = true → Faults s form 0x16 0 [guardReg l, sourceReg x]) ∧
          (poisoned s x = false → GlobalLoadTurnedAway s form h.toNat z va [guardReg l, sourceReg x])) ∧
        SpeculationDefers s (.ldSIndexed r h z x i l) r h.toNat z va [guardReg l, sourceReg x]) ∧
      (Source r →
        (poisoned s x = true → Faults s (.stIndexed r h z x i l) 0x16 0 [guardReg l, sourceReg x]) ∧
        (poisoned s x = false → poisoned s r = true →
          Faults s (.stIndexed r h z x i l) 0x16 0 [guardReg l, sourceReg x, sourceReg r]) ∧
        (poisoned s x = false → poisoned s r = false →
          GlobalStoreTurnedAway s (.stIndexed r h z x i l) h.toNat z va [guardReg l, sourceReg x, sourceReg r]))))

/-- R276 to R281: the atomics through a handle that allows them, with the places of their scope; their checks in order: operand
codes, poison, the handle, bounds and alignment, the mode of its region, its permission. R278: the new value of each integer
atomic, at 32 and at 64 bits. R279: `amo.fadd` is the sum to the nearest even. R280: `amo.addsr` on NaNs, infinities and a zero
sum, and else one stochastic rounding of the exact sum that never overflows. It is the model's choice where the spec leaves the
point open: log entry 15. -/
def Obligations.AtomicsIssueAndTheirValues : Prop :=
  ((∀ (s : State) (d b x : BitVec 6) (h : BitVec 4) (c z o : BitVec 2) (l : Lend), d.toNat < 32 → Source b → Source x →
    l.extractLsb' 0 6 = x → poisoned s b = false → poisoned s x = false →
    let n := if z = 0 then 4 else 8
    InHandle s h.toNat (through s h.toNat (value s x)) n n →
    ∀ row ∈ atomicTable, MayAtomic s h.toNat row.2 → (row.2 = .cas → poisoned s d = false) →
      AtomicIssued s (row.1 d h b c z o l) row.2 d h.toNat b x n c o) ∧
  (∀ (s : State) (d b x : BitVec 6) (h : BitVec 4) (c o : BitVec 2) (l : Lend), d.toNat < 32 → Source b → Source x →
    l.extractLsb' 0 6 = x → poisoned s b = false → poisoned s x = false → MayAtomic s h.toNat .addsr →
    InHandle s h.toNat (through s h.toNat (value s x)) 2 2 →
    AtomicIssued s (.amoAddsr d h b c o l) .addsr d h.toNat b x 2 c o)) ∧
  (∀ (s : State) (d b x : BitVec 6) (h : BitVec 4) (c z o : BitVec 2) (l : Lend), l.extractLsb' 0 6 = x →
    ∀ row ∈ atomicTable.map (fun r => (r.1 d h b c z o l, r.2, if z = 0 then 4 else 8)) ++ [(.amoAddsr d h b c o l, .addsr, 2)],
    let reads := [sourceReg x, sourceReg b] ++ (if row.2.1 = .cas then [Reg.x d.toNat] else [])
    let va := through s h.toNat (value s x)
    let ok := InHandle s h.toNat va row.2.2 row.2.2
    (32 ≤ d.toNat ∨ ¬ Source b ∨ ¬ Source x → RefusesOperand s row.1 []) ∧
    (d.toNat < 32 → Source b → Source x →
      let bad := poisoned s x = true ∨ poisoned s b = true ∨ (row.2.1 = .cas ∧ poisoned s d = true)
      (bad → Faults s row.1 0x16 0 reads) ∧
      (¬ bad → (handle s h.toNat).valid = false → Faults s row.1 0x08 (h.setWidth 64) reads) ∧
      (¬ bad → (handle s h.toNat).valid = true → ¬ ok → Faults s row.1 0x09 (BitVec.ofInt 64 va) reads) ∧
      (¬ bad → ok → (handle s h.toNat).mode ≠ 4 → Faults s row.1 0x0C (BitVec.ofInt 64 va) reads) ∧
      (¬ bad → ok → (handle s h.toNat).mode = 4 → ¬ MayAtomic s h.toNat row.2.1 →
        Faults s row.1 0x0A (BitVec.ofInt 64 va) reads))) ∧
  (∀ (op : AmoOp) (va : Nat) (k j : BitVec 32), op ≠ .fadd → op ≠ .addsr →
    (∀ old b c : BitVec 32, ∀ hi lo : Nat,
      amoNew op 32 va old.toNat (b.toNat + 2 ^ 32 * hi) (c.toNat + 2 ^ 32 * lo) k j = (atomicNew 32 old b c op).toNat) ∧
    (∀ old b c : BitVec 64, amoNew op 64 va old.toNat b.toNat c.toNat k j = (atomicNew 64 old b c op).toNat)) ∧
  (∀ (va c old b hi : Nat) (k j : BitVec 32),
    (b < 2 ^ 32 → amoNew .fadd 32 va old (b + 2 ^ 32 * hi) c k j =
      (addOp (.ieee 8 23) { rm := 0, r := 0 } (decodeNum (.ieee 8 23) old) (decodeNum (.ieee 8 23) b)).bits) ∧
    (b < 2 ^ 64 → amoNew .fadd 64 va old b c k j =
      (addOp (.ieee 11 52) { rm := 0, r := 0 } (decodeNum (.ieee 11 52) old) (decodeNum (.ieee 11 52) b)).bits) ∧
    (b < 2 ^ 32 → old < 2 ^ 16 →
      let x := decodeNum (.ieee 8 7) old
      let y := decodeNum (.ieee 8 23) b
      let new := amoNew .addsr 16 va old (b + 2 ^ 32 * hi) c k j
      (x.isNan = true ∨ y.isNan = true → new = 0x7FC0) ∧
      (∀ n m, x = .inf n → y = .inf m → new = if n = m then (if n then 0xFF80 else 0x7F80) else 0x7FC0) ∧
      (∀ n, x = .inf n → y.isFinite = true → new = if n then 0xFF80 else 0x7F80) ∧
      (∀ n, y = .inf n → x.isFinite = true → new = if n then 0xFF80 else 0x7F80) ∧
      (∀ n m e n' m' e', x = .fin n m e → y = .fin n' m' e' →
        let u := min e e'
        let sum := inUnits u n m e + inUnits u n' m' e'
        (sum = 0 → new = 0) ∧
        (sum ≠ 0 → ∃ t, new = t.bits ∧ Rounds formatBf 7 false (decide (sum < 0)) (gen k j (BitVec.ofNat 64 va))
          (Fraction formatBf.unit sum.natAbs 1 u) t))))

/-- R259, R260, R282, R283: a fence holds the core for exactly the accesses it orders, within its scope: all of them, or, as an
acquire fence (order 1), the loads and the atomics whose results are awaited, not stores and posted atomics. `fence.e` holds it for
every engine command. R22: a core that is held so issues nothing, and only its two cycle counters change; each hold ends when what
it waits for has come about (a fence's when its accesses have been performed for every place of its scope), and no other does. It
is the model's choice where the spec leaves the point open: log entries 48 and 61. -/
def Obligations.FenceResults : Prop :=
  (∀ (s : State) (c o : BitVec 2), s.here ≤ 4096 → ∃ ids sc,
    exec (.fence c o) s = .next { s with issue := { s.issue with hold := s.issue.hold ++ [.fence ids sc] } } ∧
    (∀ p < 18, sc.getLsbD p = true ↔ InScope s c p) ∧
    ∀ i, i ∈ ids ↔ ∃ a ∈ s.core.accesses, a.id = i ∧
      (o = 1 → (∃ g p v, a.kind = .load g p v) ∨
        ((∃ op b x k j y, a.kind = .amo op b x k j y) ∧ ∃ l ∈ s.core.landings, l.awaits = some a.id))) ∧
  (∀ (s : State), exec .fenceE s = .next { s with issue := { s.issue with hold := s.issue.hold ++ [.fenceE] } }) ∧
  (∀ (s : State), s.core.mode = .running → s.core.stop = none →
    (∃ h ∈ s.core.hold, Awaits s.core h ∧ ∀ n pc, h ≠ .cell n pc) →
    ∃ u held, exec (.bundleIssue s.here) s = .next u ∧ u.pkg = s.pkg ∧ u.cores = s.cores ∧
      u.core = { s.core with cyc := s.core.cyc + 1, frz := s.core.frz + 1, hold := held } ∧
      (∀ ids sc, .fence ids sc ∈ s.core.hold → (.fence ids sc ∈ held ↔ ∃ a ∈ s.core.accesses, a.id ∈ ids ∧ a.performed = false ∧
        (a.within = 0 ∨ ∃ p < 18, sc.getLsbD p = true ∧ a.within.getLsbD p = false))) ∧
      (.fenceE ∈ s.core.hold → (.fenceE ∈ held ↔
        everyCommand s.core ≠ [] ∨ ∃ b ∈ s.core.busy, Resource.rowStats ∈ b.writes)) ∧
      ∀ g, .barrier g ∈ s.core.hold → .barrier g ∈ held)

/-- R131, R132, R31: `mfsr` reads a system register and `mtsr` writes it in the next cycle; a poisoned value is consumed.
R132, R174, R382: what a system register that has been written reads; bits that no field names, a KIND of 3 and a TAG above 4
are not taken, and read-only registers stay. -/
def Obligations.SystemRegisterAccesses : Prop :=
  ((∀ (s : State) (r : BitVec 6) (n : BitVec 12) (l : Lend), Destination r → Assigned s n.toNat → GuardTrue s l →
    ∃ t, exec (.mfsr r n l) s = .next t ∧ Keeps s t ∧
      ScalarLands s t r (systemValue s n.toNat) false 0 2 [guardReg l, .sys n.toNat]) ∧
  (∀ (s : State) (r : BitVec 6) (n : BitVec 12) (l : Lend), Source r → Assigned s n.toNat → GuardTrue s l →
    (poisoned s r = true → Faults s (.mtsr r n l) 0x16 0 [guardReg l, sourceReg r]) ∧
    (poisoned s r = false → ∃ t ws, exec (.mtsr r n l) s = .next t ∧ Keeps s t ∧
      Lands s t [resultOf s (.sys n.toNat) (value s r).toNat false 0 1 none] ∧
      NotesWaits s t [guardReg l, sourceReg r] [] ws ∧ (n ≠ 0x51 → ws = [])))) ∧
  (∀ (s : State) (v : XWord),
    let after := fun (n : Nat) => systemValue { s with before := sysWrite n v s.before } n
    (∀ n ∈ [0x00, 0x02, 0x03, 0xC0, 0xC1], sysWrite n v s.before = s.before) ∧
    (∀ row ∈ [(0x01, 2), (0x04, 64), (0x05, 12), (0x06, 12), (0x20, 3), (0x21, 6), (0x23, 32), (0x24, 32), (0x25, 6),
        (0x50, 16), (0x60, 16), (0x80, 48), (0x81, 48), (0x82, 26), (0xA2, 10), (0xA3, 10)],
      after row.1 = v &&& (BitVec.allOnes 64 >>> (64 - row.2))) ∧
    after 0x22 = v &&& 0x21#64 ∧
    (∀ n, 0x40 ≤ n → n ≤ 0x4F → after n = v &&& 0x3FFFF7F#64) ∧
    (∀ n ∈ [0xA0, 0xA1], after n =
      if v.extractLsb' 4 2 = 3 then (systemValue s n &&& 0x30#64) ||| (v &&& 0x0F#64) else v &&& 0x3F#64) ∧
    after 0x51 =
      (if (v.extractLsb' 0 3).toNat ≤ 4 then v &&& 7#64 else systemValue s 0x51 &&& 7#64) |||
      (if (v.extractLsb' 4 3).toNat ≤ 4 then v &&& 0x70#64 else systemValue s 0x51 &&& 0x70#64))

/-- R284 to R288: `probe` waits for its walk and then binds its handle or raises the walk's fault; `xlat` binds from the entries
at hand or leaves the handle invalid; `hinv` and `hinfo`. -/
def Obligations.HandleFormResults : Prop :=
  (∀ (s : State) (d b : BitVec 6) (h : BitVec 4) (p : BitVec 2) (mode : BitVec 3), Bindable s d b p mode →
    let va := (value s d).toNat
    let len := (value s b).toNat
    (s.before.probe = none → ∃ t, exec (.probe d h b p) s = .next t ∧ Keeps s t ∧
      t.core = { s.core with probe := some { va := va, len := len, perm := p, result := none } } ∧
      NotesWaits s t [sourceReg d, sourceReg b] [] [.event]) ∧
    (∀ q, s.before.probe = some q → q.result = none → ∃ t, exec (.probe d h b p) s = .next t ∧ Keeps s t ∧
      LeavesCore s t ∧ NotesWaits s t [sourceReg d, sourceReg b] [] [.event]) ∧
    (∀ q r, s.before.probe = some q → q.result = some r → r.code ≠ 0 →
      Faults s (.probe d h b p) r.code (value s d) [sourceReg d, sourceReg b]) ∧
    (∀ q r, s.before.probe = some q → q.result = some r → r.code = 0 → ∃ t, exec (.probe d h b p) s = .next t ∧
      Keeps s t ∧ Notes s t [sourceReg d, sourceReg b] [] ∧
      t.core = { s.core with tlb := t.core.tlb, handles := t.core.handles, probe := none } ∧
      (∀ k < 16, k ≠ h.toNat → t.core.handles[k]? = s.core.handles[k]?) ∧
      Binds r.entries va len p mode (handleOf t.core h.toNat) ∧
      ∀ e, e ∈ t.core.tlb ↔ (e ∈ s.core.tlb ∨ e ∈ r.entries) ∧ ∃ x, AnyHandle t.core x ∧ DependsOn x e) ∧
    (∃ t e es, exec (.xlat d h b p) s = .next t ∧ Keeps s t ∧ Notes s t [sourceReg d, sourceReg b] [] ∧
      Lands s t [resultOf s (.handle h.toNat e) 0 false 0 2 none] ∧
      (∀ x, x ∈ es ↔ x ∈ s.before.tlb ∧ x.pages ≠ 0 ∧ x.vpn ≤ (va + len - 1) / 65536 ∧
        va / 65536 < x.vpn + x.pages) ∧
      let covered := ∀ n, va / 65536 ≤ n → n ≤ (va + len - 1) / 65536 → ∃ x ∈ es, x.vpn ≤ n ∧ n < x.vpn + x.pages
      let permitted := ¬ (p ≠ 0 ∧ mapsCompressed s.pkg es va len = true) ∧ (p ≠ 0 → ∀ x ∈ es, x.w = true) ∧
        ¬ (p = 2 ∧ mapsWindow es va len = true)
      (covered → permitted → Binds es va len p mode e) ∧ (¬ (covered ∧ permitted) → e.valid = false))) ∧
  (∀ (s : State) (d b : BitVec 6) (h : BitVec 4) (p : BitVec 2),
    let n := (value s b).toNat
    let bad := poisoned s d = true ∨ poisoned s b = true
    let bounded := 0 < n ∧ n < 2 ^ 48 ∧ (value s d).toNat + n ≤ 2 ^ 55
    ∀ form ∈ [Instr.probe d h b p, .xlat d h b p],
      (¬ (Source d ∧ Source b) → RefusesOperand s form []) ∧
      (Source d → Source b →
        (bad → Faults s form 0x16 0 [sourceReg d, sourceReg b]) ∧
        (¬ bad → ¬ bounded → Faults s form 0x09 (value s d) [sourceReg d, sourceReg b]) ∧
        (¬ bad → bounded → (∀ mode, ¬ Bindable s d b p mode) → Faults s form 0x0C (value s d) [sourceReg d, sourceReg b]))) ∧
  (∀ (s : State) (h : BitVec 4), ∃ t e, exec (.hinv h) s = .next t ∧ Keeps s t ∧ Notes s t [] [] ∧ e.valid = false ∧
    Lands s t [resultOf s (.handle h.toNat e) 0 false 0 1 none]) ∧
  (∀ (s : State) (d b : BitVec 6) (h : BitVec 4), Destination d → ∃ t, exec (.hinfo d h b) s = .next t ∧ Keeps s t ∧
    ScalarLands s t d
      (if (handle s h.toNat).valid = false then 0
       else if b = 0 then (handle s h.toNat).base.setWidth 64
       else if b = 1 then (handle s h.toNat).len.setWidth 64
       else 1#64 ||| (if (handle s h.toNat).w then 2 else 0) ||| (if (handle s h.toNat).at' then 4 else 0) |||
         (if (handle s h.toNat).hs then 8 else 0) ||| (if (handle s h.toNat).rm then 16 else 0) |||
         (if (handle s h.toNat).ap then 32 else 0) ||| ((handle s h.toNat).mode.setWidth 64 <<< 6)) false 0 2 [])

/-- R142, R144, R137 to R141: the integer vector forms. R143, R148: `vcmp` and `vfcmp` into a mask register; `vfcmp` always
merges. It is the model's choice where the spec leaves the point open: log entry 44. -/
def Obligations.VectorIntegerAndCompareResults : Prop :=
  (∀ (s : State) (w : BitVec 2) (d a b : BitVec 6) (t : BitVec 3) (l : Lend), w ≠ 3 →
    (∀ row ∈ vecIntTable, ∃ u, exec (row.1 w d a b t l) s = .next u ∧ Keeps s u ∧
      VectorLands s u w (elemBits t) (maskReg l) (zeroes l) d [a, b] false row.2.2
        (fun i => plainly (row.2.1 t (laneInt s t a i) (laneInt s t b i) % 2 ^ elemBits t).toNat) [] false) ∧
    (∀ row ∈ vecBitTable, ∃ u, exec (row.1 w d a b t l) s = .next u ∧ Keeps s u ∧
      VectorLands s u w (elemBits t) (maskReg l) (zeroes l) d [a, b] false 2
        (fun i => plainly (row.2 (laneAt s a (elemBits t) i) (laneAt s b (elemBits t) i))) [] false) ∧
    (∃ u, exec (.vabs w d a t l) s = .next u ∧ Keeps s u ∧
      VectorLands s u w (elemBits t) (maskReg l) (zeroes l) d [a] false 2
        (fun i => plainly ((laneInt s t a i).natAbs % 2 ^ elemBits t)) [] false) ∧
    (t = 0 ∨ t = 4 → ∃ u, exec (.vdot4 w d a b t l) s = .next u ∧ Keeps s u ∧
      VectorLands s u w 32 (maskReg l) (zeroes l) d [a, b] true 4
        (fun j => plainly (((laneAt s d 32 j : Int) + laneInt s t a (4 * j) * laneInt s t b (4 * j) +
          laneInt s t a (4 * j + 1) * laneInt s t b (4 * j + 1) + laneInt s t a (4 * j + 2) * laneInt s t b (4 * j + 2) +
          laneInt s t a (4 * j + 3) * laneInt s t b (4 * j + 3)) % 2 ^ 32).toNat) [] false)) ∧
  (∀ (s : State) (w : BitVec 2) (d : BitVec 3) (a b : BitVec 6) (t : BitVec 3) (l : Lend), w ≠ 3 →
    (∃ u, exec (.vcmp w d a b t l) s = .next u ∧ Keeps s u ∧
      MaskLands s u w (elemBits t) (maskReg l) (zeroes l) d [a, b]
        (fun i => vecCondition (l.extractLsb' 6 3).toNat (laneInt s t a i) (laneInt s t b i)) (fun _ => 0)) ∧
    (t.toNat < 6 → (l.extractLsb' 4 3).toNat < 4 → ∃ u, exec (.vfcmp w d a b t l) s = .next u ∧ Keeps s u ∧
      let r := fun i => compareOp (vectorLayout s t)
        (if l.extractLsb' 4 3 = 0 then .eq else if l.extractLsb' 4 3 = 1 then .lt else if l.extractLsb' 4 3 = 2 then .le
          else .un)
        (laneAt s a (floatBits t) i) (laneAt s b (floatBits t) i)
      MaskLands s u w (floatBits t) (maskReg l) false d [a, b] (fun i => (r i).1 = true) (fun i => (r i).2)))

/-- R145 to R149: the floating-point vector forms. R157, R62: the special functions, with what they give for a zero, an infinity, a
negative number and, for 2^x and log2, an integer and a power of two; a reciprocal and a reciprocal root are the one rounding of the
exact value. The search that settles the others ends at a precision that is the model's choice (log entry 9). -/
def Obligations.VectorFloatAndSpecialResults : Prop :=
  (∀ (s : State) (w : BitVec 2) (d a b : BitVec 6) (t : BitVec 3) (l : Lend), w ≠ 3 → t.toNat < 6 →
    (∀ row ∈ vecFloatTable, ∃ u, exec (row.1 w d a b t l) s = .next u ∧ Keeps s u ∧
      RoundedLanes s u w t l d [a, b] false (row.2.2 t)
        (fun r i => row.2.1 (vectorLayout s t) r (laneNum s t a i) (laneNum s t b i))) ∧
    (∀ row ∈ [((Instr.vfma : BitVec 2 → BitVec 6 → BitVec 6 → BitVec 6 → BitVec 3 → Lend → Instr), false), (.vfnma, true)],
      ∃ u, exec (row.1 w d a b t l) s = .next u ∧ Keeps s u ∧
      RoundedLanes s u w t l d [a, b] true (if t = 4 ∨ t = 5 then 5 else 4)
        (fun r i => fmaOp (vectorLayout s t) r row.2 (laneNum s t a i) (laneNum s t b i) (laneNum s t d i))) ∧
    (∃ u, exec (.vfscl w d a b t l) s = .next u ∧ Keeps s u ∧
      RoundedLanes s u w t l d [a, b] false (if t = 4 ∨ t = 5 then 5 else 4)
        (fun r i => scaleOp (vectorLayout s t) r (laneNum s t a i)
          (BitVec.ofNat (floatBits t) (laneAt s b (floatBits t) i)).toInt)) ∧
    (∀ row ∈ [((Instr.vfmin : BitVec 2 → BitVec 6 → BitVec 6 → BitVec 6 → BitVec 3 → Lend → Instr), true), (.vfmax, false)],
      ∃ u, exec (row.1 w d a b t l) s = .next u ∧ Keeps s u ∧
      VectorLands s u w (floatBits t) (maskReg l) (zeroes l) d [a, b] false 2
        (fun i => picks row.2 (vectorLayout s t) (laneAt s a (floatBits t) i) (laneAt s b (floatBits t) i)) [] false) ∧
    (∀ row ∈ [((Instr.vfabs : BitVec 2 → BitVec 6 → BitVec 6 → BitVec 3 → Lend → Instr), absPattern), (.vfneg, negPattern),
        (.vfclass, classPattern)],
      ∃ u, exec (row.1 w d a t l) s = .next u ∧ Keeps s u ∧
      VectorLands s u w (floatBits t) (maskReg l) (zeroes l) d [a] false 2
        (fun i => plainly (row.2 t (laneAt s a (floatBits t) i))) [] false) ∧
    (∃ u, exec (.vfsel w d a b t l) s = .next u ∧ Keeps s u ∧
      VectorLands s u w (floatBits t) 0 false d [a, b] false 2
        (fun i => plainly (if (readM s.before (maskReg l)).getLsbD i then laneAt s a (floatBits t) i
          else laneAt s b (floatBits t) i)) [.m (maskReg l)] false)) ∧
  (∀ (s : State) (w : BitVec 2) (d a : BitVec 6) (t : BitVec 3) (l : Lend), w ≠ 3 → t.toNat < 4 →
    ∀ row ∈ vecSpecialTable, ∃ u, exec (row.1 w d a t l) s = .next u ∧ Keeps s u ∧
      RoundedLanes s u w t l d [a] false (if t = 0 then 16 else 10)
        (fun r i => row.2 (vectorLayout s t) r (laneNum s t a i))) ∧
  (∀ f ∈ [formatD, formatF, formatBf, formatH], ∀ (i : RoundIn), i.r < 2 ^ 24 →
    let y := f.layout
    let one := roundNum y i.rm false i.r (.fin false 1 0)
    (∀ (n : Bool) (m : Nat) (e : Int),
      (m ≠ 0 → Rounds f i.rm false n i.r (Fraction f.unit 1 m (-e)) (recipOp y i (.fin n m e))) ∧
      (m ≠ 0 → n = false → Rounds f i.rm false false i.r (RootInverse f.unit m e) (rsqrtOp y i (.fin n m e))) ∧
      (m ≠ 0 → n = true → rsqrtOp y i (.fin n m e) = invalid f ∧ log2Op y i (.fin n m e) = invalid f) ∧
      (m = 0 → recipOp y i (.fin n m e) = { infinite f n with flags := 2 } ∧
        rsqrtOp y i (.fin n m e) = { infinite f n with flags := 2 } ∧
        exp2Op y i (.fin n m e) = one ∧ expOp y i (.fin n m e) = one ∧
        log2Op y i (.fin n m e) = { infinite f true with flags := 2 }) ∧
      recipOp y i (.inf n) = zero f n ∧ rsqrtOp y i (.inf n) = (if n then invalid f else zero f false) ∧
      exp2Op y i (.inf n) = (if n then zero f false else infinite f false) ∧
      expOp y i (.inf n) = (if n then zero f false else infinite f false) ∧
      log2Op y i (.inf n) = (if n then invalid f else infinite f false)) ∧
    (∀ k : Int, k ≠ 0 → k.natAbs < 2 ^ 13 →
      exp2Op y i (.fin (decide (k < 0)) k.natAbs 0) = roundNum y i.rm false i.r (.fin false 1 k)) ∧
    (∀ (j : Nat) (e : Int), log2Op y i (.fin false (2 ^ j) e) =
      if j + e = 0 then zero f false else roundNum y i.rm false i.r (.fin (decide (j + e < 0)) (j + e).natAbs 0)))

/-- R150 to R155: the conversions, each lane or block by its rule; R156: the generator's values. R151: between two formats a
conversion is one rounding, and within one a copy that quiets a NaN. R152, R154: the scale of a block and its elements, each the one
rounding of its exact quotient. R153, R155: an element scaled back, the one rounding of the exact product. It is the model's choice
where the spec leaves the point open: log entries 44 and 67. -/
def Obligations.VectorConversionResults : Prop :=
  (∀ (s : State) (w : BitVec 2) (d a : BitVec 6) (f : BitVec 5) (sat : Bool) (m : BitVec 3) (l : Lend),
    let g := sourceFormat l
    let src := formatLayout s g
    let dst := formatLayout s f
    let n := convertLanes w f g
    let rnd := laneRounds s m l
    let dsts := sideRegs w f g
    let srcs := sideRegs w g f
    ((Instr.vcvt w d a f sat m l).wf = true → MayConvert s d a dsts srcs m l →
      ∃ u v flags, exec (.vcvt w d a f sat m l) s = .next u ∧ Keeps s u ∧ Notes s u (convertReads m l a srcs) [] ∧
        GroupLands s u d (n * dst.bits) v (convertPoison s a srcs) flags (4 + convertPenalty s a srcs) [] ∧
        Holds v flags dst.bits n (fun i => convertOp dst src (rnd dst.bytes i) sat (groupElement s a src.bits i))) ∧
    ((Instr.vqnt w d a f sat m l).wf = true → MayConvert s d a 2 srcs m l →
      ∃ u v flags scales, exec (.vqnt w d a f sat m l) s = .next u ∧ Keeps s u ∧ Notes s u (convertReads m l a srcs) [] ∧
        let size := if l.extractLsb' 5 2 = 1 then 32 else 16
        let lat := 6 + convertPenalty s a srcs
        let block := fun j => quantiseBlock f dst (rnd 1) sat (j * size)
          ((List.range size).map fun i => decodeNum src (groupElement s a src.bits (j * size + i)))
        GroupLands s u d (n * dst.bits) v (convertPoison s a srcs) flags lat
          [resultOf s (.v (d.toNat + 1) 0 (8 * (n / size)) false) scales (convertPoison s a srcs) 0 lat none] ∧
        (∀ j < n / size, scales / 2 ^ (8 * j) % 2 ^ 8 = (block j).1) ∧
        Holds v flags dst.bits n (fun i => (block (i / size)).2.getD (i % size) (plainly 0))) ∧
    ((Instr.vbq w d a f sat m l).wf = true → MayConvert s d a 2 srcs m l →
      ∃ u v flags scales, exec (.vbq w d a f sat m l) s = .next u ∧ Keeps s u ∧ Notes s u (convertReads m l a srcs) [] ∧
        let size := 16 * 2 ^ (l.extractLsb' 5 2).toNat
        let lat := 6 + convertPenalty s a srcs
        let block := fun j => scaleBlock f dst (rnd 1) sat (j * size)
          ((List.range size).map fun i => decodeNum src (groupElement s a src.bits (j * size + i)))
        GroupLands s u d (n * dst.bits) v (convertPoison s a srcs) flags lat
          [resultOf s (.v (d.toNat + 1) 0 (32 * (n / size)) false) scales (convertPoison s a srcs) 0 lat none] ∧
        (∀ j < n / size, scales / 2 ^ (32 * j) % 2 ^ 32 = (block j).1) ∧
        Holds v flags dst.bits n (fun i => (block (i / size)).2.getD (i % size) (plainly 0))) ∧
    ((Instr.vdeq w d a f sat m l).wf = true → MayConvert s d a dsts 2 m l →
      ∃ u v flags, exec (.vdeq w d a f sat m l) s = .next u ∧ Keeps s u ∧ Notes s u (convertReads m l a 2) [] ∧
        let size := if l.extractLsb' 5 2 = 1 then 32 else 16
        GroupLands s u d (n * dst.bits) v (convertPoison s a 2) flags (4 + convertPenalty s a 2) [] ∧
        Holds v flags dst.bits n (fun i => dequantise dst (rnd dst.bytes i) sat (laneAt s (a + 1) 8 (i / size))
          (decodeNum src (laneAt s a src.bits i)))) ∧
    ((Instr.vbdq w d a f sat m l).wf = true → MayConvert s d a dsts 2 m l →
      ∃ u v flags, exec (.vbdq w d a f sat m l) s = .next u ∧ Keeps s u ∧ Notes s u (convertReads m l a 2) [] ∧
        let size := 16 * 2 ^ (l.extractLsb' 5 2).toNat
        GroupLands s u d (n * dst.bits) v (convertPoison s a 2) flags (4 + convertPenalty s a 2) [] ∧
        Holds v flags dst.bits n (fun i => multiplyByScale dst (rnd dst.bytes i) sat
          (decodeNum src (laneAt s a src.bits i)) (decodeNum (.ieee 8 23) (laneAt s (a + 1) 32 (i / size))))) ∧
    (w ≠ 3 → (readX s.before (baseReg l)).poison = false → ∃ u v, exec (.vrng w d l) s = .next u ∧ Keeps s u ∧
      Notes s u [.x (baseReg l)] [] ∧
      Lands s u [resultOf s (.v d.toNat 0 (256 * 2 ^ w.toNat) false) v false 0 4 none] ∧
      ∀ i < lanesIn w 32, v / 2 ^ (32 * i) % 2 ^ 32 = gen s.before.srkey s.before.srstep
        ((readX s.before (baseReg l)).bits + BitVec.ofNat 64 (i * src.bytes)))) ∧
  (∀ (dst src : Layout) (i : RoundIn) (sat : Bool) (a : Nat), dst ≠ src →
    convertOp dst src i sat a = roundNum dst i.rm sat i.r (decodeNum src a)) ∧
  (∀ f ∈ [formatD, formatF, formatBf, formatH, formatE5], ∀ (i : RoundIn) (sat : Bool) (a : Nat), a < 2 ^ f.layout.bits →
    let t := convertOp f.layout f.layout i sat a
    (NanPattern f a → IsQuiet f a (Signals f a) t) ∧
    (∀ n, decodeNum f.layout a = .inf n → t = if sat then { bits := f.sign n + f.greatest, flags := 16 } else { bits := a, flags := 0 }) ∧
    ((decodeNum f.layout a).isFinite = true → t = { bits := a, flags := 0 })) ∧
  (∀ row ∈ [((6 : BitVec 5), formatE4, (8 : Int)), (7, formatE5, 15), (8, formatE2, 2)],
    ∀ (rnd : Nat → RoundIn) (sat : Bool) (first : Nat) (xs : List Machine.Num), (∀ i, (rnd i).r < 2 ^ 24) →
    let q := quantiseBlock row.1 row.2.1.layout rnd sat first xs
    ((∃ x ∈ xs, x.isFinite = false) → q.1 = 255 ∧ Invalidated q.2 xs.length 0) ∧
    ((∀ x ∈ xs, x.isFinite = true) → ∃ E : Int, q.1 = (E + 127).toNat ∧ BlockExponent xs row.2.2 E ∧ q.2.length = xs.length ∧
      ∀ k < xs.length, ∀ n m e, xs.getD k .nar = .fin n m e →
        let t := q.2.getD k (zero formatF false)
        (m ≠ 0 → Rounds row.2.1 (rnd (first + k)).rm sat n (rnd (first + k)).r (Fraction row.2.1.unit m 1 (e - E)) t) ∧
        (m = 0 → t = zero row.2.1 n))) ∧
  (∀ es : Nat, ∀ row ∈ [((12 : BitVec 5), Layout.int true 8, 127), (4, .e4m3, 448), (5, .ieee 5 2, 57344), (11, .taper 8 es, 1)],
    ∀ (rnd : Nat → RoundIn) (sat : Bool) (first : Nat) (xs : List Machine.Num), (∀ i, (rnd i).r < 2 ^ 24) →
    let q := scaleBlock row.1 row.2.1 rnd sat first xs
    ((∃ x ∈ xs, x.isFinite = false) → q.1 = 0x7FC00000 ∧ Invalidated q.2 xs.length row.2.1.defaultNan) ∧
    ((∀ x ∈ xs, x.isFinite = true) →
      ((∀ n m e, Machine.Num.fin n m e ∈ xs → m = 0) → q.1 = 0x3F800000) ∧
      (∀ m e, m ≠ 0 → Greatest xs m e → ∃ flags, Rounds formatF 2 false false 0 (Fraction formatF.unit m row.2.2 e) ⟨q.1, flags⟩) ∧
      q.2.length = xs.length ∧
      ∀ k < xs.length, ∀ n m e j g, xs.getD k .nar = .fin n m e → decodeNum (.ieee 8 23) q.1 = .fin false j g → j ≠ 0 →
        let t := q.2.getD k (zero formatF false)
        let i := rnd (first + k)
        (m = 0 → t = { bits := zeroBits row.2.1 n, flags := 0 }) ∧
        (m ≠ 0 → row.1 = 4 → Rounds formatE4 i.rm sat n i.r (Fraction formatE4.unit m j (e - g)) t) ∧
        (m ≠ 0 → row.1 = 5 → Rounds formatE5 i.rm sat n i.r (Fraction formatE5.unit m j (e - g)) t) ∧
        (m ≠ 0 → row.1 = 12 → RoundsInt true 8 i.rm n i.r (Fraction (-24) m j (e - g)) t))) ∧
  (∀ f ∈ [formatD, formatF, formatBf, formatH], ∀ (i : RoundIn) (sat : Bool), i.r < 2 ^ 24 →
    (∀ (b : Nat) (x : Machine.Num), b < 256 →
      (b = 255 → dequantise f.layout i sat b x = { bits := f.nan, flags := 0 }) ∧
      (b ≠ 255 → (∀ n m e, x = .fin n m e →
          (m ≠ 0 → Rounds f i.rm sat n i.r (Fraction f.unit m 1 (e + b - 127)) (dequantise f.layout i sat b x)) ∧
          (m = 0 → dequantise f.layout i sat b x = zero f n)) ∧
        (∀ n, x = .inf n → dequantise f.layout i sat b x =
          if sat then { bits := f.sign n + f.greatest, flags := 16 } else infinite f n))) ∧
    (∀ (n k : Bool) (m j : Nat) (e g : Int),
      let t := multiplyByScale f.layout i sat (.fin n m e) (.fin k j g)
      (m * j ≠ 0 → Rounds f i.rm sat (n != k) i.r (Fraction f.unit (m * j) 1 (e + g)) t) ∧
      (m * j = 0 → t = zero f (n != k))) ∧
    (∀ (n k : Bool) (m : Nat) (e : Int),
      (m = 0 → multiplyByScale f.layout i sat (.fin n m e) (.inf k) = invalid f) ∧
      (m ≠ 0 → multiplyByScale f.layout i sat (.fin n m e) (.inf k) =
        if sat then { bits := f.sign (n != k) + f.greatest, flags := 16 } else infinite f (n != k))))

/-- R158, R159, R162, R163: moves, permutes, compress and expand; `vxtr` pushes a lane and `vins` writes one. -/
def Obligations.VectorPermuteResults : Prop :=
  ∀ (s : State) (w : BitVec 2) (d a b : BitVec 6) (t : BitVec 3) (l : Lend), w ≠ 3 → t.toNat < 4 →
    let z := 8 * 2 ^ t.toNat
    let n := lanesIn w z
    let lands := fun (u : State) (srcs : List (BitVec 6)) (lat : Nat) (f : Nat → Nat) =>
      VectorLands s u w z (maskReg l) (zeroes l) d srcs false lat (fun i => plainly (f i)) [] false
    (∃ u, exec (.vmov w d a t l) s = .next u ∧ Keeps s u ∧ lands u [a] 2 (laneAt s a z)) ∧
    (Source a → ∃ u, exec (.vbcst w d a t l) s = .next u ∧ Keeps s u ∧
      VectorLands s u w z (maskReg l) (zeroes l) d [] false 2 (fun _ => plainly ((value s a).toNat % 2 ^ z)) [sourceReg a]
        (poisoned s a)) ∧
    (∃ u v, exec (.vli w d t l) s = .next u ∧ Keeps s u ∧ Notes s u [] [] ∧
      Lands s u [resultOf s (.v d.toNat 0 (256 * 2 ^ w.toNat) false) v false 0 2 none] ∧
      ∀ i < n, v / 2 ^ (z * i) % 2 ^ z = (l.toInt % 2 ^ z).toNat) ∧
    (∃ u, exec (.vperm w d a b t l) s = .next u ∧ Keeps s u ∧
      lands u [a, b] 3 (fun i => laneAt s a z (laneAt s b z i % n))) ∧
    (∀ p : BitVec 6, p.toNat ≤ 10 → (p.toNat ≤ 6 → 2 ^ p.toNat < n) →
      ∃ u, exec (.vshuf w d a p t l) s = .next u ∧ Keeps s u ∧ lands u [a] 2 (fun i => laneAt s a z
        (if p.toNat ≤ 6 then i ^^^ 2 ^ p.toNat else if p = 7 then n - 1 - i
         else if p = 8 then (if i < n / 2 then 2 * i else 2 * (i - n / 2) + 1)
         else if p = 9 then i / 2 + (if i % 2 = 1 then n / 2 else 0) else 0))) ∧
    (∀ c : BitVec 6, c.toNat < n → ∃ u, exec (.vrot w d a c t l) s = .next u ∧ Keeps s u ∧
      lands u [a] 2 (fun i => laneAt s a z ((i + c.toNat) % n))) ∧
    (∀ k : BitVec 6, k.toNat < n →
      (∃ u, exec (.vxtr w a k t) s = .next u ∧ Keeps s u ∧
        Pushes s u (laneAt s a z k.toNat) (poisonV s.before a.toNat) 0 (2 + bankPenalty s.issue.reads [a.toNat]) none ∧
        Notes s u [.v a.toNat] []) ∧
      (Source a → ∃ u, exec (.vins w d a k t) s = .next u ∧ Keeps s u ∧ Notes s u [sourceReg a] [] ∧
        Lands s u [resultOf s (.v d.toNat (z * k.toNat) z false) ((value s a).toNat % 2 ^ z) (poisoned s a) 0 2 none])) ∧
    (∀ row ∈ [((Instr.vcmpr : BitVec 2 → BitVec 6 → BitVec 6 → BitVec 3 → Lend → Instr), true), (.vexpd, false)],
      let m := maskReg l
      let regs := a.toNat :: (if zeroes l = false ∧ m ≠ 0 then [d.toNat] else [])
      let rank := fun i => ((List.range i).filter fun j => (readM s.before m).getLsbD j).length
      let rest := fun i => if zeroes l then 0 else laneAt s d z i
      ∃ u v, exec (row.1 w d a t l) s = .next u ∧ Keeps s u ∧ Notes s u (.m m :: regs.map Reg.v) [] ∧
        Lands s u [resultOf s (.v d.toNat 0 (256 * 2 ^ w.toNat) false) v (regs.any (poisonV s.before)) 0
          (2 + bankPenalty s.issue.reads regs) none] ∧
        ∀ i < n,
          (row.2 = true → (Active s m i → v / 2 ^ (z * rank i) % 2 ^ z = laneAt s a z i) ∧
            (rank n ≤ i → v / 2 ^ (z * i) % 2 ^ z = rest i)) ∧
          (row.2 = false → (Active s m i → v / 2 ^ (z * i) % 2 ^ z = laneAt s a z (rank i)) ∧
            (¬ Active s m i → v / 2 ^ (z * i) % 2 ^ z = rest i)))

/-- R160, R161: reductions, mask operations with their popcount, and a mask from a v register. -/
def Obligations.ReductionAndMaskResults : Prop :=
  (∀ (s : State) (w : BitVec 2) (d a : BitVec 6) (t : BitVec 3) (l : Lend), w ≠ 3 → t.toNat < 6 →
    (l.extractLsb' 0 2).toNat < 3 →
    ∃ u v, exec (.vred w d a t l) s = .next u ∧ Keeps s u ∧ Notes s u [.v a.toNat] [] ∧
      Lands s u [resultOf s (.v d.toNat 0 (256 * 2 ^ w.toNat) false) v (poisonV s.before a.toNat) 0
        (6 + bankPenalty s.issue.reads [a.toNat]) none] ∧
      (t = 4 ∨ t = 5 →
        let z := if t = 4 then 32 else 64
        let xs := (List.range (lanesIn w z)).map fun i => (BitVec.ofNat z (laneAt s a z i)).toInt
        v < 2 ^ z ∧
        (l.extractLsb' 0 2 = 0 → (v : Int) = xs.sum % 2 ^ z) ∧
        (l.extractLsb' 0 2 = 1 → (BitVec.ofNat z v).toInt ∈ xs ∧ ∀ x ∈ xs, x ≤ (BitVec.ofNat z v).toInt) ∧
        (l.extractLsb' 0 2 = 2 → (BitVec.ofNat z v).toInt ∈ xs ∧ ∀ x ∈ xs, (BitVec.ofNat z v).toInt ≤ x)) ∧
      (t.toNat < 4 →
        let y := vectorLayout s t
        let xs := (List.range (lanesIn w y.bits)).map fun i => laneAt s a y.bits i
        let draw := if s.before.rm = 5 ∨ s.before.rm = 7 then gen s.before.srkey s.before.srstep 0 else 0
        let r : RoundIn := { rm := s.before.rm, r := draw }
        (∀ q, nanOperand y (xs.map (decodeNum y)) = some q → v = q.bits) ∧
        (nanOperand y (xs.map (decodeNum y)) = none →
          (l.extractLsb' 0 2 = 0 → v = (sumNums y r (xs.map (decodeNum y))).bits) ∧
          (l.extractLsb' 0 2 = 1 → v ∈ xs ∧ ∀ x ∈ xs, orderKey y x ≤ orderKey y v) ∧
          (l.extractLsb' 0 2 = 2 → v ∈ xs ∧ ∀ x ∈ xs, orderKey y v ≤ orderKey y x)))) ∧
  (∀ (s : State) (w : BitVec 2) (d a b : BitVec 3) (l : Lend),
    let x := readM s.before a.toNat
    let y := readM s.before b.toNat
    let op := l.extractLsb' 0 3
    let r := if op = 0 then x &&& y else if op = 1 then x ||| y else if op = 2 then x ^^^ y else if op = 3 then x &&& ~~~y
      else if op = 4 then ~~~x else x
    op.toNat < 6 → ∃ u v, exec (.vmsk w d a b l) s = .next u ∧ Keeps s u ∧
      Notes s u (.m a.toNat :: (if op.toNat < 4 then [.m b.toNat] else [])) [] ∧
      u.core.landings.take (s.core.landings.length + 1) = s.core.landings ++
        [resultOf s (if d = 0 then .none else .m d.toNat) r.toNat false 0 2 none] ∧
      Pushes { s with core := { s.core with landings := u.core.landings.take (s.core.landings.length + 1) } } u v false 0 2 none ∧
      v = (List.range 128).countP fun i => r.getLsbD i) ∧
  (∀ (s : State) (w : BitVec 2) (d : BitVec 3) (a : BitVec 6),
    (poisonV s.before a.toNat = true → Faults s (.vbitx w d a) 0x16 0 [.v a.toNat]) ∧
    (poisonV s.before a.toNat = false → ∃ u, exec (.vbitx w d a) s = .next u ∧ Keeps s u ∧ Notes s u [.v a.toNat] [] ∧
      Lands s u [resultOf s (if d = 0 then .none else .m d.toNat) ((readV s.before a.toNat).extractLsb' 0 128).toNat false 0
        (2 + bankPenalty s.issue.reads [a.toNat]) none]))

/-- R164, R165, R166: the contiguous vector accesses to the comb, and the checks of each in order. -/
def Obligations.VectorCombResults : Prop :=
  ∀ (s : State) (w : BitVec 2) (v c x : BitVec 6) (i : BitVec 4) (l : Option Lend), w ≠ 3 → Source x →
    let n := c.toNat
    let off := contiguousAt s w x i l
    let lo := (cell s n).base + off.toNat
    let inside := 0 ≤ off ∧ off + blockBytes w ≤ (cell s n).size ∧ off % 32 = 0
    let loads := (cell s n).state = .full ∨ (cell s n).state = .draining
    let stores := (cell s n).state = .empty ∨ (cell s n).state = .full
    (poisoned s x = false → CellUntouched s n → MayLoad s n off (blockBytes w) 32 →
      ∃ t bad, exec (.vld w v c x i l) s = .next t ∧ Keeps s t ∧ (bad = true ↔ CombBad s lo (blockBytes w)) ∧
        NotesWaits s t [sourceReg x] [] (combWaits s lo (blockBytes w) false) ∧
        Lands (checkCleared s n) t [resultOf s (.v v.toNat 0 (256 * 2 ^ w.toNat) false)
          (littleEndian (combBytes s lo (blockBytes w))) bad 0 3 none]) ∧
    (poisoned s x = true → Faults s (.vld w v c x i l) 0x16 0 [sourceReg x]) ∧
    (poisoned s x = false → ¬ loads → Faults s (.vld w v c x i l) 0x06 (c.setWidth 64) [sourceReg x]) ∧
    (poisoned s x = false → loads → ¬ inside → Faults s (.vld w v c x i l) 0x07 (c.setWidth 64) [sourceReg x]) ∧
    (poisoned s x = false → loads → inside → (cell s n).ckp = true → (cell s n).tag ≠ (cell s n).etag →
      s.before.relief ≠ 0x04 → Faults s (.vld w v c x i l) 0x04 (c.setWidth 64) [sourceReg x]) ∧
    (poisoned s x = false → poisonV s.before v.toNat = false → MayStore s n off (blockBytes w) 32 →
      Memory.wf s.core.comb = true →
      ∃ t, exec (.vst w v c x i l) s = .next t ∧ Keeps s t ∧
        CombStored s t lo (bytesOf (readV s.before v.toNat) (blockBytes w)) ∧
        NotesWaits s t [sourceReg x, .v v.toNat] [] (combWaits s lo (blockBytes w) true)) ∧
    (poisoned s x = true ∨ poisonV s.before v.toNat = true →
      Faults s (.vst w v c x i l) 0x16 0 [sourceReg x, .v v.toNat]) ∧
    (poisoned s x = false → poisonV s.before v.toNat = false → ¬ stores →
      Faults s (.vst w v c x i l) 0x06 (c.setWidth 64) [sourceReg x, .v v.toNat]) ∧
    (poisoned s x = false → poisonV s.before v.toNat = false → stores → ¬ inside →
      Faults s (.vst w v c x i l) 0x07 (c.setWidth 64) [sourceReg x, .v v.toNat])

/-- R164, R165, R167: gathers and scatters. Each lane that takes part loads or stores at its own offset; where lanes of a
scatter share bytes the highest-numbered one's remain. R289, R290: the global vector accesses through a handle that allows
them, and what they do where it does not. It is the model's choice where the spec leaves the point open: log entries 44 and
45. -/
def Obligations.GatherScatterAndVectorGlobalResults : Prop :=
  (∀ (s : State) (w : BitVec 2) (v c x : BitVec 6) (i : BitVec 4) (l : Lend), w ≠ 3 →
    let n := c.toNat
    let z := gatherSize l
    let at' := fun j => (cell s n).base + (laneOffsetIn s w x i l j).toNat
    let loads := (cell s n).state = .full ∨ (cell s n).state = .draining
    let stores := (cell s n).state = .empty ∨ (cell s n).state = .full
    let gReads := [Reg.m (gatherBy l)] ++ (gatherReads v x l).map Reg.v
    let sReads := [Reg.m (gatherBy l), .v x.toNat, .v v.toNat]
    (poisonV s.before x.toNat = false → loads → LanesWithin s w c x i l → CellUntouched s n →
      ((∃ j, Gathers s w l j) → TagPasses s n) →
      ∃ t q bad, exec (.vgat w v c x i l) s = .next t ∧ Keeps s t ∧
        NotesWaits s t gReads [] (gatherWaits s w c x i l false) ∧
        (∃ u : State, ((∃ j, Gathers s w l j) → u = checkCleared s n) ∧ ((¬ ∃ j, Gathers s w l j) → u = s) ∧
          Lands u t [resultOf s (.v v.toNat 0 (256 * 2 ^ w.toNat) false) q bad 0
            (5 + bankPenalty s.issue.reads (gatherReads v x l)) none]) ∧
        (∀ j < lanesIn w (8 * z),
          (Active s (gatherBy l) j → q / 2 ^ (8 * z * j) % 2 ^ (8 * z) = littleEndian (combBytes s (at' j) z)) ∧
          (¬ Active s (gatherBy l) j →
            q / 2 ^ (8 * z * j) % 2 ^ (8 * z) = if l.getLsbD 5 then 0 else laneAt s v (8 * z) j)) ∧
        (bad = true ↔ (∃ j, Gathers s w l j ∧ CombBad s (at' j) z) ∨
          ∃ r ∈ gatherReads v x l, poisonV s.before r = true)) ∧
    (poisonV s.before x.toNat = true → Faults s (.vgat w v c x i l) 0x16 0 gReads) ∧
    (poisonV s.before x.toNat = false → ¬ loads → Faults s (.vgat w v c x i l) 0x06 (c.setWidth 64) gReads) ∧
    (poisonV s.before x.toNat = false → loads → ¬ LanesWithin s w c x i l →
      Faults s (.vgat w v c x i l) 0x07 (c.setWidth 64) gReads) ∧
    (poisonV s.before x.toNat = false → loads → LanesWithin s w c x i l → (∃ j, Gathers s w l j) →
      (cell s n).ckp = true → (cell s n).tag ≠ (cell s n).etag → s.before.relief ≠ 0x04 →
      Faults s (.vgat w v c x i l) 0x04 (c.setWidth 64) gReads) ∧
    (poisonV s.before x.toNat = false → poisonV s.before v.toNat = false → stores → LanesWithin s w c x i l →
      Memory.wf s.core.comb = true →
      ∃ t, exec (.vsct w v c x i l) s = .next t ∧ Keeps s t ∧ NotesWaits s t sReads [] (gatherWaits s w c x i l true) ∧
        t.core = { s.core with comb := t.core.comb, combBad := t.core.combBad } ∧ Memory.wf t.core.comb = true ∧
        (∀ a, (∀ j, Gathers s w l j → ¬ (at' j ≤ a ∧ a < at' j + z)) → memByte t.core.comb a = memByte s.core.comb a) ∧
        (∀ j k, Gathers s w l j → k < z → (∀ h, Gathers s w l h → j < h → ¬ (at' h ≤ at' j + k ∧ at' j + k < at' h + z)) →
          memByte t.core.comb (at' j + k) = (readV s.before v.toNat).extractLsb' (8 * z * j + 8 * k) 8) ∧
        (∀ b, b ∈ t.core.combBad ↔ b ∈ s.core.combBad ∧ ∀ j, Gathers s w l j → ¬ (at' j ≤ 8 * b ∧ 8 * b + 8 ≤ at' j + z))) ∧
    (poisonV s.before x.toNat = true ∨ poisonV s.before v.toNat = true → Faults s (.vsct w v c x i l) 0x16 0 sReads) ∧
    (poisonV s.before x.toNat = false → poisonV s.before v.toNat = false → ¬ stores →
      Faults s (.vsct w v c x i l) 0x06 (c.setWidth 64) sReads) ∧
    (poisonV s.before x.toNat = false → poisonV s.before v.toNat = false → stores → ¬ LanesWithin s w c x i l →
      Faults s (.vsct w v c x i l) 0x07 (c.setWidth 64) sReads)) ∧
  (∀ (s : State) (w : BitVec 2) (v : BitVec 6) (h : BitVec 4) (x : BitVec 6) (i : BitVec 4) (l : Option Lend), w ≠ 3 →
    Source x →
    let va := vectorAt s w h x i l
    let ok := InHandle s h.toNat va (blockBytes w) 32
    let mode := (handle s h.toNat).mode
    let at' : BitVec 64 := BitVec.ofInt 64 va
    let sReads := [sourceReg x, Reg.v v.toNat]
    (ok → LoadMode mode → poisoned s x = false →
      VectorIssued s (.vldg w v h x i l) (.load false false true) w v va false [sourceReg x]) ∧
    (ok → LoadMode mode → VectorIssued s (.vldS w v h x i l) (.load false true true) w v va (poisoned s x) [sourceReg x]) ∧
    (¬ (ok ∧ LoadMode mode) → ∃ t, exec (.vldS w v h x i l) s = .next t ∧ Keeps s t ∧ Notes s t [sourceReg x] [] ∧
      Lands s t [resultOf s (.v v.toNat 0 (256 * 2 ^ w.toNat) false) 0 true 0 64 none]) ∧
    (poisoned s x = true → Faults s (.vldg w v h x i l) 0x16 0 [sourceReg x]) ∧
    (poisoned s x = false →
      ((handle s h.toNat).valid = false → Faults s (.vldg w v h x i l) 0x08 (h.setWidth 64) [sourceReg x]) ∧
      ((handle s h.toNat).valid = true → ¬ ok → Faults s (.vldg w v h x i l) 0x09 at' [sourceReg x]) ∧
      (ok → ¬ LoadMode mode → Faults s (.vldg w v h x i l) 0x0C at' [sourceReg x])) ∧
    (poisoned s x = true ∨ poisonV s.before v.toNat = true → Faults s (.vstg w v h x i l) 0x16 0 sReads) ∧
    (poisoned s x = false → poisonV s.before v.toNat = false →
      (ok → StoreMode mode → (handle s h.toNat).w = true →
        StoreIssued s (.vstg w v h x i l) va (bytesOf (readV s.before v.toNat) (blockBytes w)) sReads) ∧
      ((handle s h.toNat).valid = false → Faults s (.vstg w v h x i l) 0x08 (h.setWidth 64) sReads) ∧
      ((handle s h.toNat).valid = true → ¬ ok → Faults s (.vstg w v h x i l) 0x09 at' sReads) ∧
      (ok → LoadMode mode → mode ≠ 3 → Faults s (.vstg w v h x i l) 0x0A at' sReads) ∧
      (ok → ¬ LoadMode mode → ¬ StoreMode mode → Faults s (.vstg w v h x i l) 0x0C at' sReads) ∧
      (ok → StoreMode mode → (handle s h.toNat).w = false → Faults s (.vstg w v h x i l) 0x0A at' sReads)))

/-- R46, R47, R48, R50: the slots of a bank in every view. A slot written reads back, with its value modulo the extended
range, and no other slot changes; a value accumulates exactly; a slot rounds out by the first case that applies. R186, R188,
R189, R193, R194: the operations that leave a bank changed, and the checks that turn them away (R180). It is the model's
choice where the spec leaves the point open: log entry 43. -/
def Obligations.QuireFormResults : Prop :=
  (∀ (b : Bank) (g i : Nat) (x : Slot) (v : Machine.Num), View g → i < 256 / g →
    slotGet (slotPut b g i x) g i = { x := aliased g x.x, status := x.status } ∧
    aliased g (slotGet b g i).x = (slotGet b g i).x ∧
    slotGet (bankAdd b g i v) g i = accumulated g (slotGet b g i) v ∧
    (∀ j < 256 / g, j ≠ i →
      slotGet (slotPut b g i x) g j = slotGet b g j ∧ slotGet (bankAdd b g i v) g j = slotGet b g j) ∧
    (slotPut b g i x).tag = b.tag ∧
    (∀ (l : Layout) (rm : BitVec 3) (sat : Bool) (r : Nat), roundSlot l rm sat r g x = roundedOut l rm sat r g x)) ∧
  (∀ (s : State) (q : BitVec 1) (n : BitVec 4) (f : BitVec 5) (r v : BitVec 6) (e : BitVec 10) (l : Lend),
    let b := bank s q
    let o := bank s (q + 1)
    let g := viewOf b.tag
    let sh := shapeOf f
    let own := shapeOfTag b.tag
    let fits := Valid s n ∧ (geometry s n).fmt = f ∧ rows s n ≤ sh.m ∧ columns s n ≤ sh.n
    let y := formatLayout s f
    BankTakes s (.qzero q) q 2 [] [] none (fun k => ∀ i < 256, granule k i = { q := 0, status := 0, wrap := 0 }) ∧
    (b.tag = o.tag → BankTakes s (.qadd q) q 4 [.bank 0, .bank 1] [] none (fun k => ∀ i < 256 / g,
      slotGet k g i = slotSettled g ((slotGet b g i).status ||| (slotGet o g i).status) ((slotGet b g i).x + (slotGet o g i).x))) ∧
    (b.tag ≠ o.tag → TurnedAway s (.qadd q) 0x12) ∧
    BankTakes s (.qscl q e) q 4 [.bank q.toNat] [] none (fun k => ∀ i < 256 / g,
      slotGet k g i = slotSettled g (slotGet b g i).status
        (if 0 ≤ e.toInt then (slotGet b g i).x * 2 ^ e.toNat else (slotGet b g i).x / 2 ^ (-e).toNat)) ∧
    (fits → BankTakes s (.qtl q n f) q 8 [.tile n.toNat] (geometryReads [n]) (some sh.code) (fun k =>
      (∀ i < rows s n, ∀ j < columns s n, slotGet k sh.g (i * sh.n + j) =
        accumulated sh.g { x := 0, status := 0 } (decodeNum (tileLayout s n) (element s n i j))) ∧
      (∀ i < sh.m, ∀ j < sh.n, rows s n ≤ i ∨ columns s n ≤ j → slotGet k sh.g (i * sh.n + j) = { x := 0, status := 0 }))) ∧
    (¬ fits → TurnedAway s (.qtl q n f) 0x11) ∧
    (Valid s n → (geometry s n).fmt = 13 → (own.m * own.n + 7) / 8 ≤ rows s n * columns s n →
      BankTakes s (.qmsk q n) q 4 [.tile n.toNat, .bank q.toNat] (geometryReads [n]) none (fun k =>
        ∀ i < 256 / g, slotGet k g i = { slotGet b g i with
          status := (slotGet b g i).status ||| (if (tileNumber s n).testBit i then 0 else 4) })) ∧
    (¬ (Valid s n ∧ (geometry s n).fmt = 13 ∧ (own.m * own.n + 7) / 8 ≤ rows s n * columns s n) →
      TurnedAway s (.qmsk q n) 0x11) ∧
    (poisonV s.before v.toNat = false → b.tag = sh.code → r.toNat < sh.m →
      BankTakes s (.vqadd q r v f l) q 4 [.bank q.toNat] [.v v.toNat, .m (maskReg l)] none (fun k =>
        (∀ j < sh.n,
          (Active s (maskReg l) j → slotGet k sh.g (r.toNat * sh.n + j) =
            accumulated sh.g (slotGet b sh.g (r.toNat * sh.n + j)) (decodeNum y (laneAt s v y.bits j))) ∧
          (¬ Active s (maskReg l) j → slotGet k sh.g (r.toNat * sh.n + j) = slotGet b sh.g (r.toNat * sh.n + j))) ∧
        (∀ i < 256 / sh.g, i < r.toNat * sh.n ∨ (r.toNat + 1) * sh.n ≤ i → slotGet k sh.g i = slotGet b sh.g i))) ∧
    (poisonV s.before v.toNat = true → TurnedAway s (.vqadd q r v f l) 0x16) ∧
    (poisonV s.before v.toNat = false → b.tag ≠ sh.code ∨ sh.m ≤ r.toNat → TurnedAway s (.vqadd q r v f l) 0x12) ∧
    (r.toNat < 8 → BankTakes s (.vqz q r l) q 4 [] [] none (fun k => ∀ i < 256,
      granule k i = if 32 * r.toNat ≤ i ∧ i < 32 * (r.toNat + 1) then { q := 0, status := 0, wrap := 0 } else granule b i)) ∧
    (8 ≤ r.toNat → TurnedAway s (.vqz q r l) 0x12))

/-- R187, R193, R312, R313: rounding a bank out to a tile and a row of it to a v register, and the statistics of its rows.
It is the model's choice where the spec leaves the point open: log entry 43. -/
def Obligations.QuireRoundingResults : Prop :=
  ∀ (s : State) (q : BitVec 1) (n : BitVec 4) (f : BitVec 5) (m : BitVec 3) (sat : Bool) (r v : BitVec 6) (l : Lend)
    (stat : BitVec 2),
    let b := bank s q
    let sh := shapeOf f
    let own := shapeOfTag b.tag
    let fits := Valid s n ∧ (geometry s n).fmt = f ∧ rows s n ≤ own.m ∧ columns s n ≤ own.n
    let out := fun i j => roundSlot (tileLayout s n) m sat (elementRounds s n m i j) own.g (slotGet b own.g (i * own.n + j))
    let y := formatLayout s f
    let base := readX s.before (baseReg l)
    let old := if zeroes l = false ∧ maskReg l ≠ 0 then [v.toNat] else []
    let rounds := fun pre => ∃ t u k flags, exec (.vqr q r v f m l) s = .next t ∧ Keeps s t ∧
      NotesWaits s t ([.m (maskReg l)] ++ pre ++ old.map Reg.v) [] (resourceWaits s [.bank q.toNat] []) ∧
      Starts s u 6 [.bank q.toNat] [] [] 0 0 (0, 0, false) ∧
      Lands u t [resultOf s (.v v.toNat 0 (sh.n * y.bits) true) k false flags (6 + bankPenalty s.issue.reads old) none] ∧
      (∀ j < sh.n,
        (Active s (maskReg l) j → k / 2 ^ (y.bits * j) % 2 ^ y.bits = (roundSlot y m false (laneRounds s m l y.bytes j).r sh.g
          (slotGet b sh.g (r.toNat * sh.n + j))).bits % 2 ^ y.bits) ∧
        (¬ Active s (maskReg l) j → k / 2 ^ (y.bits * j) % 2 ^ y.bits =
          if zeroes l then 0 else laneAt s v y.bits j)) ∧
      (∀ z < 6, flags.getLsbD z = true ↔ ∃ j < sh.n, Active s (maskReg l) j ∧
        (roundSlot y m false (laneRounds s m l y.bytes j).r sh.g (slotGet b sh.g (r.toNat * sh.n + j))).flags.getLsbD z = true)
    let first := f.toNat
    let count := own.m - first
    let row := fun i => rowStatistic stat.toNat own.g
      ((List.range own.n).map fun j => slotGet b own.g ((first + i) * own.n + j))
    (ElementFormat f → fits → ∃ t w flags, exec (.qrnd q n f m sat) s = .next t ∧ Keeps s t ∧
      NotesWaits s t (geometryReads [n]) [] (resourceWaits s [.bank q.toNat] [.tile n.toNat]) ∧
      Starts s t 8 [.bank q.toNat] [.tile n.toNat] [.tile n.toNat w] flags 0 (0, 0, false) ∧
      TileHolds s n w (fun i j => (out i j).bits) ∧ TileFlags s n flags out) ∧
    (¬ fits → TurnedAway s (.qrnd q n f m sat) 0x11) ∧
    (b.tag = sh.code → r.toNat < sh.m →
      (¬ Stochastic m → rounds []) ∧ (Stochastic m → base.poison = false → rounds [.x (baseReg l)])) ∧
    (Stochastic m → base.poison = true → TurnedAway s (.vqr q r v f m l) 0x16) ∧
    (¬ (Stochastic m ∧ base.poison = true) → b.tag ≠ sh.code ∨ sh.m ≤ r.toNat → TurnedAway s (.vqr q r v f m l) 0x12) ∧
    (first < own.m → ∃ t u k flags, exec (.rstat v q f stat) s = .next t ∧ Keeps s t ∧
      NotesWaits s t [] [] (resourceWaits s [.bank q.toNat] [.rowStats]) ∧
      Starts s u (4 + count) [.bank q.toNat] [.rowStats] [] flags 0 (0, 0, false) ∧
      Lands u t [resultOf s (.rows v.toNat (32 * count)) k false 0 (4 + count) none] ∧
      (∀ i < count, k / 2 ^ (32 * i) % 2 ^ 32 = (row i).bits % 2 ^ 32) ∧
      (∀ z < 6, flags.getLsbD z = true ↔ ∃ i < count, (row i).flags.getLsbD z = true)) ∧
    (own.m ≤ first → TurnedAway s (.rstat v q f stat) 0x12)

/-- R190, R191, R172: banks and tiles moved to and from a cell, through the save image and the layout of the pitch; a word
with an uncorrectable error leaves what is loaded undefined and faults when the load ends. R192: the moves between tiles,
and the geometries that turn them away. It is the model's choice where the spec leaves the point open: log entries 11 and
45. -/
def Obligations.BankAndTileResults : Prop :=
  (∀ (s : State) (q : BitVec 1) (n : BitVec 4) (c : BitVec 6) (l : Lend) (i : BitVec 9) (k : Option Lend),
    let lo := (cell s c.toNat).base + l.toNat * 64
    let off := tileOffset i k
    let at' := (cell s c.toNat).base + off
    let notes := geometryReads [n] ++ [.sys 0x50]
    (MayStore s c.toNat (l.toNat * 64 : Nat) 9216 1 → ∃ t, exec (.qst q c l) s = .next t ∧ Keeps s t ∧
      NotesWaits s t [] [] (resourceWaits s [.bank q.toNat] [] ++ combWaits s lo 9216 true) ∧
      Starts s t 72 [.bank q.toNat] []
        [.comb lo ((List.range 64).flatMap fun j => numberBytes (quireNumber (bank s q) j) 144)] 0 0 (lo, 9216, true)) ∧
    (MayLoad s c.toNat (l.toNat * 64 : Nat) 9216 1 → CellUntouched s c.toNat →
      ∃ t u b fault, exec (.qld q c l) s = .next t ∧ Keeps s t ∧
        NotesWaits s t [] [] (resourceWaits s [] [.bank q.toNat] ++ combWaits s lo 9216 false) ∧
        u.core = { (checkCleared s c.toNat).core with serial := s.core.serial + 1 } ∧ u.before = s.before ∧
        Starts u t 72 [] [.bank q.toNat] [.bank q.toNat b] 0 fault (lo, 9216, false) ∧
        (CombBad s lo 9216 → fault = 0x16) ∧
        (¬ CombBad s lo 9216 → fault = 0 ∧
          ∀ j < 64, quireNumber b j = littleEndian (combBytes s (lo + 144 * j) 144))) ∧
    (Valid s n → PitchSuits s n → MayLoad s c.toNat (off : Nat) (tileRange s n) 1 → CellUntouched s c.toNat →
      ∃ t u w fault, exec (.tld n c i k) s = .next t ∧ Keeps s t ∧
        NotesWaits s t notes [] (resourceWaits s [] [.tile n.toNat] ++ combWaits s at' (tileRange s n) false) ∧
        u.core = { (checkCleared s c.toNat).core with serial := s.core.serial + 1 } ∧ u.before = s.before ∧
        Starts u t (3 + (tileBytes s n + 255) / 256) [] [.tile n.toNat] [.tile n.toNat w] 0 fault
          (at', tileRange s n, false) ∧
        ((∃ j < tileBytes s n, (at' + tilePlace s n j) / 8 ∈ s.before.combBad) → fault = 0x16) ∧
        ((∀ j < tileBytes s n, (at' + tilePlace s n j) / 8 ∉ s.before.combBad) → fault = 0 ∧
          (∀ j < tileBytes s n, w.extractLsb' (8 * j) 8 = memByte s.before.comb (at' + tilePlace s n j)) ∧
          w.toNat / 2 ^ (8 * tileBytes s n) = tileNumber s n / 2 ^ (8 * tileBytes s n))) ∧
    (Valid s n → PitchSuits s n → MayStore s c.toNat (off : Nat) (tileRange s n) 1 →
      ∃ t, exec (.tst n c i k) s = .next t ∧ Keeps s t ∧
        NotesWaits s t notes [] (resourceWaits s [.tile n.toNat] [] ++ combWaits s at' (tileRange s n) true) ∧
        Starts s t (3 + (tileBytes s n + 255) / 256) [.tile n.toNat] []
          (if s.before.tpitch = 0 then [.comb at' (numberBytes (tileNumber s n) (tileBytes s n))]
          else (List.range (rows s n)).map fun r => .comb (at' + r * s.before.tpitch.toNat)
            (numberBytes (tileNumber s n / 256 ^ (r * rowLength s n)) (rowLength s n))) 0 0 (at', tileRange s n, true)) ∧
    ((cell s c.toNat).state = .full → Valid s n → ¬ PitchSuits s n → off + tileRange s n ≤ (cell s c.toNat).size →
      TagPasses s c.toNat →
      (∃ t, exec (.tld n c i k) s = .next t ∧ Keeps s t ∧ t.issue.faults = s.issue.faults ++ [slotFault s 0x11 0]) ∧
      (∃ t, exec (.tst n c i k) s = .next t ∧ Keeps s t ∧ t.issue.faults = s.issue.faults ++ [slotFault s 0x11 0])) ∧
    ((cell s c.toNat).state = .full → ¬ Valid s n → TagPasses s c.toNat →
      let bytes := if (geometry s n).fmt.toNat ≤ 15 then tileRange s n else 0
      (off + bytes ≤ (cell s c.toNat).size → TurnedAway s (.tld n c i k) 0x11 ∧ TurnedAway s (.tst n c i k) 0x11) ∧
      ((cell s c.toNat).size < off + bytes → ∀ x, x = Instr.tld n c i k ∨ x = .tst n c i k →
        ∃ t, exec x s = .next t ∧ Keeps s t ∧ LeavesCore s t ∧
          t.issue.faults = s.issue.faults ++ [slotFault s 0x07 (c.setWidth 64)])) ∧
    ((cell s c.toNat).state ≠ .full → (cell s c.toNat).state ≠ .draining →
      (∀ x, x = Instr.qld q c l ∨ x = .tld n c i k → ∃ t, exec x s = .next t ∧ Keeps s t ∧ LeavesCore s t ∧
        t.issue.faults = s.issue.faults ++ [slotFault s 0x06 (c.setWidth 64)])) ∧
    ((cell s c.toNat).state ≠ .full → (cell s c.toNat).state ≠ .empty →
      (∀ x, x = Instr.qst q c l ∨ x = .tst n c i k → ∃ t, exec x s = .next t ∧ Keeps s t ∧ LeavesCore s t ∧
        t.issue.faults = s.issue.faults ++ [slotFault s 0x06 (c.setWidth 64)])) ∧
    ((cell s c.toNat).state = .full → (cell s c.toNat).size < l.toNat * 64 + 9216 →
      (∀ x, x = Instr.qld q c l ∨ x = .qst q c l → ∃ t, exec x s = .next t ∧ Keeps s t ∧ LeavesCore s t ∧
        t.issue.faults = s.issue.faults ++ [slotFault s 0x07 (c.setWidth 64)])) ∧
    ((cell s c.toNat).state = .full → Valid s n → (cell s c.toNat).size < off + tileRange s n →
      (∀ x, x = Instr.tld n c i k ∨ x = .tst n c i k → ∃ t, exec x s = .next t ∧ Keeps s t ∧ LeavesCore s t ∧
        t.issue.faults = s.issue.faults ++ [slotFault s 0x07 (c.setWidth 64)]))) ∧
  (∀ (s : State) (d a : BitVec 4) (sat : Bool) (m : BitVec 3),
    let n := min 4096 (tileBytes s a)
    let turned := Valid s a ∧ Valid s d ∧ (geometry s a).fmt = (geometry s d).fmt ∧ (geometry s a).es = (geometry s d).es ∧
      rows s d = columns s a ∧ columns s d = rows s a
    let converts := Valid s a ∧ Valid s d ∧ rows s d = rows s a ∧ columns s d = columns s a ∧
      ElementFormat (geometry s a).fmt ∧ ElementFormat (geometry s d).fmt
    let out := fun i j => convertOp (tileLayout s d) (tileLayout s a) { rm := m, r := elementRounds s d m i j } sat
      (element s a i j)
    TileTakes s (.tzero d) d 2 [] [] (fun w flags => w = 0 ∧ flags = 0) ∧
    ((geometry s a).fmt.toNat ≤ 15 → TileTakes s (.tmov d a) d (3 + (n + 255) / 256) [a] (geometryReads [a]) (fun w flags =>
      flags = 0 ∧ w.toNat % 2 ^ (8 * n) = tileNumber s a % 2 ^ (8 * n) ∧
      w.toNat / 2 ^ (8 * n) = tileNumber s d / 2 ^ (8 * n))) ∧
    (15 < (geometry s a).fmt.toNat → TurnedAway s (.tmov d a) 0x11) ∧
    (turned → TileTakes s (.ttr d a) d (3 + (tileBytes s a + 127) / 128) [a] (geometryReads [a, d]) (fun w flags =>
      flags = 0 ∧ TileHolds s d w (fun i j => element s a j i))) ∧
    (¬ turned → TurnedAway s (.ttr d a) 0x11) ∧
    (converts → TileTakes s (.tcvt d a sat m) d (3 + (max (tileBytes s a) (tileBytes s d) + 255) / 256) [a]
      (geometryReads [a, d]) (fun w flags => TileHolds s d w (fun i j => (out i j).bits) ∧ TileFlags s d flags out)) ∧
    (¬ converts → TurnedAway s (.tcvt d a sat m) 0x11))

/-- R176, R177, R181 to R185: the multiply-accumulates start with their operands, and the checks turn them away in order; `msl`
brings its scales three cycles later. -/
def Obligations.MatrixResults : Prop :=
  (∀ (s : State) (q : BitVec 1) (a b : BitVec 4) (f : BitVec 5) (z bt : Bool),
    ∀ row ∈ [(Instr.mma q a b f z bt, MacForm.mma), (.mmn q a b f z bt, .mmn), (.mmx q a b f z bt, .mmx)],
      (Suits s a b f bt (columns s a) → TagSuits s q f z →
        MacStarts s s.core row.1 row.2 q f z [.tile a.toNat, .tile b.toNat] (geometryReads [a, b]) [] (fun m =>
          m.steps = (columns s a + (shapeOf f).k - 1) / (shapeOf f).k ∧
          HoldsFactors s m a b bt (columns s a) (element s a))) ∧
      (¬ Suits s a b f bt (columns s a) → TurnedAway s row.1 0x11) ∧
      (Suits s a b f bt (columns s a) → ¬ TagSuits s q f z → TurnedAway s row.1 0x12)) ∧
  (∀ (s : State) (q : BitVec 1) (a b c : BitVec 4) (f : BitVec 5) (z bt : Bool),
    let suits := Suits s a b f bt (2 * columns s a) ∧ MetadataSuits s a c
    (suits → TagSuits s q f z → GoodMetadata s a c →
      MacStarts s s.core (.mms q a b c f z bt) .mms q f z [.tile a.toNat, .tile b.toNat, .tile c.toNat] (geometryReads [a, b, c]) []
        (fun m => m.steps = (columns s a + (shapeOf f).k - 1) / (shapeOf f).k ∧
          HoldsFactors s m a b bt (2 * columns s a) (expanded s a c))) ∧
    (¬ suits → TurnedAway s (.mms q a b c f z bt) 0x11) ∧
    (suits → ¬ TagSuits s q f z → TurnedAway s (.mms q a b c f z bt) 0x12) ∧
    (suits → TagSuits s q f z → ¬ GoodMetadata s a c → TurnedAway s (.mms q a b c f z bt) 0x10)) ∧
  (∀ (s : State) (q : BitVec 1) (a : BitVec 4) (d : BitVec 1) (f : BitVec 5) (z : Bool),
    let st := streamOf s.before d.toNat
    let need := columns s a * (shapeOf f).n
    let suits := Valid s a ∧ (geometry s a).fmt = f ∧ rows s a ≤ (shapeOf f).m
    let supplied := st.isOpen = true ∧
      ∃ h, vget s.before.dslots st.slot none = some h ∧ h.sfmt = f ∧ st.ipos + need ≤ h.nsym
    (suits → TagSuits s q f z → supplied →
      MacStarts s
        { s.core with
          streams := vset s.core.streams d.toNat { streamOf s.core d.toNat with ipos := st.ipos + need } }
        (.mmz q a d f z) .mmz q f z [.tile a.toNat] (geometryReads [a])
        (if streamHeld s.before d.toNat then [.event] else []) (fun m =>
          m.steps = (need + 63) / 64 ∧ m.rowsN = rows s a ∧ m.colsN = (shapeOf f).n ∧ m.depth = columns s a ∧
          m.stream = d.toNat ∧ m.es = (geometry s a).es.toNat ∧
          (∀ h, vget s.before.dslots st.slot none = some h → m.esB = h.es.toNat) ∧
          ∀ i < rows s a, ∀ p < columns s a, m.a.getD (i * columns s a + p) 0 = element s a i p)) ∧
    (¬ suits → TurnedAway s (.mmz q a d f z) 0x11) ∧
    (suits → ¬ TagSuits s q f z → TurnedAway s (.mmz q a d f z) 0x12) ∧
    (suits → TagSuits s q f z → ¬ supplied → TurnedAway s (.mmz q a d f z) 0x0F)) ∧
  (∀ (s : State) (h : BitVec 1) (a b r : BitVec 4) (f : BitVec 5),
    let first := 32 * h.toNat + f.toNat
    let suits := ∀ n, n = a ∨ n = b → Valid s n ∧ (geometry s n).fmt = 13 ∧ first + r.toNat < columns s n
    (suits → ∃ t vals, exec (.msl h a b r f) s = .next t ∧ Keeps s t ∧
      NotesWaits s t (geometryReads [a, b]) [] (resourceWaits s [.tile a.toNat, .tile b.toNat] []) ∧
      Starts s t 3 [.tile a.toNat, .tile b.toNat] []
        [.latches h.toNat f.toNat vals (min 16 (rows s a)) (min 8 (rows s b))] 0 0 (0, 0, false) ∧
      vals.length = r.toNat + 1 ∧
      ∀ k (hk : k < vals.length),
        (∀ i < min 16 (rows s a), vals[k].a.extractLsb' (8 * i) 8 = BitVec.ofNat 8 (element s a i (first + k))) ∧
        (∀ i < min 8 (rows s b), vals[k].b.extractLsb' (8 * i) 8 = BitVec.ofNat 8 (element s b i (first + k)))) ∧
    (¬ suits → TurnedAway s (.msl h a b r f) 0x11))

/-- R177, R181, R182, R184, R185: the steps of an operation of the array, taken in order from the first, accumulate into
each slot of the output the product of every logical position, exactly; no other slot changes. A step of `mmz` takes the
symbols that it is given in the order of the draw. It is the model's choice where the spec leaves the point open: log entry
43. -/
def Obligations.ArrayAccumulates : Prop :=
  ∀ (c : Core) (m : MacOp), m.rowsN ≤ (shapeOf m.fmt).m → m.colsN ≤ (shapeOf m.fmt).n →
    let sh := shapeOf m.fmt
    let g := sh.g
    (m.step = 0 → m.form ≠ .mmz → m.depth ≤ m.steps * (if m.form = .mms then 2 * sh.k else sh.k) →
      let done := (List.range m.steps).foldl (fun k _ => macAdvance c k []) m
      done.step = m.steps ∧ done.bank.tag = m.bank.tag ∧
      (∀ i < m.rowsN, ∀ j < m.colsN, slotGet done.bank g (i * sh.n + j) =
        (List.range m.depth).foldl (fun x p => accumulated g x (productAt c m i j p (m.b.getD (p * m.colsN + j) 0)))
          (slotGet m.bank g (i * sh.n + j))) ∧
      (∀ i < sh.m, ∀ j < sh.n, m.rowsN ≤ i ∨ m.colsN ≤ j →
        slotGet done.bank g (i * sh.n + j) = slotGet m.bank g (i * sh.n + j))) ∧
    (m.form = .mmz → 0 < m.colsN → ∀ symbols : List Nat,
      let next := macAdvance c m symbols
      next.step = m.step + 1 ∧ next.bank.tag = m.bank.tag ∧
      ∀ i < m.rowsN, ∀ j < m.colsN, slotGet next.bank g (i * sh.n + j) =
        (List.range symbols.length).foldl (fun x h =>
            let at' := 64 * m.step + h
            if at' % m.colsN = j then accumulated g x (productAt c m i j (at' / m.colsN) (symbols.getD h 0)) else x)
          (slotGet m.bank g (i * sh.n + j)))

/-- R230, R302, R326 to R339: the copies start in their engine's queue with every operand they read, the first failing check
of each turns it away, and a full queue holds its bundle. It is the model's choice where the spec leaves the point open: log
entry 48. -/
def Obligations.CopyCommandResults : Prop :=
  ∀ (s : State) (c : BitVec 6) (h r : BitVec 4) (o n : BitVec 6) (t : Bool) (l : Lend), Source o → Source n →
    let noted := [sourceReg o, sourceReg n, .sys 0x80, .sys 0x81]
    let toReg := (l.extractLsb' 4 5).toNat
    let va := globalRow (handle s h.toNat) (value s o) 0 0
    let image := [(poisoned s o = true, 0x16, 0), ((handle s h.toNat).valid = false, 0x08, h.setWidth 64),
      (va % 64 ≠ 0 ∨ va < (handle s h.toNat).base.toNat ∨
        ((handle s h.toNat).base.toNat : Int) + (handle s h.toNat).len.toNat < va + 4096, 0x09, BitVec.ofInt 64 va)] ++
      modeChecks (handle s h.toNat) false va
    let remote := [(poisoned s o = true ∨ poisoned s n = true, 0x16, 0),
      ((issueCell s.core c.toNat).state ≠ .full ∨ namedCore s (value s o) = none ∨ (value s n).extractLsb' 6 2 ≠ 0 ∨
        value s n >>> 24 ≠ 0, (0x06 : BitVec 8), c.setWidth 64)]
    (bindKind s = 0 →
      (∀ row ∈ copyRows c h o n t l,
        (NoneFails (copyChecks s row c h o n) → HasRoom s false →
          CommandStarts s row.syllable false (noted ++ if row.index then [.sys 0x82] else []) [] (fun k =>
            k.kind = row.kind ∧ k.cell = c.toNat ∧ k.op1 = value s o ∧ k.op2 = value s n ∧ k.src = handle s h.toNat ∧
            k.keep = row.keep ∧ k.sealing = row.sealing ∧ (row.fills = true → k.tag = row.tag))) ∧
        (NoneFails (copyChecks s row c h o n) → ¬ HasRoom s false → CommandWaits s row.syllable) ∧
        (∀ code addr, FirstFails (copyChecks s row c h o n) code addr → Stopped s row.syllable code addr)) ∧
      (NoneFails image → HasRoom s false → ∃ u : State, u.before = s.before ∧ u.issue = s.issue ∧ u.here = s.here ∧
        (let old := vget s.core.overlays r.toNat { valid := false, image := 0, part := 0 }
         u.core = { s.core with overlays := vset s.core.overlays r.toNat { old with valid := false } }) ∧
        ∃ t k, exec (.cpOvl r h o) s = .next t ∧ Keeps s t ∧ Notes s t [sourceReg o] [] ∧ Fresh s (.cpOvl r h o) k ∧
          k.kind = .ovl ∧ k.imm = r.toNat ∧ k.op1 = value s o ∧ k.src = handle s h.toNat ∧ t.core = queued u false k) ∧
      (∀ code addr, FirstFails image code addr → Stopped s (.cpOvl r h o) code addr) ∧
      (NoneFails remote → HasRoom s false →
        CommandStarts s (.cpC2r c o n) false [sourceReg o, sourceReg n] [] (fun k =>
          k.kind = .c2r ∧ k.cell = c.toNat ∧ some k.target = namedCore s (value s o) ∧
          k.other = ((value s n).extractLsb' 0 6).toNat ∧ k.tag = (value s n).extractLsb' 8 16 ∧ k.keep = false)) ∧
      (∀ code addr, FirstFails remote code addr → Stopped s (.cpC2r c o n) code addr)) ∧
    (BindingSuits s [2] →
      (NoneFails (moveChecks s h o n l) → HasRoom s false →
        CommandStarts s (.cpG2g h o n l) false [sourceReg o, sourceReg n, .x toReg, .sys 0x80, .sys 0x81] [] (fun k =>
          k.kind = .g2g ∧ k.op1 = value s o ∧ k.op2 = value s n ∧ k.op3 = (readX s.before toReg).bits ∧
          k.src = handle s h.toNat ∧ k.dst = handle s (l.extractLsb' 0 4).toNat)) ∧
      (NoneFails (moveChecks s h o n l) → ¬ HasRoom s false → CommandWaits s (.cpG2g h o n l)) ∧
      (∀ code addr, FirstFails (moveChecks s h o n l) code addr → Stopped s (.cpG2g h o n l) code addr)) ∧
    (bindKind s ≠ 0 → (∀ row ∈ copyRows c h o n t l, Stopped s row.syllable 0x01 0) ∧ Stopped s (.cpOvl r h o) 0x01 0 ∧
      Stopped s (.cpC2r c o n) 0x01 0 ∧ (bindKind s ≠ 2 → Stopped s (.cpG2g h o n l) 0x01 0))

/-- R229, R230, R292 to R294: the cell commands, and the states and limits that turn them away; what a fill and a copy-out
do to their cell as they start. It is the model's choice where the spec leaves the point open: log entry 48. -/
def Obligations.CellCommandResults : Prop :=
  (∀ (s : State) (c a b t : BitVec 6) (l : Lend), Source a → Source b → bindKind s = 0 →
    let x := issueCell s.core c.toNat
    let at' := c.setWidth 64
    let lo := (value s a).toNat
    let len := (value s b).toNat
    let arm := [(poisoned s a = true ∨ poisoned s b = true, (0x16 : BitVec 8), (0 : BitVec 64)),
      (lo % 64 ≠ 0 ∨ len = 0 ∨ len % 64 ≠ 0 ∨ 0x40000 < lo + len, 0x07, at'),
      (x.state ≠ .absent ∨ Overlaps s c.toNat lo len, 0x06, at')]
    let expect := [(poisoned s a = true, (0x16 : BitVec 8), (0 : BitVec 64)), (x.state = .absent, 0x06, at')]
    let open' := [(poisoned s a = true, (0x16 : BitVec 8), (0 : BitVec 64)),
      (namedCore s (value s a) = none ∨ x.state ≠ .empty, 0x06, at')]
    (NoneFails arm → HasRoom s false → CellChanges s (.cellArm c a b) c.toNat [sourceReg a, sourceReg b]
      (fun k => k.kind = .cellArm ∧ k.op1 = value s a ∧ k.op2 = value s b)
      (fun _ => ⟨lo, len, .empty, 0, 0, 0, false, false, 0⟩)) ∧
    (∀ code addr, FirstFails arm code addr → Stopped s (.cellArm c a b) code addr) ∧
    (Fillable x → HasRoom s false → CellChanges s (.cellSeal c t l) c.toNat []
      (fun k => k.kind = .cellSeal ∧ k.tag = (l ++ t).setWidth 16)
      (fun y => if y.state = .empty then { y with state := .full, tag := (l ++ t).setWidth 16, ckp := true, sealed := false }
        else if y.state = .fillingLocal then { y with sealed := true, sealTag := (l ++ t).setWidth 16 } else y)) ∧
    (¬ Fillable x → Stopped s (.cellSeal c t l) 0x06 at') ∧
    (x.state = .empty ∨ x.state = .full → HasRoom s false → CellChanges s (.cellFree c) c.toNat []
      (fun k => k.kind = .cellFree) (fun _ => Cell.reset)) ∧
    (x.state ≠ .empty → x.state ≠ .full → Stopped s (.cellFree c) 0x06 at') ∧
    (NoneFails expect → HasRoom s false → CellChanges s (.cellExpect c a) c.toNat [sourceReg a]
      (fun k => k.kind = .cellExpect ∧ k.tag = (value s a).setWidth 16)
      (fun y => { y with etag := (value s a).setWidth 16, ckp := y.ckp || y.state == .full || y.state == .draining })) ∧
    (∀ code addr, FirstFails expect code addr → Stopped s (.cellExpect c a) code addr) ∧
    (NoneFails open' → HasRoom s false → ∃ w, namedCore s (value s a) = some w ∧
      CellChanges s (.cellOpen c a) c.toNat [sourceReg a] (fun k => k.kind = .cellOpen ∧ k.target = w)
        (fun y => { y with state := .fillingRemote, filler := w })) ∧
    (∀ code addr, FirstFails open' code addr → Stopped s (.cellOpen c a) code addr)) ∧
  (∀ (c : Core) (n : Nat), (∀ k ∈ outstanding c, stateCell k ≠ some n) → issueCell c n = cellOf c n) ∧
  (∀ (c : Core) (k : Command) (n : Nat), n < 64 →
    (fillCell k = some n → cellOf (applyCommand k c) n = { cellOf c n with
      state := .fillingLocal, sealed := k.sealing, sealTag := if k.sealing then k.tag else (cellOf c n).sealTag }) ∧
    (copyOutCell k = some n → cellOf (applyCommand k c) n =
      if k.keep then cellOf c n else { cellOf c n with state := .draining }))

/-- R340 to R342, R326: the decoder commands take their place in the decode engine's queue; they raise no fault of their own at
issue. -/
def Obligations.DecoderCommandResults : Prop :=
  ∀ (s : State) (c : BitVec 6) (t n : BitVec 2) (i : BitVec 12) (l : Lend), bindKind s = 0 →
    let forms : List (Instr × (Command → Prop)) := [
      (.decTab c t, fun k => k.kind = .decTab ∧ k.cell = c.toNat ∧ k.slot = t.toNat),
      (.decOpen c t n i l, fun k => k.kind = .decOpen ∧ k.cell = c.toNat ∧ k.slot = t.toNat ∧ k.stream = n.toNat ∧
        k.imm = (l ++ i).toNat),
      (.decSeek n i, fun k => k.kind = .decSeek ∧ k.stream = n.toNat ∧ k.imm = i.toNat),
      (.decSave c n i, fun k => k.kind = .decSave ∧ k.cell = c.toNat ∧ k.stream = n.toNat ∧ k.imm = 32 * i.toNat),
      (.decLoad c n i, fun k => k.kind = .decLoad ∧ k.cell = c.toNat ∧ k.stream = n.toNat ∧ k.imm = 32 * i.toNat)]
    ∀ f ∈ forms, (HasRoom s true → CommandStarts s f.1 true [] [] f.2) ∧ (¬ HasRoom s true → CommandWaits s f.1)

/-- R401 to R405: `osend` and the reproducible collectives start, in a queue or bound to a frame's collective engine, with
the operands and the descriptor they read; the first failing check turns each away. It is the model's choice where the spec
leaves the point open: log entry 16. -/
def Obligations.CollectiveResults : Prop :=
  (∀ (s : State) (c a b : BitVec 6) (k : Bool), Source a → Source b → BindingSuits s [1] →
    let x := issueCell s.core c.toNat
    let nodes := sendNodes (partOf s.pkg (taskPart s.before)) (value s a)
    let checks := [(poisoned s a = true ∨ poisoned s b = true, 0x16, 0), (x.state ≠ .full, 0x06, c.setWidth 64),
      (4096 < x.size, 0x07, c.setWidth 64),
      (¬ (∃ ns, nodes = some ns ∧ ns ≠ [] ∧ ∀ n ∈ ns, waggleRoute s.pkg (taskPart s.before) n = true),
        (0x03 : BitVec 8), (0 : BitVec 64))]
    (NoneFails checks → HasRoom s false → CommandStarts s (.osend c a b k) false [sourceReg a, sourceReg b] [] (fun m =>
      m.kind = .osend ∧ m.cell = c.toNat ∧ m.op1 = value s a ∧ m.op2 = value s b ∧ m.keep = k ∧
      ∃ ns, nodes = some ns ∧ m.parts = ns.map (BitVec.ofNat 32))) ∧
    (NoneFails checks → ¬ HasRoom s false → CommandWaits s (.osend c a b k)) ∧
    (∀ code addr, FirstFails checks code addr → Stopped s (.osend c a b k) code addr)) ∧
  (∀ (s : State) (c a b e : BitVec 6), Source a → Source b → BindingSuits s [1] →
    let forms : List (Instr × CmdKind × BitVec 6) := [(.collMx c a b e, .collMx, e), (.collBs c a b e, .collBs, e),
      (.collBc c a b, .collBc, 0), (.collAg c a b, .collAg, 0)]
    let x := issueCell s.core c.toNat
    let d := descriptorIn s c.toNat
    ∀ f ∈ forms,
      (NoneFails (collectiveChecks s f.2.1 c a b f.2.2) → HasRoom s false →
        CommandStarts s f.1 false [sourceReg a, sourceReg b] (combWaits s x.base x.size false) (fun k =>
          k.kind = f.2.1 ∧ k.cell = c.toNat ∧ k.other = f.2.2.toNat ∧ k.op1 = value s a ∧ k.op2 = value s b ∧
          k.src = handle s d.src ∧ k.dst = handle s d.dst ∧ k.tag = d.tag ∧ k.parts = d.entries ∧ k.rank = d.rank ∧
          k.root = d.root ∧ k.count = d.n ∧ k.ident = d.ident)) ∧
      (NoneFails (collectiveChecks s f.2.1 c a b f.2.2) → ¬ HasRoom s false → CommandWaits s f.1) ∧
      (∀ code addr, FirstFails (collectiveChecks s f.2.1 c a b f.2.2) code addr → Stopped s f.1 code addr)) ∧
  (∀ (s : State) (c a b e : BitVec 6) (k : Bool), bindKind s ≠ 0 → bindKind s ≠ 1 →
    ∀ i ∈ [Instr.osend c a b k, .collMx c a b e, .collBs c a b e, .collBc c a b, .collAg c a b], Stopped s i 0x01 0)

/-- R60, R61, R174, R175, R178, R182, R183, R311, R349: a busy state that ends has its effect: a tile, the slots of a bank with
its tag as it stands, a tag, comb bytes or latches are written, the flags join `sys.fflags`, and a fault or a trap goes on the
matrix stream, unless the task is retiring after a fatal fault. A latch load that leads
no operation as it should is noted as mistimed. R177, R185, R321: the first operation of the MAC array takes a step that is
due and has its symbols; after its last step its bank is what the busy state leaves behind. A step that is not due, or has
not its symbols, waits. It is the model's choice where the spec leaves the point open: log entries 1 and 47. -/
def Obligations.BusyOperationsEndAndTheArraySteps : Prop :=
  (∀ (s : State) (n : Nat) (b : BusyOp) (rest : List BusyOp),
    let c := coreState s n
    let d := { c with busy := rest, fflags := c.fflags ||| b.flags }
    OneEnds c b rest →
    (∀ st, c.mode = .ending st → st ≠ 0 → b.effects = [] → CoreBecomes s (.busyStateEnd n) n d) ∧
    (b.fault = 0 → Untrapped c b.flags →
      (b.effects = [] → CoreBecomes s (.busyStateEnd n) n d) ∧
      (∀ i w, b.effects = [.tile i w] → i < 16 →
        ∃ bad, CoreBecomes s (.busyStateEnd n) n { d with t := c.t.setIfInBounds i w, tileBad := bad } ∧
          ∀ j < 16, bad.getLsbD j = (j != i && c.tileBad.getLsbD j)) ∧
      (∀ i k, b.effects = [.bank i k] → i < 2 →
        ∃ bad, CoreBecomes s (.busyStateEnd n) n { d with
            banks := c.banks.setIfInBounds i { vget c.banks i Bank.reset with granules := k.granules }, bankBad := bad } ∧
          ∀ j < 2, bad.getLsbD j = (j != i && c.bankBad.getLsbD j)) ∧
      (∀ i t, b.effects = [.tag i t] → i < 2 →
        CoreBecomes s (.busyStateEnd n) n { d with
          banks := c.banks.setIfInBounds i { vget c.banks i Bank.reset with tag := t } }) ∧
      (∀ lo bs, b.effects = [.comb lo bs] →
        ∃ m bad, CoreBecomes s (.busyStateEnd n) n { d with comb := m, combBad := bad } ∧ BytesBecome c.comb m lo bs ∧
          ∀ w, w ∈ bad ↔ w ∈ c.combBad ∧ ¬ (lo ≤ 8 * w ∧ 8 * w + 8 ≤ lo + bs.length)) ∧
      (∀ page first vals ra rb, b.effects = [.latches page first vals ra rb] → ra ≤ 16 → rb ≤ 8 →
        ∃ ls : Vector Latch 32,
          (LatchLeads c page first vals.length b.endsAt → CoreBecomes s (.busyStateEnd n) n { d with latches := ls }) ∧
          (¬ LatchLeads c page first vals.length b.endsAt →
            CoreBecomes s (.busyStateEnd n) n { d with latches := ls, mistimed := c.mistimed ++ [b.pc] }) ∧
          ∀ i : Fin 32,
            (first ≤ i.val → i.val < first + vals.length →
              let x := vals.getD (i.val - first) { a := 0, b := 0 }
              (∀ r < 128, (ls[i.val]).a.getLsbD r = if r < 8 * ra then x.a.getLsbD r else (c.latches[i.val]).a.getLsbD r) ∧
              (∀ r < 64, (ls[i.val]).b.getLsbD r = if r < 8 * rb then x.b.getLsbD r else (c.latches[i.val]).b.getLsbD r)) ∧
            (¬ (first ≤ i.val ∧ i.val < first + vals.length) → ls[i.val] = c.latches[i.val]))) ∧
    (c.mode = .running → c.stop = none → b.fault ≠ 0 → b.effects = [] →
      CoreBecomes s (.busyStateEnd n) n { d with stop := some (matrixStop b b.fault) }) ∧
    (c.mode = .running → c.stop = none → b.fault = 0 → ¬ Untrapped c b.flags → b.effects = [] →
      CoreBecomes s (.busyStateEnd n) n { d with stop := some (matrixStop b 0x15) })) ∧
  (∀ (s : State) (n : Nat) (m : MacOp) (rest : List MacOp),
    let c := coreState s n
    let st := vget c.streams m.stream Stream.reset
    c.macs = m :: rest →
    (m.start + m.step < c.mclk → m.form ≠ .mmz →
      let m' := macAdvance c m []
      (m.step + 1 < m.steps → CoreBecomes s (.matrixStep n) n { c with macs := m' :: rest }) ∧
      (m.steps ≤ m.step + 1 →
        CoreBecomes s (.matrixStep n) n { c with macs := rest, busy := c.busy.map (bankEnds m') })) ∧
    (m.start + m.step < c.mclk → m.form = .mmz → Supplied s c m →
      let m' := macAdvance c m ((st.ready.take (symbolsTaken m)).map (·.1))
      let d := { c with streams := c.streams.setIfInBounds m.stream { st with ready := st.ready.drop (symbolsTaken m) } }
      (m.step + 1 < m.steps → CoreBecomes s (.matrixStep n) n { d with macs := m' :: rest }) ∧
      (m.steps ≤ m.step + 1 →
        CoreBecomes s (.matrixStep n) n { d with macs := rest, busy := c.busy.map (bankEnds m') })) ∧
    (c.mclk ≤ m.start + m.step ∨ ¬ Supplied s c m → CoreBecomes s (.matrixStep n) n c))

/-- R249, R252, R257 to R260, R263, R271, R387: a load or store that is in turn is performed by the aligned 8-byte parts that are
drawn of those left, and one within a single part whole: a load takes its bytes there, as the agents of its place find memory, with
the poison of their words, and a store leaves them. A part on the line being copied waits. Where a byte lies in a window of no
aperture the access is refused. Bytes in another package are asked for by a flit that goes out by the route of their node. A store
that a fence or a later release of a scope waits for may be performed for that scope first; the agents of the scope find it, others
do not, until it is performed for all. R271, R277, R281: an atomic in turn is one step at its controller: it reads its location and,
unless a word there is poisoned, writes the new value; the old value is its result; one that acquires has a later read of a word
that an agent of its scope has written read again. A poisoned location stays, and a posted atomic that meets one is logged (KIND
10). It is the model's choice where the spec leaves the point open: log entries 1, 6, 12 and 61. -/
def Obligations.AccessesArePerformed : Prop :=
  (∀ (s : State) (n : Nat) (a : Access) (pre post : List Access) (ps : List Nat),
    let c := coreState s n
    let performed := fun (a' : Access) (k : Package) => exec (.memoryAccessPerformed n a.id) s = .next (
      let t := withCore s n (withAccess c pre a' post)
      { t with choice := s.choice + 1, pkg := k })
    let parts := fun (now : List Nat) (all : Bool) => Picks a.va ps.length a.parts now ∧
      (all = true ↔ AllParts a.va ps.length (a.parts ++ now))
    let drawn := fun (now : List Nat) (P : Nat → Prop) => ∀ i (h : i < ps.length), (a.va + i) / 8 ∈ now → P ps[i]
    InTurn c a pre post → (a.kind ≠ .store → ∃ sg sp v, a.kind = .load sg sp v) → a.places = ps.map .here → 0 < ps.length →
    (a.kind = .store → ForAllAgents c a post) → a.within = 0 → Memory.wf s.pkg.mem = true →
    ((∀ p ∈ ps, Plain s.pkg p ∨ InCopy s.pkg p) →
      (a.kind ≠ .store → ∀ k, Finds s (placeNumber n) k → ∃ now all r bad, parts now all ∧
        (¬ drawn now (Plain s.pkg) → exec (.memoryAccessPerformed n a.id) s = .next { s with choice := s.choice + 1 }) ∧
        (drawn now (Plain s.pkg) →
          (r : List Byte).length = ps.length ∧
          (∀ i (h : i < ps.length), r.getD i 0 = if (a.va + i) / 8 ∈ now then memAt k ps[i] else a.result.getD i 0) ∧
          (bad = true ↔ a.poisoned = true ∨ ¬ drawn now fun p => p / 8 ∉ k.memBad) ∧
          performed { a with parts := a.parts ++ now, performed := all, result := r, poisoned := bad } s.pkg)) ∧
      (a.kind = .store → Unscoped s → ps.Nodup → a.data.length = ps.length → ∃ now all, parts now all ∧
        (¬ drawn now (Plain s.pkg) → exec (.memoryAccessPerformed n a.id) s = .next { s with choice := s.choice + 1 }) ∧
        (drawn now (Plain s.pkg) → ∃ k,
          Stores (placeNumber n) s.pkg k (pickParts a.va now ps) (pickParts a.va now a.data) ∧
          performed { a with parts := a.parts ++ now, performed := all } k))) ∧
    ((∀ p ∈ ps, Plain s.pkg p ∨ InCopy s.pkg p ∨ Unwindowed s.pkg p) → (∃ p ∈ ps, Unwindowed s.pkg p) → Unscoped s →
      performed { a with performed := true, faulted := true } s.pkg)) ∧
  (∀ (s : State) (n : Nat) (a : Access) (pre post : List Access) (ps : List Nat) (ids : List Nat) (scope : BitVec 18),
    let c := coreState s n
    InTurn c a pre post → a.kind = .store → ¬ Returns c a → a.places = ps.map .here → 0 < ps.length → ps.Nodup →
    a.data.length = ps.length → (∀ p ∈ ps, Plain s.pkg p) → a.parts = [] →
    (a.within = 0 → Unscoped s → c.hold = [.fence ids scope] → a.id ∈ ids → scope ≠ BitVec.allOnes 18 →
      exec (.memoryAccessPerformed n a.id) s = .next (
        let t := withCore s n (withAccess c pre { a with within := scope } post)
        { t with choice := s.choice + 1 }) ∨
      ∃ now all k, Picks a.va ps.length [] now ∧ (all = true ↔ AllParts a.va ps.length now) ∧
        Stores (placeNumber n) s.pkg k (pickParts a.va now ps) (pickParts a.va now a.data) ∧
        exec (.memoryAccessPerformed n a.id) s = .next (
          let t := withCore s n (withAccess c pre { a with parts := now, performed := all } post)
          { t with choice := s.choice + 2, pkg := k })) ∧
    (OneScoped s n a → ∃ k, Stores (placeNumber n) s.pkg k ps a.data ∧
      exec (.memoryAccessPerformed n a.id) s = .next (
        let t := withCore s n (withAccess c pre { a with performed := true } post)
        { t with pkg := k }))) ∧
  (∀ (s : State) (n : Nat) (a : Access) (pre post : List Access) (node pa len : Nat),
    let c := coreState s n
    let asks := fun (k : Package) (kind : RemoteKind) =>
      (NoRoute k (taskPart c) node false → k = s.pkg) ∧
      (∀ out, RouteTo s.pkg (taskPart c) node out → k = setPort s.pkg out { portOf s.pkg out with
        flits := (portOf s.pkg out).flits ++
          [{ dest := node, part := taskPart c, hops := 0, body := .request s.pkg.pnode.toNat a.id pa kind }] })
    InTurn c a pre post → ForAllAgents c a post → a.within = 0 → Unscoped s → 0 < len →
    a.places = ((List.range len).map fun i => .remote node (pa + i)) →
    ((∀ op b d k j o, a.kind ≠ .amo op b d k j o) → ∃ now all r bad k, Picks a.va len a.parts now ∧
      (all = true ↔ AllParts a.va len (a.parts ++ now)) ∧ (bad = a.poisoned) ∧ (a.kind = .store → r = a.result) ∧
      (all = false → k = s.pkg) ∧
      (all = true → (a.kind = .store → a.data.length = len → asks k (.write a.data [])) ∧
        (a.kind ≠ .store → asks k (.read len))) ∧
      exec (.memoryAccessPerformed n a.id) s = .next (
        let t := withCore s n (withAccess c pre
          { a with parts := a.parts ++ now, performed := all, result := r, poisoned := bad } post)
        { t with choice := s.choice + 1, pkg := k })) ∧
    (∀ op b d x j o, a.kind = .amo op b d x j o → ∃ k,
      asks k (.amo (amoList.findIdx (· == op)) len b d x j a.va) ∧
      exec (.amoPerformed n a.id) s = .next (
        let t := withCore s n (withAccess c pre { a with performed := true } post)
        { t with choice := s.choice + 1, pkg := k }))) ∧
  (∀ (s : State) (n : Nat) (a : Access) (pre post : List Access) (ps : List Nat) (op : AmoOp) (b d : Nat) (k j : BitVec 32)
    (o : BitVec 2),
    let c := coreState s n
    let old := ps.map (memAt s.pkg)
    let part := taskPart c
    let stale := fun (x : Access) => ((∃ sg sp v, x.kind = .load sg sp v) ∨ Returns c x) ∧
      ∃ pa, Place.here pa ∈ x.places ∧ writersOf s.pkg.writers (pa / 8) &&& a.scope ≠ 0
    let becomes := fun (bad : Bool) (post' : List Access) (q : Package) => exec (.amoPerformed n a.id) s = .next (
      let t := withCore s n (withAccess c pre { a with performed := true, result := old, poisoned := bad } post')
      { t with choice := s.choice + 1, pkg := q })
    let after := fun (post' : List Access) =>
      (¬ Acquires c a → post' = post) ∧ (Acquires c a →
      post'.length = post.length ∧ ∀ i (h : i < post.length) (h' : i < post'.length),
        (stale post[i] →
          post'[i] = { post[i] with performed := false, faulted := false, poisoned := false, parts := [] }) ∧
        (¬ stale post[i] → post'[i] = post[i]))
    InTurn c a pre post → a.kind = .amo op b d k j o → Unscoped s → ForAllAgents c a post → a.within = 0 → 0 < ps.length →
    a.places = ps.map .here → (∀ x ∈ post, ∀ pa, Place.here pa ∈ x.places → Plain s.pkg pa) →
    ((∀ p ∈ ps, Plain s.pkg p) →
      ((∀ p ∈ ps, p / 8 ∉ s.pkg.memBad) → ps.Nodup → ∃ post' q, after post' ∧
        Stores (placeNumber n) s.pkg q ps (toBytes ps.length (amoNew op (8 * ps.length) a.va (ofBytes old) b d k j)) ∧
        becomes false post' q) ∧
      ((∃ p ∈ ps, p / 8 ∈ s.pkg.memBad) →
        (Returns c a → ∃ post', after post' ∧ becomes true post' s.pkg) ∧
        (¬ Returns c a → ∃ unit, becomes true post (
          let p := partOf s.pkg part
          let e : LogEntry := ⟨10, unit, 0, BitVec.ofNat 64 a.va, s.pkg.time.setWidth 64⟩
          raiseVector part 27 (setPart s.pkg part { p with log := p.log.add e }))))) ∧
    ((∀ p ∈ ps, Plain s.pkg p ∨ InCopy s.pkg p) → (∃ p ∈ ps, InCopy s.pkg p) →
      exec (.amoPerformed n a.id) s = .next { s with choice := s.choice + 1 }) ∧
    ((∀ p ∈ ps, Plain s.pkg p ∨ InCopy s.pkg p ∨ Unwindowed s.pkg p) → (∃ p ∈ ps, Unwindowed s.pkg p) →
      exec (.amoPerformed n a.id) s = .next (
        let t := withCore s n (withAccess c pre { a with performed := true, faulted := true } post)
        { t with choice := s.choice + 1 })))

/-- R249, R263, R271, R273 to R275, R277, R387: the answer of a load or a returning atomic brings its value, and its poison, to
every result that awaits it, and an acknowledgement ends a posted access; what was performed before an earlier acquire is not
answered until that is performed. A refusal, here or at another package, poisons a speculative load and stops the core of any other
access, with code 0x0E at its address. R238 to R242, R285: the walk of a `probe` over a range in one page of
local memory gives the run that the leaf of the three tables maps, or a translation fault where a table or the leaf is not
as it should be; a walk that the probe has taken is not taken again. It is the model's choice where the spec leaves the
point open: log entries 6, 13 and 39. -/
def Obligations.AnswersAndWalksArrive : Prop :=
  (∀ (s : State) (n : Nat) (a : Access),
    let c := coreState s n
    let awaited := Returns c a
    let stops := fun (i : Instr) => CoreBecomes s i n { c with
      landings := c.landings.filter fun l => l.awaits != some a.id
      accesses := without c a.id, mode := .stopping, halted := .running, request := none
      stop := some { slots := [], bundleCode := 0x0E, bundleAddr := BitVec.ofNat 64 a.va, c0 := none, c1 := none
                     m := none, d := none } }
    let outside := a.places ≠ [] ∧ ∀ p ∈ a.places, ∀ q, p ≠ .here q
    HasAccess c a → a.performed = true →
    ((∃ pre post, c.accesses = pre ++ a :: post ∧ ∃ x ∈ pre, Acquires c x ∧ x.performed = false) → ∀ r,
      CoreBecomes s (.globalLoadReturn n a.id r) n c ∧ CoreBecomes s (.atomicReturn n a.id r) n c ∧
      CoreBecomes s (.apertureFaultReport n a.id) n c) ∧
    ((∀ pre post, c.accesses = pre ++ a :: post → ∀ x ∈ pre, Acquires c x → x.performed = true) →
    (∀ signed spec vector, a.kind = .load signed spec vector → a.faulted = false →
      (∀ (r : Option Reply) (ps : List Nat), a.places = ps.map .here → a.result.length = ps.length → 0 < ps.length → (vector = false → ps.length ≤ 8) →
        CoreBecomes s (.globalLoadReturn n a.id r) n { c with
          landings := arrived c a.id (loaded (signed && !vector) a.result) a.poisoned, accesses := without c a.id }) ∧
      (∀ (r : Reply), outside → r.fault = false → r.bytes.length = a.places.length →
        (vector = false → r.bytes.length ≤ 8) →
        CoreBecomes s (.globalLoadReturn n a.id (some r)) n { c with
          landings := arrived c a.id (loaded (signed && !vector) r.bytes) (a.poisoned || r.bad != [])
          accesses := without c a.id }) ∧
      (∀ (r : Reply), outside → r.fault = true →
        (spec = true → CoreBecomes s (.globalLoadReturn n a.id (some r)) n { c with
          landings := arrived c a.id 0 true, accesses := without c a.id }) ∧
        (spec = false → c.mode = .running → c.stop = none → stops (.globalLoadReturn n a.id (some r))))) ∧
    (∀ op b d k j o, a.kind = .amo op b d k j o → a.faulted = false →
      (awaited → ∀ (r : Option Reply) (ps : List Nat), a.places = ps.map .here → a.result.length = ps.length →
        CoreBecomes s (.atomicReturn n a.id r) n { c with
          landings := arrived c a.id (ofBytes a.result) a.poisoned, accesses := without c a.id }) ∧
      (awaited → ∀ (r : Reply), outside →
        (r.fault = false → r.bytes.length = a.places.length → CoreBecomes s (.atomicReturn n a.id (some r)) n { c with
          landings := arrived c a.id (ofBytes r.bytes) (a.poisoned || r.bad != []), accesses := without c a.id }) ∧
        (r.fault = true → c.mode = .running → c.stop = none → stops (.atomicReturn n a.id (some r)))) ∧
      (¬ awaited → CoreBecomes s (.postedWriteAck n a.id) n { c with accesses := without c a.id })) ∧
    (a.kind = .store → a.faulted = false → ¬ awaited →
      CoreBecomes s (.postedWriteAck n a.id) n { c with accesses := without c a.id }) ∧
    (a.faulted = true ∨ outside →
      (∀ signed vector, a.kind = .load signed true vector → CoreBecomes s (.apertureFaultReport n a.id) n { c with
          landings := arrived c a.id 0 true, accesses := without c a.id }) ∧
      ((∀ signed vector, a.kind ≠ .load signed true vector) → c.mode = .running → c.stop = none →
        stops (.apertureFaultReport n a.id))))) ∧
  (∀ (s : State) (n : Nat) (p : Probe),
    let c := coreState s n
    let vpn := p.va / 65536
    let found := fun (r : WalkResult) =>
      CoreBecomes s (.translationWalkDone n) n { c with probe := some { p with result := some r } }
    c.probe = some p → NoMigration s.pkg →
    (p.result = none → 0 < p.len → (p.va + p.len - 1) / 65536 = vpn → p.perm = 0 → c.tlb.length < 256 →
      (∀ w, LeafOf s.pkg (taskPart c) vpn w → LocalLeaf s.pkg (taskPart c) w →
        found ⟨0, [⟨vpn, w / 256 % 2 ^ 12 + 1, w / 2 ^ 20 % 2 ^ 36, w.testBit 1, w.testBit 2, false, false, 0⟩]⟩) ∧
      (∀ w, LeafOf s.pkg (taskPart c) vpn w → w % 2 = 0 → found ⟨0x0B, []⟩) ∧
      ((partOf s.pkg (taskPart c)).ptroot.getLsbD 0 = false → found ⟨0x0B, []⟩)) ∧
    (p.result ≠ none → CoreBecomes s (.translationWalkDone n) n c))

/-- R251 to R253: a migration entry starts at line 0 if its runs may be copied, and stays off otherwise; its next line is
copied with its poison marks, and it is done after the last; while it is enabled, the lines behind P are served at their new
place, the line P at neither, and the others at their old place; a byte that is addressed in the new run itself reads as undefined
until the copy is done. It is the model's choice where the spec leaves the point
open: log entry 6. -/
def Obligations.MigrationRules : Prop :=
  ∀ (s : State) (n : Nat), n < 16 →
    let m := migrationOf s.pkg n
    let src := migOld m + 256 * m.p.toNat
    let dst := migNew m + 256 * m.p.toNat
    (MayMigrate s.pkg n → PkgBecomes s (.migrationStart n)
      (setMigration s.pkg n { m with p := 0, since := s.pkg.cycle, en := true, done := m.lines == 0 })) ∧
    (¬ MayMigrate s.pkg n → PkgBecomes s (.migrationStart n) (setMigration s.pkg n { m with en := false })) ∧
    PkgBecomes s (.migrationRetire n) (setMigration s.pkg n { m with en := false }) ∧
    (m.en = true → m.p.toNat < m.lines.toNat → ∃ mem bad u ws,
      let k := setMigration s.pkg n { m with p := m.p + 1, since := s.pkg.cycle, done := m.p + 1 == m.lines }
      let t := { k with mem := mem, memBad := bad, undef := u, writers := ws }
      PkgBecomes s (.migrationLineCopy n) t ∧
      (Memory.wf s.pkg.mem = true → Memory.wf mem = true ∧
        ∀ a, memAt t a = if dst ≤ a ∧ a < dst + 256 then memAt s.pkg (a - dst + src) else memAt s.pkg a) ∧
      (∀ w, w ∈ bad ↔ if dst ≤ 8 * w ∧ 8 * w < dst + 256 then w - dst / 8 + src / 8 ∈ s.pkg.memBad
        else w ∈ s.pkg.memBad) ∧
      (∀ w, writersOf ws w = if dst ≤ 8 * w ∧ 8 * w < dst + 256 then writersOf s.pkg.writers (w - dst / 8 + src / 8)
        else writersOf s.pkg.writers w)) ∧
    (m.en = false ∨ m.lines.toNat ≤ m.p.toNat → Nothing s (.migrationLineCopy n)) ∧
    (∀ pa, m.en = true → migOld m ≤ pa → pa < migOld m + migLen m →
      (∀ i < 16, i ≠ n → (migrationOf s.pkg i).en = true →
        Apart (migOld (migrationOf s.pkg i)) (migLen (migrationOf s.pkg i)) pa 1) →
      (pa < src → migrated s.pkg pa = some (migNew m + (pa - migOld m))) ∧
      (src ≤ pa → pa < src + 256 → migrated s.pkg pa = none) ∧
      (src + 256 ≤ pa → migrated s.pkg pa = some pa)) ∧
    (∀ pa, m.en = true → migNew m ≤ pa → pa < migNew m + migLen m →
      (∀ i < 16, (migrationOf s.pkg i).en = true → Apart (migOld (migrationOf s.pkg i)) (migLen (migrationOf s.pkg i)) pa 1 ∧
        (i ≠ n → Apart (migNew (migrationOf s.pkg i)) (migLen (migrationOf s.pkg i)) pa 1)) →
      (m.done = false → reachMemory s.pkg pa = .uncopied pa ∧
        ∀ draw i, reachedByte s.pkg draw i (.uncopied pa) = BitVec.ofNat 8 (Config.freeValue 5000 draw i)) ∧
      (m.done = true → reachMemory s.pkg pa = .at' pa))

/-- R242, R244: a revoke drops the entries that its pages meet and every handle that depends on one, on every core that
holds a task of the partition; a refresh of a handle's one page re-reads the tables, and the handle keeps what the new leaf
still gives it or is revoked; TLBICMD is busy until the step that ends it. It is the model's choice where the spec leaves
the point open: log entries 33 and 40. -/
def Obligations.TlbCommandRules : Prop :=
  (∀ (s : State) (p : Nat) (pages : BitVec 32), CoresInOrder s →
    ∃ t, exec (.tlbRevoke p pages) s = .next t ∧ t.pkg = setPart s.pkg p { partOf s.pkg p with tlbiBusy := true } ∧
      t.here = s.here ∧ t.agenda = s.agenda ∧ t.inputs = s.inputs ∧ t.choice = s.choice ∧
      ∀ n, (TaskOf (coreState s n) p → Revoked (coreState s n) (coreState t n) (firstPageOf s.pkg p) pages.toNat) ∧
        (¬ TaskOf (coreState s n) p → coreState t n = coreState s n)) ∧
  (∀ (s : State) (p : Nat) (pages : BitVec 32) (e : TlbEntry) (i w : Nat), CoresInOrder s → NoMigration s.pkg → i < 16 →
    TaskOf s.core p → s.core.tlb = [e] → MeetsPages (firstPageOf s.pkg p) pages.toNat e →
    let h := vget s.core.handles i Handle.reset
    let e' : TlbEntry := ⟨e.vpn, w / 256 % 2 ^ 12 + 1, w / 2 ^ 20 % 2 ^ 36, w.testBit 1, w.testBit 2, false, false, 0⟩
    h.valid = true → 0 < h.len.toNat → (∀ j < 16, j ≠ i → (vget s.core.handles j Handle.reset).valid = false) →
    (∀ l ∈ s.core.landings, ∀ n x, l.dest ≠ .handle n x) →
    e.vpn * 65536 ≤ h.base.toNat → h.base.toNat + h.len.toNat ≤ (e.vpn + 1) * 65536 → 0 < e.pages →
    LeafOf s.pkg p e.vpn w → LocalLeaf s.pkg p w → (w / 2 ^ 20 % 2 ^ 36 + w / 256 % 2 ^ 12 + 1) * 65536 ≤ 0x8000000000 →
    let keeps := (h.w = true → h.perm ≠ 0 ∧ e'.w = true) ∧ (h.at' = true → e'.at' = true) ∧ h.ap = false ∧
      (h.perm ≠ 0 → e'.w = true)
    ∃ t, exec (.tlbRefresh p pages) s = .next t ∧ t.pkg = setPart s.pkg p { partOf s.pkg p with tlbiBusy := true } ∧
      (keeps → t.core = { s.core with
        tlb := [e'], probe := s.core.probe.map fun q => { q with result := none }
        handles := s.core.handles.setIfInBounds i
          { h with w := h.perm != 0 && e'.w, at' := e'.at', hs := false, rm := false } }) ∧
      (¬ keeps → t.core = { s.core with
        tlb := [], probe := s.core.probe.map fun q => { q with result := none }
        handles := s.core.handles.setIfInBounds i { h with valid := false } })) ∧
  (∀ (s : State) (p : Nat), PartBecomes s (.tlbiComplete p) p { partOf s.pkg p with tlbiBusy := false })

/-- R2, R205, R362, R394, R423: a write of PCFG, PMEM or PLIM is ignored while the partition is locked, or live where it would
change what it holds; a partition or range that would overlap another, or that lies in no tier, is not enabled; a partition newly
enabled starts with its counters and its source sequence as fresh; what comes under another key is undefined until it is written,
and under a fresh key all of its ranges are. It is the model's choice where the spec leaves the point open: log entries 18, 53 and
60. -/
def Obligations.PartitionSetup : Prop :=
  (∀ (s : State) (n : Nat) (v : BitVec 64), n < 16 →
    let p := partOf s.pkg n
    let frames := v.extractLsb' 0 16
    let ports := v.extractLsb' 16 16
    let refused := SharesFrames s.pkg n frames ports ∨ SharesMemory s.pkg n
    let q := { p with frames := frames, ports := ports }
    let takes := p.locked = false ∧ (Live s n → frames = p.frames ∧ ports = p.ports)
    let becomes := fun (q : Partition) (mine : Nat → Prop) => ∃ k, Rekeyed (setPart s.pkg n q) k mine s.choice ∧
      exec (.pcfgWrite n v) s = .next { s with choice := s.choice + 1, pkg := k }
    (¬ takes → Nothing s (.pcfgWrite n v)) ∧
    (takes → v.getLsbD 32 = false ∨ refused → becomes { q with en := false } fun a => p.en = true ∧ OfPartition p a) ∧
    (takes → v.getLsbD 32 = true → ¬ refused →
      (p.en = true → exec (.pcfgWrite n v) s = .next { s with choice := s.choice + 1, pkg := setPart s.pkg n q }) ∧
      (p.en = false → becomes { q with
          en := true, keys := p.keys + 1, counters := [], seq := 0, cards := p.cards.filter fun c => c.left != 0 }
        (OfPartition p)))) ∧
  (∀ (s : State) (n j : Nat) (v : BitVec 64), n < 16 → j < 8 →
    let p := partOf s.pkg n
    let m := v &&& 0x000FFFFFFFFF0001#64
    let l := v &&& 0x000FFFFFFFFF0000#64
    let withMem := fun (x : BitVec 64) => { p with pmem := p.pmem.setIfInBounds j x }
    let withLim := { p with plim := p.plim.setIfInBounds j l }
    let refused := fun (q : Partition) => SharesMemory (setPart s.pkg n q) n ∨ OutsideTiers s.pkg q
    let becomes := fun (i : Instr) (q : Partition) => ∃ k,
      Rekeyed (setPart s.pkg n q) k (fun a => p.en = true ∧ ¬ (OfPartition p a ↔ OfPartition q a)) s.choice ∧
      exec i s = .next { s with choice := s.choice + 1, pkg := k }
    (p.locked = true ∨ (Live s n ∧ m ≠ vget p.pmem j 0) → Nothing s (.pmemWrite n j v)) ∧
    (p.locked = false → (Live s n → m = vget p.pmem j 0) →
      (¬ refused (withMem m) → becomes (.pmemWrite n j v) (withMem m)) ∧
      (refused (withMem m) → becomes (.pmemWrite n j v) (withMem (m &&& 0x000FFFFFFFFF0000#64)))) ∧
    (p.locked = true ∨ (Live s n ∧ l ≠ vget p.plim j 0) ∨ refused withLim → Nothing s (.plimWrite n j v)) ∧
    (p.locked = false → (Live s n → l = vget p.plim j 0) → ¬ refused withLim → becomes (.plimWrite n j v) withLim)) ∧
  (∀ (s : State) (n : Nat) (locked : Bool), 1 ≤ n → n < 16 →
    PartBecomes s (.tdispRequest n locked) n { partOf s.pkg n with locked := locked })

/-- R2, R246, R353, R375, R376, R381, R389, R409 to R411, R419, R423, R426, R430: a write of APCFG enables an aperture unless its
window is refused or its backing is locked; repair maps take effect while no partition has the frame; QOWN stays while a package
task is live; and a write of 64 bits to BAR0 stores into its register, or is the step that the register stands for; IMGCMD takes a
command only while none runs. A write whose offset is not aligned, or that is no register's, takes nothing. A write of 32 bits
reaches its half, and is the whole of a register that only starts something. It is the model's choice where the spec leaves the
point open: log entries 6, 14, 53, 60 and 68. -/
def Obligations.RegisterWriteRules : Prop :=
  (∀ (s : State) (n : Nat) (v : BitVec 64), n < 64 →
    let a := { apertureOf s.pkg n with cfg := v &&& 0xFFFFFFFFFFFF0007#64 }
    let become := fun (x : Aperture) =>
      PkgBecomes s (.apcfgWrite n v) { s.pkg with apertures := s.pkg.apertures.setIfInBounds n x }
    (ApertureLocked s.pkg n → Nothing s (.apcfgWrite n v)) ∧
    (¬ ApertureLocked s.pkg n → a.en = false ∨ ¬ WindowRefused s.pkg n a → become a) ∧
    (¬ ApertureLocked s.pkg n → a.en = true → WindowRefused s.pkg n a →
      become { a with cfg := v &&& 0xFFFFFFFFFFFF0006#64 })) ∧
  (∀ (s : State) (f : Nat), f < 16 →
    let x := vget s.pkg.frames f Frame.reset
    ((∀ n < 16, ¬ ((partOf s.pkg n).en = true ∧ (partOf s.pkg n).frames.getLsbD f = true)) →
      PkgBecomes s (.frapplyGo f) { s.pkg with
        frames := s.pkg.frames.setIfInBounds f { x with mapA := x.frepa, mapB := x.frepb } }) ∧
    ((∃ n < 16, (partOf s.pkg n).en = true ∧ (partOf s.pkg n).frames.getLsbD f = true) → Nothing s (.frapplyGo f))) ∧
  (∀ (s : State) (v : BitVec 64),
    (packageTaskLive s = false → PkgBecomes s (.qownWrite v) { s.pkg with qown := v.extractLsb' 0 5 }) ∧
    (packageTaskLive s = true → Nothing s (.qownWrite v))) ∧
  (∀ (s : State) (p : Nat) (r : HostReg) (v : BitVec 64), r.wide = true →
    let q := partOf s.pkg p
    let w := Instr.registerWrite r v
    (∀ row ∈ plainWindow, Window p row.1 r → PartBecomes s w p (row.2 v q)) ∧
    (∀ k < 8, ∀ row ∈ ringWindow, Window p (0x1000 + 0x40 * k + row.1) r →
      PartBecomes s w p { q with rings := q.rings.setIfInBounds k (row.2 v (vget q.rings k Ring.reset)) }) ∧
    (∀ k < 16, ∀ row ∈ queueWindow, Window p (0x1400 + 0x20 * k + row.1) r →
      PartBecomes s w p { q with queues := q.queues.setIfInBounds k (row.2 v (vget q.queues k CompQueue.reset)) }) ∧
    (∀ i < 64, Window p (0x2000 + 8 * i) r →
      PartBecomes s w p { q with wgm := (q.wgm.filter fun e => e.1 != i) ++ [(i, v)] }) ∧
    (Window p 0x408 r →
      (q.imgCmd = none → v.extractLsb' 0 2 = 1 → PartBecomes s w p { q with imgCmd := some .load }) ∧
      (q.imgCmd = none → v.extractLsb' 0 2 = 2 → PartBecomes s w p { q with imgCmd := some (.unload (v.extractLsb' 16 16)) }) ∧
      (q.imgCmd ≠ none ∨ v.extractLsb' 0 2 = 0 ∨ v.extractLsb' 0 2 = 3 → PartBecomes s w p q)) ∧
    (∀ o i, WindowStep p v o i → Window p o r → exec w s = exec i s) ∧
    (∀ k < 8, Window p (0x1020 + 0x40 * k) r → exec w s = exec (.ringReset p k (v.setWidth 32)) s) ∧
    (∀ k < 16, Window p (0x1408 + 0x20 * k) r → exec w s = exec (.cqcfgWrite p k v) s) ∧
    (∀ g, 1 ≤ g → g < 256 → Window p (0x4000 + 8 * g) r → exec w s = exec (.grpWrite p g v) s) ∧
    (∀ i < 4096, Window p (0x8000 + 8 * i) r → exec w s = exec (.eventCounterWrite p i v) s) ∧
    (Window p 0x14000 r → v &&& 0xFFFFFFFFFFFF00FC#64 ≠ 0 ∨ v.extractLsb' 0 2 = 0 ∨ v.extractLsb' 0 2 = 3 → Nothing s w) ∧
    ((Window p 0x208 r ∨ Window p 0x2230 r) → v.getLsbD 0 = false → Nothing s w)) ∧
  (∀ (s : State) (r : HostReg) (v : BitVec 64), r.wide = true →
    let w := Instr.registerWrite r v
    (∀ o i, PackageStep v o i → Control o r → exec w s = exec i s) ∧
    (∀ row ∈ plainControl v s.pkg, Control row.1 r → PkgBecomes s w row.2) ∧
    (∀ n < 64, ∀ row ∈ apertureControl v (apertureOf s.pkg n), Control (0x10000 + 0x20 * n + row.1) r →
      (ApertureLocked s.pkg n → PkgBecomes s w s.pkg) ∧
      (¬ ApertureLocked s.pkg n → PkgBecomes s w { s.pkg with apertures := s.pkg.apertures.setIfInBounds n row.2 })) ∧
    (∀ f < 16, ∀ b : Bool, Control (0x30000 + 0x20 * f + if b then 8 else 0) r →
      let x := vget s.pkg.frames f Frame.reset
      ∃ m, ColumnsWritten (if b then x.frepb else x.frepa) v m ∧ PkgBecomes s w { s.pkg with
        frames := s.pkg.frames.setIfInBounds f (if b then { x with frepb := m } else { x with frepa := m }) }) ∧
    (∀ f < 16, Control (0x30010 + 0x20 * f) r → v.getLsbD 0 = false → Nothing s w) ∧
    (Control 0x60000 r → (∀ k : BitVec 4, 1 ≤ k.toNat → k.toNat ≤ 5 → v.extractLsb' 0 4 ≠ k) → Nothing s w) ∧
    (Control 0x60028 r →
      let k := { s.pkg with warn := v.extractLsb' 8 8, warned := s.pkg.warned && !v.getLsbD 16 }
      (s.pkg.warn ≤ s.pkg.tmax ∨ s.pkg.tmax < k.warn ∨ k.warned = true → PkgBecomes s w k) ∧
      (s.pkg.tmax < s.pkg.warn → k.warn ≤ s.pkg.tmax → k.warned = false →
        PkgBecomes s w (raiseVector 0 28 { k with warned := true }))) ∧
    (r.space = .bar0 → r.op = .write →
      r.offset % 8 ≠ 0 ∨ 16 ≤ r.fn ∨ (1 ≤ r.fn ∧ (0x200000 ≤ r.offset ∨ ¬ WindowOffset r.offset)) ∨
        (r.fn = 0 ∧ r.offset < 0x2000000 ∧ ¬ ControlOffset r.offset) ∨
        (r.fn = 0 ∧ 0x2000000 ≤ r.offset ∧ (0x4000000 ≤ r.offset ∨ ¬ WindowOffset (r.offset % 0x200000))) →
      Nothing s w)) ∧
  (∀ (s : State) (p : Nat) (r : HostReg) (v : BitVec 64), r.wide = false →
    let w := Instr.registerWrite r v
    (Window p 0x100 r → PartBecomes s w p { partOf s.pkg p with sage := v.setWidth 32 }) ∧
    (Window p 0x404 r → PartBecomes s w p { partOf s.pkg p with
      imgpa := ((v &&& 0xFFFFF#64) <<< 32) ||| ((partOf s.pkg p).imgpa &&& 0xFFFFFF00#64) }) ∧
    (Window p 0x10 r → exec w s = exec (.tlbRevoke p (v.setWidth 32)) s) ∧
    (∀ k < 16, Window p (0x140C + 0x20 * k) r → Nothing s w) ∧
    (∀ n < 16, Control (0x20024 + 0x40 * n) r → Nothing s w) ∧
    (Control 0x60004 r → Nothing s w) ∧
    (r.space = .bar0 → r.op = .write → r.offset % 4 ≠ 0 → Nothing s w))

/-- R302 to R304, R308 to R311, R328, R331, R332, R249, R252: a command that nothing holds begins; it sends its requests in
order, those to be sent again first, an `osend` in the order of its frame's queue; an answer, one in a cycle on an engine, fills
the comb, or memory, with its poison, in parts of 8 bytes, and with the last of them ends its request; a command
all of whose requests are answered is complete, and its cell with it. A refused request, a lost link, a failed read or a
hold that lasts too long stops the core with the fault on the engine's stream, and the request is to be sent again; a read
that has failed 16 times is delivered poisoned. It is the model's choice where the spec leaves the point open: log entries
6, 35, 36 and 39. -/
def Obligations.CommandsProceed : Prop :=
  (∀ (s : State) (n e : Nat) (m : Command),
    let c := coreState s n
    Has c e [m] → c.mode = .running → m.begun = false → Quiet c →
    (e < 2 → m.kind ∈ [CmdKind.g2c, .c2g, .gat, .sct, .g2g, .ovl, .c2r] →
      (m.applied = true ∨ ¬ Moves m →
        CoreBecomes s (.engineCommandBegin n e) n (onlyQueue c e [{ m with begun := true, sent := 0 }])) ∧
      (m.applied = false → Moves m → CoreBecomes s (.engineCommandBegin n e) n
        (onlyQueue (applyCommand m c) e [{ m with applied := true, begun := true, sent := 0 }]))) ∧
    (e = 2 → m.kind ∈ [CmdKind.decOpen, .decSeek, .decSave, .decLoad] →
      CoreBecomes s (.engineCommandBegin n e) n (onlyQueue c e [{ m with begun := true, ends := s.pkg.cycle + 1 }])) ∧
    (e < 2 → m.kind ∈ [CmdKind.collBs, .collBc, .collAg] →
      let f := vget s.pkg.frames (frameOf n) Frame.reset
      ((f.coll.filter fun x => x.2.1 < 3).length < 64 → exec (.engineCommandBegin n e) s = .next (
        let t := withCore s n (onlyQueue c e [{ m with
          begun := true, carried := true, readDone := decide (m.kind = .collBc ∧ m.rank ≠ m.root) }])
        { t with pkg := { s.pkg with
          frames := vset s.pkg.frames (frameOf n) { f with coll := f.coll ++ [(n, e, m.serial)] } } })) ∧
      (64 ≤ (f.coll.filter fun x => x.2.1 < 3).length → n ≠ queenCore → Nothing s (.engineCommandBegin n e)))) ∧
  (∀ (s : State) (n e : Nat) (m : Command) (rest : List Command),
    let c := coreState s n
    let coll := (vget s.pkg.frames (frameOf n) Frame.reset).coll
    Has c e (m :: rest) → c.mode = .running → m.begun = true →
    (∀ ps, m.kind = .g2c → m.redo = [] → m.sent < partCount m → PlacedAt m (partOf' c s.pkg.cycle m m.sent false) ps →
      CoreBecomes s (.engineRequestSend n e) n (onlyQueue c e ({ m with
        sent := m.sent + 1, pending := m.pending ++ [partOf' c s.pkg.cycle m m.sent false] } :: rest))) ∧
    (∀ ps, m.kind = .c2g → m.redo = [] → m.sent < partCount m → PlacedAt m (partOf' c s.pkg.cycle m m.sent true) ps →
      CoreBecomes s (.engineRequestSend n e) n (onlyQueue c e ({ m with
        sent := m.sent + 1, pending := m.pending ++ [partOf' c s.pkg.cycle m m.sent true]
        readDone := decide (partCount m ≤ m.sent + 1) } :: rest))) ∧
    (m.kind ∈ [CmdKind.g2c, .c2g, .gat, .sct, .bmg, .g2g, .ovl] → ∀ q qs, m.redo = q :: qs →
      (∀ p ∈ if writesMemory m q then writePlaces m q else placesOf m.runs q.va q.len, ∃ pa, p = .here pa) →
      CoreBecomes s (.engineRequestSend n e) n
        (onlyQueue c e ({ m with redo := qs, pending := m.pending ++ [{ q with since := s.pkg.cycle }] } :: rest))) ∧
    (m.kind = .osend → m.carried = true → m.sent = 0 → coll.head? = some (n, e, m.serial) →
      let x := cellOf c m.cell
      let p := partOf s.pkg (taskPart c)
      exec (.engineRequestSend n e) s = .next (
        let t := withCore s n (onlyQueue c e ({ m with sent := 1, readDone := true } :: rest))
        { t with pkg := setPart s.pkg (taskPart c) { p with
          outgoing := p.outgoing ++ [⟨n, e, m.serial, m.parts.map (·.toNat), m.op2, memBytes c.comb x.base x.size,
            (List.range x.size).filter fun i => decide ((x.base + i) / 8 ∈ c.combBad)⟩] } })) ∧
    (∀ n' e' (j : Command) (behind : List Command), m.kind = .osend → rest = [] → coll.head? = some (n', e', j.serial) →
      n' ≠ n → (coreState s n').mode = .running → Has (coreState s n') e' (j :: behind) → j.readDone = false →
      Nothing s (.engineRequestSend n e))) ∧
  (∀ (s : State) (n e : Nat) (m : Command) (rest : List Command) (q : Request) (qs : List Request) (ps : List Nat)
      (r : Option Reply),
    let c := coreState s n
    let drawn := fun (t : State) => { t with choice := s.choice + 1 }
    let whole := accepted (onlyQueue c e ({ m with pending := qs, done := m.done + 1 } :: rest)) e s.pkg.cycle
    let goesOn := fun (now : List Nat) (got : List Byte) (bad : List Bool) => onlyQueue c e
      ({ m with pending := { q with parts := q.parts ++ now, got := got, gotBad := bad } :: qs } :: rest)
    Has c e (m :: rest) → m.kind = .g2c ∨ m.kind = .c2g → m.pending = q :: qs → (∀ x ∈ qs, q.index < x.index) →
    PlacedAt m q ps → 0 < q.len → (∀ b ∈ q.bad, b = false) → Unscoped s → (e, s.pkg.cycle) ∉ c.answered →
    ((∀ p ∈ ps, Plain s.pkg p) → m.kind = .g2c → ∃ now got bad, Picks q.va q.len q.parts now ∧ got.length = q.len ∧
      (∀ i < q.len, got.getD i 0 = if (q.va + i) / 8 ∈ now then memAt s.pkg (ps.getD i 0) else q.got.getD i 0) ∧
      (∀ i < q.len, bad.getD i false =
        if (q.va + i) / 8 ∈ now then decide (ps.getD i 0 / 8 ∈ s.pkg.memBad) else q.gotBad.getD i false) ∧
      (¬ AllParts q.va q.len (q.parts ++ now) →
        exec (.engineResponseArrival n e 0 r) s = .next (drawn (withCore s n (goesOn now got bad)))) ∧
      (AllParts q.va q.len (q.parts ++ now) → ∃ comb marks,
        exec (.engineResponseArrival n e 0 r) s = .next (drawn (withCore s n
          { whole with comb := comb, combBad := marks })) ∧
        BytesBecome c.comb comb q.lo got ∧
        ∀ w, w ∈ marks ↔ (∃ i < q.len, bad.getD i false = true ∧ (q.lo + i) / 8 = w) ∨
          (w ∈ c.combBad ∧ ¬ (q.lo ≤ 8 * w ∧ 8 * w + 8 ≤ q.lo + q.len)))) ∧
    ((∀ p ∈ ps, Plain s.pkg p) → m.kind = .c2g → ps.Nodup → q.bytes.length = q.len →
      ∃ now k, Picks q.va q.len q.parts now ∧
        Stores (placeNumber n) s.pkg k (pickParts q.va now ps) (pickParts q.va now q.bytes) ∧
        (¬ AllParts q.va q.len (q.parts ++ now) → exec (.engineResponseArrival n e 0 r) s = .next (
          { drawn (withCore s n (goesOn now [] [])) with pkg := k })) ∧
        (AllParts q.va q.len (q.parts ++ now) →
          exec (.engineResponseArrival n e 0 r) s = .next ({ drawn (withCore s n whole) with pkg := k }))) ∧
    (m.kind = .g2c → (∃ p ∈ ps, InCopy s.pkg p) → exec (.engineResponseArrival n e 0 r) s = .next (drawn s)) ∧
    ((∀ p ∈ ps, Plain s.pkg p ∨ Unwindowed s.pkg p) → (∃ p ∈ ps, Unwindowed s.pkg p) → c.mode = .running →
      c.stop = none → qs = [] → exec (.engineResponseArrival n e 0 r) s = .next (drawn (withCore s n
        (engineStopped c e ({ m with pending := [], redo := m.redo ++ [{ q with parts := [], got := [], gotBad := [] }] } :: rest)
          (faultOf m 0x0E 0 q.va)))))) ∧
  (∀ (s : State) (n e i : Nat) (m : Command) (rest : List Command) (q : Request) (r : Option Reply),
    Has (coreState s n) e (m :: rest) → m.kind = .g2c ∨ m.kind = .c2g → m.pending = [q] → i = 0 → e < 2 →
    (e, s.pkg.cycle) ∈ (coreState s n).answered → Nothing s (.engineResponseArrival n e i r)) ∧
  (∀ (s : State) (n e : Nat) (m : Command),
    let c := coreState s n
    Has c e [m] → m.begun = true → m.kind ∈ [CmdKind.g2c, .c2g, .gat, .sct, .g2g] → m.redo = [] → m.pending = [] →
    partCount m ≤ m.sent → NotInFrames s.pkg n m.serial → ∃ cells : Vector Cell 64,
      CoreBecomes s (.engineCommandComplete n e) n { onlyQueue c e [] with cells := cells } ∧
      ∀ i : Fin 64, cells[i.val] = finished c.cells[i.val]) ∧
  (∀ (s : State) (n e : Nat) (m : Command) (rest : List Command) (q : Request) (ps : List Nat) (i : Nat),
    let c := coreState s n
    let again := { m with pending := [], redo := m.redo ++ [{ q with parts := [], got := [], gotBad := [] }] }
    Has c e (m :: rest) → m.kind = .g2c ∨ m.kind = .c2g → m.pending = [q] → c.mode = .running → c.stop = none →
    CoreBecomes s (.engineFault n e 0 1) n (engineStopped c e (again :: rest) (faultOf m 0 1 q.va)) ∧
    (rereadsAt c e < 16 →
      CoreBecomes s (.engineFault n e 0 3) n (engineStopped c e (again :: rest) (faultOf m 0 3 q.va))) ∧
    (16 ≤ rereadsAt c e → CoreBecomes s (.engineFault n e 0 3) n
      (onlyQueue c e ({ m with pending := [{ q with bad := [true] }] } :: rest))) ∧
    (PlacedAt m q ps → (∃ p ∈ ps, InCopy s.pkg p) → i < 16 →
      (∀ j < 16, (migrationOf s.pkg j).en = true → j = i) →
      let since := max (migrationOf s.pkg i).since q.since
      (since + s.pkg.mhold.toNat < s.pkg.cycle → CoreBecomes s (.migrationHoldTimeout n e) n
        (engineStopped c e (again :: rest) (faultOf m 0 2 q.va))) ∧
      (s.pkg.cycle ≤ since + s.pkg.mhold.toNat → rest = [] → Nothing s (.migrationHoldTimeout n e))))

/-- R234 to R237, R378: a remote write is injected in its core's slot, after every earlier one; its header crosses each frame on its
way and enters the next at a slot; a receiver with a task and room holds it, a full buffer keeps it on the last link, where others
wait behind it, and a core without a task turns it back; the cell it names accepts it once it is open to that writer, and it is
refused if the cell is too small; its data fill the cell if its task is still there, and its acknowledgement, or its refusal, reaches
the writer. It is the model's choice where the spec leaves the point open: log entries 6, 37 and 62. -/
def Obligations.RemoteWriteRules : Prop :=
  (∀ (s : State) (n e x : Nat) (m : Command) (rest : List Command),
    let c := coreState s n
    let src := cellOf c m.cell
    Has c e (m :: rest) → m.kind = .c2r → m.begun = true → m.sent = 0 →
    (c.mode = .running → s.pkg.cycle % 16 = mySlot n → (∀ p ∈ s.pkg.injected, p.1 = n → p.2 < s.pkg.cycle) →
      0 < s.pkg.cycle → Heads n m.target x →
      exec (.remoteWriteInjection n e) s = .next (
        let t := withCore s n (onlyQueue c e ({ m with sent := 1, readDone := true } :: rest))
        let w : RemoteWrite := ⟨s.pkg.nextId, n, m.target, e, m.serial, m.other, m.tag, memBytes c.comb src.base src.size,
          (List.range src.size).filter fun i => decide ((src.base + i) / 8 ∈ c.combBad), 0,
          .flying x (s.pkg.cycle + distance n x)⟩
        { t with pkg := { s.pkg with
          writes := s.pkg.writes ++ [w], nextId := s.pkg.nextId + 1
          injected := (s.pkg.injected.filter fun p => p.1 != n) ++ [(n, s.pkg.cycle + src.size / 64)] } })) ∧
    (s.pkg.cycle % 16 ≠ mySlot n → Nothing s (.remoteWriteInjection n e))) ∧
  (∀ (s : State) (w : RemoteWrite) (back : Nat),
    let r := coreState s w.dst
    let x := cellOf r w.rcell
    let now := s.pkg.cycle
    let turnedBack := fun (refused : Bool) (cycle : Nat) => writeState s.pkg w.id (.returning refused back (cycle + distance w.dst back))
    let arrives := fun (i : Instr) (since : Nat) =>
      (r.mode = .running → heldAt s.pkg w.dst < 8 → PkgBecomes s i (headerHeld s.pkg w.id (tenant r))) ∧
      (r.mode = .running → 8 ≤ heldAt s.pkg w.dst → PkgBecomes s i (flitsDelayed (writeState s.pkg w.id (.waiting since)) w.src)) ∧
      (r.mode = .free → PkgBecomes s i (turnedBack true now))
    WriteIs s.pkg w → Heads w.dst w.src back →
    (∀ at' due, w.state = .flying at' due →
      (Blocked s.pkg w at' due → PkgBecomes s (.remoteWriteHeaderArrival w.id) (writeState s.pkg w.id (.flying at' (due + 1)))) ∧
      (¬ Blocked s.pkg w at' due →
        (now < due ∨ ¬ NoneBefore s.pkg w OnMesh → Nothing s (.remoteWriteHeaderArrival w.id)) ∧
        (due ≤ now → NoneBefore s.pkg w OnMesh →
          (at' ≠ w.dst → PkgBecomes s (.remoteWriteHeaderArrival w.id) (writeState s.pkg w.id (.edge at' now))) ∧
          (at' = w.dst → arrives (.remoteWriteHeaderArrival w.id) now)))) ∧
    (∀ at' since next, w.state = .edge at' since → Heads at' w.dst next →
      (since < now → now % 16 = mySlot at' → NoneBefore s.pkg w OnMesh →
        PkgBecomes s (.remoteWriteHeaderArrival w.id) (writeState s.pkg w.id (.flying next (now + distance at' next)))) ∧
      (now ≤ since ∨ now % 16 ≠ mySlot at' → Nothing s (.remoteWriteHeaderArrival w.id))) ∧
    (∀ since, w.state = .waiting since → arrives (.remoteWriteHeaderArrival w.id) since) ∧
    (∀ since, w.state = .held since →
      (r.mode = .free ∨ (r.mode = .running ∧ tenant r ≠ w.tenant) → PkgBecomes s (.remoteWriteAccept w.id) (turnedBack true now)) ∧
      (since < now → NoneBefore s.pkg w Unwritten → r.mode = .running → tenant r = w.tenant →
        (x.state = .fillingRemote → x.filler = w.src → w.data.length ≤ x.size →
          PkgBecomes s (.remoteWriteAccept w.id) (writeState s.pkg w.id (.accepted now))) ∧
        (x.state = .fillingRemote → x.filler = w.src → x.size < w.data.length →
          PkgBecomes s (.remoteWriteAccept w.id) (turnedBack true now)) ∧
        (x.state ≠ .fillingRemote ∨ x.filler ≠ w.src → Nothing s (.remoteWriteAccept w.id)))) ∧
    (∀ a, w.state = .accepted a →
      let flits := w.data.length / 64
      (now < a + flits → Nothing s (.remoteWriteAccept w.id)) ∧
      (a + flits ≤ now → r.task = none → PkgBecomes s (.remoteWriteAccept w.id) (turnedBack false (a + flits + 1))) ∧
      (a + flits ≤ now → r.task ≠ none → tenant r = w.tenant → ∃ comb bad,
        exec (.remoteWriteAccept w.id) s = .next (
          let t := withCore s w.dst { r with
            comb := comb, combBad := bad
            cells := vset r.cells w.rcell { x with state := .full, tag := w.tag, ckp := true, sealed := false } }
          { t with pkg := turnedBack false (a + flits + 1) }) ∧
        BytesBecome r.comb comb x.base w.data ∧
        ∀ v, v ∈ bad ↔ (∃ i < w.data.length, i ∈ w.bad ∧ (x.base + i) / 8 = v) ∨
          (v ∈ r.combBad ∧ ¬ (x.base ≤ 8 * v ∧ 8 * v + 8 ≤ x.base + w.data.length)))) ∧
    (∀ refused at' due, w.state = .returning refused at' due →
      (now < due → Nothing s (.remoteWriteAckArrival w.id)) ∧
      (due ≤ now → at' ≠ w.src →
        PkgBecomes s (.remoteWriteAckArrival w.id) (writeState s.pkg w.id (.returnEdge refused at' now))) ∧
      (due ≤ now → at' = w.src → ∀ (m : Command) (rest : List Command),
        let c := coreState s w.src
        let left := s.pkg.writes.filter fun v => v.id != w.id
        Has c w.engine (m :: rest) → m.serial = w.serial →
        (refused = false → exec (.remoteWriteAckArrival w.id) s = .next (
          let t := withCore s w.src (retriesCleared
            (onlyQueue c w.engine ({ m with writeDone := true, done := w.data.length / 64 } :: rest)) w.engine)
          { t with pkg := { s.pkg with writes := left } })) ∧
        (refused = true → c.mode = .running → c.stop = none → exec (.remoteWriteAckArrival w.id) s = .next (
          let t := withCore s w.src
            (engineStopped c w.engine ({ m with sent := 0 } :: rest) (faultOf m 0x06 0 w.rcell))
          { t with pkg := { s.pkg with writes := left } })))) ∧
    (∀ refused at' since next, w.state = .returnEdge refused at' since → Heads at' w.src next →
      (since < now → now % 16 = mySlot at' →
        PkgBecomes s (.remoteWriteAckArrival w.id) (writeState s.pkg w.id (.returning refused next (now + distance at' next)))) ∧
      (now ≤ since ∨ now % 16 ≠ mySlot at' → Nothing s (.remoteWriteAckArrival w.id))))

/-- R319 to R321, R324, R342, R229, R230, R292, R383, R406: one symbol of a stream, a cycle of decoding and the end of a
segment, a restart; the image that `dec.save` leaves; a decoder's state that has an error, which faults; a cell command
that was held; the delivery of a bound command; what a switch makes of two items of a collective; and an item, or the contribution
of another package, that reaches a participant: it is counted, and acknowledged, or a link fault where it was counted before. It is the model's choice where the spec leaves the point open: log entries
6 and 38. -/
def Obligations.DecoderAndHeldCommands : Prop :=
  (∀ (c : Core) (t : DecTable) (st : Stream) (y : Nat),
    let i := st.pos % t.rint % 32
    let x := (vget st.xs i 0).toNat
    SymbolOf t x y →
    (2 ^ 16 ≤ laneAfter t x y → decodeSymbol c t st =
      .ok ({ st with xs := vset st.xs i (BitVec.ofNat 32 (laneAfter t x y)), pos := st.pos + 1 }, t.values.getD y 0)) ∧
    (laneAfter t x y < 2 ^ 16 → st.wptr < st.segend → ∀ bs, DecoderReads c st.dcell st.wptr 2 bs → decodeSymbol c t st =
      .ok ({ st with
        xs := vset st.xs i (BitVec.ofNat 32 (laneAfter t x y * 2 ^ 16 + ofBytes bs)), pos := st.pos + 1
        wptr := st.wptr + 2 }, t.values.getD y 0)) ∧
    (laneAfter t x y < 2 ^ 16 → st.segend ≤ st.wptr → decodeSymbol c t st = .error 0x0F)) ∧
  (∀ (s : State) (n d : Nat) (t : DecTable), d < 2 →
    let c := coreState s n
    let st := vget c.streams d Stream.reset
    let become := fun (i : Instr) (x : Stream) => CoreBecomes s i n { c with streams := vset c.streams d x }
    let sound := c.streamBad.getLsbD d = false ∧ c.dslotBad.getLsbD st.slot = false
    vget c.dslots st.slot none = some t → c.mode = .running → st.isOpen = true →
    (¬ sound → c.stop = none → (st.rst = false ∧ st.work ≤ s.pkg.cycle ∧ 0 < symbolsDue t st) ∨
        (st.rst = true ∧ st.pos < st.ipos ∧ st.work = s.pkg.cycle) → ∃ pc,
      CoreBecomes s (if st.rst then .loadSegment n d else .decodeRound n d) n { c with
        streams := vset c.streams d { st with isOpen := false }, mode := .stopping, halted := .running, request := none
        stop := some (engineStop 2 ⟨0x16, 0, pc, 0, 0, 0, false, d⟩) }) ∧
    (sound → st.rst = false → st.work ≤ s.pkg.cycle → ∀ vs st', Decodes c t st vs st' → vs.length = symbolsDue t st → vs ≠ [] →
      let ready := st.ready ++ vs.map fun v => (v, s.pkg.cycle)
      let spent := (∀ x ∈ st'.xs.toList, x = 0x10000) ∧ st'.wptr = st'.segend
      (st'.pos < t.nsym → st'.pos % t.rint ≠ 0 → become (.decodeRound n d) { st' with ready := ready }) ∧
      (st'.pos < t.nsym → st'.pos % t.rint = 0 → spent →
        become (.decodeRound n d) { st' with ready := ready, rst := true }) ∧
      (st'.pos = t.nsym → spent → become (.decodeRound n d) { st' with ready := ready, isOpen := false })) ∧
    (st.rst = true → st.pos < st.ipos →
      (st.work ≠ s.pkg.cycle → become (.loadSegment n d) { st with work := s.pkg.cycle + 1 }) ∧
      (sound → st.work = s.pkg.cycle → ∀ lo hi bs,
        let i := st.tile * ((t.nsym + t.rint - 1) / t.rint) + st.pos / t.rint
        IndexIs c t i lo → IndexIs c t (i + 1) hi → st.base ≤ lo → lo + 128 ≤ hi → hi ≤ t.dlen →
        DecoderReads c st.dcell (lo - st.base) 128 bs →
        (∀ j < 32, 2 ^ 16 ≤ ofBytes ((bs.drop (4 * j)).take 4)) →
        ∃ xs : Vector (BitVec 32) 32,
          become (.loadSegment n d) { st with
            xs := xs, wptr := lo - st.base + 128, segend := hi - st.base, rst := false, work := s.pkg.cycle + 1 } ∧
          ∀ j : Fin 32, xs[j.val] = BitVec.ofNat 32 (ofBytes ((bs.drop (4 * j.val)).take 4))))) ∧
  (∀ (s : State) (n : Nat) (m : Command),
    let c := coreState s n
    let x := cellOf c m.cell
    Has c 2 [m] → m.kind = .decSave → m.begun = true → m.ends ≤ s.pkg.cycle → c.mode = .running → m.stream < 2 →
    c.streamBad.getLsbD m.stream = false →
    x.state = .empty ∨ x.state = .full → m.imm + 160 ≤ x.size → ∃ comb bad,
      CoreBecomes s (.engineCommandComplete n 2) n { onlyQueue c 2 [] with comb := comb, combBad := bad } ∧
      BytesBecome c.comb comb (x.base + m.imm) (imageOf (vget c.streams m.stream Stream.reset)) ∧
      ∀ w, w ∈ bad ↔ w ∈ c.combBad ∧ ¬ (x.base + m.imm ≤ 8 * w ∧ 8 * w + 8 ≤ x.base + m.imm + 160)) ∧
  (∀ (s : State) (n e : Nat) (m : Command),
    let c := coreState s n
    Has c e [m] → m.begun = false → c.mode = .running → Quiet c → m.cell < 64 →
    m.kind ∈ [CmdKind.cellArm, .cellSeal, .cellFree, .cellExpect, .cellOpen] → ∃ cells : Vector Cell 64,
      CoreBecomes s (.cellCommandTakesEffect n e) n { onlyQueue c e [] with cells := cells } ∧
      ∀ i : Fin 64, cells[i.val] = finished (if i.val = m.cell then cellAfter m c.cells[i.val] else c.cells[i.val])) ∧
  (∀ (s : State) (i : Nat) (b : BoundCommand),
    let c := coreState s queenCore
    let f := vget s.pkg.frames b.frame Frame.reset
    c.bound[i]? = some b → b.delivered = false →
    (b.due ≤ s.pkg.cycle → exec (.boundCommandDelivery i) s = .next (
      let t := withCore s queenCore { c with bound := c.bound.set i { b with delivered := true } }
      { t with pkg := { s.pkg with frames := vset s.pkg.frames b.frame (if b.kind = 1
        then { f with coll := f.coll ++ [(queenCore, 3, b.cmd.serial)] }
        else { f with edge := f.edge ++ [(queenCore, 3, b.cmd.serial)] }) } })) ∧
    (s.pkg.cycle < b.due → Nothing s (.boundCommandDelivery i))) ∧
  (∀ (s : State) (i j : CollItem) (full : Bool),
    let rest := s.pkg.items.filter fun x => x.1 != i && x.1 != j
    (full = false → Combinable i j → i.exps.length = j.exps.length → i.sums.length = j.sums.length →
      ∃ x : CollItem, PkgBecomes s (.collectiveCombine i j full) { s.pkg with items := rest ++ [(x, [])] } ∧
        x = { i with ranks := i.ranks ++ j.ranks, exps := x.exps, sums := x.sums } ∧
        x.exps.length = i.exps.length ∧ x.sums.length = i.sums.length ∧
        (∀ h (hx : h < x.sums.length) (hi : h < i.sums.length) (hj : h < j.sums.length),
          x.sums[h] = (i.sums[h].1 + j.sums[h].1, i.sums[h].2 ||| j.sums[h].2)) ∧
        (∀ h (hx : h < x.exps.length) (hi : h < i.exps.length) (hj : h < j.exps.length),
          (i.exps[h] = none → x.exps[h] = j.exps[h]) ∧ (j.exps[h] = none → x.exps[h] = i.exps[h]) ∧
          (∀ a b, i.exps[h] = some a → j.exps[h] = some b → x.exps[h] = some (max a b)))) ∧
    (full = true ∨ ¬ Combinable i j →
      PkgBecomes s (.collectiveCombine i j full) { s.pkg with items := rest ++ [(i, []), (j, [])] })) ∧
  (∀ (s : State) (n e h : Nat) (m : Command) (i : CollItem) (takers : List Nat),
    let c := coreState s n
    let arrives := Instr.engineResponseArrival n e (2 * m.parts.length + h) none
    Has c e [m] → e < 2 → m.kind ∈ [CmdKind.collMx, .collBs] → m.carried = true → s.pkg.items[h]? = some (i, takers) →
    (ItemFor m (taskPart c) i → m.rank ∉ takers →
      ((∀ r ∈ i.ranks, ∀ x ∈ m.items, x.block = i.block → r ∉ x.ranks) → exec arrives s = .next (
        let t := withCore s n (retriesCleared (onlyQueue c e [{ m with items := m.items ++ [i] }]) e)
        { t with pkg := noteTaker i m.rank s.pkg })) ∧
      ((∃ r ∈ i.ranks, ∃ x ∈ m.items, x.block = i.block ∧ r ∈ x.ranks) → c.mode = .running → c.stop = none →
        exec arrives s = .next (
          let t := withCore s n (engineStopped c e [m] (faultOf m 0x17 0 0))
          { t with pkg := noteTaker i m.rank s.pkg }))) ∧
    (¬ ItemFor m (taskPart c) i ∨ m.rank ∈ takers → Nothing s arrives)) ∧
  (∀ (s : State) (n e r : Nat) (m : Command) (p : Reply),
    let c := coreState s n
    let node := ((m.parts.getD r 0).extractLsb' 0 8).toNat
    let k' : Request := ⟨r, 0, 0, 0, p.bytes.length, p.bytes, (List.range p.bytes.length).map p.bad.contains, [], [], []⟩
    Has c e [m] → e < 2 → m.kind = .collAg → m.carried = true → r < m.parts.length → node ≠ s.pkg.pnode.toNat →
    ((∀ q ∈ m.pending, q.index ≠ r) → r ≠ m.rank → ∃ k, exec (.engineResponseArrival n e r (some p)) s = .next (
        let t := withCore s n (retriesCleared (onlyQueue c e [{ m with pending := m.pending ++ [k'] }]) e)
        { t with pkg := k }) ∧
      (NoRoute s.pkg (taskPart c) node false → k = s.pkg) ∧
      ∀ out, RouteTo s.pkg (taskPart c) node out → k = setPort s.pkg out { portOf s.pkg out with
        flits := (portOf s.pkg out).flits ++
          [{ dest := node, part := taskPart c, hops := 0, body := .taken m.ident 4 r m.rank }] }) ∧
    ((∃ q ∈ m.pending, q.index = r) → r ≠ m.rank → c.mode = .running → c.stop = none →
      CoreBecomes s (.engineResponseArrival n e r (some p)) n (engineStopped c e [m] (faultOf m 0x17 0 0))))

/-- R308, R310, R311, R346 to R354: once the traffic of a core has settled its stop is recorded, and the task ends, or is
held for the host, or is resumed by firmware, by the faults in it; a link that has failed 16 resumptions in a row is
reported and held; the host resumes a held core, relieving a schedule fault or a breakpoint once, or ends its task. It is
the model's choice where the spec leaves the point open: log entries 6, 39 and 42. -/
def Obligations.StopsAndResumptions : Prop :=
  (∀ (s : State) (n : Nat) (p : Stop),
    let c := coreState s n
    c.mode = .stopping → c.stop = some p →
    (Settled s.pkg n c → ∃ r : StopRecord, Records c p r ∧
      (IsHeld p → exec (.stopRecordWrite n) s = .next (
        let t := withCore s n { c with record := r, stop := none, mode := .stopped true }
        { t with pkg := raiseVector (taskPart c) 24 s.pkg })) ∧
      (IsAutomatic p → CoreBecomes s (.stopRecordWrite n) n { c with record := r, stop := none, mode := .stopped false }) ∧
      (∀ code addr, EndsTask p → otherFaults p = [] → StatusOf p code addr →
        CoreBecomes s (.stopRecordWrite n) n (ended { c with record := r, stop := none } code))) ∧
    (c.accesses ≠ [] ∨ ¬ AllLanded c → Nothing s (.stopRecordWrite n))) ∧
  (∀ (s : State) (n : Nat),
    let c := coreState s n
    let r := c.record
    let worn := fun (f : Option StreamFault) (k : Nat) => 16 ≤ k ∧ ∃ x, f = some x ∧ x.cause = 1
    let marked := fun (f g : Option StreamFault) (k : Nat) =>
      (worn f k → g = f.map fun x => { x with code := 0x17 }) ∧ (¬ worn f k → g = f)
    let more := fun (f : Option StreamFault) (cause : BitVec 4) (k : Nat) => if f.map (·.cause) = some cause then k + 1 else k
    (c.mode = .stopped false → ¬ worn r.c0 c.retries0 → ¬ worn r.c1 c.retries1 →
      CoreBecomes s (.automaticResume n) n { c with
        mode := c.halted, record := { r with held := false }
        retries0 := more r.c0 1 c.retries0, retries1 := more r.c1 1 c.retries1
        rereads0 := more r.c0 3 c.rereads0, rereads1 := more r.c1 3 c.rereads1, rereadsD := more r.d 3 c.rereadsD }) ∧
    (c.mode = .stopped false → worn r.c0 c.retries0 ∨ worn r.c1 c.retries1 → ∃ f0 f1, marked r.c0 f0 c.retries0 ∧
      marked r.c1 f1 c.retries1 ∧ exec (.automaticResume n) s = .next (
        let t := withCore s n { c with
          mode := .stopped true, record := { r with held := true, code := 0x17, c0 := f0, c1 := f1 } }
        { t with pkg := raiseVector (taskPart c) 24 s.pkg })) ∧
    (c.mode = .forced → Nothing s (.stopRecordWrite n)) ∧
    (c.mode ≠ .stopped false → Nothing s (.automaticResume n))) ∧
  (∀ (s : State) (p n : Nat) (code : BitVec 8), Selects s.pkg p n →
    let c := coreState s n
    let r := c.record
    (c.mode = .stopped true →
      (∃ relief slots, CoreBecomes s (.stopcmdResume p) n { c with
          mode := c.halted, record := { r with held := false }, relief := relief, reliefSlots := slots } ∧
        (relief = 0x04 ↔ (∃ i < 4, r.slotMask.getLsbD i = true ∧ slotCode r i = 0x04) ∨
          (r.slotMask = 0 ∧ slotCode r 0 = 0x04)) ∧
        (relief = 0x04 ∨ relief = 0) ∧
        ∀ i < 4, slots.getLsbD i = true ↔ r.slotMask.getLsbD i = true ∧ slotCode r i = 0x14) ∧
      (c.bound = [] → (∀ m ∈ everyCommand c, NotInFrames s.pkg n m.serial) →
        CoreBecomes s (.stopcmdEnd p code) n { ended c (if code = 0 then r.code else code) with
          c0 := [], c1 := [], dq := [], busy := [], macs := [], landings := [], record := { r with held := false } })) ∧
    (c.mode ≠ .stopped true → Nothing s (.stopcmdResume p) ∧ Nothing s (.stopcmdEnd p code)))

/-- R205, R208, R209, R221, R222, R224: a task that has ended, and all of whose work is over, has its completion record due,
unless its card has no queue; the record is written when there is room and its vector raised, or counted as dropped; then
the core is freed, the card's replica is retired and its counter signalled; a graph instance all of whose cards have retired
does the same. It is the model's choice where the spec leaves the point open: log entries 6 and 18. -/
def Obligations.RetirementRules : Prop :=
  (∀ (s : State) (n : Nat) (t : Task) (status : BitVec 8),
    let c := coreState s n
    let p := partOf s.pkg t.part
    c.mode = .ending status → c.task = some t →
    (Drained s.pkg n c →
      (cardQueue t.card < 16 → ∃ b, RecordBits b t.serial t.replica status (c.cyc - c.frz).toNat c.frz.toNat ∧
        exec (.retirement n) s = .next (
          let u := withCore s n { c with mode := .recording status }
          { u with pkg := setPart s.pkg t.part { p with due := p.due ++ [⟨cardQueue t.card, b, t.ring, some n, none⟩] } })) ∧
      (16 ≤ cardQueue t.card → CoreBecomes s (.retirement n) n { c with mode := .recorded status })) ∧
    (c.landings ≠ [] ∨ c.busy ≠ [] ∨ c.accesses ≠ [] → Nothing s (.retirement n))) ∧
  (∀ (s : State) (n : Nat) (t : Task) (status : BitVec 8) (x : Card),
    let c := coreState s n
    let p := partOf s.pkg t.part
    c.mode = .recorded status → c.task = some t → CardIs p x → x.id = t.cardId → p.graphs = [] →
    ∃ c', Freed c c' ∧
      (status ≠ 0 ∨ 4096 ≤ cardSignal t.card → (status ≠ 0 ∨ 1 < x.left ∨ ∃ y ∈ x.statuses, y.2 ≠ 0) →
        exec (.retirement n) s = .next (
          let u := withCore s n c'
          { u with pkg := setPart s.pkg t.part { p with cards := retired p.cards t.cardId t.replica status } })) ∧
      (status = 0 → 4096 ≤ cardSignal t.card → x.left = 1 → (∀ y ∈ x.statuses, y.2 = 0) →
        exec (.retirement n) s = .next (
          let u := withCore s n c'
          { u with pkg := setPart s.pkg t.part { p with cards := p.cards.filter fun y => y.id != t.cardId } })) ∧
      (status = 0 → cardSignal t.card < 4096 → t.part < 16 → ∃ u q, exec (.retirement n) s = .next u ∧
        u = { withCore s n c' with pkg := setPart s.pkg t.part q } ∧
        q = { p with counters := q.counters, cards := q.cards, bumps := cardSignal t.card :: p.bumps } ∧
        (∀ i < 4096, counterOf q i = counterOf p i + (if i = cardSignal t.card then 1 else 0)) ∧
        (∀ y ∈ p.cards, y.id ≠ t.cardId → ∃ z ∈ q.cards, z = { y with met := z.met } ∧
          (z.met = true ↔ y.met = true ∨ counterMet q y.words = true)))) ∧
  (∀ (s : State) (part q : Nat) (d : DueRecord) (rest : List DueRecord) (n : Nat),
    let p := partOf s.pkg part
    let x := vget p.queues q CompQueue.reset
    let c := coreState s n
    let at' := x.base.toNat + 16 * (x.widx.toNat % 2 ^ x.log2n)
    let ps := (List.range 16).map (at' + ·)
    part < 16 → q < 16 → FirstDue p q d rest → p.due.Nodup → d.signal = none → d.core = some n →
    let after := fun (y : CompQueue) => { p with due := rest, queues := p.queues.setIfInBounds q y }
    let full := ¬ (x.widx - x.ridx).toNat < 2 ^ x.log2n
    (x.en = true → full → Nothing s (.completionRecordWrite part q)) ∧
    (x.en = true → ¬ full → (∀ a ∈ ps, Plain s.pkg a) → d.ring < 8 → ∃ k,
      Stores hubPlace s.pkg k ps (toBytes 16 d.bits.toNat) ∧
      exec (.completionRecordWrite part q) s = .next (
        let t := withCore s n (recorded c)
        let y := after { x with widx := x.widx + 1 }
        let r := vget p.rings d.ring Ring.reset
        let k' := setPart k part { y with rings := p.rings.setIfInBounds d.ring { r with counter := 0 } }
        { t with pkg := raiseVector part q k' })) ∧
    (x.en = false → exec (.completionRecordWrite part q) s = .next (
      let t := withCore s n (recorded c)
      { t with pkg := setPart s.pkg part (after { x with drop := if x.drop = 0xFFFF then 0xFFFF else x.drop + 1 }) }))) ∧
  (∀ (s : State) (part : Nat) (g : GraphInstance),
    let p := partOf s.pkg part
    let status := ((g.cards.filterMap (·.2)).find? (· != 0)).getD 0
    let left := p.graphs.filter fun x => x.id != g.id
    g ∈ p.graphs → (∀ x ∈ p.graphs, x.id = g.id → x = g) →
    ((∀ x ∈ g.cards, x.2.isSome) →
      (g.queue < 16 → ∃ b, RecordBits b g.serial 0 status 0 0 ∧ PartBecomes s (.graphInstanceComplete part g.id) part
        { p with
          graphs := left
          due := p.due ++ [⟨g.queue, b, g.ring, none, if status = 0 ∧ g.signal < 4096 then some g.signal else none⟩] }) ∧
      (16 ≤ g.queue → status ≠ 0 ∨ 4096 ≤ g.signal →
        PartBecomes s (.graphInstanceComplete part g.id) part { p with graphs := left })) ∧
    ((∃ x ∈ g.cards, x.2 = none) → Nothing s (.graphInstanceComplete part g.id)))

/-- R212, R214 to R216, R223, R325, R356 to R360, R362, R420: a task's first bundle finds its image's data in the comb and
its regions in place; a core that gives up is saved into its save area, whose fixed part names what it holds, and its card
waits again, or its task ends with the code of the page that refused; a resumed core has its pc and its registers back; a
request reaches its task and lapses when it expires. It is the model's choice where the spec leaves the point open: log
entries 11, 19, 20 and 51. -/
def Obligations.StartSaveAndRestore : Prop :=
  (∀ (s : State) (n : Nat) (t : Task) (i : Image),
    let c := coreState s n
    c.task = some t → c.mode = .starting →
    (dutyFrozen s.pkg = true → Nothing s (.taskStart n)) ∧
    (dutyFrozen s.pkg = false → (partOf s.pkg t.part).images.find? (fun x => x.id == cardImage t.card) = some i →
      ∃ d, CoreBecomes s (.taskStart n) n d ∧
        d = { c with mode := .running, comb := d.comb, combBad := [], imem := d.imem, imemBad := d.imemBad
                     overlays := d.overlays } ∧
        Memory.wf d.comb = true ∧ (∀ a, memByte d.comb a = i.data.getD a 0) ∧
        (∀ r < 16, (r, true) ∈ i.regions → vget d.overlays r ⟨false, 0, 0⟩ = ⟨true, i.id, t.part⟩) ∧
        ((∀ r ∈ i.regions, r.2 = false) → d.imem = c.imem ∧ d.imemBad = c.imemBad ∧ d.overlays = c.overlays))) ∧
  (∀ (s : State) (n : Nat) (t : Task),
    let c := coreState s n
    c.task = some t → c.mode = .restored → dutyFrozen s.pkg = false → OnlyTask s t.part n t →
    CoreBecomes s (.taskStart n) n { c with mode := .running }) ∧
  (∀ (s : State) (n : Nat) (t : Task) (mask : BitVec 9),
    let c := coreState s n
    let p := partOf s.pkg t.part
    let image := saveImageOf n mask s
    let va := cardSaveVa t.card
    c.mode = .givingUp mask → c.task = some t → Drained s.pkg n c →
    (bytesField image 0 4 = 0x3158434B ∧ bytesField image 4 2 = mask.toNat ∧
      bytesField image 6 2 = (cardImage t.card).toNat ∧ bytesField image 16 2 = c.pc.toNat ∧
      384 ≤ image.length) ∧
    (∀ w ps, OnePage s.pkg t.part va image.length w ps → w.testBit 1 = true → c.request = none → ∃ k c',
      Stores hubPlace s.pkg k ps image ∧ Freed c c' ∧
      exec (.contextSave n) s = .next (
        let u := withCore s n c'
        { u with choice := s.choice + 1, pkg := setPart k t.part { p with
          stamp := p.stamp + 1
          waiting := p.waiting ++ [⟨t.cardId, p.stamp, t.origin, [(t.replica, n)], true, some s.pkg.cycle, true, none,
            none⟩] } })) ∧
    (∀ w ps, OnePage s.pkg t.part va image.length w ps → w.testBit 1 = false → exec (.contextSave n) s = .next (
      let u := withCore s n { ended c 0x0A with pc := c.pc }
      { u with choice := s.choice + 1 })) ∧
    (p.ptroot.getLsbD 0 = false → va + image.length ≤ 2 ^ 55 → exec (.contextSave n) s = .next (
      let u := withCore s n { ended c 0x0B with pc := c.pc }
      { u with choice := s.choice + 1 }))) ∧
  (∀ (s : State) (n : Nat) (t : Task),
    let c := coreState s n
    c.mode = .restoring → c.task = some t → (∀ i < 8, regionMode t.card i = 0) →
    (∀ w ps, OnePage s.pkg t.part (cardSaveVa t.card) 384 w ps → (∀ a ∈ ps, a / 8 ∉ s.pkg.memBad) →
      let bs := ps.map (memAt s.pkg)
      bytesField bs 8 8 = 384 → 384 ≤ cardSaveSize t.card → bytesField bs 4 2 = 0 → ∃ d,
        exec (.contextRestore n) s = .next (
          let u := withCore s n d
          { u with choice := s.choice + 1 }) ∧
        d.mode = .restored ∧ d.task = some t ∧ d.request = c.request ∧ d.pc = BitVec.ofNat 12 (bytesField bs 16 2) ∧
        d.transfer = ⟨bytesField bs 18 2 % 4, (bytesField bs 18 2).testBit 2, BitVec.ofNat 12 (bytesField bs 20 2)⟩ ∧
        d.cyc = BitVec.ofNat 64 (bytesField bs 72 8) ∧ d.frz = BitVec.ofNat 64 (bytesField bs 80 8) ∧
        d.handles = Vector.replicate 16 Handle.reset) ∧
    ((partOf s.pkg t.part).ptroot.getLsbD 0 = false → cardSaveVa t.card + 384 ≤ 2 ^ 55 → OnlyTask s t.part n t →
      ∃ u c', exec (.contextRestore n) s = .next u ∧ Freed c c' ∧ u = { withCore s n c' with pkg := u.pkg })) ∧
  (∀ (s : State) (n : Nat) (t : Task) (r : PreemptRequest),
    let c := coreState s n
    let p := partOf s.pkg (taskPart c)
    c.request = some r →
    (∀ e, r.expires = some e → e ≤ s.pkg.cycle → r.byDrain = false → (∀ m, c.mode ≠ .givingUp m) →
      exec (.requestLapse n) s = .next (
        let u := withCore s n { c with request := none }
        { u with pkg := setPart s.pkg (taskPart c) { p with
          pmiss := if p.pmiss = BitVec.allOnes 32 then p.pmiss else p.pmiss + 1 } })) ∧
    (∀ e, r.expires = some e → s.pkg.cycle < e ∨ r.byDrain = true → Nothing s (.requestLapse n)) ∧
    (r.expires = none → c.mode = .running → OnlyTask s t.part n t →
      CoreBecomes s (.preemptionRequestArrival n) n
        { c with request := some { r with expires := some (s.pkg.cycle + cardDeadline t.card) } }))

/-- R196, R202, R205 to R208, R217, R219, R261, R413: a doorbell moves a ring's write index or declares OVERRUN; a ring's
next card is fetched into the partition queue and takes the next stamp; the writes of RRST, CQCFG, counters and groups;
arrivals at a barrier are counted, the last one raises GEN and releases every member, and a release ends the wait of its
core for its group; a host's write of a counter goes before the signals of its cycle; a card that is read with poison is not fetched. It is the model's choice where the spec leaves the point open: log entries 6, 22, 23 and 57. -/
def Obligations.RingAndBarrierRules : Prop :=
  (∀ (s : State) (p k : Nat) (v : BitVec 32), k < 8 →
    let q := partOf s.pkg p
    let r := vget q.rings k Ring.reset
    (v = r.w → Nothing s (.doorbell p k v)) ∧
    (v ≠ r.w → ¬ Overruns r v → PartBecomes s (.doorbell p k v) p (setRing q k { r with w := v })) ∧
    (v ≠ r.w → Overruns r v → PkgBecomes s (.doorbell p k v)
      (raiseVector p (16 + k) (setPart s.pkg p (setRing q k { r with w := v, overrun := true })))) ∧
    PartBecomes s (.ringReset p k v) p (setRing q k { r with w := v, r := v, overrun := false })) ∧
  (∀ (s : State) (p q : Nat) (v : BitVec 64),
    let x := partOf s.pkg p
    let c := vget x.queues q CompQueue.reset
    let n := logWritten c.log2n v
    let fits := inTier s.pkg c.base.toNat (16 * 2 ^ n) = true ∧ inPartition x c.base.toNat (16 * 2 ^ n) = true
    (v.getLsbD 8 = true → fits → PartBecomes s (.cqcfgWrite p q v) p (setQueue x q { c with log2n := n, en := true })) ∧
    (v.getLsbD 8 = false ∨ ¬ fits → PartBecomes s (.cqcfgWrite p q v) p (setQueue x q { c with log2n := n, en := false }))) ∧
  (∀ (s : State) (p i : Nat) (v : BitVec 64), p < 16 →
    let x := partOf s.pkg p
    (i < 4096 → ∃ y : Partition, PartBecomes s (.eventCounterWrite p i v) p y ∧
      y = { x with counters := y.counters, cards := y.cards } ∧
      (∀ j < 4096, counterOf y j =
        if j = i then v + BitVec.ofNat 64 (x.bumps.filter (· == i)).length else counterOf x j) ∧
      y.cards.length = x.cards.length ∧
      ∀ h (a : h < x.cards.length) (b : h < y.cards.length), y.cards[h] = { x.cards[h] with met := y.cards[h].met } ∧
        (y.cards[h].met = true ↔ x.cards[h].met = true ∨ 4096 ≤ cardWaitIdx x.cards[h].words ∨
          cardWaitVal x.cards[h].words ≤ (counterOf y (cardWaitIdx x.cards[h].words)).toNat)) ∧
    (4096 ≤ i → Nothing s (.eventCounterWrite p i v))) ∧
  (∀ (s : State) (p g : Nat) (v : BitVec 64) (x : Group), GroupIs (partOf s.pkg p) g x →
    let size := (v.extractLsb' 0 13).toNat
    let taken := g ≠ 0 ∧ g < 256 ∧ size ≤ 4096 ∧ ∀ m ∈ liveRanks s p, m.1 ≠ g
    let q := partOf s.pkg p
    (taken → PartBecomes s (.grpWrite p g v) p { q with groups := groupsWith q g { x with size := size } }) ∧
    (¬ taken → Nothing s (.grpWrite p g v))) ∧
  (∀ (s : State) (p i n g due : Nat) (x : Group),
    let q := partOf s.pkg p
    let left := q.arriving.eraseIdx i
    let all := x.arrived ++ [n]
    let out := all.map fun m => (m, g, s.pkg.cycle + (if m = queenCore then 0 else treeLatency (frameOf m)))
    q.arriving[i]? = some (n, g, due) → GroupIs q g x →
    (s.pkg.cycle < due → Nothing s (.barrierArrival p i)) ∧
    (due ≤ s.pkg.cycle → (coreState s n).accesses = [] →
      (all.length < x.size → PartBecomes s (.barrierArrival p i) p
        { q with arriving := left, groups := groupsWith q g { x with arrived := all } }) ∧
      (x.size ≤ all.length → PartBecomes s (.barrierArrival p i) p
        { q with
          arriving := left, groups := groupsWith q g { x with gen := x.gen + 1, arrived := [] }
          releasing := q.releasing ++ out }))) ∧
  (∀ (s : State) (n : Nat),
    let c := coreState s n
    let part := taskPart c
    let q := partOf s.pkg part
    let mine := fun (r : Nat × Nat × Nat) => r.1 = n ∧ r.2.2 ≤ s.pkg.cycle
    ((∃ r ∈ q.releasing, mine r) → ∃ hold, exec (.releaseArrival n) s = .next (
        let t := withCore s n { c with hold := hold }
        { t with pkg := setPart s.pkg part { q with
          releasing := q.releasing.filter fun r => decide (¬ (r.1 = n ∧ r.2.2 ≤ s.pkg.cycle)) } }) ∧
      ∀ h, h ∈ hold ↔ h ∈ c.hold ∧ ∀ r ∈ q.releasing, mine r → h ≠ .barrier r.2.1) ∧
    ((∀ r ∈ q.releasing, ¬ mine r) → Nothing s (.releaseArrival n))) ∧
  (∀ (s : State) (p k w : Nat) (ps : List Nat), p < 16 → k < 8 →
    let q := partOf s.pkg p
    let r := vget q.rings k Ring.reset
    let at' := r.base.toNat + r.r.toNat % 2 ^ r.log2n * 256
    let words := (List.range 32).map fun i => BitVec.ofNat 64 (ofBytes ((((ps.map (memAt s.pkg)).drop (8 * i)).take 8)))
    (q.en = false ∨ q.draining = true ∨ q.stopped = true ∨ r.en = false ∨ r.overrun = true ∨ r.w = r.r →
      Nothing s (.ringFetch p k)) ∧
    (q.en = true → q.draining = false → q.stopped = false → r.en = true → r.overrun = false → r.w ≠ r.r → q.waiting = [] →
      OnePage s.pkg p at' 256 w ps →
      ((∃ a ∈ ps, a / 8 ∈ s.pkg.memBad) → exec (.ringFetch p k) s = .next { s with choice := s.choice + 1 }) ∧
      ((∀ a ∈ ps, a / 8 ∉ s.pkg.memBad) → cardImage words ≠ 0xFFFF → ∃ card : Card, card.id = s.pkg.nextId ∧ card.ring = k ∧ card.serial = q.stamp ∧ card.left = cardReplicas words ∧
        card.statuses = [] ∧ card.graph = none ∧ card.poster = none ∧
        (∀ i, 1 ≤ i → card.words.getD i 0 = words.getD i 0) ∧ cardField card.words 0 32 4 = p ∧
        exec (.ringFetch p k) s = .next (
          let g := setPart s.pkg p (setRing { q with
            cards := q.cards ++ [card], waiting := [newEntry q s.pkg.nextId k (cardReplicas words)]
            stamp := q.stamp + 1 } k { r with r := r.r + 1 })
          { s with choice := s.choice + 1, pkg := { g with nextId := s.pkg.nextId + 1 } }))))

/-- R30, R200, R210 to R212, R365: the scheduler of a partition that is not draining, stopped or off gives the one ready
card, whose checks are done, the core that it names, if that core is free: the task starts there with its card's arguments,
and its ring's watchdog runs. A partition that is draining, stopped or off decides nothing. It is the model's choice where
the spec leaves the point open: log entries 49 and 51. -/
def Obligations.SchedulerPlacesACard : Prop :=
  ∀ (s : State) (p n : Nat) (x : Card) (w : Waiting), p < 16 →
    let q := partOf s.pkg p
    let r := vget q.rings x.ring Ring.reset
    (q.en = false ∨ q.draining = true ∨ q.stopped = true → Nothing s (.schedulerDecision p)) ∧
    (q.en = true → q.draining = false → q.stopped = false → q.cards = [x] → q.waiting = [w] → q.reserved = [] →
      NoTask s p → (coreState s n).mode = .free → x.met = true → x.ring < 8 →
      w.card = x.id → w.resumed = false → w.checked = true → w.readyAt.isSome → w.origin = .ring x.ring →
      w.replicas = [(0, 0)] → OneCore s.pkg p n x.words → ∃ c',
        Begins s.pkg (coreState s n) c' ⟨x.words, 0, p, x.serial, w.stamp, w.origin, x.ring, x.id⟩ ∧
        exec (.schedulerDecision p) s = .next (
          let t := withCore s n c'
          let y := setRing { q with waiting := [] } x.ring { r with counter := max r.counter 1 }
          { t with pkg := setPart s.pkg p y }))

/-- R364 to R367: a watchdog that reaches its limit drains its partition; the drain asks every task to give up its core by
G; after G the tasks that remain are force-stopped with code 0x18; once their traffic has settled the partition is reset and
stopped, and its fault interrupt is raised; GO lets a stopped partition run again. It is the model's choice where the spec
leaves the point open: log entries 24 and 50. -/
def Obligations.WatchdogRules : Prop :=
  (∀ (s : State) (p k : Nat),
    let q := partOf s.pkg p
    let r := vget q.rings k Ring.reset
    let expires := r.limit ≠ 0 ∧ r.limit.toNat ≤ r.counter ∧ q.draining = false ∧ q.stopped = false
    (expires → PartBecomes s (.watchdogExpiry p k) p
      { q with draining := true, wdRing := k, drain := some ⟨s.pkg.cycle, none, false, none⟩ }) ∧
    (¬ expires → Nothing s (.watchdogExpiry p k))) ∧
  (∀ (s : State) (p : Nat) (d : Drain), p < 16 →
    let q := partOf s.pkg p
    q.drain = some d →
    (d.last = none → s.pkg.cycle ≤ d.expiry → Nothing s (.drainDeadline p)) ∧
    (∀ n t, d.last = none → d.expiry < s.pkg.cycle → OnlyTask s p n t → (∀ m, (coreState s n).mode ≠ .givingUp m) →
      let g := s.pkg.cycle + cardDeadline t.card
      exec (.drainDeadline p) s = .next (
        let u := withCore s n { coreState s n with
          request := some ⟨s.pkg.nextId + t.cardId, s.pkg.cycle, some g, 0, true⟩ }
        let k := setPart s.pkg p { q with drain := some { d with last := some g } }
        { u with pkg := { k with nextId := s.pkg.nextId + t.cardId + 1 } })) ∧
    (∀ g, d.last = some g → s.pkg.cycle ≤ g → Nothing s (.drainDeadline p)) ∧
    (∀ g n t, d.last = some g → g < s.pkg.cycle → d.forced = false → d.settled = none → OnlyTask s p n t →
      let c := coreState s n
      c.mode = .running → c.accesses ≠ [] → (∀ a ∈ c.accesses, ∃ pa, Place.here pa ∈ a.places ∧ ∀ x ∈ a.places, ∃ y, x = .here y) →
      16 ≤ cardQueue t.card → ∃ r, ForcedRecord c t r ∧
        exec (.drainDeadline p) s = .next (
          let u := withCore s n { c with
            mode := .forced, request := none, stop := none, hold := [], record := r }
          { u with choice := s.choice + 1, pkg := setPart s.pkg p { q with
            wdForced := if q.wdForced = 0xFFFF then 0xFFFF else q.wdForced + 1
            due := q.due.filter fun d => d.core != some n, drain := some { d with forced := true } } })) ∧
    (∀ x, d.settled = some x → s.pkg.cycle ≤ x → Nothing s (.partitionReset p)) ∧
    (∀ x, d.settled = some x → x < s.pkg.cycle → NoTask s p → exec (.partitionReset p) s = .next (
      let k := setPart s.pkg p { q with
        groups := q.groups.map fun g => (g.1, { g.2 with arrived := [] })
        arriving := [], releasing := [], rings := q.rings.map fun r => { r with counter := 0 }
        draining := false, stopped := true, drain := none }
      { s with pkg := raiseVector p 24 k })) ∧
    (∀ x n t, d.settled = some x → x < s.pkg.cycle → OnlyTask s p n t → (coreState s n).mode = .forced → ∃ u c',
      exec (.partitionReset p) s = .next u ∧ Freed (coreState s n) c' ∧ u = { withCore s n c' with pkg := u.pkg } ∧
      (partOf u.pkg p).stopped = true ∧ (partOf u.pkg p).draining = false ∧ (partOf u.pkg p).drain = none ∧
      (LetsThrough s.pkg p 24 → (p, 24) ∈ u.pkg.raised) ∧ u.pkg.mem = s.pkg.mem)) ∧
  (∀ (s : State) (p : Nat),
    let q := partOf s.pkg p
    (q.stopped = true → PartBecomes s (.wdclrGo p) p { q with stopped := false, wdForced := 0, wdLost := 0 }) ∧
    (q.stopped = false → Nothing s (.wdclrGo p)))

/-- R240, R249, R386 to R390, R400, R406: a port trains, and pod time only steps forward; a lost link has no lane; an exchange sets
the servo, and the sixteenth offset in a row is an error; the servo corrects pod time by one tick, once in a microsecond; PPCTL; a
flit of another partition is discarded and counted, one for another node goes on by its route, fifteen times at most, an item joins
those of the switches, and a request for memory of the port's partition is performed and answered, a fault among the answers; a
request for anything else is discarded and counted. It is the model's choice where the spec leaves the point open: log entries 6,
25, 52, 56 and 65. -/
def Obligations.PodRules : Prop :=
  (∀ (s : State) (n : Nat) (t : BitVec 48) (lanes : BitVec 4),
    let p := portOf s.pkg n
    let time := if s.pkg.time.toNat + 4 < t.toNat then t else s.pkg.time
    let up : Port := { p with up := true, lanes := lanes, offsets := 0 }
    (n < 16 → p.en = true → p.up = false → PkgBecomes s (.portTraining n t lanes) { setPort s.pkg n up with time := time }) ∧
    (16 ≤ n ∨ p.en = false ∨ p.up = true → Nothing s (.portTraining n t lanes))) ∧
  (∀ (s : State) (n : Nat),
    (n < 16 → PkgBecomes s (.podPortLinkLoss n) (setPort s.pkg n { portOf s.pkg n with up := false, lanes := 0 })) ∧
    (16 ≤ n → Nothing s (.podPortLinkLoss n))) ∧
  (∀ (s : State) (n : Nat) (t : BitVec 48),
    let p := portOf s.pkg n
    let far := s.pkg.time.toNat + 4 < t.toNat ∨ t.toNat + 4 < s.pkg.time.toNat
    let servo := if s.pkg.time = t then none else some (decide (s.pkg.time.toNat < t.toNat))
    let becomes := fun (p : Port) => { setPort s.pkg n p with servo := servo }
    let failed := becomes { p with offsets := 0, terr := true }
    (n < 16 → p.en = true → p.up = true →
      (¬ far → PkgBecomes s (.timeExchange n t) (becomes { p with offsets := 0 })) ∧
      (far → p.offsets + 1 < 16 → PkgBecomes s (.timeExchange n t) (becomes { p with offsets := p.offsets + 1 })) ∧
      (∀ part, far → 16 ≤ p.offsets + 1 → Carries s.pkg n part →
        PkgBecomes s (.timeExchange n t) (raiseVector part 25 failed)) ∧
      (far → 16 ≤ p.offsets + 1 → CarriesNothing s.pkg n → PkgBecomes s (.timeExchange n t) failed)) ∧
    (16 ≤ n ∨ p.en = false ∨ p.up = false → Nothing s (.timeExchange n t))) ∧
  (∀ k : Package, ∃ ticks, (if k.clksel = 0 then ticks ≤ 2 else ticks = 1 ∨ ticks = 2) ∧
    let moved := fun (n : Nat) => { k with cycle := k.cycle + 1, time := k.time + BitVec.ofNat 48 n }
    let free := 1000 ≤ (k.time - BitVec.ofNat 48 k.servoAt).toNat
    (k.servo = none ∨ ¬ free → passTime k = moved ticks) ∧
    (k.servo = some true → free → passTime k = { moved (ticks + 1) with servo := none, servoAt := k.time.toNat }) ∧
    (k.servo = some false → free → ticks = 0 → passTime k = moved 0) ∧
    (k.servo = some false → free → ticks ≠ 0 → passTime k = { moved (ticks - 1) with servo := none, servoAt := k.time.toNat })) ∧
  (∀ (s : State) (n : Nat) (v : BitVec 64),
    (n < 16 → PkgBecomes s (.ppctlWrite n v)
      (setPort s.pkg n { portOf s.pkg n with en := v.getLsbD 0, wagReg := v.getLsbD 1 })) ∧
    (16 ≤ n → Nothing s (.ppctlWrite n v))) ∧
  (∀ (s : State) (n part : Nat) (i : Instr) (f : Flit), FlitComes i n f →
    let k := s.pkg
    (CarriesNothing k n → PkgTakes s i k) ∧
    (Carries k n part → f.part ≠ part → PkgTakes s i (discarded k n)) ∧
    (Carries k n part → f.part = part → f.dest ≠ k.pnode.toNat →
      (15 ≤ f.hops ∨ NoRoute k part f.dest false → PkgTakes s i (discarded k n)) ∧
      (∀ out, f.hops < 15 → RouteTo k part f.dest out → PkgTakes s i
        (setPort k out { portOf k out with flits := (portOf k out).flits ++ [{ f with hops := f.hops + 1 }] }))) ∧
    (Carries k n part → f.part = part → f.dest = k.pnode.toNat →
      (∀ x, f.body = .item x → PkgTakes s i { k with items := k.items ++ [(x, [])] }) ∧
      ((∀ x, f.body ≠ .item x) → (∀ src id pa kind, f.body ≠ .request src id pa kind) → PkgTakes s i k))) ∧
  (∀ (s : State) (n part src id pa : Nat) (kind : RemoteKind) (i : Instr) (f : Flit), FlitComes i n f →
    let k := s.pkg
    let r := partOf k part
    let answers := fun (k₁ : Package) (a : Reply) => ∃ k', FlitSent k₁ k' part src (.answer id a) ∧ PkgTakes s i k'
    let marks := fun (len : Nat) => (List.range len).filter fun j => decide ((pa + j) / 8 ∈ k.memBad)
    Carries k n part → f.part = part → f.dest = k.pnode.toNat → f.body = .request src id pa kind →
    (∀ len, AsksFor kind len → inTier k pa len = false ∨ inPartition r pa len = false → PkgTakes s i (discarded k n)) ∧
    (∀ len, AsksFor kind len → 0 < len → inTier k pa len = true → inPartition r pa len = true →
      (∀ j < len, Unwindowed k (pa + j)) → answers k ⟨[], [], true⟩) ∧
    (∀ len, kind = .read len → InRange k r pa len → answers k ⟨bytesAt k pa len, marks len, false⟩) ∧
    (∀ bs bad, kind = .write bs bad → InRange k r pa bs.length → ∃ k₁,
      StoresBad outsidePlace k k₁ ((List.range bs.length).map (pa + ·)) bs (· ∈ bad) ∧ answers k₁ ⟨[], [], false⟩) ∧
    (∀ o size b c j step va, kind = .amo o size b c j step va → InRange k r pa size →
      let old := bytesAt k pa size
      (PoisonAt k pa size → answers k ⟨old, marks size, false⟩) ∧
      (¬ PoisonAt k pa size → ∃ k₁,
        Stores outsidePlace k k₁ ((List.range size).map (pa + ·))
          (toBytes size (amoNew (amoOpOf o) (8 * size) va (ofBytes old) b c j step)) ∧ answers k₁ ⟨old, [], false⟩)))

/-- R252, R388, R389, R393 to R399: a port sends its queued packets and its watermark behind them, a watermark is received, a write
of WAG takes effect at either, and a port joins at its first; a regression suspends delivery and discards nothing; a packet is held,
forwarded or discarded; the injector stamps packets in order and sends one copy to each node; delivery takes the smallest key once
every watermark has passed it and there is room, and writes its record, of which the sender hears; a line being copied delays both;
a stall suspends delivery, and GO resumes it; the mailbox registers. The packet's position of a queen core is free (log entry 19).
It is the model's choice where the spec leaves the point open: log entries 6, 52, 64 and 65. -/
def Obligations.WaggleRules : Prop :=
  (∀ (s : State) (n part : Nat),
    let p := portOf s.pkg n
    (∀ v, Carries s.pkg n part → p.wag = true → Bounds s.pkg part n v → (∀ u, Bounds s.pkg part n u → v ≤ u) →
      PkgBecomes s (.watermarkSend n) (setPort s.pkg n (wagTaken { p with
        sent := max p.sent v, sentAt := s.pkg.time.toNat, queue := []
        carried := if p.queue = [] then p.carried else s.pkg.time.toNat }))) ∧
    (Carries s.pkg n part → p.wag = false → PkgBecomes s (.watermarkSend n) (setPort s.pkg n (wagTaken p))) ∧
    (CarriesNothing s.pkg n → Nothing s (.watermarkSend n))) ∧
  (∀ (s : State) (n part v : Nat),
    let p := wagTaken (portOf s.pkg n)
    (CarriesNothing s.pkg n → Nothing s (.watermarkReceive n v)) ∧
    (Carries s.pkg n part → p.wag = false → PkgBecomes s (.watermarkReceive n v) (setPort s.pkg n p)) ∧
    (Carries s.pkg n part → p.wag = true → p.joined = true → v < p.received →
      PkgBecomes s (.watermarkReceive n v) (regressed (setPort s.pkg n p) part n)) ∧
    (Carries s.pkg n part → p.wag = true → p.joined = false ∨ p.received ≤ v →
      PkgBecomes s (.watermarkReceive n v) (setPort s.pkg n { p with
        received := v, joined := true, rose := if p.joined = true ∧ v = p.received then p.rose else s.pkg.time.toNat }))) ∧
  (∀ (s : State) (n part : Nat) (w : Packet),
    let k := s.pkg
    let p := portOf k n
    let q := partOf k part
    let back := p.joined = true ∧ w.stamp < p.received
    let holds := setPart k part { q with held := q.held ++ [⟨n, k.time.toNat, none, w⟩] }
    (CarriesNothing k n → Nothing s (.wagglePacketArrival n w)) ∧
    (Carries k n part → w.part ≠ part → PkgBecomes s (.wagglePacketArrival n w) (discarded k n)) ∧
    (Carries k n part → w.part = part → p.wag = false → Nothing s (.wagglePacketArrival n w)) ∧
    (Carries k n part → w.part = part → p.wag = true → w.dest = k.pnode.toNat →
      (NoSpace q n → Nothing s (.wagglePacketArrival n w)) ∧
      (¬ NoSpace q n → ¬ back → PkgBecomes s (.wagglePacketArrival n w) holds) ∧
      (¬ NoSpace q n → back → PkgBecomes s (.wagglePacketArrival n w) (regressed holds part n))) ∧
    (Carries k n part → w.part = part → p.wag = true → w.dest ≠ k.pnode.toNat →
      (15 ≤ w.hops ∨ NoRoute k part w.dest true → PkgBecomes s (.wagglePacketArrival n w) (discarded k n)) ∧
      (∀ out, w.hops < 15 → RouteTo k part w.dest out → (portOf k out).wag = true →
        let o := portOf k out
        let onward := setPort k out { o with queue := o.queue ++ [{ w with hops := w.hops + 1 }] }
        (¬ back → PkgBecomes s (.wagglePacketArrival n w) onward) ∧
        (back → PkgBecomes s (.wagglePacketArrival n w) (regressed onward part n))))) ∧
  (∀ (s : State) (part : Nat) (o : Outgoing) (rest : List Outgoing) (out : Nat → Nat), part < 16 →
    let k := s.pkg
    let q := partOf k part
    (q.outgoing = [] → Nothing s (.injectorAccept part)) ∧
    (q.outgoing = o :: rest → k.pnode.toNat ∈ o.dests → NoSpace q 16 → Nothing s (.injectorAccept part)) ∧
    (q.outgoing = o :: rest → k.pnode.toNat ∉ o.dests ∨ ¬ NoSpace q 16 → o.dests.Nodup →
      (∀ d ∈ o.dests, d ≠ k.pnode.toNat → RouteTo k part d (out d) ∧ (portOf k (out d)).wag = true) →
      ∃ x y, (o.core < 4096 → x = o.core % 64 ∧ y = o.core / 64) ∧
      (let copy := fun (d : Nat) => (⟨k.time.toNat, k.pnode.toNat, q.seq.toNat, part, d, o.user, x, y, o.payload, o.bad, 0⟩ : Packet)
       let own : List Held := if k.pnode.toNat ∈ o.dests then
         [⟨16, k.time.toNat, some (o.core, o.engine, o.serial), copy k.pnode.toNat⟩] else []
       let q' : Partition := { q with held := q.held ++ own, outgoing := rest, seq := q.seq + 1, accepted := k.time.toNat }
       ∃ ports, PkgBecomes s (.injectorAccept part) { setPart k part q' with ports := ports } ∧
         ∀ n : Fin 16, ports[n.val] = { portOf k n.val with
           queue := (portOf k n.val).queue ++
             (o.dests.filter fun d => decide (d ≠ k.pnode.toNat ∧ out d = n.val)).map copy }))) ∧
  (∀ (s : State) (part : Nat) (h : Held), part < 16 →
    let k := s.pkg
    let q := partOf k part
    let slot := q.mbrptr.toNat
    let ridx := BitVec.ofNat 32 (ofBytes (bytesAt k slot 8))
    (q.stalled = true ∨ q.delivering ≠ none ∨ q.held = [] → PartTakes s (.waggleDelivery part) part q) ∧
    (q.stalled = false → q.delivering = none → Smallest q h →
      (¬ Passed k part h.packet.stamp → PartTakes s (.waggleDelivery part) part q) ∧
      (Passed k part h.packet.stamp → InRange k q slot 8 → ¬ PoisonAt k slot 8 →
        (Room q ridx h.packet → PartTakes s (.waggleDelivery part) part
          { q with held := q.held.erase h, delivering := some h, roomSince := none }) ∧
        (¬ Room q ridx h.packet → PartTakes s (.waggleDelivery part) part
          { q with roomSince := some (q.roomSince.getD k.time.toNat) })) ∧
      (Passed k part h.packet.stamp → (∃ i < 8, InCopy k (slot + i)) → PartTakes s (.waggleDelivery part) part q) ∧
      (Passed k part h.packet.stamp →
        (∀ i < 8, Plain k (slot + i)) ∧ (inTier k slot 8 = false ∨ inPartition q slot 8 = false ∨ PoisonAt k slot 8) ∨
          (∀ i < 8, Unwindowed k (slot + i)) → PkgTakes s (.waggleDelivery part) (suspended k part 16 3)))) ∧
  (∀ (s : State) (part : Nat) (h : Held), part < 16 →
    let k := s.pkg
    let q := partOf k part
    let w := h.packet
    let places := recordBytes q (64 + w.payload.length)
    (q.delivering = none ∨ q.stalled = true → Nothing s (.mailboxRecordComplete part)) ∧
    (q.stalled = false → q.delivering = some h → 64 ∣ w.payload.length → slotsFor w ≤ 2 ^ q.mbLog2n →
      ((∃ a ∈ places, InCopy k a) → Nothing s (.mailboxRecordComplete part)) ∧
      ((∀ a ∈ places, Plain k a ∧ inTier k a 1 = true ∧ inPartition q a 1 = true) → ∃ head k₁ y,
        let k₂ := raiseVector part 26 (setPart k₁ part y)
        RecordHead q w head ∧ StoresBad hubPlace k k₁ places (head ++ w.payload) (fun i => 64 ≤ i ∧ i - 64 ∈ w.bad) ∧
        Signalled { q with mbw := q.mbw + BitVec.ofNat 32 (slotsFor w), didx := q.didx + 1, delivering := none } y q.mbSig.toNat ∧
        (∀ x, h.sender = some x → exec (.mailboxRecordComplete part) s = .next { senderAcked s h with pkg := k₂ }) ∧
        (h.sender = none → ∃ k₃, FlitSent k₂ k₃ part w.node (.delivered w.seq) ∧
          PkgBecomes s (.mailboxRecordComplete part) k₃)) ∧
      ((∀ a ∈ places, Plain k a ∨ Unwindowed k a) →
        (∃ a ∈ places, Unwindowed k a ∨ inTier k a 1 = false ∨ inPartition q a 1 = false) →
        PkgBecomes s (.mailboxRecordComplete part) (suspended k part 16 3)))) ∧
  (∀ (s : State) (part n : Nat), part < 16 →
    let k := s.pkg
    let q := partOf k part
    let full := ∃ t, q.roomSince = some t ∧ t + q.ordstall.toNat ≤ k.time.toNat
    (q.stalled = true → Nothing s (.deliveryStall part)) ∧
    (q.stalled = false → Late k part n → (∀ m < n, ¬ Late k part m) → PkgBecomes s (.deliveryStall part) (suspended k part n 0)) ∧
    (q.stalled = false → (∀ m, ¬ Late k part m) → full → PkgBecomes s (.deliveryStall part) (suspended k part 16 2)) ∧
    (q.stalled = false → (∀ m, ¬ Late k part m) → ¬ full → Nothing s (.deliveryStall part))) ∧
  (∀ (s : State) (p : Nat),
    let q := partOf s.pkg p
    let goes := q.stalled = true ∧ ¬ (q.stallCause = 1 ∧ (portOf s.pkg q.stallPort).wagReg = true)
    (goes → PartBecomes s (.wclrGo p) p { q with stalled := false }) ∧ (¬ goes → Nothing s (.wclrGo p))) ∧
  (∀ (s : State) (p : Nat) (v : BitVec 64),
    let q := partOf s.pkg p
    let n := (v.extractLsb' 0 5).toNat
    let based : Partition := { q with mbbase := v &&& 0x000FFFFFFFFFFFC0 }
    let sized : Partition := { q with mbLog2n := if 6 ≤ n ∧ n ≤ 24 then n else q.mbLog2n, mbSig := v.extractLsb' 16 16 }
    let slot := v &&& 0x000FFFFFFFFFFFF8
    let ok := inTier s.pkg slot.toNat 8 = true ∧ inPartition q slot.toNat 8 = true
    (MailboxFits s.pkg based → PartBecomes s (.mbbaseWrite p v) p based) ∧
    (¬ MailboxFits s.pkg based → Nothing s (.mbbaseWrite p v)) ∧
    (MailboxFits s.pkg sized → PartBecomes s (.mbcfgWrite p v) p sized) ∧
    (¬ MailboxFits s.pkg sized → Nothing s (.mbcfgWrite p v)) ∧
    (ok → PartBecomes s (.mbrptrWrite p v) p { q with mbrptr := slot }) ∧
    (¬ ok → Nothing s (.mbrptrWrite p v)))

/-- R223, R415, R416, R419, R426: a command of IMGCMD runs once it has been written, and is over with its error code: a native image
within its limits is loaded, in the place of any earlier one of its id; one that cannot be read, or whose id is in use, or for which there is no place, is refused with its error; an image is unloaded
unless it is in use; a repair that passes every check runs, or waits for the next reset. Which units have a spare left is
free (log entry 26). It is the model's choice where the spec leaves the point open: log entries 7, 32 and 54. -/
def Obligations.ImageAndRepairRules : Prop :=
  (∀ (s : State) (p : Nat) (i : Image), p < 16 → CoresInOrder s →
    let k := s.pkg
    let q := partOf k p
    let base := q.imgpa.toNat
    let others := q.images.filter fun x => decide (x.id ≠ i.id)
    let ends := fun (err : BitVec 8) => PartTakes s (.imageLoad p) p { q with imgErr := err, imgCmd := none }
    (q.imgCmd ≠ some .load → Nothing s (.imageLoad p)) ∧
    (q.imgCmd = some .load → inTier k base 1 = false ∨ inPartition q base 1 = false ∨ (Plain k base ∧ base / 8 ∈ k.memBad) → ends 7) ∧
    (q.imgCmd = some .load → NativeImage k q base i → InUse s p i.id → ends 5) ∧
    (q.imgCmd = some .load → NativeImage k q base i → ¬ InUse s p i.id → 64 ≤ others.length → ends 6) ∧
    (q.imgCmd = some .load → NativeImage k q base i → ¬ InUse s p i.id → others.length < 64 → ∃ t, exec (.imageLoad p) s = .next t ∧
      t.choice = s.choice + 1 ∧ TagsCleared s t p i.id (setPart k p { q with
        images := others ++ [i], imgErr := 0, imgCmd := none }))) ∧
  (∀ (s : State) (p : Nat) (id : BitVec 16), CoresInOrder s →
    let k := s.pkg
    let q := partOf k p
    (q.imgCmd ≠ some (.unload id) → Nothing s (.imageUnload p id)) ∧
    (q.imgCmd = some (.unload id) → InUse s p id → PartBecomes s (.imageUnload p id) p { q with imgErr := 5, imgCmd := none }) ∧
    (q.imgCmd = some (.unload id) → ¬ InUse s p id → ∃ t, exec (.imageUnload p id) s = .next t ∧ t.choice = s.choice ∧
      TagsCleared s t p id (setPart k p { q with
        images := q.images.filter fun x => decide (x.id ≠ id), imgErr := 0, imgCmd := none }))) ∧
  (∀ (s : State) (v : BitVec 64) (f : BitVec 64 → Instr) (kind : Nat) (kinds : List (BitVec 8)), Repairs f kind kinds →
    let k := s.pkg
    let target := v.extractLsb' 8 56
    let later := v.getLsbD 4 = true
    let busy := ∃ p < 16, (partOf k p).en = true
    let named := ∃ e, Logged k e ∧ e.kind ∈ kinds ∧ e.addr.setWidth 56 = target
    let spare := Config.spareLeft kind target.toNat ((k.repaired ++ k.deferred).filter fun r => r.kind == kind).length = true
    (k.repBusy = true → Nothing s (f v)) ∧
    (k.repBusy = false →
      (¬ later → busy → PkgBecomes s (f v) { k with repErr := 1 }) ∧
      (later ∨ ¬ busy → ¬ named → PkgBecomes s (f v) { k with repErr := 2 }) ∧
      (later ∨ ¬ busy → named → ¬ spare → PkgBecomes s (f v) { k with repErr := 3 }) ∧
      (later → named → spare → PkgBecomes s (f v) { k with repErr := 0, deferred := k.deferred ++ [⟨kind, target⟩] }) ∧
      (¬ later → ¬ busy → named → spare →
        PkgBecomes s (f v) { k with repErr := 0, repBusy := true, repaired := k.repaired ++ [⟨kind, target⟩] })))

/-- R226, R355, R376, R408, R409, R412, R414, R421, R422, R424, R425, R428 to R431: a package reset, the loss of power, and the trip
at 110 °C; boot, recovery and the attestation reports, whose signatures are free values (log entry 28); the errors that are found,
corrected or marked, and their logs; the power limit and its duty, the clock and the thermal warning; the vectors and their masks;
and the host's accesses to registers and to memory. That memory keeps its contents over a package reset is log entry 27. It is the
model's choice where the spec leaves the point open: log entries 8, 17, 29, 54, 64, 66 and 68. -/
def Obligations.ServiceRules : Prop :=
  (∀ (s : State),
    (s.pkg.powered = true → exec .packageReset s = .next (allFresh s (afterReset s.pkg))) ∧
    (s.pkg.powered = false → Nothing s .packageReset) ∧ exec .powerLoss s = .next (allFresh s (afresh s.pkg)) ∧
    (s.pkg.trip = true → exec .thermalTrip s = .next (allFresh s (afresh s.pkg))) ∧
    (s.pkg.trip = false → Nothing s .thermalTrip)) ∧
  (∀ (s : State) (b : BootInput),
    let k := s.pkg
    (k.booted = true ∨ k.recovery = true → Nothing s (.powerOnBoot b)) ∧
    (k.booted = false → k.recovery = false → b.signaturesOk = false →
      PkgBecomes s (.powerOnBoot b) { k with powered := true, recovery := true }) ∧
    (k.booted = false → k.recovery = false → b.signaturesOk = true → b.measurements.length = 16 → ∃ fs ps l,
      PkgBecomes s (.powerOnBoot b) { k with
        powered := true, booted := true, measurements := b.measurements, time := b.ptm, frames := fs, ports := ps, log := l
        supcap := min 1536 b.gib.toNat, upsets := k.upsets ++ b.upsets } ∧
      (∀ f : Fin 16, fs[f.val] = { k.frames[f.val] with failcol := b.failed.getD f.val 0 }) ∧
      (∀ n : Fin 16, ps[n.val] = { k.ports[n.val] with feeds := b.feeds.getD n.val k.ports[n.val].feeds }) ∧
      l.index = k.log.index +
        ((List.range 16).map fun f => ((List.range 16).filter (b.failed.getD f 0).getLsbD).length).sum ∧
      ((∀ f < 16, b.failed.getD f 0 = 0) → l = k.log))) ∧
  (∀ (s : State) (image : List Byte) (ok : Bool),
    (s.pkg.recovery = true → ok = true →
      exec (.recoveryImage image ok) s = .next (allFresh s { afterReset s.pkg with flash := image })) ∧
    (s.pkg.recovery = false ∨ ok = false → Nothing s (.recoveryImage image ok))) ∧
  (∀ (s : State) (fn : Nat),
    let k := s.pkg
    let p := partOf k fn
    let answers := k.powered = true ∧ fn < 16 ∧ (k.recovery = true → fn = 0)
    (¬ answers → exec (.spdmRequest fn) s = .next { s with choice := s.choice + 1 }) ∧
    (answers → ∃ (config : Option (List (BitVec 64))) (a b : Nat),
      PkgTakes s (.spdmRequest fn) { k with reports := ⟨fn, k.measurements, config, a, b⟩ :: k.reports } ∧
      (fn = 0 → config = none) ∧
      (fn ≠ 0 → ∃ w, config = some (w :: (p.pmem.toList ++ p.plim.toList)) ∧ w.extractLsb' 0 16 = p.frames ∧
        w.extractLsb' 16 16 = p.ports ∧ w.getLsbD 32 = p.en ∧ w.extractLsb' 33 31 = 0))) ∧
  (∀ (s : State),
    (∀ w double, ∃ part k, LogOf part (fun p => inPartition (partOf s.pkg p) (8 * w) 1 = true) ∧
      (∃ bad, k = { s.pkg with memBad := bad } ∧ ∀ x, x ∈ bad ↔ x ∈ s.pkg.memBad ∨ (double = true ∧ x = w)) ∧
      ∃ k', ErrorLogged k k' part (if 8 * w < 0x8000000000 then (if double then 4 else 3) else if double then 6 else 5) ∧
        meetUpset (.memory w double) s = { s with pkg := k' }) ∧
    (∀ n w double, CoresInOrder s → ∃ part k' c, LogOf part (fun p => coreIn s.pkg p n = true) ∧
      ErrorLogged s.pkg k' part (if double then 2 else 1) ∧
      (∃ bad, c = { coreState s n with combBad := bad } ∧
        ∀ x, x ∈ bad ↔ x ∈ (coreState s n).combBad ∨ (double = true ∧ w < 32768 ∧ x = w)) ∧
      (double = true ∧ w < 32768 → meetUpset (.comb n w double) s = { withCore s n c with pkg := k' }) ∧
      (double = false ∨ 32768 ≤ w → meetUpset (.comb n w double) s = { s with pkg := k' })) ∧
    (∀ n pc, CoresInOrder s → ∃ part k' c, LogOf part (fun p => coreIn s.pkg p n = true) ∧ ErrorLogged s.pkg k' part 11 ∧
      (∃ bad, c = { coreState s n with imemBad := bad } ∧ ∀ x, x ∈ bad ↔ x ∈ (coreState s n).imemBad ∨ x = pc) ∧
      meetUpset (.fetch n pc) s = { withCore s n c with pkg := k' }) ∧
    (∀ n file i, CoresInOrder s → file < 7 → ∃ c, StoreMarked (coreState s n) c file i ∧
      meetUpset (.store n file i) s = withCore s n c) ∧
    (∀ kind unit addr, ∃ k', ErrorLogged s.pkg k' none kind ∧ meetUpset (.lane kind unit addr) s = { s with pkg := k' })) ∧
  (∀ (s : State) (v : BitVec 64) (watts : Nat),
    let k := s.pkg
    let limit := k.pwrlim.toNat
    let duty := if limit = 0 then 0 else if limit < watts then min 960 (k.duty + 64)
      else if 100 * watts < 95 * limit then k.duty - 64 else k.duty
    let after : Package := { k with power := BitVec.ofNat 12 (min 4095 watts), duty := duty }
    PkgBecomes s (.pwrlimWrite v) { k with pwrlim := v.setWidth 12 } ∧
    (k.cycle % 1024 ≠ 0 → Nothing s (.dutyBoundary watts)) ∧
    (k.cycle % 1024 = 0 → (duty = 0 ↔ k.duty = 0) → PkgBecomes s (.dutyBoundary watts) after) ∧
    (k.cycle % 1024 = 0 → ¬ (duty = 0 ↔ k.duty = 0) → PkgBecomes s (.dutyBoundary watts) (raiseVector 0 28 after)) ∧
    (v.extractLsb' 0 2 = 3 ∨ (∃ p < 16, (partOf k p).en = true) → Nothing s (.clkselWrite v)) ∧
    (v.extractLsb' 0 2 ≠ 3 → (∀ p < 16, (partOf k p).en = false) →
      PkgBecomes s (.clkselWrite v) { k with clksel := v.extractLsb' 0 2 })) ∧
  (∀ (s : State) (t : BitVec 8),
    let k := { s.pkg with tmax := t, trip := s.pkg.trip || decide (110 ≤ t.toNat) }
    (t.toNat < k.warn.toNat ∨ k.warned = true → PkgBecomes s (.thermalWarning t) k) ∧
    (k.warn.toNat ≤ t.toNat → k.warned = false →
      PkgBecomes s (.thermalWarning t) (raiseVector 0 28 { k with warned := true }))) ∧
  (∀ (k : Package) (fn v : Nat), fn < 16 → v < 64 →
    let t := vget k.msix fn MsixTable.reset
    (LetsThrough k fn v → raiseVector fn v k = { k with raised := (fn, v) :: k.raised }) ∧
    (¬ LetsThrough k fn v → t.en = true → ∃ u, raiseVector fn v k = { k with msix := k.msix.setIfInBounds fn { t with pending := u } } ∧
      ∀ i < 64, u.getLsbD i = true ↔ t.pending.getLsbD i = true ∨ i = v) ∧
    (t.en = false → raiseVector fn v k = k)) ∧
  (∀ (s : State) (r : HostReg) (v : BitVec 64), r.fn < 16 → r.space = .msix → r.op = .write → r.wide = false →
    let k := s.pkg
    let t := vget k.msix r.fn MsixTable.reset
    let sends := fun (new : MsixTable) => ∃ k' u,
      let lets := fun (i : Nat) => new.en = true ∧ new.hush = false ∧ new.masks.getLsbD i = false
      PkgBecomes s (.registerWrite r v) k' ∧
      k' = { k with raised := k'.raised, msix := k.msix.setIfInBounds r.fn { new with pending := u } } ∧
      (∀ x, x ∈ k'.raised ↔ x ∈ k.raised ∨ ∃ i < 64, x = (r.fn, i) ∧ new.pending.getLsbD i = true ∧ lets i) ∧
      ∀ i < 64, u.getLsbD i = true ↔ new.pending.getLsbD i = true ∧ ¬ lets i
    (r.offset = 0x1000 → sends { t with en := v.getLsbD 31, hush := v.getLsbD 30 }) ∧
    (∀ j < 64, r.offset = 16 * j + 12 → ∃ m, sends { t with masks := m } ∧
      ∀ i < 64, m.getLsbD i = if i = j then v.getLsbD 0 else t.masks.getLsbD i) ∧
    (r.offset ≠ 0x1000 → (∀ j < 64, r.offset ≠ 16 * j + 12) → Nothing s (.registerWrite r v))) ∧
  (∀ (s : State) (r : HostReg) (v : BitVec 64),
    let k := s.pkg
    let w := Instr.registerWrite r v
    let done := fun (bs : List Byte) (st : CompletionStatus) => { k with completions := ⟨r.fn, bs, false, st⟩ :: k.completions }
    let reads := fun (d : BitVec 64) => PkgTakes s w (done (toBytes (if r.wide then 8 else 4) d.toNat) .ok)
    let known := r.space = .config → k.booted = true
    (¬ known → PkgBecomes s w (done [] .retry)) ∧ (known → r.op = .atomic → PkgBecomes s w (done [] .unsupported)) ∧
    (r.space = .config → known → r.op = .write → PkgBecomes s w (done [] .ok)) ∧
    (r.space = .bar2 → r.op = .read → reads 0) ∧
    (∀ p < 16, ∀ n < 8, r.space = .bar2 → r.op = .write → r.fn = p → r.wide = false → r.offset = 0x1000 * n →
      exec w s = exec (.doorbell p n (v.setWidth 32)) s) ∧
    (r.space = .bar2 → r.op = .write → r.fn < 16 → r.wide = true ∨ (∀ n < 8, r.offset ≠ 0x1000 * n) → Nothing s w) ∧
    (k.booted = true →
      (∀ row ∈ controlRead k, ReadsControl row.1 r → reads row.2) ∧
      (∀ p < 16, ∀ row ∈ windowRead (partOf k p), ReadsWindow p row.1 r → reads row.2) ∧
      (r.space = .bar0 → r.op = .read → r.offset % (if r.wide then 8 else 4) ≠ 0 ∨ 16 ≤ r.fn ∨ (1 ≤ r.fn ∧ 0x200000 ≤ r.offset) ∨
        0x4000000 ≤ r.offset → reads 0) ∧
      (∀ (n : Nat) (d : BitVec 64), r.space = .bar0 → r.op = .read → r.wide = false → r.offset = 8 * n ∨ r.offset = 8 * n + 4 →
        PkgTakes s (.registerWrite { r with wide := true, offset := 8 * n } v)
          { k with completions := ⟨r.fn, toBytes 8 d.toNat, false, .ok⟩ :: k.completions } →
        reads (if r.offset = 8 * n then d.setWidth 32 |>.setWidth 64 else d >>> 32)))) ∧
  (∀ (s : State) (fn : Nat) (a : HostAccess) (ps : List Nat), fn < 16 →
    let k := s.pkg
    let w := Instr.hostMemoryAccess fn a
    let ranges := partRanges (partOf k fn)
    let answers := fun (bs : List Byte) (bad : Bool) => PkgTakes s w { k with completions := ⟨fn, bs, bad, .ok⟩ :: k.completions }
    (a.atomic = true → PkgTakes s w { k with completions := ⟨fn, [], false, .unsupported⟩ :: k.completions }) ∧
    (a.atomic = false → ps.length = a.bytes.length → (∀ i (h : i < ps.length), BarByte ranges (a.addr + i) ps[i]) → ps.Nodup →
      (∀ x ∈ ps, Plain k x) →
      (∀ poison, a.write = false → (poison = true ↔ ∃ x ∈ ps, x / 8 ∈ k.memBad) → answers (ps.map (memAt k)) poison) ∧
      (a.write = true → a.poisoned = false → ∃ k', Stores outsidePlace k k' ps a.bytes ∧ PkgTakes s w k') ∧
      (a.write = true → a.poisoned = true → ∃ k₁ k' bad, Stores outsidePlace k k₁ ps a.bytes ∧ k' = { k₁ with memBad := bad } ∧
        (∀ w, w ∈ bad ↔ w ∈ k₁.memBad ∨ ∃ x ∈ ps, x / 64 = w / 8) ∧ PkgTakes s w k')) ∧
    (a.atomic = false → ps.length = a.bytes.length → (∀ i (h : i < ps.length), BarByte ranges (a.addr + i) ps[i]) →
      (∀ x ∈ ps, Unwindowed k x) →
      (a.write = false → ∃ bs, bs.length = a.bytes.length ∧ answers bs false) ∧ (a.write = true → PkgTakes s w k)) ∧
    (a.atomic = false → (∀ i < a.bytes.length, ∀ pa, ¬ BarByte ranges (a.addr + i) pa) →
      (a.write = false → answers (List.replicate a.bytes.length 0) false) ∧ (a.write = true → PkgTakes s w k)))

/-- R65 to R100: decode and encode agree: the words of a well-formed instruction decode to it, and a word that decodes is the word
of the instruction it gives, a lend aside that the header's absence implies (R68, R87). -/
def Obligations.DecodeAndEncodeAgree : Prop :=
  (∀ (i : Instr) (w : Syllable) (l : Option Lend), i.wf = true → encode i = some (w, l) → decode w l = .ok i) ∧
  (∀ (w : Syllable) (l : Option Lend) (i : Instr), decode w l = .ok i → i.wf = true ∧ ∃ m, encode i = some (w, m) ∧
    (m = l ∨ (l = none ∧ (m = some 0 ∨ m = some 1)) ∨ (l = some 0 ∧ m = none)))

/-- R65 to R100: words that the manual's examples give, with what they stand for. -/
def Obligations.ExampleWordsDecode : Prop :=
  decode 0x11608005 none = .ok (.addi 11 1 5 none) ∧ decode 0x118107FD none = .ok (.addi 12 2 0x7FD none) ∧
  decode 0x19C34567 (some 0x012) = .ok (.li 14 0x34567 (some 0x012)) ∧
  decode 0x11E007FF (some 0x1FF) = .ok (.addi 15 0 0x7FF (some 0x1FF)) ∧
  decode 0x09A59800 none = .ok (.add 13 11 12 0) ∧ decode 0x51A07000 none = .ok (.stcImm 13 0 3 0 none) ∧
  decode 0x30E00000 none = .ok (.endTask 0) ∧ decode 0x30808001 none = .ok (.loop 1 1) ∧
  decode 0x1625C00F none = .ok (.cmpiEq 49 11 15 none) ∧ decode 0x29800005 none = .ok (.brc 1 true 5) ∧
  decode 0x0966800A (some 9) = .ok (.or 11 13 0 9) ∧ decode 0x09A9801A (some 9) = .ok (.bswap 13 19 9) ∧
  decode 0x3A61F500 (some 9) = .ok (.ldSIndexed 19 0 3 20 0 9) ∧ decode 0x31A70011 none = .ok (.chk 14 17) ∧
  decode 0x4970A000 none = .ok (.mtsr 11 0x0A0 0) ∧ decode 0xB8F00261 none = .ok (.rstat 7 1 6 1) ∧
  decode 0xD0859800 none = .ok (.cpC2r 4 11 12) ∧ decode 0xE0A59800 none = .ok (.osend 5 11 12 false) ∧
  decode 0xE0671E49 none = .ok (.collMx 3 14 15 9) ∧ decode 0xF84BFE00 none = .error .header

/-- R4, R226 and the model's form of its memory and of every comb (log entry 3), and of its list of cores: every step of the machine keeps the
canonical form. -/
def Obligations.StepsKeepTheCanonicalForm : Prop :=
  ∀ s t : State, Canonical s → Machine.step s = .next t → Canonical t

/-- R205, R208, R210, R251, R362, R364, R375, R381, R389, R393, R419, R430: what reset leaves in the registers, as the
tables of the manual give it, and the canonical form. It is the model's choice where the spec leaves the point open: log
entry 8. -/
def Obligations.ResetValues : Prop :=
  let k := State.reset.pkg
  Canonical State.reset ∧
  (∀ p < 16, let q := partOf k p
    q.frames = 0 ∧ q.ports = 0 ∧ q.en = false ∧ (∀ j : Fin 8, q.pmem[j.val] = 0 ∧ q.plim[j.val] = 0) ∧ q.pmiss = 0 ∧
    q.sage = 0x00100000 ∧ (∀ i < 4096, counterOf q i = 0) ∧
    (∀ j < 8, let r := vget q.rings j Ring.reset
      r.base = 0 ∧ r.log2n = 4 ∧ r.en = false ∧ r.overrun = false ∧ r.r = 0 ∧ r.w = 0 ∧ r.limit = 0) ∧
    (∀ j < 16, let c := vget q.queues j CompQueue.reset
      c.base = 0 ∧ c.log2n = 4 ∧ c.en = false ∧ c.drop = 0 ∧ c.widx = 0 ∧ c.ridx = 0) ∧
    q.draining = false ∧ q.stopped = false ∧ q.wdRing = 0 ∧ q.wdForced = 0 ∧ q.imgpa = 0 ∧ q.imgErr = 0 ∧ q.imgCmd = none ∧
    q.mbbase = 0 ∧ q.mbLog2n = 6 ∧ q.mbSig = 0xFFFF ∧ q.mbw = 0 ∧ q.mbrptr = 0 ∧ q.ordstall = 100000 ∧ q.stalled = false) ∧
  (∀ n < 16, let p := portOf k n
    p.en = false ∧ p.wag = false ∧ p.wagReg = false ∧ p.up = false ∧ p.terr = false ∧ p.regr = false ∧ p.lanes = 0 ∧ p.misr = 0) ∧
  (∀ f < 16, let g := vget k.frames f Frame.reset
    g.frepa = 0 ∧ g.frepb = 0 ∧ g.failcol = 0) ∧
  (∀ n < 64, (apertureOf k n).en = false) ∧ (∀ n < 16, (migrationOf k n).en = false) ∧
  k.mhold = 0x00010000 ∧ k.pnode = 0 ∧ k.ptbound = 64 ∧ k.qown = 0 ∧ k.warn = 95

end
end

