-- ==== Sys2Proof/Laws/Memory.lean ====
section
/-!
SUPPORT. The sparse byte memories: every store keeps the canonical form, a stored byte reads back, and every other address
reads as before.
-/

namespace Sys2Proof.Machine

theorem risingFrom_mono {lo lo' : Nat} {m : List Host.Cell} (h : risingFrom lo m = true) (hl : lo' ≤ lo) :
    risingFrom lo' m = true := by
  cases m with
  | nil => rfl
  | cons c rest =>
    simp only [risingFrom, Bool.and_eq_true, decide_eq_true_eq] at h ⊢
    exact ⟨⟨hl.trans h.1.1, h.1.2⟩, h.2⟩

theorem memByte_below {lo a : Nat} {m : List Host.Cell} (h : risingFrom lo m = true) (ha : a < lo) :
    memByte m a = unlistedByte := by
  induction m generalizing lo with
  | nil => rfl
  | cons c rest ih =>
    simp only [risingFrom, Bool.and_eq_true, decide_eq_true_eq] at h
    have hne : c.1 ≠ a := by omega
    simp only [memByte, hne, if_false]
    exact ih h.2 (by omega)

theorem setByte_rising {lo a : Nat} {x : Byte} {m : List Host.Cell} (h : risingFrom lo m = true) (ha : lo ≤ a) :
    risingFrom lo (setByte m a x) = true := by
  induction m generalizing lo with
  | nil =>
    by_cases hx : x = unlistedByte <;> simp [setByte, hx, risingFrom, ha]
  | cons c rest ih =>
    obtain ⟨b, y⟩ := c
    have h0 := h
    simp only [risingFrom, Bool.and_eq_true, decide_eq_true_eq] at h
    obtain ⟨⟨hb, hy⟩, hr⟩ := h
    simp only [setByte]
    split
    · split
      · exact h0
      · rename_i hab hx
        simp only [risingFrom, Bool.and_eq_true, decide_eq_true_eq, bne_iff_ne, ne_eq]
        exact ⟨⟨ha, hx⟩, ⟨by omega, by simpa using hy⟩, hr⟩
    · split
      · subst_vars
        split
        · exact risingFrom_mono hr (by omega)
        · rename_i hx
          simp only [risingFrom, Bool.and_eq_true, decide_eq_true_eq, bne_iff_ne, ne_eq]
          exact ⟨⟨ha, hx⟩, hr⟩
      · simp only [risingFrom, Bool.and_eq_true, decide_eq_true_eq]
        exact ⟨⟨hb, hy⟩, ih hr (by omega)⟩

/-- Storing a byte keeps the canonical form. -/
theorem setByte_wf {a : Nat} {x : Byte} {m : List Host.Cell} (h : Memory.wf m = true) :
    Memory.wf (setByte m a x) = true := setByte_rising h (Nat.zero_le a)

/-- Storing bytes keeps the canonical form. -/
theorem setBytes_wf {a : Nat} {bs : List Byte} {m : List Host.Cell} (h : Memory.wf m = true) :
    Memory.wf (setBytes m a bs) = true := by
  induction bs generalizing m a with
  | nil => exact h
  | cons b rest ih => exact ih (setByte_wf h)

theorem memByte_setByte_rising {lo a : Nat} {x : Byte} {m : List Host.Cell} (h : risingFrom lo m = true) (b : Nat) :
    memByte (setByte m a x) b = if b = a then x else memByte m b := by
  induction m generalizing lo with
  | nil =>
    by_cases hb : b = a
    · by_cases hx : x = unlistedByte <;> simp [setByte, hx, memByte, hb]
    · by_cases hx : x = unlistedByte <;> simp [setByte, hx, memByte, hb, Ne.symm hb]
  | cons c rest ih =>
    obtain ⟨k, y⟩ := c
    simp only [risingFrom, Bool.and_eq_true, decide_eq_true_eq] at h
    obtain ⟨⟨hk, hy⟩, hr⟩ := h
    simp only [setByte]
    split
    · rename_i hak
      split
      · rename_i hx
        by_cases hb : b = a
        · subst hb
          have hne : k ≠ b := by omega
          simp [memByte, hne, memByte_below hr (show b < k + 1 by omega), hx]
        · simp [hb]
      · by_cases hb : b = a
        · simp [memByte, hb]
        · simp [memByte, hb, Ne.symm hb]
    · split
      · subst_vars
        split
        · rename_i hx
          by_cases hb : b = k
          · subst hb
            simp [memByte_below hr (show b < b + 1 by omega), hx]
          · simp [memByte, hb, Ne.symm hb]
        · by_cases hb : b = k
          · simp [memByte, hb]
          · simp [memByte, hb, Ne.symm hb]
      · rename_i hak hne
        by_cases hb : k = b
        · subst hb
          simp [memByte, Ne.symm hne]
        · simp [memByte, hb, ih hr]

/-- Read after write of one byte, and every other address unchanged. -/
theorem memByte_setByte {a : Nat} {x : Byte} {m : List Host.Cell} (h : Memory.wf m = true) (b : Nat) :
    memByte (setByte m a x) b = if b = a then x else memByte m b := memByte_setByte_rising h b

/-- Read after write of bytes: the bytes from `a` up are the stored ones, every other address reads as before. -/
theorem memByte_setBytes {a : Nat} {bs : List Byte} {m : List Host.Cell} (h : Memory.wf m = true) (b : Nat) :
    memByte (setBytes m a bs) b = if a ≤ b ∧ b < a + bs.length then bs.getD (b - a) 0 else memByte m b := by
  induction bs generalizing m a with
  | nil =>
    have : ¬ (a ≤ b ∧ b < a + ([] : List Byte).length) := by simp
    rw [if_neg this]; rfl
  | cons x rest ih =>
    simp only [setBytes]
    rw [ih (setByte_wf h), memByte_setByte h]
    by_cases h1 : a + 1 ≤ b ∧ b < a + 1 + rest.length
    · have h2 : a ≤ b ∧ b < a + (x :: rest).length := by simp; omega
      have h3 : b - a = (b - (a + 1)) + 1 := by omega
      rw [if_pos h1, if_pos h2, h3, List.getD_cons_succ]
    · rw [if_neg h1]
      by_cases hb : b = a
      · subst hb; simp
      · have h2 : ¬ (a ≤ b ∧ b < a + (x :: rest).length) := by simp; omega
        rw [if_neg hb, if_neg h2]

theorem memBytes_length (m : List Host.Cell) (a n : Nat) : (memBytes m a n).length = n := by simp [memBytes]

/-- Bytes just stored read back. -/
theorem memBytes_setBytes {a : Nat} {bs : List Byte} {m : List Host.Cell} (h : Memory.wf m = true) :
    memBytes (setBytes m a bs) a bs.length = bs := by
  apply List.ext_getElem
  · simp [memBytes]
  · intro i h1 h2
    simp only [memBytes, List.getElem_map, List.getElem_range, memByte_setBytes h]
    rw [if_pos (by omega)]
    have : a + i - a = i := by omega
    rw [this, List.getD_eq_getElem?_getD, List.getElem?_eq_getElem h2, Option.getD_some]

end Sys2Proof.Machine
end

