-- ==== Sys2Proof/Laws/State.lean ====
section
/-!
SUPPORT. What each update of the state leaves and changes, field by field, true by unfolding.
-/

namespace Sys2Proof.Machine

/-! ## State.onCore -/

@[simp] theorem State.onCore_core (s : State) (f : Core → Core) : (s.onCore f).core = f s.core := rfl
@[simp] theorem State.onCore_before (s : State) (f : Core → Core) : (s.onCore f).before = s.before := rfl
@[simp] theorem State.onCore_here (s : State) (f : Core → Core) : (s.onCore f).here = s.here := rfl
@[simp] theorem State.onCore_issue (s : State) (f : Core → Core) : (s.onCore f).issue = s.issue := rfl
@[simp] theorem State.onCore_cores (s : State) (f : Core → Core) : (s.onCore f).cores = s.cores := rfl
@[simp] theorem State.onCore_pkg (s : State) (f : Core → Core) : (s.onCore f).pkg = s.pkg := rfl
@[simp] theorem State.onCore_agenda (s : State) (f : Core → Core) : (s.onCore f).agenda = s.agenda := rfl
@[simp] theorem State.onCore_inputs (s : State) (f : Core → Core) : (s.onCore f).inputs = s.inputs := rfl
@[simp] theorem State.onCore_choice (s : State) (f : Core → Core) : (s.onCore f).choice = s.choice := rfl

/-! ## State.onIssue -/

@[simp] theorem State.onIssue_core (s : State) (f : Issue → Issue) : (s.onIssue f).core = s.core := rfl
@[simp] theorem State.onIssue_before (s : State) (f : Issue → Issue) : (s.onIssue f).before = s.before := rfl
@[simp] theorem State.onIssue_here (s : State) (f : Issue → Issue) : (s.onIssue f).here = s.here := rfl
@[simp] theorem State.onIssue_issue (s : State) (f : Issue → Issue) : (s.onIssue f).issue = f s.issue := rfl
@[simp] theorem State.onIssue_cores (s : State) (f : Issue → Issue) : (s.onIssue f).cores = s.cores := rfl
@[simp] theorem State.onIssue_pkg (s : State) (f : Issue → Issue) : (s.onIssue f).pkg = s.pkg := rfl
@[simp] theorem State.onIssue_agenda (s : State) (f : Issue → Issue) : (s.onIssue f).agenda = s.agenda := rfl
@[simp] theorem State.onIssue_inputs (s : State) (f : Issue → Issue) : (s.onIssue f).inputs = s.inputs := rfl
@[simp] theorem State.onIssue_choice (s : State) (f : Issue → Issue) : (s.onIssue f).choice = s.choice := rfl

/-! ## onPkg -/

@[simp] theorem onPkg_core (f : Package → Package) (s : State) : (onPkg f s).core = s.core := rfl
@[simp] theorem onPkg_before (f : Package → Package) (s : State) : (onPkg f s).before = s.before := rfl
@[simp] theorem onPkg_here (f : Package → Package) (s : State) : (onPkg f s).here = s.here := rfl
@[simp] theorem onPkg_issue (f : Package → Package) (s : State) : (onPkg f s).issue = s.issue := rfl
@[simp] theorem onPkg_cores (f : Package → Package) (s : State) : (onPkg f s).cores = s.cores := rfl
@[simp] theorem onPkg_pkg (f : Package → Package) (s : State) : (onPkg f s).pkg = f s.pkg := rfl
@[simp] theorem onPkg_agenda (f : Package → Package) (s : State) : (onPkg f s).agenda = s.agenda := rfl
@[simp] theorem onPkg_inputs (f : Package → Package) (s : State) : (onPkg f s).inputs = s.inputs := rfl
@[simp] theorem onPkg_choice (f : Package → Package) (s : State) : (onPkg f s).choice = s.choice := rfl

/-! ## raiseFault -/

@[simp] theorem raiseFault_core (code : BitVec 8) (addr : BitVec 64) (s : State) : (raiseFault code addr s).core = s.core := rfl
@[simp] theorem raiseFault_before (code : BitVec 8) (addr : BitVec 64) (s : State) :
    (raiseFault code addr s).before =
      s.before := rfl
@[simp] theorem raiseFault_here (code : BitVec 8) (addr : BitVec 64) (s : State) : (raiseFault code addr s).here = s.here := rfl
@[simp] theorem raiseFault_issue (code : BitVec 8) (addr : BitVec 64) (s : State) :
    (raiseFault code addr s).issue =
      { s.issue with faults := s.issue.faults ++ [{ slot := s.issue.slot, code := code, faddr := addr }] } := rfl
@[simp] theorem raiseFault_cores (code : BitVec 8) (addr : BitVec 64) (s : State) :
    (raiseFault code addr s).cores =
      s.cores := rfl
@[simp] theorem raiseFault_pkg (code : BitVec 8) (addr : BitVec 64) (s : State) : (raiseFault code addr s).pkg = s.pkg := rfl
@[simp] theorem raiseFault_agenda (code : BitVec 8) (addr : BitVec 64) (s : State) :
    (raiseFault code addr s).agenda =
      s.agenda := rfl
@[simp] theorem raiseFault_inputs (code : BitVec 8) (addr : BitVec 64) (s : State) :
    (raiseFault code addr s).inputs =
      s.inputs := rfl
@[simp] theorem raiseFault_choice (code : BitVec 8) (addr : BitVec 64) (s : State) :
    (raiseFault code addr s).choice =
      s.choice := rfl

/-! ## noteWait -/

@[simp] theorem noteWait_core (w : Wait) (s : State) : (noteWait w s).core = s.core := rfl
@[simp] theorem noteWait_before (w : Wait) (s : State) : (noteWait w s).before = s.before := rfl
@[simp] theorem noteWait_here (w : Wait) (s : State) : (noteWait w s).here = s.here := rfl
@[simp] theorem noteWait_issue (w : Wait) (s : State) :
    (noteWait w s).issue =
      { s.issue with waits := s.issue.waits ++ [w] } := rfl
@[simp] theorem noteWait_cores (w : Wait) (s : State) : (noteWait w s).cores = s.cores := rfl
@[simp] theorem noteWait_pkg (w : Wait) (s : State) : (noteWait w s).pkg = s.pkg := rfl
@[simp] theorem noteWait_agenda (w : Wait) (s : State) : (noteWait w s).agenda = s.agenda := rfl
@[simp] theorem noteWait_inputs (w : Wait) (s : State) : (noteWait w s).inputs = s.inputs := rfl
@[simp] theorem noteWait_choice (w : Wait) (s : State) : (noteWait w s).choice = s.choice := rfl

/-! ## noteReads -/

@[simp] theorem noteReads_core (rs : List Reg) (s : State) : (noteReads rs s).core = s.core := rfl
@[simp] theorem noteReads_before (rs : List Reg) (s : State) : (noteReads rs s).before = s.before := rfl
@[simp] theorem noteReads_here (rs : List Reg) (s : State) : (noteReads rs s).here = s.here := rfl
@[simp] theorem noteReads_issue (rs : List Reg) (s : State) :
    (noteReads rs s).issue =
      { s.issue with reads := s.issue.reads ++ rs.map fun r => (s.issue.slot, r) } := rfl
@[simp] theorem noteReads_cores (rs : List Reg) (s : State) : (noteReads rs s).cores = s.cores := rfl
@[simp] theorem noteReads_pkg (rs : List Reg) (s : State) : (noteReads rs s).pkg = s.pkg := rfl
@[simp] theorem noteReads_agenda (rs : List Reg) (s : State) : (noteReads rs s).agenda = s.agenda := rfl
@[simp] theorem noteReads_inputs (rs : List Reg) (s : State) : (noteReads rs s).inputs = s.inputs := rfl
@[simp] theorem noteReads_choice (rs : List Reg) (s : State) : (noteReads rs s).choice = s.choice := rfl

/-! ## notePost -/

@[simp] theorem notePost_core (p : Post) (s : State) : (notePost p s).core = s.core := rfl
@[simp] theorem notePost_before (p : Post) (s : State) : (notePost p s).before = s.before := rfl
@[simp] theorem notePost_here (p : Post) (s : State) : (notePost p s).here = s.here := rfl
@[simp] theorem notePost_issue (p : Post) (s : State) :
    (notePost p s).issue =
      { s.issue with posts := s.issue.posts ++ [p] } := rfl
@[simp] theorem notePost_cores (p : Post) (s : State) : (notePost p s).cores = s.cores := rfl
@[simp] theorem notePost_pkg (p : Post) (s : State) : (notePost p s).pkg = s.pkg := rfl
@[simp] theorem notePost_agenda (p : Post) (s : State) : (notePost p s).agenda = s.agenda := rfl
@[simp] theorem notePost_inputs (p : Post) (s : State) : (notePost p s).inputs = s.inputs := rfl
@[simp] theorem notePost_choice (p : Post) (s : State) : (notePost p s).choice = s.choice := rfl

/-! ## putLanding -/

@[simp] theorem putLanding_core (d : Dest) (v : Nat) (p : Bool) (f : Flags) (lat : Nat) (w : Option Nat) (s : State) :
    (putLanding d v p f lat w s).core =
      { s.core with landings := s.core.landings ++ [{ dest := d, value := v, poison := p, flags := f, due := s.core.clk + lat, pc := s.core.pc, slot := s.issue.slot, awaits := w }] } := rfl
@[simp] theorem putLanding_before (d : Dest) (v : Nat) (p : Bool) (f : Flags) (lat : Nat) (w : Option Nat) (s : State) :
    (putLanding d v p f lat w s).before =
      s.before := rfl
@[simp] theorem putLanding_here (d : Dest) (v : Nat) (p : Bool) (f : Flags) (lat : Nat) (w : Option Nat) (s : State) :
    (putLanding d v p f lat w s).here =
      s.here := rfl
@[simp] theorem putLanding_issue (d : Dest) (v : Nat) (p : Bool) (f : Flags) (lat : Nat) (w : Option Nat) (s : State) :
    (putLanding d v p f lat w s).issue =
      s.issue := rfl
@[simp] theorem putLanding_cores (d : Dest) (v : Nat) (p : Bool) (f : Flags) (lat : Nat) (w : Option Nat) (s : State) :
    (putLanding d v p f lat w s).cores =
      s.cores := rfl
@[simp] theorem putLanding_pkg (d : Dest) (v : Nat) (p : Bool) (f : Flags) (lat : Nat) (w : Option Nat) (s : State) :
    (putLanding d v p f lat w s).pkg =
      s.pkg := rfl
@[simp] theorem putLanding_agenda (d : Dest) (v : Nat) (p : Bool) (f : Flags) (lat : Nat) (w : Option Nat) (s : State) :
    (putLanding d v p f lat w s).agenda =
      s.agenda := rfl
@[simp] theorem putLanding_inputs (d : Dest) (v : Nat) (p : Bool) (f : Flags) (lat : Nat) (w : Option Nat) (s : State) :
    (putLanding d v p f lat w s).inputs =
      s.inputs := rfl
@[simp] theorem putLanding_choice (d : Dest) (v : Nat) (p : Bool) (f : Flags) (lat : Nat) (w : Option Nat) (s : State) :
    (putLanding d v p f lat w s).choice =
      s.choice := rfl

/-! ## pushResult -/

@[simp] theorem pushResult_core (v : Nat) (p : Bool) (f : Flags) (lat : Nat) (w : Option Nat) (s : State) :
    (pushResult v p f lat w s).core =
      { s.core with
        queue := shiftChain s.core.queue s.issue.slot (freshId s)
        aBad := shiftMarks s.core.aBad s.issue.slot
        serial := s.core.serial + 1
        landings := s.core.landings ++
          [{ dest := .queue (freshId s), value := v, poison := p, flags := f, due := s.core.clk + lat, pc := s.core.pc,
             slot := s.issue.slot, awaits := w }] } := by simp [pushResult]
@[simp] theorem pushResult_before (v : Nat) (p : Bool) (f : Flags) (lat : Nat) (w : Option Nat) (s : State) :
    (pushResult v p f lat w s).before =
      s.before := by simp [pushResult]
@[simp] theorem pushResult_here (v : Nat) (p : Bool) (f : Flags) (lat : Nat) (w : Option Nat) (s : State) :
    (pushResult v p f lat w s).here =
      s.here := by simp [pushResult]
@[simp] theorem pushResult_issue (v : Nat) (p : Bool) (f : Flags) (lat : Nat) (w : Option Nat) (s : State) :
    (pushResult v p f lat w s).issue =
      s.issue := by simp [pushResult]
@[simp] theorem pushResult_cores (v : Nat) (p : Bool) (f : Flags) (lat : Nat) (w : Option Nat) (s : State) :
    (pushResult v p f lat w s).cores =
      s.cores := by simp [pushResult]
@[simp] theorem pushResult_pkg (v : Nat) (p : Bool) (f : Flags) (lat : Nat) (w : Option Nat) (s : State) :
    (pushResult v p f lat w s).pkg =
      s.pkg := by simp [pushResult]
@[simp] theorem pushResult_agenda (v : Nat) (p : Bool) (f : Flags) (lat : Nat) (w : Option Nat) (s : State) :
    (pushResult v p f lat w s).agenda =
      s.agenda := by simp [pushResult]
@[simp] theorem pushResult_inputs (v : Nat) (p : Bool) (f : Flags) (lat : Nat) (w : Option Nat) (s : State) :
    (pushResult v p f lat w s).inputs =
      s.inputs := by simp [pushResult]
@[simp] theorem pushResult_choice (v : Nat) (p : Bool) (f : Flags) (lat : Nat) (w : Option Nat) (s : State) :
    (pushResult v p f lat w s).choice =
      s.choice := by simp [pushResult]

end Sys2Proof.Machine
end

