-- ==== Sys2Proof/Laws/Steps.lean ====
section
/-!
SUPPORT. What the step function does, by cases, and that the two ways to a meaning, through a bundle or through the agenda, are
the meaning itself.
-/

namespace Sys2Proof.Machine

/-! ## The step -/

/-- An input that is taken runs as the instruction it is. -/
theorem step_input {s : State} {i : Instr} {rest : List Instr} (h : s.inputs = i :: rest)
    (ht : takesInput s.pkg i = true) : step s = exec i { s with inputs := rest } := by
  simp [step, h, ht]

/-- An input that is not taken is lost. -/
theorem step_lost {s : State} {i : Instr} {rest : List Instr} (h : s.inputs = i :: rest)
    (ht : takesInput s.pkg i = false) : step s = .next { s with inputs := rest } := by
  simp [step, h, ht]

/-- With no input waiting, the next step of the cycle runs. -/
theorem step_agenda {s : State} {d : DeviceStep} {rest : List DeviceStep} (h : s.inputs = []) (ha : s.agenda = d :: rest) :
    step s = runDevice d { s with agenda := rest } := by
  simp [step, h, ha]

/-- With nothing left to do, the next cycle starts. -/
theorem step_cycle {s : State} (h : s.inputs = []) (ha : s.agenda = []) : step s = .next (startCycle s) := by
  simp [step, h, ha]

/-! ## Syllables -/

/-- An instruction that has a syllable means the same in a bundle as on its own. -/
theorem exec_eq_execSyllable {i : Instr} (h : encode i ≠ none) (s : State) : exec i s = execSyllable i s := by
  cases i <;> first | rfl | exact absurd rfl h

/-! ## Steps of the package's own -/

theorem runDevice_resultLanding (c : Nat) (s : State) : runDevice (.resultLanding c) s = exec (.resultLanding c) s := rfl
theorem runDevice_busyStateEnd (c : Nat) (s : State) : runDevice (.busyStateEnd c) s = exec (.busyStateEnd c) s := rfl
theorem runDevice_bundleIssue (c : Nat) (s : State) : runDevice (.bundleIssue c) s = exec (.bundleIssue c) s := rfl
theorem runDevice_matrixStep (c : Nat) (s : State) : runDevice (.matrixStep c) s = exec (.matrixStep c) s := rfl
theorem runDevice_memoryAccessPerformed (c id : Nat) (s : State) : runDevice (.memoryAccessPerformed c id) s = exec (.memoryAccessPerformed c id) s := rfl
theorem runDevice_amoPerformed (c id : Nat) (s : State) : runDevice (.amoPerformed c id) s = exec (.amoPerformed c id) s := rfl
theorem runDevice_globalLoadReturn (c id : Nat) (s : State) : runDevice (.globalLoadReturn c id) s = exec (.globalLoadReturn c id none) s := rfl
theorem runDevice_atomicReturn (c id : Nat) (s : State) : runDevice (.atomicReturn c id) s = exec (.atomicReturn c id none) s := rfl
theorem runDevice_postedWriteAck (c id : Nat) (s : State) : runDevice (.postedWriteAck c id) s = exec (.postedWriteAck c id) s := rfl
theorem runDevice_apertureFaultReport (c id : Nat) (s : State) : runDevice (.apertureFaultReport c id) s = exec (.apertureFaultReport c id) s := rfl
theorem runDevice_translationWalkDone (c : Nat) (s : State) : runDevice (.translationWalkDone c) s = exec (.translationWalkDone c) s := rfl
theorem runDevice_remoteWriteInjection (c e : Nat) (s : State) : runDevice (.remoteWriteInjection c e) s = exec (.remoteWriteInjection c e) s := rfl
theorem runDevice_cellCommandTakesEffect (c e : Nat) (s : State) : runDevice (.cellCommandTakesEffect c e) s = exec (.cellCommandTakesEffect c e) s := rfl
theorem runDevice_engineCommandBegin (c e : Nat) (s : State) : runDevice (.engineCommandBegin c e) s = exec (.engineCommandBegin c e) s := rfl
theorem runDevice_engineRequestSend (c e : Nat) (s : State) : runDevice (.engineRequestSend c e) s = exec (.engineRequestSend c e) s := rfl
theorem runDevice_engineResponseArrival (c e i : Nat) (s : State) : runDevice (.engineResponseArrival c e i) s = exec (.engineResponseArrival c e i none) s := rfl
theorem runDevice_migrationHoldTimeout (c e : Nat) (s : State) : runDevice (.migrationHoldTimeout c e) s = exec (.migrationHoldTimeout c e) s := rfl
theorem runDevice_engineCommandComplete (c e : Nat) (s : State) : runDevice (.engineCommandComplete c e) s = exec (.engineCommandComplete c e) s := rfl
theorem runDevice_loadSegment (c d : Nat) (s : State) : runDevice (.loadSegment c d) s = exec (.loadSegment c d) s := rfl
theorem runDevice_decodeRound (c d : Nat) (s : State) : runDevice (.decodeRound c d) s = exec (.decodeRound c d) s := rfl
theorem runDevice_remoteWriteHeaderArrival (id : Nat) (s : State) : runDevice (.remoteWriteHeaderArrival id) s = exec (.remoteWriteHeaderArrival id) s := rfl
theorem runDevice_remoteWriteAccept (id : Nat) (s : State) : runDevice (.remoteWriteAccept id) s = exec (.remoteWriteAccept id) s := rfl
theorem runDevice_remoteWriteAckArrival (id : Nat) (s : State) : runDevice (.remoteWriteAckArrival id) s = exec (.remoteWriteAckArrival id) s := rfl
theorem runDevice_boundCommandDelivery (i : Nat) (s : State) : runDevice (.boundCommandDelivery i) s = exec (.boundCommandDelivery i) s := rfl
theorem runDevice_migrationLineCopy (n : Nat) (s : State) : runDevice (.migrationLineCopy n) s = exec (.migrationLineCopy n) s := rfl
theorem runDevice_tlbiComplete (p : Nat) (s : State) : runDevice (.tlbiComplete p) s = exec (.tlbiComplete p) s := rfl
theorem runDevice_stopRecordWrite (c : Nat) (s : State) : runDevice (.stopRecordWrite c) s = exec (.stopRecordWrite c) s := rfl
theorem runDevice_automaticResume (c : Nat) (s : State) : runDevice (.automaticResume c) s = exec (.automaticResume c) s := rfl
theorem runDevice_retirement (c : Nat) (s : State) : runDevice (.retirement c) s = exec (.retirement c) s := rfl
theorem runDevice_contextSave (c : Nat) (s : State) : runDevice (.contextSave c) s = exec (.contextSave c) s := rfl
theorem runDevice_contextRestore (c : Nat) (s : State) : runDevice (.contextRestore c) s = exec (.contextRestore c) s := rfl
theorem runDevice_taskStart (c : Nat) (s : State) : runDevice (.taskStart c) s = exec (.taskStart c) s := rfl
theorem runDevice_releaseArrival (c : Nat) (s : State) : runDevice (.releaseArrival c) s = exec (.releaseArrival c) s := rfl
theorem runDevice_barrierArrival (p i : Nat) (s : State) : runDevice (.barrierArrival p i) s = exec (.barrierArrival p i) s := rfl
theorem runDevice_graphInstanceComplete (p g : Nat) (s : State) : runDevice (.graphInstanceComplete p g) s = exec (.graphInstanceComplete p g) s := rfl
theorem runDevice_completionRecordWrite (p q : Nat) (s : State) : runDevice (.completionRecordWrite p q) s = exec (.completionRecordWrite p q) s := rfl
theorem runDevice_ringFetch (p k : Nat) (s : State) : runDevice (.ringFetch p k) s = exec (.ringFetch p k) s := rfl
theorem runDevice_schedulerDecision (p : Nat) (s : State) : runDevice (.schedulerDecision p) s = exec (.schedulerDecision p) s := rfl
theorem runDevice_preemptionRequestArrival (c : Nat) (s : State) : runDevice (.preemptionRequestArrival c) s = exec (.preemptionRequestArrival c) s := rfl
theorem runDevice_requestLapse (c : Nat) (s : State) : runDevice (.requestLapse c) s = exec (.requestLapse c) s := rfl
theorem runDevice_watchdogExpiry (p k : Nat) (s : State) : runDevice (.watchdogExpiry p k) s = exec (.watchdogExpiry p k) s := rfl
theorem runDevice_drainDeadline (p : Nat) (s : State) : runDevice (.drainDeadline p) s = exec (.drainDeadline p) s := rfl
theorem runDevice_partitionReset (p : Nat) (s : State) : runDevice (.partitionReset p) s = exec (.partitionReset p) s := rfl
theorem runDevice_injectorAccept (p : Nat) (s : State) : runDevice (.injectorAccept p) s = exec (.injectorAccept p) s := rfl
theorem runDevice_waggleDelivery (p : Nat) (s : State) : runDevice (.waggleDelivery p) s = exec (.waggleDelivery p) s := rfl
theorem runDevice_mailboxRecordComplete (p : Nat) (s : State) : runDevice (.mailboxRecordComplete p) s = exec (.mailboxRecordComplete p) s := rfl
theorem runDevice_deliveryStall (p : Nat) (s : State) : runDevice (.deliveryStall p) s = exec (.deliveryStall p) s := rfl
theorem runDevice_watermarkSend (k : Nat) (s : State) : runDevice (.watermarkSend k) s = exec (.watermarkSend k) s := rfl
theorem runDevice_dutyBoundary (watts : Nat) (s : State) : runDevice (.dutyBoundary watts) s = exec (.dutyBoundary watts) s := rfl
theorem runDevice_imageLoad (p : Nat) (s : State) : runDevice (.imageLoad p) s = exec (.imageLoad p) s := rfl
theorem runDevice_imageUnload (p : Nat) (id : BitVec 16) (s : State) : runDevice (.imageUnload p id) s = exec (.imageUnload p id) s := rfl

end Sys2Proof.Machine
end

