-- ==== Sys2Proof/Tests/Slice0.lean ====
section
/-!
SUPPORT. The model's own tests: words of every form put together from the spec's encoding, an ill-formed term for each check, values
from the manual's worked examples, and for every statement a state and operands that meet its hypotheses.
-/

namespace Sys2Proof.Tests

set_option Elab.async false

open Sys2Proof.Machine Sys2Proof.Claims

/-! ## Small states -/

/-- The reset state with another core at hand, as it stood before the bundle and as it stands. -/
def onCore (f : Core → Core) : State := { State.reset with core := f Core.reset, before := f Core.reset }

/-- The reset state with another package. -/
def onPackage (f : Package → Package) : State := { State.reset with pkg := f Package.reset }

/-- Some x registers. -/
def withX (l : List (Nat × XWord)) (c : Core) : Core := { c with x := l.foldl (fun v p => v.setIfInBounds p.1 p.2) c.x }

/-- Some predicates. -/
def withP (p : BitVec 8) (c : Core) : Core := { c with p := p }

/-- Some vector registers. -/
def withV (l : List (Nat × BitVec 1024)) (c : Core) : Core := { c with v := l.foldl (fun v p => v.setIfInBounds p.1 p.2) c.v }

/-- The next state, where there is one. -/
def after (o : Host.Outcome State Fault Refusal) : State := match o with | .next t => t | _ => State.reset

/-- The values of the results in flight after an instruction on a core. -/
def results (f : Core → Core) (i : Instr) : List Nat := (after (exec i (onCore f))).core.landings.map (·.value)

/-- The flags of the results in flight after an instruction on a core. -/
def flagsOf (f : Core → Core) (i : Instr) : List Flags := (after (exec i (onCore f))).core.landings.map (·.flags)

/-- The codes of the faults of an instruction on a core. -/
def faultsOf (f : Core → Core) (i : Instr) : List (BitVec 8) := (after (exec i (onCore f))).issue.faults.map (·.code)

/-! ## The words of every form -/

/-- Every word, with its lend, decodes to the instruction beside it. -/
def allRead (l : List (Syllable × Option Lend × Instr)) : Bool := l.all fun x => (decode x.1 x.2.1).toOption == some x.2.2

/-- The words of family SX, put together from the fields of the opcode table. -/
theorem test_decode_SX : allRead [
  (0x0F35AE00, some 12, .add 57 43 23 12),
  (0x0A218201, some 10, .sub 17 3 1 10),
  (0x0B421C02, some 13, .mul 26 4 14 13),
  (0x0FB99203, some 14, .mulh 61 51 9 14),
  (0x0ACE2204, some 11, .mulhn 22 28 17 11),
  (0x0F7E5405, some 7, .div 59 60 42 7),
  (0x095FD206, some 9, .divn 10 63 41 9),
  (0x0AEEFA07, some 6, .rem 23 29 61 6),
  (0x08C4E008, some 15, .remn 6 9 48 15),
  (0x0A485C09, some 11, .and 18 16 46 11),
  (0x0E8CA20A, some 10, .or 52 25 17 10),
  (0x0D73F40B, some 0, .xor 43 39 58 0),
  (0x0B62C20C, some 2, .andn 27 5 33 2),
  (0x0DE2C60D, some 8, .orn 47 5 35 8),
  (0x0866F40E, some 8, .shl 3 13 58 8),
  (0x0883640F, some 3, .shr 4 6 50 3),
  (0x0B03C810, some 9, .sra 24 7 36 9),
  (0x08D59E11, some 2, .rol 6 43 15 2),
  (0x08E53612, some 4, .ror 7 10 27 4),
  (0x0F60FA13, some 0, .min 59 1 61 0),
  (0x0A34C214, some 1, .max 17 41 33 1),
  (0x0FD92E15, some 11, .minn 62 50 23 11),
  (0x0A2A8816, some 4, .maxn 17 21 4 4),
  (0x0B868017, some 2, .clz 28 13 2),
  (0x0C058018, some 4, .ctz 32 11 4),
  (0x0DA48019, some 3, .popc 45 9 3),
  (0x0C95001A, some 12, .bswap 36 42 12),
  (0x0B10A21B, some 11, .sel 24 33 17 11),
  (0x0F0D721C, some 11, .addw 56 26 57 11),
  (0x0A141E1D, some 9, .subw 16 40 15 9),
  (0x0D671A1E, some 5, .mulw 43 14 13 5),
  (0x0801041F, some 0, .sext 0 2 2 0),
  (0x0BEB7A20, some 11, .bext 31 22 61 11),
  (0x08241221, some 7, .bins 1 8 9 7),
  (0x0B07DC40, some 14, .cmpEq 24 15 46 14),
  (0x09E72A41, some 3, .cmpNe 15 14 21 3),
  (0x0CAE3C42, some 5, .cmpLt 37 28 30 5),
  (0x0C270C43, some 2, .cmpGe 33 14 6 2),
  (0x09884244, some 8, .cmpLtn 12 16 33 8),
  (0x0A574645, some 4, .cmpGen 18 46 35 4),
  (0x0BCB9046, some 11, .cmpTst 30 23 8 11)] = true := by decide +kernel

/-- The words of family SI, put together from the fields of the opcode table. -/
theorem test_decode_SI : allRead [
  (0x14EE8742, some 194, .addi 39 29 1858 (some 194)),
  (0x15CC0CBF, some 189, .andi 46 24 1215 (some 189)),
  (0x1299958A, some 241, .ori 20 51 1418 (some 241)),
  (0x12281B09, some 164, .xori 17 16 777 (some 164)),
  (0x10212001, none, .shli 1 2 1 none),
  (0x15B9A81B, none, .shri 45 51 27 none),
  (0x1000B001, none, .srai 0 1 1 none),
  (0x16E7BD1C, some 443, .muli 55 15 1308 (some 443)),
  (0x144FC614, some 67, .cmpiEq 34 31 1556 (some 67)),
  (0x1682C9AA, some 269, .cmpiNe 52 5 426 (some 269)),
  (0x1785D305, some 466, .cmpiLt 60 11 773 (some 466)),
  (0x162758FB, some 315, .cmpiLtn 49 14 251 (some 315))] = true := by decide +kernel

/-- The words of family SL, put together from the fields of the opcode table. -/
theorem test_decode_SL : allRead [
  (0x1C642182, some 393, .li 35 270722 (some 393)),
  (0x1CB371B0, some 327, .lic 37 225712 (some 327))] = true := by decide +kernel

/-- The words of family SF, put together from the fields of the opcode table. -/
theorem test_decode_SF : allRead [
  (0x27275801, some 8, .fadd 57 14 44 1 8),
  (0x26829211, some 8, .fsub 52 5 9 1 8),
  (0x244D3029, some 8, .fmul 34 26 24 9 8),
  (0x229B4231, some 2, .fma 20 54 33 1 2),
  (0x21DCB649, some 4, .fdiv 14 57 27 9 4),
  (0x27950059, some 2, .fsqrt 60 42 9 2),
  (0x23044A69, some 4, .fmin 24 8 37 9 4),
  (0x20A55079, some 0, .fmax 5 10 40 9 0),
  (0x22598081, some 1, .fabs 18 51 1 1),
  (0x24D30091, some 2, .fneg 38 38 1 2),
  (0x275412A1, some 9, .fcmpEq 58 40 9 1 9),
  (0x26CB80B9, some 8, .fclass 54 23 9 8),
  (0x200180C1, some 4, .fcvt 0 3 0 1 4),
  (0x23AA8ED9, some 5, .fcvti 29 21 7 9 5),
  (0x25CC80E1, some 4, .fcvtf 46 25 1 4),
  (0x244B16F9, some 2, .fcmpLt 34 22 11 9 2),
  (0x22161D01, some 8, .fcmpLe 16 44 14 1 8),
  (0x20994111, some 12, .fcmpUn 4 50 32 1 12)] = true := by decide +kernel

/-- The words of family SB, put together from the fields of the opcode table. -/
theorem test_decode_SB : allRead [
  (0x2811B2E2, none, .br 1159906),
  (0x2C9277DA, none, .brc 4 true 1210330)] = true := by decide +kernel

/-- The words of family SC, put together from the fields of the opcode table. -/
theorem test_decode_SC : allRead [
  (0x30000000, none, .nop),
  (0x30200A1D, some 8, .call 2589 8),
  (0x30400000, some 13, .ret 13),
  (0x307B0000, some 8, .jr 54 8),
  (0x309E0C5D, none, .loop 60 3165),
  (0x30A0016F, none, .safe 367),
  (0x30C00107, none, .yield 263),
  (0x30E00000, some 15, .endTask 15),
  (0x311108A1, some 4, .post 34 8 40 1 4),
  (0x31200002, some 5, .gbar 2 5),
  (0x31400039, some 11, .wait 57 11),
  (0x31601C28, some 9, .trap 7208 9),
  (0x31807B70, some 13, .brk 31600 13),
  (0x31BA2E10, none, .chk 52 11792),
  (0x31CAF711, none, .chkv 21 30481)] = true := by decide +kernel

/-- The words of family SM, put together from the fields of the opcode table. -/
theorem test_decode_SM : allRead [
  (0x3FFD082B, some 483, .ldImm 63 14 2 2091 (some 483)),
  (0x3A2C92DE, some 3, .ldIndexed 17 6 1 11 30 3),
  (0x3830A645, some 386, .ldxImm 1 8 1 1605 (some 386)),
  (0x3EDB3F27, some 13, .ldxIndexed 54 13 2 60 39 13),
  (0x3EC4CCE6, some 328, .stImm 54 2 1 3302 (some 328)),
  (0x3B68DD10, some 8, .stIndexed 27 4 1 52 16 8),
  (0x3BE36EDC, some 501, .ldSImm 31 1 2 3804 (some 501)),
  (0x3FDB7ABA, some 2, .ldSIndexed 62 13 2 42 58 2)] = true := by decide +kernel

/-- The words of family SA, put together from the fields of the opcode table. -/
theorem test_decode_SA : allRead [
  (0x45F3C016, some 40, .amoAdd 47 9 56 1 1 2 40),
  (0x42974057, some 11, .amoAnd 20 11 40 1 1 3 11),
  (0x402B0096, some 8, .amoOr 1 5 32 1 1 2 8),
  (0x465880D6, some 37, .amoXor 50 12 16 1 1 2 37),
  (0x460B2116, some 53, .amoMin 48 5 36 1 1 2 53),
  (0x465AE955, some 31, .amoMax 50 13 29 1 1 1 31),
  (0x477061A7, some 58, .amoMinn 59 8 12 2 1 3 58),
  (0x437FE9E5, some 63, .amoMaxn 27 15 61 2 1 1 63),
  (0x433F7A16, some 20, .amoSwap 25 15 47 1 1 2 20),
  (0x4259CA65, some 38, .amoCas 18 12 57 2 1 1 38),
  (0x46A70A95, some 42, .amoFadd 53 3 33 1 1 1 42),
  (0x43CE12EB, some 31, .amoAddsr 30 7 2 2 3 31),
  (0x40000413, none, .fence 1 3),
  (0x40000440, none, .fenceE),
  (0x435CF488, none, .probe 26 14 30 2),
  (0x40BBACC8, none, .xlat 5 13 53 2),
  (0x40060500, none, .hinv 3),
  (0x40560D40, none, .hinfo 2 11 1)] = true := by decide +kernel

/-- The words of family SS, put together from the fields of the opcode table. -/
theorem test_decode_SS : allRead [
  (0x4B61AD00, some 4, .mfsr 27 429 4),
  (0x4D992100, some 2, .mtsr 44 2337 2)] = true := by decide +kernel

/-- The words of family SCM, put together from the fields of the opcode table. -/
theorem test_decode_SCM : allRead [
  (0x5430417B, some 278, .ldcImm 33 32 2 379 (some 278)),
  (0x5546E5FF, some 5, .ldcIndexed 42 13 3 31 15 5),
  (0x56C0A90C, some 30, .ldcxImm 54 1 1 268 (some 30)),
  (0x5215EEDC, some 4, .ldcxIndexed 16 43 3 45 12 4),
  (0x5693B25F, some 137, .stcImm 52 39 1 607 (some 137)),
  (0x56F1F77C, some 8, .stcIndexed 55 35 3 55 12 8)] = true := by decide +kernel

/-- The words of family VI, put together from the fields of the opcode table. -/
theorem test_decode_VI : allRead [
  (0x62E9D901, some 0, .vadd 1 29 14 50 1 0),
  (0x6448A30E, some 1, .vsub 2 9 5 6 6 1),
  (0x64F62712, some 7, .vmul 2 30 49 14 2 7),
  (0x635DE49F, some 8, .vmulh 1 43 47 9 7 8),
  (0x62EA7FA2, some 2, .vmin 1 29 19 63 2 2),
  (0x65E373AE, some 2, .vmax 2 60 27 39 6 2),
  (0x65F774B5, some 10, .vand 2 62 59 41 5 10),
  (0x65736B3E, some 4, .vor 2 46 27 22 6 4),
  (0x6518A2C6, some 11, .vxor 2 35 5 5 6 11),
  (0x6549254F, some 2, .vshl 2 41 9 10 7 2),
  (0x63B211D2, some 11, .vshr 1 54 16 35 2 11),
  (0x6383205D, some 14, .vabs 1 48 25 5 14),
  (0x62D99E62, some 10, .vadds 1 27 12 60 2 10),
  (0x63B4AAEE, some 7, .vsubs 1 54 37 21 6 7),
  (0x6216F0F3, some 14, .vcmp 1 2 55 33 3 14),
  (0x6314257C, some 8, .vdot4 1 34 33 10 4 8)] = true := by decide +kernel

/-- The words of family VF, put together from the fields of the opcode table. -/
theorem test_decode_VF : allRead [
  (0x6D2B3103, some 117, .vfadd 2 37 25 34 3 117),
  (0x6AFA638B, some 19, .vfsub 1 31 19 7 3 19),
  (0x6B9FBF94, some 293, .vfmul 1 51 61 63 4 293),
  (0x6AD78319, some 502, .vfma 1 26 60 6 1 502),
  (0x6C38BD24, some 16, .vfnma 2 7 5 58 4 16),
  (0x6D51382C, some 0, .vfmin 2 42 9 48 4 0),
  (0x6A5B0CB2, some 13, .vfmax 1 11 24 25 2 13),
  (0x6AE6603B, some 4, .vfabs 1 28 51 3 4),
  (0x6A638043, some 8, .vfneg 1 12 28 3 8),
  (0x6A1FDD49, some 2, .vfcmp 1 3 62 58 1 2),
  (0x6BF70055, some 12, .vfclass 1 62 56 5 12),
  (0x6A2DF65C, some 438, .vfscl 1 5 47 44 4 438),
  (0x6A7BBE62, some 2, .vfsel 1 15 29 60 2 2)] = true := by decide +kernel

/-- The words of family VX, put together from the fields of the opcode table. -/
theorem test_decode_VX : allRead [
  (0x726384F0, some 269, .vcvt 1 12 28 4 true 7 269),
  (0x7516C6A1, some 2, .vqnt 2 34 54 6 true 2 2),
  (0x750942C2, some 8, .vdeq 2 33 10 2 true 4 8),
  (0x7288E593, some 2, .vbq 1 17 7 5 true 1 2),
  (0x74080304, some 4, .vbdq 2 1 0 3 false 0 4),
  (0x73700005, some 10, .vrng 1 46 10)] = true := by decide +kernel

/-- The words of family VS, put together from the fields of the opcode table. -/
theorem test_decode_VS : allRead [
  (0x7C556003, some 79, .vrecip 2 10 43 3 79),
  (0x7AEF600A, some 62, .vrsqrt 1 29 59 2 62),
  (0x7CA82011, some 207, .vsqrt 2 21 1 1 207),
  (0x7A42749A, some 453, .vdiv 1 8 19 41 2 453),
  (0x7BAB8021, some 232, .vexp2 1 53 28 1 232),
  (0x7C55E02B, some 489, .vlog2 2 10 47 3 489),
  (0x7AB8A032, some 182, .vexp 1 23 5 2 182)] = true := by decide +kernel

/-- The words of family VP, put together from the fields of the opcode table. -/
theorem test_decode_VP : allRead [
  (0x824BE003, some 8, .vmov 1 9 31 3 8),
  (0x837FC00B, some 12, .vbcst 1 47 62 3 12),
  (0x82F00011, some 185, .vli 1 30 1 185),
  (0x82136299, some 4, .vperm 1 2 27 5 1 4),
  (0x847A01A1, some 0, .vshuf 2 15 16 3 1 0),
  (0x83720E29, some 9, .vrot 1 46 16 28 1 9),
  (0x84A74035, some 2, .vred 2 20 58 5 2),
  (0x821062B8, some 2, .vmsk 1 2 3 5 2),
  (0x8406AAC1, none, .vxtr 2 53 21 1),
  (0x8409244B, none, .vins 2 1 9 8 3),
  (0x8227C050, none, .vbitx 1 4 62),
  (0x844F6059, some 9, .vcmpr 2 9 59 1 9),
  (0x85B60061, some 1, .vexpd 2 54 48 1 1)] = true := by decide +kernel

/-- The words of family VM, put together from the fields of the opcode table. -/
theorem test_decode_VM : allRead [
  (0x8AD1710B, some 90, .vld 1 26 11 34 11 (some 90)),
  (0x8B79E597, some 374, .vst 1 47 15 11 7 (some 374)),
  (0x8BAF5A2F, some 37, .vgat 1 53 58 52 15 37),
  (0x8CC87A3D, some 4, .vsct 2 25 3 52 13 4),
  (0x8A50F1CF, some 203, .vldg 1 10 7 35 15 (some 203)),
  (0x8D09D7D8, some 57, .vstg 2 33 14 47 8 (some 57)),
  (0x8BA835E5, some 38, .vldS 1 53 1 43 5 (some 38))] = true := by decide +kernel

/-- The words of family VQ, put together from the fields of the opcode table. -/
theorem test_decode_VQ : allRead [
  (0x95C14600, some 2, .vqadd 1 28 5 3 2),
  (0x96E60948, some 9, .vqr 1 46 24 4 5 9),
  (0x97100010, some 7, .vqz 1 49 7)] = true := by decide +kernel

/-- The words of family MM, put together from the fields of the opcode table. -/
theorem test_decode_MM : allRead [
  (0xA7D41230, none, .mma 1 15 5 9 true true),
  (0xA5D01270, none, .mmn 1 7 4 9 true true),
  (0xA73C10B0, none, .mmx 1 12 15 8 true true),
  (0xA4A84CF0, none, .mms 1 2 10 1 6 true true),
  (0xA7004520, none, .mmz 1 12 1 2 true)] = true := by decide +kernel

/-- The words of family MQ, put together from the fields of the opcode table. -/
theorem test_decode_MQ : allRead [
  (0xAC000000, none, .qzero 1),
  (0xAF93E400, none, .qrnd 1 14 9 7 true),
  (0xAC00081A, some 204, .qst 1 26 204),
  (0xAC000C2E, some 433, .qld 1 46 433),
  (0xAF001000, none, .qmsk 1 12),
  (0xAC001400, none, .qadd 1),
  (0xAC001AFF, none, .qscl 1 767),
  (0xAE0A1C00, none, .qtl 1 8 5)] = true := by decide +kernel

/-- The words of family MT, put together from the fields of the opcode table. -/
theorem test_decode_MT : allRead [
  (0xB143B14A, some 19, .tld 5 59 330 (some 19)),
  (0xB01D62CA, some 213, .tst 7 22 202 (some 213)),
  (0xB2700400, none, .tmov 9 12),
  (0xB1700600, none, .ttr 5 12),
  (0xB154080F, none, .tcvt 5 5 true 7),
  (0xB3400A00, none, .tzero 13)] = true := by decide +kernel

/-- The words of family ML, put together from the fields of the opcode table. -/
theorem test_decode_ML : allRead [
  (0xB824D0AA, none, .msl 1 4 13 5 10),
  (0xBA3003C2, none, .rstat 17 1 28 2)] = true := by decide +kernel

/-- The words of family CG, put together from the fields of the opcode table. -/
theorem test_decode_CG : allRead [
  (0xCEAD1081, some 40, .cpG2c 53 6 34 4 true 40),
  (0xCB7476A6, none, .cpC2g 27 10 14 53 true),
  (0xCF26BB29, some 63, .cpGat 57 3 23 25 true 63),
  (0xCFD4D62C, none, .cpSct 62 10 26 49),
  (0xCD458151, some 169, .cpBmg 42 2 48 10 true 169),
  (0xC81ECF54, some 63, .cpG2g 15 25 58 63),
  (0xC8DB5018, none, .cpOvl 6 13 42)] = true := by decide +kernel

/-- The words of family CR, put together from the fields of the opcode table. -/
theorem test_decode_CR : allRead [
  (0xD02AFC00, none, .cpC2r 1 21 62),
  (0xD3930440, none, .cellArm 28 38 2),
  (0xD3000082, some 354, .cellSeal 24 2 354),
  (0xD1A000C0, none, .cellFree 13),
  (0xD1670100, none, .cellExpect 11 14),
  (0xD0CA8140, none, .cellOpen 6 21)] = true := by decide +kernel

/-- The words of family CD, put together from the fields of the opcode table. -/
theorem test_decode_CD : allRead [
  (0xDE610000, none, .decTab 51 2),
  (0xDBC299B3, some 156, .decOpen 30 1 1 2483 156),
  (0xD800A1BB, none, .decSeek 1 443),
  (0xDEE0B689, none, .decSave 55 1 1673),
  (0xDD40CC40, none, .decLoad 42 1 3136)] = true := by decide +kernel

/-- The words of family CO, put together from the fields of the opcode table. -/
theorem test_decode_CO : allRead [
  (0xE56CAA01, none, .osend 43 25 21 true),
  (0xE4C45454, none, .collMx 38 8 42 20),
  (0xE2B96A9E, none, .collBs 21 50 53 30),
  (0xE0DC1CC0, none, .collBc 6 56 14),
  (0xE6F4DF00, none, .collAg 55 41 47)] = true := by decide +kernel

/-! ## Ill-formed terms, one for each check -/

theorem test_refused_lend_bits : (Instr.add 1 2 3 16).problem = some .lendBits := by decide
theorem test_refused_sext_width : (Instr.sext 1 2 3 0).problem = some .code := by decide
theorem test_refused_shift_amount : (Instr.shli 1 2 64 none).problem = some .literal := by decide
theorem test_refused_scalar_type : (Instr.fadd 1 2 3 2 0).problem = some .code := by decide
theorem test_refused_fcvt_literal : (Instr.fcvt 1 2 3 0 0).problem = some .literal := by decide
theorem test_refused_brc_as_br : (Instr.brc 0 false 5).problem = some .field := by decide
theorem test_refused_post_direction : (Instr.post 1 1 0 0 0).problem = some .field := by decide
theorem test_refused_scope : (Instr.fence 3 0).problem = some .code := by decide
theorem test_refused_vector_width : (Instr.vadd 3 1 2 3 0 0).problem = some .width := by decide
theorem test_refused_dot_type : (Instr.vdot4 0 1 2 3 1 0).problem = some .code := by decide
theorem test_refused_vector_condition : (Instr.vcmp 0 1 2 3 0 0x180).problem = some .code := by decide
theorem test_refused_vcmp_lend : (Instr.vcmp 0 1 2 3 0 0x10).problem = some .lendBits := by decide
theorem test_refused_vfcmp_merge : (Instr.vfcmp 0 1 2 3 0 8).problem = some .lendBits := by decide
theorem test_refused_rounding_base : (Instr.vfadd 0 1 2 3 0 0x110).problem = some .lendBits := by decide
theorem test_refused_rotate_count : (Instr.vrot 0 1 2 8 2 0).problem = some .literal := by decide
theorem test_refused_shuffle_pattern : (Instr.vshuf 0 1 2 5 3 0).problem = some .literal := by decide
theorem test_refused_second_mask : (Instr.vmsk 0 1 2 1 4).problem = some .field := by decide
theorem test_refused_convert_format : (Instr.vcvt 0 1 2 6 false 0 1).problem = some .format := by decide
theorem test_refused_convert_block : (Instr.vcvt 0 1 2 1 false 0 0x21).problem = some .lendBits := by decide
theorem test_refused_quantise_layout : (Instr.vqnt 0 1 2 6 false 0 0x41).problem = some .code := by decide
theorem test_refused_quantise_format : (Instr.vqnt 0 1 2 1 false 0 1).problem = some .format := by decide
theorem test_refused_dequantise_format : (Instr.vdeq 0 1 2 1 false 0 1).problem = some .format := by decide
theorem test_refused_scale_block : (Instr.vbq 0 1 2 12 false 0 0x61).problem = some .literal := by decide
theorem test_refused_unscale_format : (Instr.vbdq 0 1 2 1 false 0 1).problem = some .format := by decide
theorem test_refused_group_size : (Instr.vcvt 2 0 0 0 false 0 12).problem = some .literal := by decide
theorem test_refused_generator_format : (Instr.vrng 0 1 6).problem = some .format := by decide
theorem test_refused_quire_row_format : (Instr.vqadd 0 1 2 13 0).problem = some .format := by decide
theorem test_refused_quire_lend : (Instr.vqr 0 1 2 1 0 0x100).problem = some .lendBits := by decide
theorem test_refused_plain_mac_format : (Instr.mma 0 1 2 6 false false).problem = some .format := by decide
theorem test_refused_block_mac_format : (Instr.mmx 0 1 2 1 false false).problem = some .format := by decide
theorem test_refused_sparse_mac_format : (Instr.mms 0 1 2 3 0 false false).problem = some .format := by decide
theorem test_refused_coded_mac_format : (Instr.mmz 0 1 0 9 false).problem = some .format := by decide
theorem test_refused_bank_format : (Instr.qrnd 0 1 16 0 false).problem = some .format := by decide
theorem test_refused_latch_page : (Instr.msl 0 1 2 1 31).problem = some .literal := by decide
theorem test_refused_tag_lend : (Instr.cpG2c 1 2 3 4 false 1).problem = some .lendBits := by decide
theorem test_refused_opcode : decode 0x00000000 none = .error .reservedOpcode := by rfl
theorem test_refused_header : decode 0xF84BFE00 none = .error .header := by rfl
theorem test_refused_lend : decode 0x28000000 (some 1) = .error .lendUnused := by rfl

/-! ## States and operands that meet the hypotheses of each statement -/

theorem witness_IntegerAndImmediateResults :
    (Destination 0 ∧ Destination 32 ∧ Destination 55 ∧ Source 0 ∧ Source 55 ∧ GuardTrue State.reset 0) ∧
    (∀ row ∈ immediateTable, (row.1 32 55 63 none).wf = true) ∧ ReadDestination 1 ∧ ReadDestination 31 := by
  unfold Destination Source GuardTrue ReadDestination; decide +kernel

theorem witness_ShiftFieldAndUnaryResults :
    Destination 31 ∧ ReadDestination 31 ∧ Source 55 ∧ (2 : BitVec 6).toNat ≤ 2 ∧ GuardTrue State.reset 0 ∧
    (GuardTrue State.reset 0 → (5 : BitVec 6) = 5) ∧ (¬ GuardTrue State.reset 0 → (5 : BitVec 6) = 7) ∧
    (GuardTrue State.reset 8 → (7 : BitVec 6) = 5) ∧ (¬ GuardTrue State.reset 8 → (7 : BitVec 6) = 7) := by
  unfold Destination Source GuardTrue ReadDestination; decide +kernel

theorem witness_CompareResults : Destination 49 ∧ Source 1 ∧ Source 55 ∧ GuardTrue (onCore (withP 3)) 1 := by
  unfold Destination Source GuardTrue; decide +kernel

/-- A core that rounds stochastically, its generator's address register poisoned. -/
def stochastic : State := onCore fun c => { c with rm := 5, xPoison := 0x20000 }

theorem witness_FloatArithmeticResults :
    FloatType 0 ∧ FloatType 1 ∧ FloatType 9 ∧ Destination 32 ∧ ReadDestination 31 ∧ Source 55 ∧ GuardTrue State.reset 0 ∧
    (Stochastic stochastic.before.rm ∧ (readX stochastic.before 17).poison = true) ∧ ¬ Stochastic State.reset.before.rm := by
  unfold FloatType Destination ReadDestination Source GuardTrue Stochastic; decide +kernel

theorem witness_FloatPickCompareAndConversion :
    FloatType 9 ∧ FloatType ((9 : BitVec 6).setWidth 4) ∧ (9 : BitVec 6).toNat < 16 ∧ (7 : BitVec 6).toNat < 8 ∧
    ¬ Stochastic ((4 : BitVec 6).setWidth 3) ∧ Stochastic ((7 : BitVec 6).setWidth 3) ∧
    (readX State.reset.before 17).poison = false ∧ Destination 0 ∧ Source 55 ∧ GuardTrue State.reset 0 := by
  unfold FloatType Stochastic Destination Source GuardTrue; decide +kernel

theorem witness_RoundingIsExactWhereItCan :
    (0x7F7FFFFF < 2 ^ (Layout.ieee 8 23).bits ∧ (decodeNum (.ieee 8 23) 0x7F7FFFFF).isFinite = true) ∧
    (0x8000000000000001 < 2 ^ (Layout.ieee 11 52).bits ∧ (decodeNum (.ieee 11 52) 0x8000000000000001).isFinite = true) ∧
    0xFFFFFF < 2 ^ 24 ∧ (-2 ^ 63 - 1 : Int) < -2 ^ 63 ∧ (2 ^ 63 : Int) ≤ 2 ^ 63 ∧
    (formatE4.layout = .e4m3 ∧ ¬ formatE5.layout = .e4m3) ∧
    (NanPattern formatF 0x7F800001 ∧ ¬ NanPattern formatF 0x7F800000 ∧ Signals formatF 0xFFBFFFFF ∧ ¬ Signals formatF 0x7FC00000) ∧
    (decodeNum (.ieee 8 23) 0x7F800000 = .inf false ∧ decodeNum (.ieee 8 23) 0x80000000 = .fin true 0 (-149)) := by
  unfold NanPattern Signals NanPattern; decide +kernel

theorem witness_GuardsAndIllegalOperands :
    ¬ GuardTrue State.reset 8 ∧ ReadDestination 1 ∧ ¬ (Destination 33 ∧ Source 1 ∧ Source 1) ∧ ¬ (Destination 1 ∧ Source 56 ∧ Source 1) ∧
    ¬ (ReadDestination 32 ∧ Source 1 ∧ Source 1) ∧ ¬ (Destination 47 ∧ Source 1) ∧ ¬ Destination 56 ∧ ¬ ReadDestination 0 ∧
    sysAssigned (State.reset.here == queenCore) 0x0A0 = false ∧ sysAssigned (State.reset.here == queenCore) 0x026 = false := by
  unfold GuardTrue Destination Source ReadDestination; decide +kernel

/-- A core with x5 poisoned, one that runs a loop, and one with an invert guard on p1. -/
def poisonedX5 : State := onCore fun c => { c with xPoison := 0x20 }
def looping : State := onCore fun c => { c with lc := 3 }

theorem witness_TransferAndLoopResults :
    GuardTrue State.reset 0 ∧ ¬ GuardTrue State.reset 8 ∧ Source 31 ∧ poisoned State.reset 31 = false ∧
    (looping.before.lc ≠ 0 ∧ poisoned poisonedX5 5 = true) ∧
    (State.reset.before.lc = 0 ∧ (1 : BitVec 12) ≠ 0 ∧ value State.reset 5 = 0) ∧
    value (onCore (withX [(5, 1)])) 5 ≠ 0 ∧ poisoned (onCore (withX [(5, 1)])) 5 = false ∧
    (Source 5 ∧ poisoned (onCore fun c => { c with xPoison := 0x80000000 }) 31 = true ∧ ¬ Source 56) := by
  unfold GuardTrue Source; decide +kernel

/-- A task of a card in group 7 on slot 0, on a core where slot 2 of the bundle has been relieved. -/
def grouped : State :=
  onCore fun c => { c with reliefSlots := 4, task := some { plainTask with card := (List.replicate 32 0).set 2 7 } }

theorem witness_TaskAndPostResults :
    GuardTrue State.reset 0 ∧ (cell State.reset 63).state = .absent ∧ (cell State.reset 0).state ≠ .absent ∧
    State.reset.before.reliefSlots.getLsbD 0 = false ∧ grouped.before.reliefSlots.getLsbD 2 = true ∧
    cardGroup (taskCard State.reset.before) 3 = 0 ∧ cardGroup (taskCard grouped.before) 0 ≠ 0 ∧
    (Source 5 ∧ poisoned State.reset 5 = false ∧ (value State.reset 5).toNat % 64 = 0 ∧ (value State.reset 5).toNat ≤ 0x3FF00 ∧
      cellHolding State.reset.before 0 256 = some 0 ∧ CellUntouched State.reset 0 ∧ (cell State.reset 0).state = .full ∧
      TagPasses State.reset 0 ∧ ¬ CombBad State.reset 0 256) := by
  unfold GuardTrue Source CellUntouched CombBad TagPasses; decide +kernel

/-- A cell 1 of 64 bytes at offset 256 in a state, and one whose tag is to be checked. -/
def withCell (st : CellState) (c : Core) : Core :=
  { c with cells := c.cells.setIfInBounds 1 { Cell.reset with base := 256, size := 64, state := st } }
def checkedCell (c : Core) : Core :=
  { c with cells := c.cells.setIfInBounds 1
             { Cell.reset with base := 256, size := 64, state := .full, ckp := true, tag := 1, etag := 2 } }

/-- The same cell where the bundle resumes from the fault of its tag. -/
def relieved : State := onCore fun c => { checkedCell c with relief := 0x04 }

theorem witness_CombAccessResults :
    (Destination 32 ∧ Source 55 ∧ GuardTrue State.reset 0 ∧ CellUntouched (onCore (withCell .full)) 1 ∧
      MayLoad (onCore (withCell .full)) 1 (immediateOffset 7 none 3) 8 8 ∧ MayLoad relieved 1 (immediateOffset 7 none 3) 8 8 ∧
      MayLoad (onCore (withCell .draining)) 1 (indexedAt State.reset 5 7 3) 8 8) ∧
    (poisoned State.reset 5 = false ∧ Memory.wf (onCore (withCell .empty)).core.comb = true ∧
      MayStore (onCore (withCell .empty)) 1 (immediateOffset 7 none 3) 8 8) ∧
    ((cell (onCore (withCell .empty)) 1).state ≠ .full ∧ (cell (onCore (withCell .empty)) 1).state ≠ .draining ∧
      (cell (onCore (withCell .draining)) 1).state ≠ .empty ∧ (cell (onCore (withCell .draining)) 1).state ≠ .full) ∧
    (OutOfCell (onCore (withCell .full)) 1 3 (immediateOffset 8 none 3) ∧ OutOfCell (onCore (withCell .full)) 1 3 (-8) ∧
      OutOfCell (onCore (withCell .full)) 1 3 52 ∧ ¬ OutOfCell (onCore checkedCell) 1 3 (immediateOffset 7 none 3)) ∧
    ¬ TagPasses (onCore checkedCell) 1 ∧ poisoned poisonedX5 5 = true := by
  unfold Destination Source GuardTrue CellUntouched MayLoad MayStore OutOfCell TagPasses
  refine ⟨⟨?_, ?_, ?_, ?_, ?_, ?_⟩, ?_, ?_, ?_, ?_⟩ <;> decide +kernel

theorem witness_SyllablesChangeNoRegister : encode (.vrng 2 3 1) ≠ none ∧ encode (.decLoad 63 1 4095) ≠ none := by decide

/-- Before the package has booted, and with an error that will be found in package cycle 2. -/
def unbooted : State := onPackage fun k => { k with booted := false }
def upsetAhead : State := onPackage fun k => { k with upsets := [(2, .memory 0 true)] }

theorem witness_StepTakesTheNextThing :
    takesInput Package.reset .powerLoss = true ∧ takesInput Package.reset (.bundleIssue 0) = false ∧
    (({ State.reset with agenda := [.bundleIssue 0] } : State).inputs = []) ∧
    (unbooted.inputs = [] ∧ unbooted.agenda = [] ∧ unbooted.pkg.booted = false) ∧
    (upsetAhead.inputs = [] ∧ upsetAhead.agenda = [] ∧ upsetAhead.pkg.booted = true ∧
      ∀ u ∈ upsetAhead.pkg.upsets, upsetAhead.pkg.cycle + 1 < u.1) := by
  decide +kernel

/-- The core after reset with a bundle of four nops placed, and with another in its place. -/
def nopPlaced : State := State.withFetchWord State.reset 32 0x30000000
def placed (b : Bundle) : State :=
  { nopPlaced with core := { nopPlaced.core with imem := setBundle 0 b [] } }

theorem notFrozen {s : State} (d : s.pkg.duty = 0) (m : s.core.macs = []) (l : s.core.landings = []) (h : s.core.hold = []) :
    ¬ Frozen s ∧ ¬ TimingDue s := by simp [Frozen, Starving, TimingDue, d, m, l, h]

theorem nopPlaced_issues : Issues nopPlaced := by
  have n : ¬ Frozen nopPlaced ∧ ¬ TimingDue nopPlaced := notFrozen rfl rfl rfl rfl
  refine ⟨rfl, rfl, rfl, n.1, n.2, ?_, ?_, ?_⟩
  · exact ⟨nopPlaced.core.overlays[0], by decide +kernel⟩
  · decide +kernel
  · decide +kernel

/-- The bundle of nops, once its syllables have had their meanings. -/
def nopsDone : State := atSlot 3 (issueStart nopPlaced)

/-- A core with a result of a posted load that will come after the window is read, under CHECK. -/
def windowCore : State := { nopPlaced with core := { nopPlaced.core with check := true, landings := [
  { dest := .x 3, value := 0, poison := false, flags := 0, due := 9, pc := 0, slot := 0, awaits := none }] } }
def readsWindow : State := { windowCore with issue := { windowCore.issue with reads := [(0, .x 3)] } }

theorem noFaults {s t : State} (c : s.core.check = false) (f : t.issue.faults = []) : StopFaults s t [] := by
  simp [StopFaults, FaultOf, FirstOf, WindowFault, c, f]

theorem witness_StepRunsTheDecodedBundle :
    Issues nopPlaced ∧
    (RunsInOrder (slotsOf (bundleAt nopPlaced.core)) (issueStart nopPlaced) nopsDone ∧ Keeps (issueStart nopPlaced) nopsDone) ∧
    (StopFaults nopPlaced nopsDone [] ∧ nopsDone.issue.waits = [] ∧ (∀ pc rest, ¬ Mistimed nopPlaced.core pc rest) ∧
      nopPlaced.core.task.isSome = true ∧ nopsDone.issue.ends = false) ∧
    (WindowFault windowCore readsWindow 0 ∧ Mistimed { nopPlaced.core with check := true, mistimed := [5] } 5 []) ∧
    (CoresInOrder State.reset ∧ 1 ≠ State.reset.here) := by
  have h : slotsOf (bundleAt nopPlaced.core) =
      [(0, 0x30000000, none), (1, 0x30000000, none), (2, 0x30000000, none), (3, 0x30000000, none)] := by decide +kernel
  have c : ∀ u, copyCounted 0x30000000 u = u := fun u => if_neg (by decide)
  have d : decode 0x30000000 none = .ok .nop := by rfl
  refine ⟨nopPlaced_issues, ⟨?_, ⟨rfl, rfl, rfl, rfl, rfl, rfl, rfl⟩⟩, ⟨noFaults rfl rfl, rfl, fun _ _ x => absurd x.1 (by decide), ?_, rfl⟩,
    ⟨⟨rfl, by decide, .inl ⟨.x 3, by decide, .inl ⟨_, List.mem_singleton.mpr rfl, rfl⟩⟩⟩, rfl, by decide, rfl⟩, .nil, by decide⟩
  · rw [h]
    refine ⟨atSlot 0 (issueStart nopPlaced), ⟨atSlot 1 (issueStart nopPlaced), ⟨atSlot 2 (issueStart nopPlaced),
      ⟨atSlot 3 (issueStart nopPlaced), (c _).symm, .inl ⟨.nop, d, ?_⟩⟩, .inl ⟨.nop, d, ?_⟩⟩, .inl ⟨.nop, d, ?_⟩⟩,
      .inl ⟨.nop, d, ?_⟩⟩ <;> (try rw [c]) <;> rfl
  · decide +kernel

/-- The same core frozen by the power duty, by a value that is late, by a step without its symbols, and by each kind of hold. -/
def dutyHeld : State := { nopPlaced with pkg := { Package.reset with duty := 64 } }
def lateResult : Landing :=
  { dest := .x 3, value := 0, poison := false, flags := 0, due := 0, pc := 9, slot := 0, awaits := some 5 }
def lateCore (strict : Bool) : State :=
  { nopPlaced with core := { nopPlaced.core with landings := [lateResult], strict := strict } }
def heldBy (h : Hold) (f : Core → Core) : State := { nopPlaced with core := { f nopPlaced.core with hold := [h] } }
def pendingAccess : Access :=
  { id := 7, pc := 0, kind := .store, va := 0, places := [], data := [], scope := everywhere, within := 0, parts := []
    performed := false, result := [], poisoned := false, faulted := false }
def rowStatsOp : BusyOp :=
  { pc := 0, reads := [], writes := [.rowStats], combLo := 0, combLen := 0, combWrites := false, endsAt := 9, effects := []
    flags := 0, fault := 0, tile := 0, qb := 0, onBank := false }
def starvedStep : MacOp :=
  { form := .mmz, qb := 0, fmt := 6, rowsN := 1, colsN := 16, depth := 16, a := [], b := [], es := 0, esB := 0, stream := 0
    step := 0, steps := 4, start := 0, bank := Core.reset.banks[0] }

theorem witness_FreezesAndFaultsOfBundles_freezes :
    (∀ h ∈ [Hold.barrier 9, .cell 1 5], Frozen (heldBy h (withCell .empty))) ∧
    Frozen (heldBy (.fence [7] everywhere) fun c => { c with accesses := [pendingAccess] }) ∧
    Frozen (heldBy (.fence [7] (onlyPlace 16)) fun c =>
      { c with accesses := [{ pendingAccess with within := onlyPlace 3, performed := false }] }) ∧
    Frozen (heldBy .fenceE fun c => { c with busy := [rowStatsOp] }) ∧
    Frozen dutyHeld ∧ Frozen (lateCore false) ∧ Frozen { nopPlaced with core := { nopPlaced.core with macs := [starvedStep] } } := by
  refine ⟨fun h m => .inr (.inr (.inr ⟨h, List.mem_singleton.mpr rfl, ?_, fun x => nomatch x⟩)),
    .inr (.inr (.inr ⟨_, List.mem_singleton.mpr rfl, ⟨pendingAccess, ?_⟩, fun x => nomatch x⟩)),
    .inr (.inr (.inr ⟨_, List.mem_singleton.mpr rfl, ⟨_, List.mem_singleton.mpr rfl, ?_⟩, fun x => nomatch x⟩)),
    .inr (.inr (.inr ⟨_, List.mem_singleton.mpr rfl, .inr ⟨_, List.mem_singleton.mpr rfl, ?_⟩, fun x => nomatch x⟩)),
    .inl ?_, .inr (.inr (.inl ⟨rfl, lateResult, ?_⟩)), .inr (.inl ⟨starvedStep, ?_⟩)⟩
  · simp only [List.mem_cons, List.mem_nil_iff, or_false] at m
    obtain rfl | rfl := m
    · trivial
    · unfold Awaits; decide +kernel
  · decide
  · decide +kernel
  · decide
  · decide
  · unfold LateValue; decide
  · unfold Supplied symbolsTaken; decide +kernel

/-- A bundle of a header in slot 1, an overlay tag that names no image, and an error in instruction memory. -/
def unfetched : State := { nopPlaced with core := { nopPlaced.core with overlays := Core.reset.overlays } }
def illFormed : State := placed 0x3000000030000000F8000000F8000000
def badFetch : State := { nopPlaced with core := { nopPlaced.core with imemBad := [0] } }

theorem witness_FreezesAndFaultsOfBundles :
    (nopPlaced.core.mode = .running ∧ nopPlaced.core.stop = none ∧ ¬ Frozen nopPlaced) ∧
    (∀ s ∈ [unfetched, illFormed, badFetch], ¬ Frozen s ∧ ¬ TimingDue s ∧ s.core.trap = none) ∧
    (lateResult ∈ (lateCore true).core.landings ∧ LateValue (lateCore true).core lateResult ∧ ¬ Frozen (lateCore true)) ∧
    (∃ h pc, LateCell (heldBy (.cell 1 5) fun c => { withCell .empty c with strict := true }).core pc h ∧
      ¬ Frozen (heldBy (.cell 1 5) fun c => { withCell .empty c with strict := true })) ∧
    ¬ Covered unfetched.core ∧ (Covered badFetch.core ∧ badFetch.core.pc.toNat ∈ badFetch.core.imemBad) ∧
    (Covered illFormed.core ∧ formFault illFormed.core (bundleAt illFormed.core) = true) := by
  refine ⟨⟨rfl, rfl, (notFrozen rfl rfl rfl rfl).1⟩, ?_, ⟨by decide, by unfold LateValue; decide, ?_⟩, ⟨.cell 1 5, 5, ⟨1, rfl, ?_⟩, ?_⟩,
    ?_, ⟨⟨badFetch.core.overlays[0], by decide +kernel⟩, by decide⟩,
    ⟨⟨illFormed.core.overlays[0], by decide +kernel⟩, by decide +kernel⟩⟩
  · intro s m
    simp only [List.mem_cons, List.mem_nil_iff, or_false] at m
    obtain rfl | rfl | rfl := m <;> exact ⟨(notFrozen rfl rfl rfl rfl).1, (notFrozen rfl rfl rfl rfl).2, rfl⟩
  · rintro (h | h | h | ⟨h, m, -⟩)
    · exact absurd h (by decide)
    · obtain ⟨m, hm, -⟩ := h; exact nomatch hm
    · exact nomatch h.1
    · exact nomatch m
  · unfold Awaits; decide +kernel
  · rintro (h | h | h | ⟨h, m, -, k⟩)
    · exact absurd h (by decide)
    · obtain ⟨m, hm, -⟩ := h; exact nomatch hm
    · exact nomatch h.1
    · exact k rfl 1 5 (List.mem_singleton.mp m)
  · rintro ⟨tag, h, v, -⟩
    have : (unfetched.core.overlays[unfetched.core.pc.toNat / 256]?).map (·.valid) = some false := by decide +kernel
    rw [h] at this
    exact absurd (v.symm.trans (Option.some.inj this)) (by decide)

/-- A core on which one result is due, and one on which the results of two cycles are. -/
def landingCore (d : Dest) (flags : Flags) (trap : Bool) : State :=
  onCore fun c => { c with
    mode := .running, clk := 4, nve := trap, landings := [{ lateResult with dest := d, due := 4, flags := flags, awaits := none }] }

theorem witness_ResultsLandOrTrap :
    (∀ d ∈ [Dest.none, .x 31, .pred 7, .queue 0, .v 63 512 512 false, .m 7, .sys 0x005, .rows 63 1024],
      (landingCore d 1 false).core.mode = .running ∧
      ∀ l ∈ (landingCore d 1 false).core.landings, Due (landingCore d 1 false).core l ∧ Untrapped (landingCore d 1 false).core l.flags) ∧
    (∀ l ∈ (landingCore (.x 31) 1 true).core.landings, ¬ Untrapped (landingCore (.x 31) 1 true).core l.flags) ∧
    State.reset.core.mode = .free ∧ (∀ st : Fin 8, ∃ s : State, s.core.mode = .ending st.val) := by
  refine ⟨?_, ?_, rfl, fun st => ⟨onCore fun c => { c with mode := .ending st.val }, rfl⟩⟩ <;>
    (unfold Untrapped; try unfold Due) <;> decide +kernel
/-- Handle 3 over 64 bytes at 0x10000, with x5 = 56. -/
def handleCore (mode : BitVec 3) (w : Bool) (c : Core) : Core :=
  let h : Handle := { Handle.reset with valid := true, base := 0x10000, len := 64, mode := mode, w := w, at' := true }
  withX [(5, 56)] { c with handles := c.handles.setIfInBounds 3 h }
def handled (mode : BitVec 3) (w : Bool) : State := onCore (handleCore mode w)

theorem witness_GlobalAccessesIssueOrFault :
    (Destination 32 ∧ Source 5 ∧ GuardTrue (handled 1 false) 0 ∧ poisoned (handled 1 false) 5 = false) ∧
    (∀ m ∈ [(1 : BitVec 3), 3, 5], LoadMode (handle (handled m true) 3).mode ∧
      InHandle (handled m true) 3 (through (handled m true) 3 (scaledOffset 7 none 3)) 8 8 ∧
      InHandle (handled m true) 3 (through (handled m true) 3 (indexedBy (handled m true) 5 0 3)) 8 8) ∧
    (∀ m ∈ [(2 : BitVec 3), 3], StoreMode (handle (handled m true) 3).mode ∧ (handle (handled m true) 3).w = true) ∧
    (handle State.reset 3).valid = false ∧
    ((handle (handled 1 false) 3).valid = true ∧
      ¬ InHandle (handled 1 false) 3 (through (handled 1 false) 3 (scaledOffset 8 none 3)) 8 8) ∧
    (¬ LoadMode (handle (handled 4 true) 3).mode ∧ ¬ StoreMode (handle (handled 4 true) 3).mode) ∧
    (LoadMode (handle (handled 1 true) 3).mode ∧ (handle (handled 1 true) 3).mode ≠ 3) ∧
    (StoreMode (handle (handled 2 false) 3).mode ∧ (handle (handled 2 false) 3).w = false) ∧ poisoned poisonedX5 5 = true := by
  unfold Destination Source GuardTrue InHandle LoadMode StoreMode; decide +kernel

/-- A handle of mode A on pages that bar atomics. -/
def noAtomics : State := onCore fun c =>
  { c with handles := c.handles.setIfInBounds 3 { Handle.reset with valid := true, len := 64, mode := 4, w := true } }

theorem witness_AtomicsIssueAndTheirValues :
    ((31 : BitVec 6).toNat < 32 ∧ Source 7 ∧ Source 5 ∧ (5 : Lend).extractLsb' 0 6 = 5 ∧ poisoned (handled 4 true) 5 = false ∧
      poisoned (handled 4 true) 7 = false ∧ poisoned (handled 4 true) 31 = false ∧
      InHandle (handled 4 true) 3 (through (handled 4 true) 3 (value (handled 4 true) 5)) 8 8 ∧
      InHandle (handled 4 true) 3 (through (handled 4 true) 3 (value (handled 4 true) 5)) 2 2 ∧
      (∀ row ∈ atomicTable, MayAtomic (handled 4 true) 3 row.2) ∧ MayAtomic (handled 4 true) 3 .addsr) ∧
    (AmoOp.cas ≠ .fadd ∧ AmoOp.cas ≠ .addsr) ∧ (32 ≤ (32 : BitVec 6).toNat ∧ ¬ Source 56 ∧ poisoned poisonedX5 5 = true) ∧
    ((handle State.reset 3).valid = false ∧ ¬ InHandle (handled 4 true) 3 (through (handled 4 true) 3 57) 8 8) ∧
    (handle (handled 3 true) 3).mode ≠ 4 ∧ ((handle noAtomics 3).mode = 4 ∧ ¬ MayAtomic noAtomics 3 .add) ∧
    ((decodeNum (.ieee 8 7) 0x7F81).isNan = true ∧ decodeNum (.ieee 8 7) 0x7F80 = .inf false ∧
      (decodeNum (.ieee 8 7) 0x7F7F).isFinite = true ∧ decodeNum (.ieee 8 23) 0xFF800000 = .inf true) := by
  unfold Source InHandle MayAtomic
  refine ⟨⟨?_, ?_, ?_, ?_, ?_, ?_, ?_, ?_, ?_, ?_, ?_⟩, ?_, ?_, ?_, ?_, ?_, ?_⟩ <;> decide +kernel

/-- An access that is under way, of some kind at some places. -/
def anAccess (id : Nat) (kind : AccessKind) (ps : List Place) (data : List Byte) : Access :=
  { id := id, pc := 3, kind := kind, va := 0x10000, places := ps, data := data, scope := everywhere, within := 0, parts := []
    performed := false, result := [], poisoned := false, faulted := false }
def storing : State := onCore fun c => { c with accesses := [anAccess 4 .store [.here 0x20000] [1], anAccess 5 (.load false false false) [.here 0x20001] []] }

/-- The same core held by a fence for the store. -/
def fenced : State := { storing with core := { storing.core with mode := .running, hold := [.fence [4] everywhere, .barrier 3] } }

theorem witness_FenceResults :
    (State.reset.here ≤ 4096 ∧ InScope State.reset 0 16 ∧ InScope State.reset 2 17 ∧ ¬ InScope State.reset 1 17) ∧
    (fenced.core.mode = .running ∧ fenced.core.stop = none ∧
      ∃ h ∈ fenced.core.hold, Awaits fenced.core h ∧ ∀ n pc, h ≠ .cell n pc) := by
  refine ⟨by unfold InScope; decide +kernel, rfl, rfl, .fence [4] everywhere, .head _, ?_, fun _ _ h => nomatch h⟩
  unfold Awaits
  exact ⟨_, .head _, by decide⟩

/-- The queen core, and one whose x5 is poisoned. -/
def queen : State := { State.reset with here := 4096 }

theorem witness_SystemRegisterAccesses :
    Destination 32 ∧ (∀ n ∈ [0x06, 0x20, 0x25, 0x40, 0x51, 0x60, 0x80, 0x82, 0xC0, 0xC1], Assigned State.reset n) ∧
    (∀ n ∈ [0xA0, 0xA3], Assigned queen n ∧ ¬ Assigned State.reset n) ∧
    GuardTrue State.reset 0 ∧ Source 5 ∧ poisoned poisonedX5 5 = true ∧ poisoned State.reset 5 = false ∧ (0x50 : BitVec 12) ≠ 0x51 ∧
    ((0x30 : XWord).extractLsb' 4 2 = 3 ∧ ((5 : XWord).extractLsb' 0 3).toNat > 4) := by
  unfold Destination Assigned GuardTrue Source; decide +kernel

/-- A task with one footprint region of a mode over 64 KiB at 0x10000, x5 its base and x6 = 64, and a walk that has ended. -/
def regioned (mode : Nat) (probe : Option Probe) : State :=
  onCore fun c => withX [(5, 0x10000), (6, 64)] { c with
    probe := probe
    task := some { plainTask with card := ((List.replicate 32 0).set 16 (BitVec.ofNat 64 (0x10000 + mode * 2 ^ 56))).set 17 0x10000 } }
def aWalk (code : BitVec 8) : Probe := { va := 0x10000, len := 64, perm := 1, result := some { code := code, entries := [] } }

/-- The same with the page of the region at hand. -/
def pageHeld : State := { regioned 3 none with
  before := { (regioned 3 none).before with
    tlb := [{ vpn := 1, pages := 1, pfn := 2, w := true, at' := true, hs := false, rm := false, node := 0 }] } }

theorem witness_HandleFormResults :
    (∀ r ∈ [(1, (0 : BitVec 2)), (5, 0), (2, 1), (3, 0), (3, 1), (4, 2)],
      Bindable (regioned r.1 none) 5 6 r.2 (BitVec.ofNat 3 r.1)) ∧
    (regioned 3 none).before.probe = none ∧ (regioned 3 (some { aWalk 0 with result := none })).before.probe.isSome = true ∧
    (regioned 3 (some (aWalk 0x0B))).before.probe = some (aWalk 0x0B) ∧ (aWalk 0x0B).result = some ⟨0x0B, []⟩ ∧
    (regioned 3 (some (aWalk 0))).before.probe = some (aWalk 0) ∧ Destination 55 ∧
    (∀ x ∈ pageHeld.before.tlb, x.pages ≠ 0 ∧ x.vpn ≤ 1 ∧ 1 < x.vpn + x.pages ∧ x.w = true) ∧
    (mapsCompressed pageHeld.pkg pageHeld.before.tlb 0x10000 64 = false ∧ mapsWindow pageHeld.before.tlb 0x10000 64 = false) ∧
    (regioned 3 none).before.tlb = [] ∧ (¬ Source 56 ∧ poisoned poisonedX5 5 = true ∧ (value State.reset 6).toNat = 0) ∧
    (∀ mode, ¬ Bindable (regioned 3 none) 5 6 2 mode) := by
  refine ⟨?_, rfl, rfl, rfl, rfl, rfl, by unfold Destination; decide, by decide +kernel, by decide +kernel, rfl, ?_, ?_⟩
  · unfold Bindable Source; decide +kernel
  · unfold Source; decide +kernel
  · unfold Bindable Source; decide +kernel

theorem witness_VectorIntegerAndCompareResults :
    (2 : BitVec 2) ≠ 3 ∧ ((4 : BitVec 3) = 0 ∨ (4 : BitVec 3) = 4) ∧ (5 : BitVec 3).toNat < 6 ∧
    ((0x30 : Lend).extractLsb' 4 3).toNat < 4 := by decide

theorem witness_VectorFloatAndSpecialResults :
    (0 : BitVec 2) ≠ 3 ∧ (5 : BitVec 3).toNat < 6 ∧ (3 : BitVec 3).toNat < 4 ∧ ¬ Stochastic (modeOf State.reset 0) ∧
    (Stochastic (modeOf State.reset 0x1B0) ∧ (readX State.reset.before (baseReg 0x1B0)).poison = false) ∧
    (Stochastic (modeOf stochastic 0x100) ∧ (readX stochastic.before (baseReg 0x100)).poison = true) ∧ (8191 : Int).natAbs < 2 ^ 13 := by
  unfold Stochastic; decide +kernel

theorem witness_VectorConversionResults :
    ((Instr.vcvt 0 62 60 1 true 5 0x102).wf = true ∧ MayConvert State.reset 62 60 (sideRegs 0 1 2) (sideRegs 0 2 1) 5 0x102) ∧
    ((Instr.vqnt 0 62 60 6 false 0 1).wf = true ∧ MayConvert State.reset 62 60 2 (sideRegs 0 1 6) 0 1) ∧
    ((Instr.vbq 0 62 60 12 false 0 1).wf = true ∧ MayConvert State.reset 62 60 2 (sideRegs 0 1 12) 0 1) ∧
    ((Instr.vdeq 0 62 60 1 false 0 6).wf = true ∧ MayConvert State.reset 62 60 (sideRegs 0 1 6) 2 0 6) ∧
    ((Instr.vbdq 0 62 60 1 false 0 12).wf = true ∧ MayConvert State.reset 62 60 (sideRegs 0 1 12) 2 0 12) ∧
    (readX State.reset.before (baseReg 0x101)).poison = false ∧
    (Layout.ieee 8 23 ≠ .ieee 8 7 ∧ decodeNum (.ieee 8 23) 0xFF800000 = .inf true ∧ NanPattern formatF 0x7F800001) ∧
    (Greatest [.fin false 3 0, .fin true 1 2] 1 2 ∧ ¬ Greatest [.fin false 3 0, .fin true 1 2] 3 0) ∧
    decodeNum (.ieee 8 23) 0x3F800000 = .fin false (2 ^ 23) (-23) := by
  have big : ∀ n k j, Machine.Num.fin n k j ∈ [Machine.Num.fin false 3 0, .fin true 1 2] → (k, j) = (3, 0) ∨ (k, j) = (1, 2) := by
    intro n k j h; simp at h; obtain ⟨-, rfl, rfl⟩ | ⟨-, rfl, rfl⟩ := h <;> simp
  refine ⟨?_, ?_, ?_, ?_, ?_, ?_, ?_, ⟨⟨⟨true, by decide⟩, fun n k j h _ => ?_⟩, fun h => ?_⟩, by decide +kernel⟩
  iterate 5 (unfold MayConvert Stochastic; decide +kernel)
  · decide +kernel
  · unfold NanPattern; decide +kernel
  · obtain h | h := big n k j h <;> (cases h; decide)
  · exact absurd (h.2 true 1 2 (by decide) (by decide)) (by decide)

theorem witness_VectorPermuteResults :
    (2 : BitVec 2) ≠ 3 ∧ (0 : BitVec 3).toNat < 4 ∧ Source 55 ∧ ((6 : BitVec 6).toNat ≤ 10 ∧ 2 ^ (6 : BitVec 6).toNat < lanesIn 2 8) ∧
    ((10 : BitVec 6).toNat ≤ 10 ∧ ¬ (10 : BitVec 6).toNat ≤ 6) ∧ (63 : BitVec 6).toNat < lanesIn 2 8 := by
  unfold Source; decide

theorem witness_ReductionAndMaskResults :
    (5 : BitVec 3).toNat < 6 ∧ ((2 : Lend).extractLsb' 0 2).toNat < 3 ∧ (3 : BitVec 3).toNat < 4 ∧ ((5 : Lend).extractLsb' 0 3).toNat < 6 ∧
    nanOperand (.ieee 8 23) [decodeNum (.ieee 8 23) 0] = none ∧ (nanOperand (.ieee 8 23) [decodeNum (.ieee 8 23) 0x7FC00000]).isSome = true ∧
    poisonV (onCore fun c => { c with vPoison := 2 }).before 1 = true ∧ poisonV State.reset.before 1 = false := by
  decide +kernel

theorem witness_VectorCombResults :
    (Source 5 ∧ poisoned (onCore (withCell .full)) 5 = false ∧ CellUntouched (onCore (withCell .full)) 1 ∧
      MayLoad (onCore (withCell .full)) 1 (contiguousAt (onCore (withCell .full)) 0 5 1 none) (blockBytes 0) 32) ∧
    poisoned poisonedX5 5 = true ∧ (cell (onCore (withCell .empty)) 1).state ≠ .full ∧
    ¬ (contiguousAt (onCore (withCell .full)) 0 5 2 none + blockBytes 0 ≤ (cell (onCore (withCell .full)) 1).size) ∧
    ¬ CombBad State.reset 0 32 ∧ (cell (onCore (withCell .draining)) 1).state ≠ .full ∧
    ((cell (onCore checkedCell) 1).ckp = true ∧ (cell (onCore checkedCell) 1).tag ≠ (cell (onCore checkedCell) 1).etag ∧
      (onCore checkedCell).before.relief ≠ 0x04) ∧
    (poisonV (onCore (withCell .empty)).before 7 = false ∧ Memory.wf (onCore (withCell .empty)).core.comb = true ∧
      MayStore (onCore (withCell .empty)) 1 (contiguousAt (onCore (withCell .empty)) 0 5 1 none) (blockBytes 0) 32) ∧
    poisonV (onCore fun c => { c with vPoison := 2 }).before 1 = true ∧ (cell State.reset 1).state = .absent := by
  unfold Source CellUntouched MayLoad MayStore TagPasses CombBad
  refine ⟨⟨?_, ?_, ?_, ?_⟩, ?_, ?_, ?_, ?_, ?_, ?_, ⟨?_, ?_, ?_⟩, ?_, ?_⟩ <;> decide +kernel

/-- Lane indexes 0 to 7 in v2, by bytes; index 7 of 8-byte elements is the last place of a 64-byte cell. -/
def gatherCore (st : CellState) (top : BitVec 1024) : State := onCore fun c => withV [(2, top)] (withCell st c)
theorem lanesWithin_of (s : State) (w : BitVec 2) (c x : BitVec 6) (i : BitVec 4) (l : Lend)
    (h : (List.range (lanesIn w (8 * gatherSize l))).all (fun j => decide (0 ≤ laneOffsetIn s w x i l j ∧
      laneOffsetIn s w x i l j + gatherSize l ≤ (cell s c.toNat).size)) = true) : LanesWithin s w c x i l := by
  intro j hj
  have := List.all_eq_true.1 h j (List.mem_range.2 hj.1)
  simpa using this

theorem witness_GatherScatterAndVectorGlobalResults :
    (poisonV (gatherCore .full 0x0007).before 2 = false ∧ (cell (gatherCore .full 7) 1).state = .full ∧
      LanesWithin (gatherCore .full 7) 0 1 2 0 3 ∧ CellUntouched (gatherCore .full 7) 1 ∧ (cell (gatherCore .full 7) 1).ckp = false ∧
      Gathers (gatherCore .full 7) 0 3 3) ∧
    (cell (gatherCore .empty 7) 1).state = .empty ∧ LanesWithin (gatherCore .empty 7) 0 1 2 0 3 ∧
    ¬ LanesWithin (gatherCore .full 8) 0 1 2 0 3 ∧
    (Source 5 ∧ InHandle (handled 1 false) 3 (vectorAt (handled 1 false) 0 3 0 1 none) (blockBytes 0) 32) ∧
    ¬ InHandle (handled 1 false) 3 (vectorAt (handled 1 false) 0 3 0 2 none) (blockBytes 0) 32 := by
  refine ⟨⟨by decide +kernel, by decide +kernel, lanesWithin_of _ _ _ _ _ _ (by decide +kernel),
    by unfold CellUntouched; decide +kernel, by decide +kernel, by unfold Gathers Active; decide +kernel⟩, by decide +kernel,
    lanesWithin_of _ _ _ _ _ _ (by decide +kernel), fun h => ?_, by unfold Source InHandle; decide +kernel,
    by unfold InHandle; decide +kernel⟩
  exact absurd (h 0 (by unfold Gathers Active; decide +kernel)) (by decide +kernel)


/-- A core with a geometry for tile 1, one for tiles 2 and 3, and the tiles' contents, for the matrix syllables. -/
def tiled (g1 g2 : Geometry) (w : TileWord) (st : CellState) : State := onCore fun c => { c with
  tg := ((c.tg.setIfInBounds 1 g1).setIfInBounds 2 g2).setIfInBounds 3 g2
  t := c.t.setIfInBounds 3 w
  cells := c.cells.setIfInBounds 1 { Cell.reset with base := 256, size := 9216, state := st } }
/-- A row of so many FP32, FP16 or U8 elements, and columns of them. -/
def across (f : BitVec 5) (n : BitVec 10) : Geometry := { fmt := f, es := 0, rows := 0, cols := n - 1 }
def down (f : BitVec 5) (n : BitVec 8) : Geometry := { fmt := f, es := 0, rows := n - 1, cols := 0 }
def bankTagged (tag : BitVec 3) : State := onCore fun c => { c with banks := c.banks.setIfInBounds 1 { bankOf c 1 with tag := tag } }

theorem witness_QuireFormResults :
    (View 16 ∧ 15 < 256 / 16 ∧ View 1) ∧
    (bank State.reset 0).tag = (bank State.reset 1).tag ∧ (bank (bankTagged 3) 0).tag ≠ (bank (bankTagged 3) 1).tag ∧
    (let s := tiled (across 1 8) (across 13 64) 5 .full
     (Valid s 1 ∧ (geometry s 1).fmt = 1 ∧ rows s 1 ≤ (shapeOf 1).m ∧ columns s 1 ≤ (shapeOf 1).n) ∧ (geometry s 1).fmt ≠ 2 ∧
     Valid s 2 ∧ (geometry s 2).fmt = 13 ∧
       ((shapeOfTag (bank s 0).tag).m * (shapeOfTag (bank s 0).tag).n + 7) / 8 ≤ rows s 2 * columns s 2) ∧
    (poisonV State.reset.before 4 = false ∧ (bank State.reset 0).tag = (shapeOf 1).code ∧ (7 : BitVec 6).toNat < (shapeOf 1).m ∧
      (bank State.reset 0).tag ≠ (shapeOf 3).code ∧ (shapeOf 1).m ≤ (8 : BitVec 6).toNat) ∧
    poisonV (onCore fun c => { c with vPoison := 2 }).before 1 = true := by
  unfold View Valid; decide +kernel

theorem witness_QuireRoundingResults :
    (let s := tiled (across 1 8) (down 2 9) 5 .full
     ElementFormat 1 ∧ (Valid s 1 ∧ (geometry s 1).fmt = 1 ∧ rows s 1 ≤ (shapeOfTag (bank s 0).tag).m ∧
       columns s 1 ≤ (shapeOfTag (bank s 0).tag).n) ∧ ¬ rows s 2 ≤ (shapeOfTag (bank s 0).tag).m) ∧
    ((bank State.reset 0).tag = (shapeOf 1).code ∧ (7 : BitVec 6).toNat < (shapeOf 1).m ∧ ¬ Stochastic 0 ∧ Stochastic 5 ∧
      (readX State.reset.before (baseReg 0x100)).poison = false ∧ (readX stochastic.before (baseReg 0x100)).poison = true ∧
      (shapeOf 1).m ≤ (8 : BitVec 6).toNat) ∧
    (7 : BitVec 5).toNat < (shapeOfTag (bank State.reset 0).tag).m ∧ (shapeOfTag (bank State.reset 0).tag).m ≤ (8 : BitVec 5).toNat := by
  unfold ElementFormat Valid Stochastic; decide +kernel

/-- A core whose tiles 1 and 2 have rows at a pitch. -/
def pitched (p : BitVec 16) : State :=
  let s := tiled (across 1 8) (across 2 8) 0 .full
  { s with before := { s.before with tpitch := p }, core := { s.core with tpitch := p } }

theorem witness_BankAndTileResults :
    (∀ st ∈ [CellState.full, .draining], MayLoad (tiled (across 1 8) (across 2 8) 0 st) 1 ((0 : Lend).toNat * 64 : Nat) 9216 1 ∧
      CellUntouched (tiled (across 1 8) (across 2 8) 0 st) 1) ∧
    MayStore (tiled (across 1 8) (across 2 8) 0 .empty) 1 ((0 : Lend).toNat * 64 : Nat) 9216 1 ∧
    (Valid (pitched 32) 1 ∧ PitchSuits (pitched 32) 1 ∧ MayLoad (pitched 32) 1 (tileOffset 143 none : Nat) (tileRange (pitched 32) 1) 1 ∧
      CellUntouched (pitched 32) 1 ∧ MayStore (pitched 32) 1 (tileOffset 143 none : Nat) (tileRange (pitched 32) 1) 1) ∧
    (CombBad (onCore fun c => { c with combBad := [0] }) 0 9216 ∧ ¬ CombBad State.reset 0 8) ∧
    ((cell (pitched 12) 1).state = .full ∧ ¬ PitchSuits (pitched 12) 1 ∧
      tileOffset 0 none + tileRange (pitched 12) 1 ≤ (cell (pitched 12) 1).size ∧ TagPasses (pitched 12) 1) ∧
    (∀ g ∈ [across 16 8, { across 1 8 with es := 1 }], ¬ Valid (tiled g (across 2 8) 0 .full) 1 ∧
      (cell (tiled g (across 2 8) 0 .full) 1).state = .full ∧ TagPasses (tiled g (across 2 8) 0 .full) 1) ∧
    tileOffset 143 none + tileRange (tiled { across 1 8 with es := 1 } (across 2 8) 0 .full) 1 ≤ 9216 ∧
    9216 < tileOffset 144 none + tileRange (tiled { across 1 8 with es := 1 } (across 2 8) 0 .full) 1 ∧
    (cell (tiled (across 1 8) (across 2 8) 0 .absent) 1).state = .absent ∧
    ((cell (pitched 0) 1).size < (1 : Lend).toNat * 64 + 9216 ∧
      (cell (pitched 0) 1).size < tileOffset 144 none + tileRange (pitched 0) 1) ∧
    (let s := tiled (across 2 8) (down 2 8) 0 .full
     Valid s 1 ∧ Valid s 2 ∧ (geometry s 1).fmt = (geometry s 2).fmt ∧ (geometry s 1).es = (geometry s 2).es ∧
       rows s 2 = columns s 1 ∧ columns s 2 = rows s 1 ∧ rows s 1 ≠ rows s 2) ∧
    (let s := tiled (across 1 8) (across 2 8) 0 .full
     Valid s 1 ∧ Valid s 2 ∧ rows s 2 = rows s 1 ∧ columns s 2 = columns s 1 ∧ ElementFormat (geometry s 1).fmt ∧
       ElementFormat (geometry s 2).fmt ∧ rows s 2 ≠ columns s 1) ∧
    15 < (geometry (tiled (across 16 8) (across 2 8) 0 .full) 1).fmt.toNat := by
  unfold MayLoad MayStore CellUntouched CombBad PitchSuits Valid ElementFormat TagPasses
  refine ⟨?_, ?_, ⟨?_, ?_, ?_, ?_, ?_⟩, ⟨⟨0, by decide, by decide +kernel⟩, ?_⟩, ?_, ?_, ?_, ?_, ?_, ?_, ?_, ?_, ?_⟩ <;>
    decide +kernel

/-- A core for `mms`: A has 1 row of 2 FP16 elements, B 4 rows of 1; tile 4 names the places of a group of 4. -/
def sparse (nib : Nat) : State :=
  let s := tiled (across 2 2) (down 2 4) 0 .full
  let f := fun c : Core => { c with tg := c.tg.setIfInBounds 4 (across 13 1), t := c.t.setIfInBounds 4 (BitVec.ofNat 32768 nib) }
  { s with before := f s.before, core := f s.core }
/-- A core for `mmz`: stream 0 is open on slot 2, whose tables give 16 symbols. -/
def streaming (ready : List (Nat × Nat)) : State := onCore fun c => { c with
  tg := c.tg.setIfInBounds 1 (across 2 2)
  streams := c.streams.setIfInBounds 0 { Stream.reset with isOpen := true, slot := 2, ready := ready }
  dslots := c.dslots.setIfInBounds 2 (some { cell := 1, sfmt := 2, es := 0, rint := 0, ntiles := 1, nsym := 16, iofs := 0
                                             dlen := 64, freq := [], values := [] }) }

theorem witness_MatrixResults :
    (let s := tiled (across 2 4) (down 2 4) 0 .full
     Suits s 1 2 2 false (columns s 1) ∧ TagSuits s 0 2 false ∧ ¬ Suits s 1 2 2 true (columns s 1)) ∧
    ¬ TagSuits (bankTagged 3) 1 2 false ∧ TagSuits (bankTagged 3) 1 2 true ∧
    (Suits (sparse 4) 1 2 2 false (2 * columns (sparse 4) 1) ∧ MetadataSuits (sparse 4) 1 4 ∧ TagSuits (sparse 4) 0 2 false ∧
      GoodMetadata (sparse 4) 1 4 ∧ ¬ GoodMetadata (sparse 5) 1 4 ∧ ¬ MetadataSuits (sparse 4) 1 2) ∧
    (let s := streaming []
     let st := streamOf s.before 0
     (Valid s 1 ∧ (geometry s 1).fmt = 2 ∧ rows s 1 ≤ (shapeOf 2).m) ∧ st.isOpen = true ∧
       (∃ h, vget s.before.dslots st.slot none = some h ∧ h.sfmt = 2 ∧ st.ipos + columns s 1 * (shapeOf 2).n ≤ h.nsym) ∧
       (streamOf s.before 1).isOpen = false) ∧
    (let s := tiled (across 13 64) (across 13 64) 0 .full
     (∀ n ∈ [(1 : BitVec 4), 2], Valid s n ∧ (geometry s n).fmt = 13 ∧ 32 * (1 : BitVec 1).toNat + (31 : BitVec 5).toNat +
       (0 : BitVec 4).toNat < columns s n) ∧ ¬ 32 * (1 : BitVec 1).toNat + (31 : BitVec 5).toNat + (1 : BitVec 4).toNat < columns s 1) := by
  refine ⟨by unfold Suits TagSuits Valid; decide +kernel, by unfold TagSuits; decide +kernel, by unfold TagSuits; decide +kernel,
    ⟨by unfold Suits Valid; decide +kernel, by unfold MetadataSuits Valid; decide +kernel, by unfold TagSuits; decide +kernel,
      by unfold GoodMetadata; decide +kernel, by unfold GoodMetadata; decide +kernel, by unfold MetadataSuits Valid; decide +kernel⟩,
    ⟨by unfold Valid; decide +kernel, by decide +kernel, ⟨_, rfl, by decide +kernel, by decide +kernel⟩, by decide +kernel⟩,
    by unfold Valid; decide +kernel⟩

/-- The operation that an `mma` starts, and one of `mmz` that has two symbols to take. -/
def anOperation (form : MacForm) : MacOp :=
  { form := form, qb := 0, fmt := 2, rowsN := 1, colsN := 1, depth := 2, a := [0x3C00, 0x4000], b := [0x4200, 0x4400], es := 0, esB := 0
    stream := 0, step := 0, steps := 1, start := 10, bank := bankOf Core.reset 0 }

theorem witness_ArrayAccumulates :
    (∀ f ∈ [MacForm.mma, .mmn, .mmx, .mms], (anOperation f).rowsN ≤ (shapeOf (anOperation f).fmt).m ∧
      (anOperation f).colsN ≤ (shapeOf (anOperation f).fmt).n ∧ (anOperation f).step = 0 ∧ (anOperation f).form ≠ .mmz ∧
      (anOperation f).depth ≤ (anOperation f).steps * (if (anOperation f).form = .mms then 2 * (shapeOf 2).k else (shapeOf 2).k)) ∧
    (anOperation .mmz).form = .mmz ∧ 0 < (anOperation .mmz).colsN := by decide

theorem noneFails_nil : NoneFails [] := fun _ h => (List.not_mem_nil h).elim
theorem noneFails_cons {p : Prop} {x : BitVec 8 × BitVec 64} {l} (h : ¬ p) (t : NoneFails l) : NoneFails ((p, x) :: l) := by
  intro q hq
  rcases List.mem_cons.1 hq with rfl | hq
  · exact h
  · exact t q hq
theorem firstFails_here {p : Prop} {code : BitVec 8} {addr : BitVec 64} {l} (h : p) : FirstFails ((p, code, addr) :: l) code addr :=
  ⟨[], p, l, rfl, fun _ hq => (List.not_mem_nil hq).elim, h⟩
theorem firstFails_next {p : Prop} {x : BitVec 8 × BitVec 64} {code addr l} (h : ¬ p) (t : FirstFails l code addr) :
    FirstFails ((p, x) :: l) code addr := by
  obtain ⟨pre, q, post, rfl, hp, hq⟩ := t
  refine ⟨(p, x) :: pre, q, post, rfl, fun r hr => ?_, hq⟩
  rcases List.mem_cons.1 hr with rfl | hr
  · exact h
  · exact hp r hr

/-- A core with handle 3 over 4096 bytes, cells 0 and 1, and x6 = 64 as a length of one row. -/
def copyCore (st : CellState) : State :=
  let f := fun c : Core =>
    let h : Handle := { Handle.reset with valid := true, base := 0x10000, len := 4096, mode := 3, w := true }
    withX [(5, 0), (6, 64)] { c with
      handles := c.handles.setIfInBounds 3 h
      cells := (c.cells.setIfInBounds 0 { Cell.reset with base := 0, size := 64, state := .full }).setIfInBounds 1
        { Cell.reset with base := 256, size := 64, state := st } }
  onCore f
/-- The same with every frame in partition 0, and with the core to the right as the offset in x5. -/
def framed (s : State) (x5 : XWord) : State :=
  let f := withX [(5, x5)]
  let p := { Partition.reset with en := true, frames := 0xFFFF }
  { s with core := f s.core, before := f s.before, pkg := { s.pkg with parts := s.pkg.parts.setIfInBounds 0 p } }
/-- The queue C0 of a core, full. -/
def busyEngine (s : State) : State := { s with core := { s.core with c0 := List.replicate 16 (newCommand .decTab (.decTab 0 0) s) } }
/-- A queen core bound to some frame's engine. -/
def boundTo (kind : Nat) (s : State) : State :=
  let f := fun c : Core => { c with bind0 := BitVec.ofNat 6 (16 * kind), credits := Vector.replicate 32 8 }
  { s with here := queenCore, core := f s.core, before := f s.before }

theorem witness_CopyCommandResults :
    (Source 5 ∧ Source 6 ∧ bindKind (copyCore .empty) = 0 ∧ HasRoom (copyCore .empty) false ∧ ¬ HasRoom (busyEngine (copyCore .empty)) false) ∧
    (∀ st ∈ [CellState.empty, .fillingLocal], ∀ k ∈ [CmdKind.g2c, .gat, .bmg], ∀ r : CopyRow,
      r.kind = k → r.fills = true → r.index = (k != .g2c) → r.rows = (k != .gat) → NoneFails (copyChecks (copyCore st) r 1 3 5 6)) ∧
    (∀ k ∈ [CmdKind.c2g, .sct], ∀ r : CopyRow,
      r.kind = k → r.fills = false → r.index = (k == .sct) → r.rows = (k == .c2g) → NoneFails (copyChecks (copyCore .full) r 1 3 5 6)) ∧
    (∀ r : CopyRow, r.fills = true → FirstFails (copyChecks (copyCore .full) r 1 3 5 6) 0x06 1) ∧
    NoneFails (moveChecks (copyCore .empty) 3 5 6 3) ∧ FirstFails (moveChecks (copyCore .empty) 3 5 6 4) 0x08 4 ∧
    ((value (copyCore .empty) 5 = 0 ∧ (handle (copyCore .empty) 3).valid = true) ∧ (handle (copyCore .empty) 4).valid = false) ∧
    ((issueCell (framed (copyCore .full) 1).core 1).state = .full ∧ namedCore (framed (copyCore .full) 1) 1 = some 1 ∧
      (value (framed (copyCore .full) 1) 5).extractLsb' 6 2 = 0 ∧ value (framed (copyCore .full) 1) 5 >>> 24 = 0 ∧
      (value (framed (copyCore .full) 1) 6).extractLsb' 6 2 = 1) ∧
    (BindingSuits (boundTo 2 (framed (copyCore .full) 0)) [2] ∧ bindKind (boundTo 2 (framed (copyCore .full) 0)) ≠ 0 ∧
      HasRoom (boundTo 2 (framed (copyCore .full) 0)) false) ∧
    bindKind (boundTo 1 State.reset) ≠ 2 := by
  refine ⟨by unfold Source HasRoom; decide +kernel, ?_, ?_, ?_, ?_, ?_, by decide +kernel, by decide +kernel,
    by unfold BindingSuits HasRoom; decide +kernel, by decide +kernel⟩
  · intro st hst k hk r h1 h2 h3 h4
    unfold copyChecks modeChecks CombTooSmall RowOutside LoadMode StoreMode Fillable EngineReads
    rw [h1, h2, h3, h4]
    fin_cases hst <;> fin_cases hk <;>
      repeat first | exact noneFails_nil | refine noneFails_cons (by decide +kernel) ?_
  · intro k hk r h1 h2 h3 h4
    unfold copyChecks modeChecks CombTooSmall RowOutside LoadMode StoreMode Fillable EngineReads
    rw [h1, h2, h3, h4]
    fin_cases hk <;>
      repeat first | exact noneFails_nil | refine noneFails_cons (by decide +kernel) ?_
  · intro r h
    unfold copyChecks Fillable
    rw [h]
    exact firstFails_next (by decide +kernel) (firstFails_here (by decide +kernel))
  · unfold moveChecks modeChecks RowOutside LoadMode StoreMode
    repeat first | exact noneFails_nil | refine noneFails_cons (by decide +kernel) ?_
  · unfold moveChecks
    exact firstFails_next (by decide +kernel) (firstFails_next (by decide +kernel) (firstFails_here (by decide +kernel)))

theorem witness_CellCommandResults :
    (Source 5 ∧ Source 6 ∧ bindKind (copyCore .absent) = 0 ∧ HasRoom (copyCore .absent) false) ∧
    (let s := framed (copyCore .absent) 0x100
     ¬ (poisoned s 5 = true ∨ poisoned s 6 = true) ∧
     ¬ ((value s 5).toNat % 64 ≠ 0 ∨ (value s 6).toNat = 0 ∨ (value s 6).toNat % 64 ≠ 0 ∨ 0x40000 < (value s 5).toNat + (value s 6).toNat) ∧
     ¬ ((issueCell s.core 1).state ≠ .absent ∨ Overlaps s 1 (value s 5).toNat (value s 6).toNat)) ∧
    (issueCell (copyCore .full).core 1).state ≠ .absent ∧ Overlaps (copyCore .absent) 1 0 64 ∧
    Fillable (issueCell (copyCore .empty).core 1) ∧ ¬ Fillable (issueCell (copyCore .full).core 1) ∧
    ((issueCell (copyCore .draining).core 1).state ≠ .empty ∧ (issueCell (copyCore .draining).core 1).state ≠ .full) ∧
    ((namedCore (framed (copyCore .empty) 1) (value (framed (copyCore .empty) 1) 5)).isSome = true ∧
      namedCore (copyCore .empty) (value (copyCore .empty) 5) = none ∧ poisoned poisonedX5 5 = true) ∧
    (∀ k ∈ outstanding Core.reset, stateCell k ≠ some 1) ∧
    (fillCell (newCommand .g2c (.cpG2c 1 3 5 6 false 0) State.reset) = some 0 ∧
      copyOutCell (newCommand .c2g (.cpC2g 1 3 5 6 false) State.reset) = some 0) := by
  unfold Source HasRoom Overlaps Fillable; decide +kernel

theorem witness_DecoderCommandResults : bindKind State.reset = 0 ∧ HasRoom State.reset true ∧
    ¬ HasRoom { State.reset with core := { Core.reset with dq := List.replicate 8 (newCommand .decTab (.decTab 0 0) State.reset) } } true := by
  unfold HasRoom; decide +kernel

/-- The one-entry descriptor of R402 in cell 1 (N = 256, SH = DH = 3, core 0 of package 0), and cell 2 for the exponents. -/
def collCore (st : CellState) : State :=
  let s := framed (copyCore .full) 0
  let f := fun c : Core => { c with
    comb := [(256, 0x4B), (257, 0x43), (258, 0x4F), (259, 0x4C), (265, 0x01), (268, 0x33)]
    cells := (c.cells.setIfInBounds 1 { Cell.reset with base := 256, size := 128, state := .full }).setIfInBounds 2
      { Cell.reset with base := 512, size := 64, state := st } }
  { s with core := f s.core, before := f s.before }

theorem witness_CollectiveResults :
    (Source 5 ∧ BindingSuits (collCore .full) [1] ∧ HasRoom (collCore .full) false ∧ ¬ HasRoom (busyEngine (collCore .full)) false) ∧
    (poisoned (collCore .full) 5 = false ∧ (issueCell (collCore .full).core 1).state = .full ∧ (issueCell (collCore .full).core 1).size ≤ 4096 ∧
      sendNodes (partOf (collCore .full).pkg (taskPart (collCore .full).before)) (value (collCore .full) 5) = some [0] ∧
      ∀ n ∈ [0], waggleRoute (collCore .full).pkg (taskPart (collCore .full).before) n = true) ∧
    (issueCell (copyCore .empty).core 1).state ≠ .full ∧
    (NoneFails (collectiveChecks (collCore .empty) .collMx 1 5 5 2) ∧ NoneFails (collectiveChecks (collCore .full) .collBs 1 5 5 2) ∧
      NoneFails (collectiveChecks (collCore .full) .collBc 1 5 5 0) ∧ NoneFails (collectiveChecks (collCore .full) .collAg 1 5 5 0)) ∧
    FirstFails (collectiveChecks (copyCore .empty) .collBc 1 5 5 0) 0x06 1 ∧
    (bindKind (boundTo 2 State.reset) ≠ 0 ∧ bindKind (boundTo 2 State.reset) ≠ 1) := by
  refine ⟨by unfold Source BindingSuits HasRoom; decide +kernel, by decide +kernel, by decide +kernel, ⟨?_, ?_, ?_, ?_⟩, ?_, by decide +kernel⟩
  · unfold collectiveChecks modeChecks LoadMode StoreMode Fillable EngineReads
    repeat first | exact noneFails_nil | refine noneFails_cons (by decide +kernel) ?_
  · unfold collectiveChecks modeChecks LoadMode StoreMode Fillable EngineReads
    repeat first | exact noneFails_nil | refine noneFails_cons (by decide +kernel) ?_
  · unfold collectiveChecks modeChecks LoadMode StoreMode Fillable EngineReads
    repeat first | exact noneFails_nil | refine noneFails_cons (by decide +kernel) ?_
  · unfold collectiveChecks modeChecks LoadMode StoreMode Fillable EngineReads
    repeat first | exact noneFails_nil | refine noneFails_cons (by decide +kernel) ?_
  · unfold collectiveChecks EngineReads
    exact firstFails_next (by decide +kernel) (firstFails_here (by decide +kernel))

/-- A core that is running, and the end of a busy state now. -/
def anEnd (effects : List BusyEffect) (flags : Flags) (fault : BitVec 8) : BusyOp :=
  { pc := 3, reads := [], writes := [], combLo := 0, combLen := 0, combWrites := false, endsAt := 5, effects := effects, flags := flags
    fault := fault, tile := 0, qb := 0, onBank := false }
def ending (traps : Bool) (b : BusyOp) : Core :=
  { Core.reset with mode := .running, mclk := 5, busy := [b, { b with endsAt := 6 }], nve := traps }
/-- A core whose array takes the first step of an operation, or of the last of two. -/
def arrayCore (form : MacForm) (ready : List (Nat × Nat)) (clk : Nat) : State :=
  let c := { Core.reset with
    macs := [{ anOperation form with bank := bankOf Core.reset 0 }], mclk := clk
    streams := Core.reset.streams.setIfInBounds 0 { Stream.reset with ready := ready } }
  { State.reset with core := c, pkg := { Package.reset with cycle := 9 } }

theorem witness_BusyOperationsEndAndTheArraySteps :
    (∀ e ∈ [[], [.tile 15 1], [.bank 1 (bankOf Core.reset 0)], [.comb 0x3FFF8 [1, 2, 3, 4, 5, 6, 7, 8]],
        [.latches 1 31 [{ a := 1, b := 2 }] 16 8], [.tag 1 7]],
      OneEnds (ending true (anEnd e 0 0)) (anEnd e 0 0) [{ anEnd e 0 0 with endsAt := 6 }]) ∧
    (OneEnds { ending true (anEnd [] 0 0) with mode := .ending 4 } (anEnd [] 0 0) [{ anEnd [] 0 0 with endsAt := 6 }] ∧
      (4 : BitVec 8) ≠ 0) ∧
    (Untrapped (ending true (anEnd [] 2 0)) 2 ∧ ¬ Untrapped (ending true (anEnd [] 1 0)) 1 ∧ (ending true (anEnd [] 1 0)).stop = none ∧
      (anEnd [] 0 0x16).fault ≠ 0 ∧ (anEnd [] 0 0x16).effects = []) ∧
    LatchLeads { Core.reset with macs := [{ anOperation .mmx with fmt := 6, depth := 32 }] } 0 1 1 11 ∧
    ¬ LatchLeads { Core.reset with macs := [{ anOperation .mmx with fmt := 6, depth := 32 }] } 0 2 1 12 ∧
    ((arrayCore .mma [] 11).core.macs = [anOperation .mma] ∧ (anOperation .mma).start + (anOperation .mma).step < 11 ∧
      (anOperation .mma).steps ≤ (anOperation .mma).step + 1 ∧ ({ anOperation .mma with steps := 2 } : MacOp).step + 1 < 2) ∧
    (Supplied (arrayCore .mmz [(3, 8), (4, 8)] 11) (arrayCore .mmz [(3, 8), (4, 8)] 11).core (anOperation .mmz) ∧
      ¬ Supplied (arrayCore .mmz [(3, 8), (4, 9)] 11) (arrayCore .mmz [(3, 8), (4, 9)] 11).core (anOperation .mmz) ∧
      (arrayCore .mmz [] 10).core.mclk ≤ (anOperation .mmz).start + (anOperation .mmz).step) := by
  unfold OneEnds Untrapped LatchLeads Supplied; decide +kernel

/-- The reset state with these accesses under way on core 0. -/
def accessing (l : List Access) (k : Package) : State := { State.reset with core := { Core.reset with accesses := l, mode := .running }, pkg := k }
def aLoad : Access := anAccess 4 (.load false false false) [.here 0x20000, .here 0x20001] []
def aStore : Access := anAccess 4 .store [.here 0x20000, .here 0x20001] [1, 2]
def anAmo (order : BitVec 2) (ps : List Place) : Access := anAccess 4 (.amo .add 1 0 0 0 order) ps []
/-- A migration that is copying the line at 0x20000. -/
def copying : Package :=
  let m : Migration := { old := 0x20000, new := 0x40000, lines := 2, p := 0, since := 0, en := true, done := false }
  { Package.reset with migrations := Package.reset.migrations.setIfInBounds 2 m }

/-- The same performed for the queen alone so far, and with some access of the core held for by a fence. -/
def forQueen : State := accessing [{ aStore with within := 0x10000 }] Package.reset
def held (scope : BitVec 18) : State :=
  { accessing [aStore] Package.reset with core := { (accessing [aStore] Package.reset).core with hold := [.fence [4] scope] } }

theorem unscoped_accessing (l : List Access) (k : Package) (h : ∀ a ∈ l, a.within = 0) : Unscoped (accessing l k) := by
  rintro c (rfl | ⟨n, hn⟩) a ha
  · exact .inl (h a ha)
  · exact absurd hn (by simp [accessing, State.reset])

theorem oneScoped_forQueen : OneScoped forQueen 0 { aStore with within := 0x10000 } := by
  refine ⟨.nil, .head _, by decide, rfl, fun m x hx _ _ => ?_⟩
  by_cases hm : m = 0
  · subst hm
    exact ⟨rfl, List.mem_singleton.mp hx⟩
  · have : x ∈ (coreState forQueen m).accesses := hx
    have e : (coreState forQueen m).accesses = [] := by
      simp [coreState, hm, forQueen, accessing, State.reset, Core.reset]
    rw [e] at this
    cases this

theorem finds_forQueen : Finds forQueen 15 Package.reset := by
  refine .inr ⟨0, { aStore with within := 0x10000 }, [0x20000, 0x20001], oneScoped_forQueen, rfl, ?_, rfl, by decide, rfl, ?_,
    fun h => absurd h (by decide), fun _ => rfl⟩
  · rintro ⟨l, hl, _⟩
    exact absurd hl (by simp [coreState, forQueen, accessing, State.reset, Core.reset])
  · unfold Plain
    decide +kernel

/-- A package whose node 1 is reached by port 2, in partition 0. -/
def routed : Package :=
  let p := { Partition.reset with ports := 4 }
  { Package.reset with
    rtab := [(1, 0x12)], ports := Package.reset.ports.setIfInBounds 2 { Port.reset with en := true }
    parts := Package.reset.parts.setIfInBounds 0 p }
def remotely (kind : AccessKind) (data : List Byte) : Access := anAccess 4 kind [.remote 1 0x1000, .remote 1 0x1001] data

theorem witness_AccessesArePerformed :
    (InTurn (accessing [aLoad] Package.reset).core aLoad [] [] ∧ InTurn (accessing [aStore] Package.reset).core aStore [] [] ∧
      InTurn (accessing [{ aLoad with id := 3, performed := true }, aLoad, { aStore with id := 5 }] Package.reset).core aLoad
        [{ aLoad with id := 3, performed := true }] [{ aStore with id := 5 }]) ∧
    (aLoad.places = [0x20000, 0x20001].map .here ∧ aStore.places = [0x20000, 0x20001].map .here ∧
      (∀ p ∈ [0x20000, 0x20001], Plain Package.reset p)) ∧
    (aStore.data.length = 2 ∧ [0x20000, 0x20001].Nodup) ∧
    (Unwindowed Package.reset 0x80000000000 ∧ ¬ Unwindowed Package.reset 0x90000000000) ∧
    (ForAllAgents (accessing [aStore] Package.reset).core aStore [] ∧ ¬ ForAllAgents (held 1).core aStore [] ∧ aStore.within = 0) ∧
    (Unscoped (accessing [aStore] Package.reset) ∧ ¬ Unscoped forQueen ∧ OneScoped forQueen 0 { aStore with within := 0x10000 } ∧
      Finds (accessing [aLoad] Package.reset) 0 Package.reset ∧ Finds forQueen 15 Package.reset) ∧
    ((held 1).core.hold = [.fence [4] 1] ∧ (1 : BitVec 18) ≠ BitVec.allOnes 18 ∧ Memory.wf Package.reset.mem = true) ∧
    (Picks 0x10000 2 [] [0x2000] ∧ AllParts 0x10000 2 [0x2000] ∧ Picks 0x10004 32 [0x2000] [0x2002, 0x2004] ∧
      ¬ AllParts 0x10004 32 [0x2000, 0x2002, 0x2004]) ∧
    (RouteTo routed 0 1 2 ∧ NoRoute routed 1 1 false ∧ NoRoute Package.reset 0 1 false) ∧
    (∀ a ∈ [remotely (.load false false false) [], remotely .store [1, 2], remotely (.amo .add 1 0 0 0 0) []],
      InTurn (accessing [a] routed).core a [] [] ∧ ForAllAgents (accessing [a] routed).core a [] ∧
      a.places = (List.range 2).map fun i => .remote 1 (0x1000 + i)) ∧
    (Returns { (accessing [anAmo 1 [.here 0x20000]] Package.reset).core with landings := [{ lateResult with awaits := some 4 }] }
        (anAmo 1 [.here 0x20000]) ∧
      ¬ Returns (accessing [anAmo 1 [.here 0x20000]] Package.reset).core (anAmo 1 [.here 0x20000])) ∧
    (writersOf [(0x4000, 0x10000)] (0x20000 / 8) &&& everywhere ≠ 0) ∧
    (InCopy copying 0x20000 ∧ InCopy copying 0x200FF ∧ ¬ InCopy copying 0x20100 ∧ ¬ Plain copying 0x20000) ∧
    (∀ p q, p ∈ [Place.host 0x1000, .remote 1 0x1000] → p ≠ .here q) ∧
    (InTurn (accessing [anAmo 0 [.here 0x20000]] Package.reset).core (anAmo 0 [.here 0x20000]) [] [] ∧
      (anAmo 0 [.here 0x20000]).kind = .amo .add 1 0 0 0 0) ∧
    (0x20000 / 8 ∈ ({ Package.reset with memBad := [0x4000] } : Package).memBad) ∧
    (∃ p ∈ (anAmo 0 [.host 0x1000]).places, ∀ q, p ≠ .here q) := by
  have alone : ∀ (a : Access) k, a.performed = false → InTurn (accessing [a] k).core a [] [] :=
    fun a k h => ⟨rfl, by simp [accessing], h, by simp⟩
  refine ⟨⟨alone _ _ rfl, alone _ _ rfl, rfl, by decide, rfl, by simp⟩, by unfold Plain; decide +kernel, by decide,
    by unfold Unwindowed; decide +kernel, ⟨⟨nofun, nofun⟩, fun h => ?_, rfl⟩,
    ⟨unscoped_accessing _ _ (by decide), fun h => ?_, oneScoped_forQueen, .inl ⟨unscoped_accessing _ _ (by decide), rfl⟩, finds_forQueen⟩,
    ⟨rfl, by decide, by decide⟩, ?_, ?_, ?_, ⟨⟨_, .head _, rfl⟩, nofun⟩, by decide, ?_, ?_, ⟨alone _ _ rfl, rfl⟩, by decide, ?_⟩
  · exact absurd (h.1 [4] 1 (.head _) (by decide)) (by decide)
  · exact absurd (h _ (.inl rfl) _ (.head _)) (by decide)
  · refine ⟨⟨by decide, by decide⟩, ?_, ⟨by decide, by decide⟩, fun h => absurd (h 0x2001 (by decide) (by decide)) (by decide)⟩
    intro w h1 h2
    have : w = 0x2000 := by omega
    simp [this]
  · exact ⟨⟨0x12, by decide +kernel, by decide +kernel, by decide, by decide, by decide +kernel, by decide +kernel⟩,
      by unfold NoRoute; decide +kernel, by unfold NoRoute; decide +kernel⟩
  · intro a ha
    simp only [List.mem_cons, List.not_mem_nil, or_false] at ha
    obtain rfl | rfl | rfl := ha <;> exact ⟨alone _ _ rfl, ⟨nofun, nofun⟩, by decide⟩
  · unfold InCopy Plain; decide +kernel
  · intro p q hp h
    subst h
    simp at hp
  · exact ⟨.host 0x1000, by decide, by simp⟩

/-- Memory whose tables at pages 1, 2 and 3 map page 0 by a leaf (its low byte, and page 4), and a partition of pages 0 to 15. -/
def mapped (leaf : Byte) (j : Nat) : Package :=
  let p := { Partition.reset with
    en := true, pmem := Partition.reset.pmem.setIfInBounds 0 1, plim := Partition.reset.plim.setIfInBounds 0 0xF0000
    ptroot := 0x100001 }
  { Package.reset with
    mem := [(0x10000, 0x01), (0x10002, 0x20), (0x20000, 0x01), (0x20002, 0x30), (0x30000, leaf), (0x30002, 0x40)]
    parts := (Package.reset.parts.setIfInBounds 0 p).setIfInBounds j p }
def onTask (c : Core) : Core := { c with task := some plainTask, mode := .running }
def walking (k : Package) : State :=
  { State.reset with core := onTask { Core.reset with probe := some { va := 0, len := 64, perm := 0, result := none } }, pkg := k }

theorem leafOf_mapped : LeafOf (mapped 3 0) 0 0 0x400003 ∧ LeafOf (mapped 2 0) 0 0 0x400002 :=
  ⟨⟨2, 3, by decide +kernel, by unfold PointsTo; decide +kernel, by unfold PointsTo; decide +kernel, by decide +kernel⟩,
    ⟨2, 3, by decide +kernel, by unfold PointsTo; decide +kernel, by unfold PointsTo; decide +kernel, by decide +kernel⟩⟩

/-- A core that awaits an acquiring atomic, with a later load performed. -/
def acquiring : State :=
  let t := accessing [anAmo 1 [.here 0x20000], { aLoad with id := 5, performed := true }] Package.reset
  { t with core := { t.core with landings := [{ lateResult with awaits := some 4 }] } }

theorem witness_AnswersAndWalksArrive :
    (∀ a ∈ [{ aLoad with performed := true, result := [1, 2] }, { aStore with performed := true },
        { anAmo 0 [.here 0x20000] with performed := true, result := [7] }, { aLoad with performed := true, faulted := true },
        { anAccess 4 (.load false true true) [.host 0x1000, .host 0x1001] [] with performed := true },
        { anAmo 0 [.remote 1 0x1000] with performed := true }],
      HasAccess (accessing [a] Package.reset).core a ∧ a.performed = true ∧
      ∀ pre post, (accessing [a] Package.reset).core.accesses = pre ++ a :: post → pre = []) ∧
    (HasAccess acquiring.core { aLoad with id := 5, performed := true } ∧
      ∃ pre post, acquiring.core.accesses = pre ++ { aLoad with id := 5, performed := true } :: post ∧
        ∃ x ∈ pre, Acquires acquiring.core x ∧ x.performed = false) ∧
    (∀ ps ∈ [[Place.host 0x1000, .host 0x1001], [.remote 1 0x1000]], ps ≠ [] ∧ ∀ p ∈ ps, ∀ q, p ≠ .here q) ∧
    ((({ bytes := [1, 2], bad := [1], fault := false } : Reply).bytes.length =
        (anAccess 4 (.load false true true) [.host 0x1000, .host 0x1001] []).places.length)) ∧
    (∃ l ∈ [{ lateResult with awaits := some 4 }], l.awaits = some (anAmo 0 []).id) ∧
    ((walking (mapped 3 0)).core.probe.isSome = true ∧ NoMigration (mapped 3 0) ∧ (0 + 64 - 1) / 65536 = 0 / 65536 ∧
      (walking (mapped 3 0)).core.tlb.length < 256) ∧
    (LeafOf (mapped 3 0) (taskPart (walking (mapped 3 0)).core) 0 0x400003 ∧ LocalLeaf (mapped 3 0) 0 0x400003) ∧
    LeafOf (mapped 2 0) 0 0 0x400002 ∧ (partOf Package.reset 0).ptroot.getLsbD 0 = false := by
  refine ⟨fun a ha => ⟨⟨.head _, by simp [accessing]⟩, ?_, fun pre post h => ?_⟩,
    ⟨by unfold HasAccess; decide +kernel, _, [], List.append_cons [] _ _, _, .head _, ⟨⟨_, .head _, rfl⟩, _, _, _, _, _, 1, rfl, .inl rfl⟩, rfl⟩,
    ?_, rfl, by decide +kernel, by unfold NoMigration; decide +kernel,
    ⟨leafOf_mapped.1, by unfold LocalLeaf; decide +kernel⟩, leafOf_mapped.2, by decide +kernel⟩
  · revert a; decide
  · cases pre with
    | nil => rfl
    | cons x xs => simp [accessing] at h
  · simp

/-- The same with an entry 3, off as yet, that moves some other run. -/
def twoMoves (old : BitVec 64) : Package :=
  let m := { migrationOf copying 2 with old := old, new := 0x80000, en := false }
  { copying with migrations := copying.migrations.setIfInBounds 3 m }

theorem witness_MigrationRules :
    (MayMigrate (twoMoves 0x60000) 3 ∧ ¬ MayMigrate (twoMoves 0x20000) 3) ∧
    ((migrationOf copying 2).en = true ∧ (migrationOf copying 2).p.toNat < (migrationOf copying 2).lines.toNat) ∧
    (migrationOf copying 0).en = false ∧
    (∀ pa ∈ [0x20000, 0x201FF], migOld (migrationOf copying 2) ≤ pa ∧ pa < migOld (migrationOf copying 2) + migLen (migrationOf copying 2)) ∧
    (∀ i < 16, i ≠ 2 → (migrationOf copying i).en = false) ∧
    (∀ pa ∈ [0x40000, 0x401FF], migNew (migrationOf copying 2) ≤ pa ∧ pa < migNew (migrationOf copying 2) + migLen (migrationOf copying 2) ∧
      Apart (migOld (migrationOf copying 2)) (migLen (migrationOf copying 2)) pa 1) ∧
    (migrationOf copying 2).done = false := by
  refine ⟨?_, by decide +kernel, by decide +kernel, by decide +kernel, by decide +kernel, by unfold Apart; decide +kernel, by decide +kernel⟩
  unfold MayMigrate InMemory Apart
  dsimp only
  refine ⟨⟨by decide +kernel, by decide +kernel, by decide +kernel, ?_⟩,
    fun h => absurd (h.2.2.2 2 (by decide) (by decide) (by decide +kernel)).1 (by decide +kernel)⟩
  intro i hi hn he
  have : i = 2 := by revert i; decide +kernel
  subst this
  refine ⟨?_, ?_, ?_, ?_⟩ <;> decide +kernel

/-- A core of a task that holds one run of pages and a handle on it. -/
def handling (at' : Bool) (k : Package) : State :=
  let e : TlbEntry := ⟨0, 1, 4, true, true, false, false, 0⟩
  let h : Handle := { Handle.reset with valid := true, base := 0, len := 64, at' := at' }
  { State.reset with core := onTask { Core.reset with tlb := [e], handles := Core.reset.handles.setIfInBounds 5 h }, pkg := k }

theorem witness_TlbCommandRules :
    (CoresInOrder (handling false (mapped 3 0)) ∧ TaskOf (handling false (mapped 3 0)).core 0 ∧
      ¬ TaskOf (coreState (handling false (mapped 3 0)) 1) 0) ∧
    (NoMigration (mapped 3 0) ∧ (handling false (mapped 3 0)).core.tlb = [⟨0, 1, 4, true, true, false, false, 0⟩] ∧
      MeetsPages (firstPageOf (mapped 3 0) 0) 1 ⟨0, 1, 4, true, true, false, false, 0⟩) ∧
    (let h := vget (handling false (mapped 3 0)).core.handles 5 Handle.reset
     h.valid = true ∧ 0 < h.len.toNat ∧ 0 * 65536 ≤ h.base.toNat ∧ h.base.toNat + h.len.toNat ≤ (0 + 1) * 65536) ∧
    (∀ j < 16, j ≠ 5 → (vget (handling false (mapped 3 0)).core.handles j Handle.reset).valid = false) ∧
    ((handling false (mapped 3 0)).core.landings = [] ∧ 0 < (⟨0, 1, 4, true, true, false, false, 0⟩ : TlbEntry).pages) ∧
    (LeafOf (mapped 3 0) 0 0 0x400003 ∧ LocalLeaf (mapped 3 0) 0 0x400003 ∧
      (0x400003 / 2 ^ 20 % 2 ^ 36 + 0x400003 / 256 % 2 ^ 12 + 1) * 65536 ≤ 0x8000000000) ∧
    (∀ at' : Bool, let h := vget (handling at' (mapped 3 0)).core.handles 5 Handle.reset
      h.w = false ∧ h.at' = at' ∧ h.ap = false ∧ h.perm = 0 ∧ Nat.testBit 0x400003 2 = false) := by
  refine ⟨by unfold CoresInOrder TaskOf; decide +kernel, by unfold NoMigration MeetsPages; decide +kernel, by decide +kernel,
    by decide +kernel, by decide +kernel, ⟨leafOf_mapped.1, by unfold LocalLeaf; decide +kernel, by decide⟩, by decide +kernel⟩

theorem notShares_of (k : Package) (n : Nat) (h : ∀ m < 16, m ≠ n → ∀ i < 8, (vget (partOf k m).pmem i 0).getLsbD 0 = false) :
    ¬ SharesMemory k n := by
  rintro ⟨m, hm, hn, i, _, _, _, _, _, ⟨hi, h1, _⟩, _⟩
  exact absurd h1 (by rw [h m hm hn i hi]; decide)

/-- A partition with one range from page `lo` to page `hi`, and one of a range that is to be taken. -/
def ranged (lo hi : BitVec 64) : Partition :=
  { Partition.reset with
    en := true, pmem := Partition.reset.pmem.setIfInBounds 0 (lo <<< 16 ||| 1), plim := Partition.reset.plim.setIfInBounds 0 (hi <<< 16) }

theorem witness_PartitionSetup :
    ((partOf (mapped 3 0) 0).locked = false ∧ ¬ SharesMemory (mapped 3 0) 0 ∧ SharesMemory (mapped 3 1) 0) ∧
    (¬ SharesFrames (mapped 3 0) 0 1 1 ∧
      SharesFrames { Package.reset with parts := Package.reset.parts.setIfInBounds 1 { Partition.reset with en := true, frames := 3 } } 0 1 0) ∧
    (¬ Live State.reset 0 ∧ Live (handling false (mapped 3 0)) 0) ∧
    ((partOf (mapped 3 0) 0).en = true ∧ (partOf Package.reset 0).en = false) ∧
    ((0x1FFFFFFFF : BitVec 64).getLsbD 32 = true ∧ (0xFFFFFFFF : BitVec 64).getLsbD 32 = false) ∧
    (partOf { Package.reset with parts := Package.reset.parts.setIfInBounds 3 { Partition.reset with locked := true } } 3).locked = true ∧
    (OfPartition (ranged 1 2) 0x10000 ∧ OfPartition (ranged 1 2) 0x2FFFF) ∧
    (OutsideTiers Package.reset (ranged 0x7FFFFF 0x800000) ∧ ¬ OutsideTiers Package.reset (ranged 1 0x7FFFFF) ∧
      ¬ OutsideTiers Package.reset (ranged 0x8000000 0x8FFFFFF)) ∧
    (Memory.wf Package.reset.mem = true ∧ 0x1F0001#64 &&& 0x000FFFFFFFFF0001#64 ≠ vget (partOf (mapped 3 0) 0).pmem 0 0) := by
  have first : ∀ q ∈ [ranged 1 0x7FFFFF, ranged 0x8000000 0x8FFFFFF], ∀ j < 8, j ≠ 0 → (vget q.pmem j 0).getLsbD 0 = false := by
    decide +kernel
  refine ⟨⟨by decide +kernel, notShares_of _ _ (by decide +kernel), ?_⟩, by unfold SharesFrames; decide +kernel,
    by unfold Live; decide +kernel, by decide +kernel, by decide, by decide +kernel,
    ⟨⟨0, 0x10000, 0x20000, by unfold HasRange; decide +kernel, by decide, by decide⟩,
      ⟨0, 0x10000, 0x20000, by unfold HasRange; decide +kernel, by decide, by decide⟩⟩,
    ⟨⟨0, 0x7FFFFF0000, 0x20000, by unfold HasRange; decide +kernel, by unfold InMemory; decide +kernel, by decide⟩, ?_, ?_⟩,
    by decide +kernel⟩
  rotate_left
  · rintro ⟨j, lo, len, ⟨hj, en, h1, _, h3⟩, out, _⟩
    obtain rfl : j = 0 := Classical.byContradiction fun h0 => Bool.noConfusion ((first _ (.head _) j hj h0).symm.trans en)
    refine out (.inr (.inl ?_))
    rw [h3]
    decide
  · rintro ⟨j, lo, len, ⟨hj, en, h1, _, h3⟩, _, out⟩
    obtain rfl : j = 0 := Classical.byContradiction fun h0 =>
      Bool.noConfusion ((first _ (.tail _ (.head _)) j hj h0).symm.trans en)
    refine out ⟨?_, ?_⟩
    · rw [h1]; decide
    · rw [h3]; decide
  exact ⟨1, by decide, by decide, 0, 0, 0, 0x100000, 0, 0x100000, by unfold HasRange; decide +kernel, by unfold HasRange; decide +kernel,
    by unfold Apart; decide⟩

/-- A host's write, of 64 bits and of 32, to a register of BAR0. -/
def wide (fn offset : Nat) : HostReg := ⟨fn, offset, true, .bar0, .write⟩
def half (fn offset : Nat) : HostReg := ⟨fn, offset, false, .bar0, .write⟩

theorem witness_RegisterWriteRules :
    (let lock := fun k : Package => { k with parts := k.parts.setIfInBounds 0 { partOf k 0 with locked := true } }
     ApertureLocked (lock (mapped 3 0)) 5 ∧ ¬ ApertureLocked Package.reset 5) ∧
    (let k := { Package.reset with apertures := Package.reset.apertures.setIfInBounds 1 { cfg := 1, back := 0, p0 := 0, p1 := 0 } }
     WindowRefused k 5 { cfg := 1, back := 0, p0 := 0, p1 := 0 } ∧ ¬ WindowRefused k 5 { cfg := 0x10001, back := 0, p0 := 0, p1 := 0 } ∧
     WindowRefused k 5 { cfg := 0x10001, back := 0x8000000000, p0 := 0, p1 := 0 } ∧
     ¬ WindowRefused k 5 { cfg := 0x10001, back := 0x7FFFFFFFC0, p0 := 0, p1 := 0 }) ∧
    (∀ n < 16, ¬ ((partOf Package.reset n).en = true ∧ (partOf Package.reset n).frames.getLsbD 3 = true)) ∧
    (let k := { Package.reset with parts := Package.reset.parts.setIfInBounds 1 { Partition.reset with en := true, frames := 8 } }
     ∃ n < 16, (partOf k n).en = true ∧ (partOf k n).frames.getLsbD 3 = true) ∧
    (packageTaskLive State.reset = false ∧ packageTaskLive { State.reset with here := queenCore, core := onTask Core.reset } = true) ∧
    (∀ row ∈ plainWindow, Window 15 row.1 (wide 15 row.1)) ∧
    (∀ row ∈ ringWindow, ∀ k < 8, Window 0 (0x1000 + 0x40 * k + row.1) (wide 0 (0x2001000 + 0x40 * k + row.1))) ∧
    (∀ row ∈ queueWindow, ∀ k < 16, Window 0 (0x1400 + 0x20 * k + row.1) (wide 0 (0x2001400 + 0x20 * k + row.1))) ∧
    (∀ v, WindowStep 3 v 0x2200 (.mbbaseWrite 3 v)) ∧
    (WindowStep 3 0x1FFFFFFFF 0x10 (.tlbRefresh 3 0xFFFFFFFF) ∧ WindowStep 3 0xFFFFFFFF 0x10 (.tlbRevoke 3 0xFFFFFFFF) ∧
      WindowStep 3 1 0x208 (.wdclrGo 3) ∧ WindowStep 3 0xFF02 0x14000 (.stopcmdEnd 3 0xFF)) ∧
    (Window 2 0x1020 (wide 2 0x1020) ∧ Window 2 0x1408 (wide 2 0x1408) ∧ Window 2 (0x4000 + 8 * 255) (wide 2 0x47F8) ∧
      Window 2 (0x8000 + 8 * 4095) (wide 2 0xFFF8) ∧ Window 2 (0x2000 + 8 * 63) (wide 2 0x21F8) ∧ Window 2 0x408 (wide 2 0x408)) ∧
    ((partOf Package.reset 2).imgCmd = none ∧ ({ Partition.reset with imgCmd := some .load } : Partition).imgCmd ≠ none) ∧
    ((∀ v, PackageStep v 0x50000 (.qownWrite v)) ∧ PackageStep 1 0xF00 (.pcfgWrite 15 1) ∧ PackageStep 1 0xFB0 (.pmemWrite 15 7 1) ∧
      PackageStep 1 0xFB8 (.plimWrite 15 7 1) ∧ PackageStep 1 0x107E0 (.apcfgWrite 63 1) ∧ PackageStep 1 0x203E0 (.migrationStart 15) ∧
      PackageStep 0 0x203E0 (.migrationRetire 15) ∧ PackageStep 1 0x301F0 (.frapplyGo 15) ∧ PackageStep 1 0x401F0 (.ppctlWrite 15 1) ∧
      PackageStep 5 0x60000 (.superTierRemap 5)) ∧
    (∀ o ∈ [0, 0x50000, 0x60000, 0x60028, 0x60004, 0x20400, 0x40000, 0x40BF8, 0x107E8, 0x301E0, 0x301E8, 0x301F0],
      Control o (wide 0 o)) ∧
    (∀ row ∈ plainControl 0 Package.reset, row.1 < 0x2000000) ∧
    (Package.reset.warn ≤ Package.reset.tmax ∨ Package.reset.tmax < Package.reset.warn) ∧
    ((let k := { Package.reset with tmax := 50, warn := 60 }
      k.tmax < k.warn ∧ (0x3200 : BitVec 64).extractLsb' 8 8 ≤ k.tmax)) ∧
    ((wide 0 0x101).offset % 8 ≠ 0 ∧ 16 ≤ (wide 16 0).fn ∧ 0x200000 ≤ (wide 1 0x200000).offset ∧ ¬ WindowOffset 0x18 ∧ ¬ ControlOffset 0x10) ∧
    (Window 1 0x100 (half 1 0x100) ∧ Window 1 0x404 (half 1 0x404) ∧ Window 1 0x10 (half 1 0x10) ∧ Window 1 0x140C (half 1 0x140C) ∧
      Control 0x20024 (half 0 0x20024) ∧ (half 1 0x102).offset % 4 ≠ 0) := by
  refine ⟨⟨⟨0, by decide, by decide +kernel, 0, 0, 0x100000, by unfold HasRange; decide +kernel, by unfold Apart; decide +kernel⟩, ?_⟩,
    ?_, by decide +kernel, by decide +kernel, by decide +kernel, by unfold Window; decide +kernel,
    by unfold Window; decide +kernel, by unfold Window; decide +kernel, fun v => by simp [WindowStep], by simp [WindowStep],
    by unfold Window; decide +kernel, by decide +kernel, ?_,
    by unfold Control; decide, by decide +kernel, by decide +kernel, by decide +kernel, ?_, by unfold Window Control; decide⟩
  · rintro ⟨m, hm, h, _⟩
    have all : ∀ m < 16, (partOf Package.reset m).locked = false := by decide +kernel
    simp [all m hm] at h
  · refine ⟨?_, ?_, ?_, ?_⟩ <;> unfold WindowRefused InMemory Apart <;> decide +kernel
  · refine ⟨fun v => .inl ⟨rfl, rfl⟩, ?_⟩
    refine ⟨?_, ?_, ?_, ?_, ?_, ?_, ?_, ?_, ?_⟩ <;> unfold PackageStep <;> decide +kernel
  · refine ⟨by decide, by decide, by decide, ?_, ?_⟩
    · simp [WindowOffset]
      refine ⟨?_, ?_, ?_, ?_, ?_⟩ <;> intros <;> omega
    · simp [ControlOffset]
      refine ⟨fun x _ => ⟨by omega, by omega⟩, ?_, ?_, ?_, ?_, ?_⟩ <;> intros <;> omega

/-- Core 0 running with these commands in queue C0, on a package. -/
def engaged (ms : List Command) (k : Package) : State := { State.reset with core := { Core.reset with mode := .running, c0 := ms }, pkg := k }
def someCommand (kind : CmdKind) : Command := { newCommand kind (.cellFree 1) State.reset with cell := 1, op2 := 128 }
/-- A fill, or copy-out, of 128 bytes that has sent `n` of its two requests. -/
def begunCommand (kind : CmdKind) (n : Nat) : Command := { someCommand kind with begun := true, applied := true, sent := n }
/-- A request for 64 bytes at virtual page 0, which the run of the command places at page 4. -/
def aRequest : Request := ⟨0, 0, 0, 256, 64, List.replicate 64 7, List.replicate 64 false, [], [], []⟩
def asking (kind : CmdKind) (rs : List Request) : Command :=
  { begunCommand kind 2 with runs := [⟨0, 1, 4, true, true, false, false, 0⟩], pending := rs }
def page4 : List Nat := (List.range 64).map fun i => 0x40000 + i
/-- A migration that is copying the line at page 4. -/
def copying4 : Package :=
  let m : Migration := { old := 0x40000, new := 0x80000, lines := 2, p := 0, since := 0, en := true, done := false }
  { Package.reset with migrations := Package.reset.migrations.setIfInBounds 2 m }

theorem plain_of (k : Package) (h : k.migrations.toList.all (fun m => !m.en) = true) {pa : Nat} (hp : pa < 0x80000000000) : Plain k pa := by
  refine ⟨fun h => absurd h.1 (by omega), fun m hm he => ?_⟩
  have := List.all_eq_true.1 h m hm
  simp [he] at this

theorem has_one (m : Command) (k : Package) : Has (engaged [m] k).core 0 [m] := ⟨by decide, rfl, List.pairwise_singleton ..⟩

theorem placed_aRequest (kind : CmdKind) : PlacedAt (asking kind [aRequest]) aRequest page4 := by
  unfold PlacedAt placesOf page4
  rw [List.map_map]
  refine List.map_congr_left fun i hi => ?_
  have h : (0 + i) / 65536 = 0 := by have : i < 64 := List.mem_range.1 hi; omega
  have e : coveringEntries [⟨0, 1, 4, true, true, false, false, 0⟩] 0 = [⟨0, 1, 4, true, true, false, false, 0⟩] := by decide
  have : i < 64 := List.mem_range.1 hi
  show placeOf [⟨0, 1, 4, true, true, false, false, 0⟩] (0 + i) = Place.here (0x40000 + i)
  unfold placeOf
  rw [h, e]
  simp [entryPlace, Nat.mod_one]
  omega

/-- The commands of two cores of frame 0 in the queue of its collective engine, with that of core 1 at its head. -/
def queued : State :=
  let m := { someCommand .osend with begun := true, carried := true }
  { engaged [m] { Package.reset with
      frames := Package.reset.frames.setIfInBounds 0 { Frame.reset with coll := [(1, 1, 0), (0, 0, 0)] } } with
    cores := [(1, { Core.reset with mode := .running, c1 := [someCommand .collBs] })] }

theorem witness_CommandsProceed :
    ((∀ kind ∈ [CmdKind.g2c, .c2g, .gat, .sct, .g2g, .ovl, .c2r, .decOpen, .collBs, .collBc, .collAg],
        Has (engaged [someCommand kind] Package.reset).core 0 [someCommand kind]) ∧
      Quiet (engaged [someCommand .g2c] Package.reset).core ∧ (someCommand .g2c).begun = false ∧ (someCommand .g2c).applied = false ∧
      Moves (someCommand .g2c) ∧ ¬ Moves (someCommand .g2g)) ∧
    ((vget Package.reset.frames (frameOf 0) Frame.reset).coll = [] ∧
      64 ≤ (({ Frame.reset with coll := List.replicate 64 (0, 0, 0) } : Frame).coll.filter fun x => x.2.1 < 3).length) ∧
    (Has (engaged [begunCommand .g2c 1] Package.reset).core 0 [begunCommand .g2c 1] ∧ (begunCommand .g2c 1).redo = [] ∧
      (begunCommand .g2c 1).sent < partCount (begunCommand .g2c 1) ∧ (begunCommand .c2g 1).sent < partCount (begunCommand .c2g 1)) ∧
    (Has (engaged [{ asking .g2c [] with redo := [aRequest] }] Package.reset).core 0 [{ asking .g2c [] with redo := [aRequest] }] ∧
      writesMemory { asking .g2c [] with redo := [aRequest] } aRequest = false ∧
      ∀ p ∈ placesOf (asking .g2c []).runs aRequest.va aRequest.len, ∃ pa, p = .here pa) ∧
    (Has (engaged [{ someCommand .osend with begun := true, carried := true }] Package.reset).core 0
        [{ someCommand .osend with begun := true, carried := true }] ∧
      (let k := { Package.reset with frames := Package.reset.frames.setIfInBounds 0 { Frame.reset with coll := [(0, 0, 0)] } }
       (vget k.frames (frameOf 0) Frame.reset).coll.head? = some (0, 0, (someCommand .osend).serial))) ∧
    ((vget queued.pkg.frames (frameOf 0) Frame.reset).coll.head? = some (1, 1, (someCommand .collBs).serial) ∧
      (coreState queued 1).mode = .running ∧ Has (coreState queued 1) 1 [someCommand .collBs] ∧ (someCommand .collBs).readDone = false) ∧
    (Has (engaged [asking .g2c [aRequest]] Package.reset).core 0 [asking .g2c [aRequest]] ∧
      PlacedAt (asking .g2c [aRequest]) aRequest page4 ∧ (∀ p ∈ page4, Plain Package.reset p) ∧ (∀ b ∈ aRequest.bad, b = false) ∧
      page4.Nodup ∧ aRequest.bytes.length = aRequest.len ∧ 0 < aRequest.len ∧ Unscoped (engaged [asking .g2c [aRequest]] Package.reset) ∧
      (0, Package.reset.cycle) ∉ (engaged [asking .g2c [aRequest]] Package.reset).core.answered) ∧
    (Picks 0 64 [] [0, 7] ∧ ¬ AllParts 0 64 [0, 7] ∧ Picks 0 64 [1, 2, 3, 4, 5, 6] [0, 7] ∧ AllParts 0 64 [1, 2, 3, 4, 5, 6, 0, 7]) ∧
    ((∃ p ∈ page4, InCopy copying4 p) ∧ Unwindowed Package.reset 0x80000000000) ∧
    ((0, 7) ∈ (accepted Core.reset 0 7).answered) ∧
    (partCount (begunCommand .g2c 2) ≤ (begunCommand .g2c 2).sent ∧ NotInFrames Package.reset 0 0) ∧
    (rereadsAt Core.reset 0 < 16 ∧ 16 ≤ rereadsAt { Core.reset with rereads0 := 16 } 0) ∧
    ((∀ j < 16, (migrationOf copying4 j).en = true → j = 2) ∧
      max (migrationOf copying4 2).since aRequest.since + copying4.mhold.toNat < 0x10001) := by
  refine ⟨⟨fun _ _ => has_one _ _, by unfold Quiet Moves; decide +kernel⟩, by decide +kernel, ⟨has_one _ _, by decide +kernel⟩,
    ⟨has_one _ _, by decide +kernel, ?_⟩, ⟨has_one _ _, by decide +kernel⟩,
    ⟨by decide +kernel, rfl, ⟨by decide, rfl, List.pairwise_singleton ..⟩, rfl⟩,
    ⟨has_one _ _, placed_aRequest _, ?_, by decide +kernel, by decide +kernel, rfl, by decide, ?_, by decide⟩,
    ⟨⟨by decide, by decide⟩, fun h => absurd (h 1 (by decide) (by decide)) (by decide), ⟨by decide, by decide⟩, ?_⟩,
    ⟨⟨0x40000, by decide +kernel, by unfold InCopy; decide +kernel⟩, by unfold Unwindowed; decide +kernel⟩, .head _,
    by unfold NotInFrames; decide +kernel, by decide +kernel, by decide +kernel⟩
  · intro p hp
    have h : placesOf (asking .g2c []).runs aRequest.va aRequest.len = page4.map .here := placed_aRequest .g2c
    rw [h] at hp
    obtain ⟨pa, _, rfl⟩ := List.mem_map.1 hp
    exact ⟨pa, rfl⟩
  · intro p hp
    refine plain_of _ (by decide +kernel) ?_
    revert p; decide +kernel
  · rintro c (rfl | ⟨n, hn⟩) a ha
    · cases ha
    · cases hn
  · intro w _ h
    have : w = 0 ∨ w = 1 ∨ w = 2 ∨ w = 3 ∨ w = 4 ∨ w = 5 ∨ w = 6 ∨ w = 7 := by omega
    obtain rfl | rfl | rfl | rfl | rfl | rfl | rfl | rfl := this <;> decide

/-- A remote write of one flit from core 0 to cell 1 of core 1, so far on its way, and core 1 with that cell. -/
def aWrite (x : WriteState) : RemoteWrite :=
  { id := 4, src := 0, dst := 1, engine := 0, serial := 9, rcell := 1, tag := 5, data := List.replicate 64 3, bad := [], tenant := 0, state := x }
def receiving (size filler : Nat) (mode : Mode) (x : WriteState) : State :=
  let c : Cell := { Cell.reset with base := 256, size := size, state := .fillingRemote, filler := filler }
  { State.reset with
    cores := [(1, { Core.reset with mode := mode, cells := Core.reset.cells.setIfInBounds 1 c })]
    core := { Core.reset with mode := .running, c0 := [{ begunCommand .c2r 1 with serial := 9 }] }
    pkg := { Package.reset with writes := [aWrite x], cycle := 64 } }

theorem noneBefore_of (k : Package) (w : RemoteWrite) (p : WriteState → Prop) (h : k.writes = [w]) : NoneBefore k w p := by
  intro v hv hlt
  rw [h, List.mem_singleton] at hv
  subst hv
  exact absurd hlt (Nat.lt_irrefl _)

/-- Another write from the row of core 0 that waits before the full buffer of core 1. -/
def behindAnother : Package :=
  { Package.reset with cycle := 64, writes := [aWrite (.flying 1 64), { aWrite (.waiting 60) with id := 3 }] }

theorem witness_RemoteWriteRules :
    (let m := { begunCommand .c2r 0 with target := 1 }
     Has (engaged [m] Package.reset).core 0 [m] ∧ (64 : Nat) % 16 = mySlot 0 ∧ (65 : Nat) % 16 ≠ mySlot 0 ∧
       ∀ p ∈ Package.reset.injected, p.1 = 0 → p.2 < 64) ∧
    (Heads 0 1 1 ∧ Heads 0 4095 16 ∧ Heads 16 4095 32 ∧ Heads 63 4095 1087 ∧ Heads 4095 0 4079 ∧ Heads 4032 0 3008 ∧ Heads 1 0 0) ∧
    (∀ x ∈ [WriteState.flying 1 64, .flying 16 64, .edge 16 63, .waiting 63, .held 63, .accepted 63, .returning false 0 64,
        .returning true 16 64, .returnEdge true 16 63],
      WriteIs (receiving 64 0 .running x).pkg (aWrite x)) ∧
    (∀ x p, NoneBefore (receiving 64 0 .running x).pkg (aWrite x) p) ∧
    (Blocked behindAnother (aWrite (.flying 1 64)) 1 64 ∧ ¬ Blocked (receiving 64 0 .running (.flying 1 64)).pkg (aWrite (.flying 1 64)) 1 64 ∧
      (63 : Nat) < 64 ∧ (64 : Nat) % 16 = mySlot 0 ∧ (64 : Nat) % 16 ≠ mySlot 1) ∧
    ((coreState (receiving 64 0 .running (.held 63)) 1).mode = .running ∧ (coreState (receiving 64 0 .free (.held 63)) 1).mode = .free ∧
      tenant (coreState (receiving 64 0 .running (.held 63)) 1) = (aWrite (.held 63)).tenant ∧
      tenant (coreState (receiving 64 0 .running (.held 63)) 1) ≠ { aWrite (.held 63) with tenant := 9 }.tenant ∧
      heldAt (receiving 64 0 .running (.flying 1 64)).pkg 1 < 8 ∧
      8 ≤ heldAt { Package.reset with writes := List.replicate 8 (aWrite (.held 0)) } 1) ∧
    (let x := cellOf (coreState (receiving 64 0 .running (.held 63)) 1) 1
     x.state = .fillingRemote ∧ x.filler = (aWrite (.held 63)).src ∧ (aWrite (.held 63)).data.length ≤ x.size) ∧
    (cellOf (coreState (receiving 0 0 .running (.held 63)) 1) 1).size < (aWrite (.held 63)).data.length ∧
    (cellOf (coreState (receiving 64 7 .running (.held 63)) 1) 1).filler ≠ (aWrite (.held 63)).src ∧
    (63 + (aWrite (.accepted 63)).data.length / 64 ≤ 64 ∧ (coreState (receiving 64 0 .running (.accepted 63)) 1).task = none ∧
      (onTask Core.reset).task ≠ none ∧ tenant (onTask Core.reset) = plainTask.stamp) ∧
    (Has (coreState (receiving 64 0 .running (.returning true 0 64)) 0) 0 [{ begunCommand .c2r 1 with serial := 9 }] ∧
      (coreState (receiving 64 0 .running (.returning true 0 64)) 0).stop = none) := by
  refine ⟨?_, ?_, by unfold WriteIs; decide +kernel, fun x p => noneBefore_of _ _ _ rfl,
    ⟨?_, ?_, by decide, by decide, by decide⟩, by decide +kernel, by decide +kernel, by decide +kernel,
    by decide +kernel, ⟨by decide +kernel, rfl, nofun, rfl⟩, ⟨⟨by decide, rfl, List.pairwise_singleton ..⟩, rfl⟩⟩
  · exact ⟨has_one _ _, by decide, by decide, by decide⟩
  · refine ⟨?_, ?_, ?_, ?_, ?_, ?_, ?_⟩ <;> simp [Heads]
  · exact ⟨_, .tail _ (.head _), 60, 0, by decide, rfl, by unfold Takes; decide, by unfold Takes; decide, by decide, by decide⟩
  · rintro ⟨v, hv, _, _, h, _⟩
    exact h (by rw [List.mem_singleton.mp hv])

/-- A table of one symbol, 5, and a stream over it whose lanes hold `x`. -/
def oneSymbol (nsym rint : Nat) : DecTable :=
  { cell := 2, sfmt := 1, es := 0, rint := rint, ntiles := 1, nsym := nsym, iofs := 0, dlen := 128, freq := [4096], values := [5] }
def laneState (x : BitVec 32) : Stream :=
  { Stream.reset with isOpen := true, dcell := 1, xs := Vector.replicate 32 x, ipos := 1 }
/-- Cell 1 with the first segment: 32 lane states of 0x10000; cell 2 with an index of 0. -/
def decoding (rst : Bool) (t : DecTable) (x : BitVec 32) : State :=
  let cells := (Core.reset.cells.setIfInBounds 1 { Cell.reset with base := 256, size := 256, state := .full }).setIfInBounds 2
    { Cell.reset with base := 0, size := 64, state := .full }
  { State.reset with core := { Core.reset with
      mode := .running, cells := cells, comb := (List.range 32).map fun j => (256 + 4 * j + 2, 1)
      streams := Core.reset.streams.setIfInBounds 0 { laneState x with rst := rst }
      dslots := Core.reset.dslots.setIfInBounds 0 (some t) } }
def laneBytes : List Byte := (List.range 128).map fun i => if i % 4 = 2 then 1 else 0
def anItem (op : Nat) (r : Nat) : CollItem :=
  { op := op, part := 0, ident := 0, count := 2, parts := [0, 1], block := 0, ranks := [r], exps := [none, some 3], sums := [(1, 0)] }
def aDelivery (due : Nat) : State :=
  { State.reset with here := queenCore, core := { Core.reset with
      bound := [{ frame := 0, kind := 1, position := 0, due := due, delivered := false, cmd := someCommand .collBc }] } }

/-- A reproducible collective of two packages, begun and in its frame's queue, that has taken some items. -/
def aCollective (kind : CmdKind) (items : List CollItem) : Command :=
  { begunCommand kind 1 with carried := true, ident := 0, count := 2, parts := [0, 1], rank := 0, items := items, pending := [] }
def sendingItem : Package := { Package.reset with items := [(anItem 2 1, [2])] }

theorem witness_DecoderAndHeldCommands :
    (SymbolOf (oneSymbol 1 32) 0x10000 0 ∧ 2 ^ 16 ≤ laneAfter (oneSymbol 1 32) 0x10000 0 ∧ laneAfter (oneSymbol 1 32) 0x8000 0 < 2 ^ 16 ∧
      SymbolOf (oneSymbol 1 32) 0x8000 0) ∧
    (DecoderReads (decoding false (oneSymbol 1 32) 0x8000).core 1 254 2 (memBytes (decoding false (oneSymbol 1 32) 0x8000).core.comb 510 2)) ∧
    ((0 : Nat) < 256 ∧ (256 : Nat) ≤ 256) ∧
    (∀ t ∈ [oneSymbol 2 32, oneSymbol 2 1, oneSymbol 1 32],
      (let s := decoding false t 0x10000
       vget s.core.dslots (vget s.core.streams 0 Stream.reset).slot none = some t ∧ (vget s.core.streams 0 Stream.reset).isOpen = true) ∧
      Decodes (decoding false t 0x10000).core t (laneState 0x10000) [5] { laneState 0x10000 with pos := 1 } ∧
      [5].length = symbolsDue t (laneState 0x10000)) ∧
    ((let s := decoding false (oneSymbol 2 32) 0x10000
      s.core.streamBad.getLsbD 0 = false ∧ s.core.dslotBad.getLsbD 0 = false ∧ s.core.mode = .running ∧ s.core.stop = none ∧
        (laneState 0x10000).work ≤ s.pkg.cycle ∧ 0 < symbolsDue (oneSymbol 2 32) (laneState 0x10000)) ∧
      ({ Core.reset with streamBad := 1 } : Core).streamBad.getLsbD 0 ≠ false) ∧
    ((∀ x ∈ (laneState 0x10000).xs.toList, x = 0x10000) ∧ (laneState 0x10000).wptr = (laneState 0x10000).segend) ∧
    (1 < (oneSymbol 2 32).nsym ∧ 1 % (oneSymbol 2 32).rint ≠ 0 ∧ 1 % (oneSymbol 2 1).rint = 0 ∧ 1 = (oneSymbol 1 32).nsym) ∧
    (let s := decoding true (oneSymbol 1 32) 0x10000
     (vget s.core.streams 0 Stream.reset).rst = true ∧ (vget s.core.streams 0 Stream.reset).pos < (vget s.core.streams 0 Stream.reset).ipos) ∧
    (IndexIs (decoding true (oneSymbol 1 32) 0).core (oneSymbol 1 32) 0 0 ∧ IndexIs (decoding true (oneSymbol 1 32) 0).core (oneSymbol 1 32) 1 128 ∧
      DecoderReads (decoding true (oneSymbol 1 32) 0).core 1 0 128 laneBytes ∧ ∀ j < 32, 2 ^ 16 ≤ ofBytes ((laneBytes.drop (4 * j)).take 4)) ∧
    (let m := { newCommand .decSave (.decSave 1 0 3) State.reset with begun := true, cell := 1, imm := 96 }
     Has { (decoding true (oneSymbol 1 32) 0).core with dq := [m] } 2 [m] ∧ m.ends ≤ 0 ∧ m.stream < 2 ∧
       m.imm + 160 ≤ (cellOf (decoding true (oneSymbol 1 32) 0).core 1).size) ∧
    (∀ kind ∈ [CmdKind.cellArm, .cellSeal, .cellFree, .cellExpect, .cellOpen],
      Has (engaged [someCommand kind] Package.reset).core 0 [someCommand kind] ∧ Quiet (engaged [someCommand kind] Package.reset).core) ∧
    ((∃ b, (coreState (aDelivery 0) queenCore).bound[0]? = some b ∧ b.delivered = false ∧ b.due ≤ (aDelivery 0).pkg.cycle) ∧
      ∃ b, (coreState (aDelivery 1) queenCore).bound[0]? = some b ∧ (aDelivery 1).pkg.cycle < b.due) ∧
    (Combinable (anItem 2 0) (anItem 2 1) ∧ (anItem 2 0).exps.length = (anItem 2 1).exps.length ∧ ¬ Combinable (anItem 2 0) (anItem 2 0) ∧
      ¬ Combinable (anItem 3 0) (anItem 3 1)) ∧
    (Has (engaged [aCollective .collBs []] sendingItem).core 0 [aCollective .collBs []] ∧ sendingItem.items[0]? = some (anItem 2 1, [2]) ∧
      ItemFor (aCollective .collBs []) 0 (anItem 2 1) ∧ (aCollective .collBs []).rank ∉ [2] ∧ ¬ ItemFor (aCollective .collMx []) 0 (anItem 2 1) ∧
      ∃ r ∈ (anItem 2 1).ranks, ∃ x ∈ (aCollective .collBs [anItem 2 1]).items, x.block = (anItem 2 1).block ∧ r ∈ x.ranks) ∧
    (Has (engaged [aCollective .collAg []] routed).core 0 [aCollective .collAg []] ∧ (1 : Nat) < (aCollective .collAg []).parts.length ∧
      (((aCollective .collAg []).parts.getD 1 0).extractLsb' 0 8).toNat ≠ routed.pnode.toNat ∧ RouteTo routed 0 1 2 ∧
      ∃ q ∈ ({ aCollective .collAg [] with pending := [{ aRequest with index := 1 }] } : Command).pending, q.index = 1) := by
  refine ⟨by unfold SymbolOf; decide +kernel, by unfold DecoderReads EngineReads; decide +kernel, by decide, ?_, by decide +kernel, ⟨?_, rfl⟩, by decide,
    by decide +kernel, ⟨?_, .inl ⟨by decide, rfl⟩, by unfold DecoderReads EngineReads; decide +kernel, by decide +kernel⟩,
    ⟨⟨by decide, rfl, List.pairwise_singleton ..⟩, by decide +kernel⟩,
    fun k _ => ⟨has_one _ _, rfl, rfl, show ∀ st ∈ Core.reset.streams.toList, st.isOpen = false by decide +kernel⟩, ⟨⟨_, rfl, by decide +kernel, by decide +kernel⟩, ⟨_, rfl, by decide +kernel⟩⟩,
    by unfold Combinable; decide +kernel,
    ⟨has_one _ _, rfl, by unfold ItemFor; decide +kernel, by decide, by unfold ItemFor; decide +kernel, by decide +kernel⟩,
    ⟨has_one _ _, by decide, by decide, ⟨0x12, by decide +kernel, by decide +kernel, by decide, by decide, by decide +kernel, by decide +kernel⟩,
      _, .head _, rfl⟩⟩
  · intro t ht
    refine ⟨?_, ⟨_, ?_, rfl⟩, ?_⟩
    · revert t; decide +kernel
    · revert t; decide +kernel
    · revert t; decide +kernel
  · intro x hx
    rw [show (laneState 0x10000).xs.toList = List.replicate 32 0x10000 from Vector.toList_replicate ..] at hx
    exact List.eq_of_mem_replicate hx
  · exact .inr ⟨by decide, by decide, memBytes (decoding true (oneSymbol 1 32) 0).core.comb 0 8,
      by unfold DecoderReads EngineReads; decide +kernel, by decide +kernel⟩

/-- Core 0 stopping with these faults, or in some mode of its stop. -/
def stopWith (slots : List SlotFault) (c0 : Option StreamFault) : Stop :=
  { slots := slots, bundleCode := 0, bundleAddr := 0, c0 := c0, c1 := none, m := none, d := none }
def aStreamFault (code : BitVec 8) : StreamFault :=
  { code := code, cause := 1, pc := 3, addr := 0x10000, tile := 0, qb := 0, onBank := false, stream := 0 }
def stoppingAt (p : Stop) : State := { State.reset with core := { Core.reset with mode := .stopping, stop := some p } }
def stoppedAt (held : Bool) (retries : Nat) : State :=
  { framed State.reset 0 with core := { Core.reset with
      mode := .stopped held, retries0 := retries, record := { StopRecord.reset with c0 := some (aStreamFault 0) } } }

theorem notEnds_of (p : Stop) (h : ∀ f ∈ p.slots, ¬ Fatal f.code) (hb : ¬ Fatal p.bundleCode) : ¬ EndsTask p := by
  rintro ⟨code, ⟨f, hf, rfl⟩ | ⟨rfl, -⟩, ha⟩
  · exact h f hf ha
  · exact hb ha

theorem witness_StopsAndResumptions :
    ((stoppingAt (stopWith [⟨2, 0x0B, 0x10000⟩] none)).core.mode = .stopping ∧
      Settled Package.reset 0 (stoppingAt (stopWith [⟨2, 0x0B, 0x10000⟩] none)).core) ∧
    IsHeld (stopWith [⟨2, 0x0B, 0x10000⟩] none) ∧ IsAutomatic (stopWith [] (some (aStreamFault 0))) ∧
    (EndsTask (stopWith [⟨2, 0x03, 0⟩] none) ∧ otherFaults (stopWith [⟨2, 0x03, 0⟩] none) = [] ∧
      StatusOf (stopWith [⟨2, 0x03, 0⟩] none) 0x03 0) ∧
    ((accessing [aLoad] Package.reset).core.accesses ≠ []) ∧
    ((stoppedAt false 15).core.record.c0 = some (aStreamFault 0) ∧ (aStreamFault 0).cause = 1 ∧ 16 ≤ (stoppedAt false 16).core.retries0 ∧
      ¬ 16 ≤ (stoppedAt false 15).core.retries0 ∧ ¬ 16 ≤ (stoppedAt false 3).core.retries1 ∧ (stoppedAt false 3).core.mode = .stopped false) ∧
    (({ Core.reset with mode := .forced } : Core).mode ≠ .stopped false) ∧
    (Selects (stoppedAt true 0).pkg 0 0 ∧ (stoppedAt true 0).core.mode = .stopped true ∧ (stoppedAt true 0).core.bound = [] ∧
      everyCommand (stoppedAt true 0).core = [] ∧ (stoppedAt false 0).core.mode ≠ .stopped true) := by
  refine ⟨⟨rfl, by decide +kernel, rfl, ⟨nofun, rfl⟩, nofun⟩, ⟨notEnds_of _ (by unfold Fatal; decide) (by unfold Fatal; decide), .inl (by decide)⟩,
    ⟨rfl, rfl, by decide⟩, ⟨⟨0x03, .inl ⟨⟨2, 0x03, 0⟩, by decide, rfl⟩, by unfold Fatal; decide⟩, by decide,
      .inl ⟨⟨2, 0x03, 0⟩, by decide, by decide, by decide, rfl, rfl⟩⟩, by decide, by decide +kernel, by decide, ?_⟩
  unfold Selects; dsimp only
  refine ⟨⟨by decide +kernel, by decide +kernel⟩, rfl, rfl, by decide +kernel, by decide +kernel⟩

/-- A task, a card and a waiting entry with these fields of the card. -/
def cardWith (l : List (Nat × BitVec 64)) : List XWord := l.foldl (fun w p => w.set p.1 p.2) (List.replicate 32 0)
def taskWith (l : List (Nat × BitVec 64)) : Task := { plainTask with card := cardWith l, cardId := 6 }
def aCard (l : List (Nat × BitVec 64)) (left : Nat) : Card :=
  { id := 6, words := cardWith l, ring := 0, serial := 0, met := true, left := left, statuses := [], graph := none, poster := none }
/-- Core 0 with a task in a mode, in a partition. -/
def tasked (t : Task) (m : Mode) (p : Partition) : State :=
  { State.reset with
    core := { Core.reset with task := some t, mode := m }
    pkg := { Package.reset with parts := Package.reset.parts.setIfInBounds 0 p } }
def aRecord (ring : Nat) : DueRecord := { queue := 0, bits := 0, ring := ring, core := some 0, signal := none }
def aGraph (st : Option (BitVec 8)) (queue signal : Nat) : GraphInstance :=
  { id := 1, cards := [(6, st)], queue := queue, signal := signal, ring := 0, serial := 0 }
def aQueue (en : Bool) (w : BitVec 32) : CompQueue := { CompQueue.reset with en := en, widx := w, base := 0x40000 }

theorem witness_RetirementRules :
    (∀ t ∈ [taskWith [], taskWith [(4, 0x100000)]], Drained Package.reset 0 (tasked t (.ending 0) Partition.reset).core ∧
      (tasked t (.ending 0) Partition.reset).core.task = some t) ∧
    (cardQueue (cardWith []) < 16 ∧ 16 ≤ cardQueue (cardWith [(4, 0x100000)])) ∧
    (∀ st : BitVec 8, ∀ x ∈ [aCard [] 1, aCard [] 2], CardIs { Partition.reset with cards := [x] } x ∧ x.id = (taskWith []).cardId ∧
      (tasked (taskWith []) (.recorded st) { Partition.reset with cards := [x] }).core.mode = .recorded st) ∧
    (({ Partition.reset with cards := [aCard [] 1] } : Partition).graphs = [] ∧ ∃ y ∈ [((0 : Nat), (0x0B : BitVec 8))], y.2 ≠ 0) ∧
    (4096 ≤ cardSignal (cardWith [(4, 0x1000)]) ∧ cardSignal (cardWith []) < 4096 ∧ (taskWith []).part < 16 ∧ 1 < (aCard [] 2).left ∧
      (aCard [] 1).left = 1 ∧ (aCard [] 1).statuses = []) ∧
    (FirstDue { Partition.reset with due := [aRecord 7] } 0 (aRecord 7) [] ∧ [aRecord 7].Nodup) ∧
    ((aQueue true 16).en = true ∧ ¬ ((aQueue true 16).widx - (aQueue true 16).ridx).toNat < 2 ^ (aQueue true 16).log2n ∧
      ((aQueue true 15).widx - (aQueue true 15).ridx).toNat < 2 ^ (aQueue true 15).log2n ∧ (aQueue false 0).en = false) ∧
    (∀ a ∈ (List.range 16).map (0x40000 + ·), Plain Package.reset a) ∧
    ((∀ x ∈ (aGraph (some 0) 0 0).cards, x.2.isSome) ∧ (aGraph (some 0) 0 0).queue < 16 ∧ 16 ≤ (aGraph (some 0) 16 4096).queue ∧
      4096 ≤ (aGraph (some 0) 16 4096).signal ∧ ∃ x ∈ (aGraph none 0 0).cards, x.2 = none) := by
  refine ⟨by unfold Drained; decide +kernel, by decide, fun st x hx => ⟨⟨by simp, by simp⟩, ?_, rfl⟩, by decide, by decide,
    ⟨⟨[], [], rfl, rfl, rfl, by simp⟩, by simp⟩, by decide, fun a ha => plain_of _ (by decide +kernel) ?_, by decide⟩
  · revert x; decide
  · revert a; decide

theorem onlyTask_of {s : State} {t : Task} (h0 : s.here = 0) (h1 : s.cores = []) (ht : s.core.task = some t) : OnlyTask s t.part 0 t := by
  refine ⟨by unfold CoresInOrder; rw [h1]; exact .nil, by simp [coreState, h0, ht], rfl, fun m hm h => ?_⟩
  have : coreState s m = Core.reset := by simp [coreState, h0, h1, hm]
  rw [this] at h
  exact absurd h (by unfold TaskOf Core.reset; simp)

/-- The partition of `mapped`, and the memory where a saved context of 384 bytes stands at page 4. -/
def mappedPart (leaf : Byte) : Partition := partOf (mapped leaf 0) 0
def savedAt (leaf : Byte) : Package :=
  { mapped leaf 0 with mem := (mapped leaf 0).mem ++ [(0x40008, 0x80), (0x40009, 0x01)] }
def inMapped (leaf : Byte) (t : Task) (m : Mode) : State := { tasked t m (mappedPart leaf) with pkg := savedAt leaf }
theorem onePage_of (leaf : Byte) (w len : Nat) (hw : LeafOf (savedAt leaf) 0 0 w) (hl : LocalLeaf (savedAt leaf) 0 w) (h0 : 0 < len)
    (h1 : len ≤ 65536) (h4 : w / 2 ^ 20 % 2 ^ 36 = 4) : OnePage (savedAt leaf) 0 0 len w ((List.range len).map fun i => 4 * 65536 + 0 % 65536 + i) := by
  refine ⟨?_, h0, by omega, by omega, by simpa using hw, hl, by rw [h4], fun p hp => plain_of _ ?_ ?_⟩
  · unfold NoMigration; show ∀ m ∈ Package.reset.migrations.toList, m.en = false; decide +kernel
  · show Package.reset.migrations.toList.all (fun m => !m.en) = true; decide +kernel
  · obtain ⟨i, hi, rfl⟩ := List.mem_map.1 hp
    have := List.mem_range.1 hi
    omega
theorem leafOf_saved : LeafOf (savedAt 3) 0 0 0x400003 ∧ LeafOf (savedAt 1) 0 0 0x400001 :=
  ⟨⟨2, 3, by decide +kernel, by unfold PointsTo; decide +kernel, by unfold PointsTo; decide +kernel, by decide +kernel⟩,
    ⟨2, 3, by decide +kernel, by unfold PointsTo; decide +kernel, by unfold PointsTo; decide +kernel, by decide +kernel⟩⟩
def anImage : Image := { id := 0, nbv := 1, entries := [0], code := [], regions := [(15, true), (14, false)], data := [1, 2] }
def aRequestOf (expires : Option Nat) (drain : Bool) : PreemptRequest := { id := 1, arrives := 0, expires := expires, stamp := 0, byDrain := drain }

theorem witness_StartSaveAndRestore :
    ((tasked plainTask .starting { Partition.reset with images := [anImage] }).core.mode = .starting ∧
      dutyFrozen { Package.reset with duty := 64 } = true ∧ dutyFrozen Package.reset = false ∧
      ({ Partition.reset with images := [anImage] } : Partition).images.find? (fun x => x.id == cardImage plainTask.card) = some anImage) ∧
    OnlyTask (tasked plainTask .restored Partition.reset) 0 0 plainTask ∧
    (Drained (savedAt 3) 0 (inMapped 3 plainTask (.givingUp 0)).core ∧ (inMapped 3 plainTask (.givingUp 0)).core.request = none) ∧
    (∀ leaf w, (leaf, w) ∈ [((3 : Byte), 0x400003), (1, 0x400001)] → ∃ ps, OnePage (savedAt leaf) plainTask.part (cardSaveVa plainTask.card)
      (saveImageOf 0 0 (inMapped leaf plainTask (.givingUp 0))).length w ps) ∧
    (Nat.testBit 0x400003 1 = true ∧ Nat.testBit 0x400001 1 = false ∧ (partOf Package.reset 0).ptroot.getLsbD 0 = false ∧
      cardSaveVa plainTask.card + 384 ≤ 2 ^ 55) ∧
    (∀ i < 8, regionMode (cardWith [(15, 0x180)]) i = 0) ∧
    (∃ w ps, OnePage (savedAt 3) 0 (cardSaveVa (cardWith [(15, 0x180)])) 384 w ps ∧ (∀ a ∈ ps, a / 8 ∉ (savedAt 3).memBad) ∧
      bytesField (ps.map (memByte (savedAt 3).mem)) 8 8 = 384 ∧ bytesField (ps.map (memByte (savedAt 3).mem)) 4 2 = 0) ∧
    384 ≤ cardSaveSize (cardWith [(15, 0x180)]) ∧
    ((aRequestOf (some 0) false).expires = some 0 ∧ (aRequestOf (some 0) false).byDrain = false ∧ (aRequestOf (some 0) true).byDrain = true ∧
      (aRequestOf none false).expires = none ∧ ∀ m, (tasked plainTask .running Partition.reset).core.mode ≠ .givingUp m) := by
  refine ⟨by decide +kernel, onlyTask_of rfl rfl rfl, by unfold Drained; decide +kernel, fun leaf w h => ?_, by decide +kernel, by decide,
    ⟨0x400003, _, onePage_of 3 _ 384 leafOf_saved.1 (by unfold LocalLeaf; decide +kernel) (by decide) (by decide) (by decide),
      fun _ _ h => (List.not_mem_nil h).elim, by decide +kernel, by decide +kernel⟩, by decide, rfl, rfl, rfl, rfl, nofun⟩
  simp only [List.mem_cons, Prod.mk.injEq, List.not_mem_nil, or_false] at h
  rcases h with ⟨rfl, rfl⟩ | ⟨rfl, rfl⟩
  · exact ⟨_, onePage_of 3 _ _ leafOf_saved.1 (by unfold LocalLeaf; decide +kernel) (by decide +kernel) (by decide +kernel) (by decide)⟩
  · exact ⟨_, onePage_of 1 _ _ leafOf_saved.2 (by unfold LocalLeaf; decide +kernel) (by decide +kernel) (by decide +kernel) (by decide)⟩

/-- The partition of `mapped` with ring 7 enabled at page 0. -/
def ringed (w : BitVec 32) : Partition :=
  { mappedPart 3 with rings := (mappedPart 3).rings.setIfInBounds 7 { Ring.reset with en := true, w := w } }

theorem witness_RingAndBarrierRules :
    (¬ Overruns { Ring.reset with w := 0xFFFFFFFF, r := 0xFFFFFFFF } 15 ∧ Overruns Ring.reset 17 ∧ Overruns Ring.reset 0xFFFFFFFF ∧
      ¬ Overruns Ring.reset 16) ∧
    ((0x100 : BitVec 64).getLsbD 8 = true ∧ inTier (mapped 3 0) 0x40000 (16 * 2 ^ 4) = true ∧
      inPartition (mappedPart 3) 0x40000 (16 * 2 ^ 4) = true ∧ inPartition (mappedPart 3) 0x100000 (16 * 2 ^ 4) = false) ∧
    (GroupIs Partition.reset 3 ⟨0, 0, []⟩ ∧ GroupIs { Partition.reset with groups := [(3, ⟨2, 5, [7]⟩)] } 3 ⟨2, 5, [7]⟩) ∧
    (((0x1000 : BitVec 64).extractLsb' 0 13).toNat ≤ 4096 ∧ liveRanks State.reset 0 = [] ∧ ¬ ((0x1001 : BitVec 64).extractLsb' 0 13).toNat ≤ 4096) ∧
    (({ Partition.reset with arriving := [(4, 3, 9)] } : Partition).arriving[0]? = some (4, 3, 9) ∧ ([7] ++ [4]).length < 3 ∧
      2 ≤ ([7] ++ [4]).length) ∧
    ((coreState State.reset 4).accesses = [] ∧
      ∃ r ∈ ({ Partition.reset with releasing := [(0, 3, 9), (0, 4, 10)] } : Partition).releasing, r.1 = 0 ∧ r.2.2 ≤ 9) ∧
    (0x4000 / 8 ∈ ({ savedAt 3 with memBad := [0x800] } : Package).memBad ∧ ∀ a ∈ (List.range 256).map (0x40000 + ·), a / 8 ∉ (savedAt 3).memBad) ∧
    ((ringed 1).en = true ∧ (ringed 1).waiting = [] ∧ (vget (ringed 1).rings 7 Ring.reset).en = true ∧
      (vget (ringed 1).rings 7 Ring.reset).w ≠ (vget (ringed 1).rings 7 Ring.reset).r) ∧
    (∃ w ps, OnePage (savedAt 3) 0 ((vget (ringed 1).rings 7 Ring.reset).base.toNat + 0) 256 w ps) ∧
    cardImage ((List.range 32).map fun _ => (0 : BitVec 64)) ≠ 0xFFFF := by
  refine ⟨by unfold Overruns; decide, by decide +kernel, ⟨.inr ⟨by decide, rfl⟩, .inl ⟨_, List.mem_singleton_self _, rfl, by simp⟩⟩,
    by decide +kernel, by decide, by decide, ⟨by decide, fun _ _ h => (List.not_mem_nil h).elim⟩, by decide +kernel,
    ⟨0x400003, _, onePage_of 3 _ 256 leafOf_saved.1 (by unfold LocalLeaf; decide +kernel) (by decide) (by decide) (by decide)⟩, by decide⟩

theorem noTask_of {s : State} (h0 : s.here = 0) (h1 : s.cores = []) (ht : s.core.task = none) (p : Nat) : NoTask s p := by
  refine ⟨by unfold CoresInOrder; rw [h1]; exact .nil, fun m h => ?_⟩
  by_cases hm : m = 0
  · subst hm
    simp [TaskOf, coreState, h0, ht] at h
  · have : coreState s m = Core.reset := by simp [coreState, h0, h1, hm]
    rw [this] at h
    exact absurd h (by unfold TaskOf Core.reset; simp)

/-- A partition with every frame, one ready card and its entry. -/
def readyPart : Partition :=
  { Partition.reset with
    en := true, frames := 0xFFFF, cards := [aCard [] 1]
    waiting := [⟨6, 0, .ring 0, [(0, 0)], false, some 0, true, none, none⟩] }
def inPart (p : Partition) : State := { State.reset with pkg := { Package.reset with parts := Package.reset.parts.setIfInBounds 0 p } }

theorem witness_SchedulerPlacesACard :
    (partOf Package.reset 0).en = false ∧ (readyPart.en = true ∧ readyPart.draining = false ∧ readyPart.stopped = false ∧
      readyPart.cards = [aCard [] 1] ∧ readyPart.waiting = [⟨6, 0, .ring 0, [(0, 0)], false, some 0, true, none, none⟩] ∧
      readyPart.reserved = []) ∧
    NoTask (inPart readyPart) 0 ∧ (coreState (inPart readyPart) 0).mode = .free ∧ (aCard [] 1).met = true ∧
    OneCore (inPart readyPart).pkg 0 0 (aCard [] 1).words := by
  refine ⟨by decide +kernel, ⟨rfl, rfl, rfl, rfl, rfl, rfl⟩, noTask_of rfl rfl rfl 0, by decide +kernel, rfl, ?_⟩
  unfold OneCore; decide +kernel

/-- A drain at some point, and core 0 with a task that still has a load under way, in a package cycle. -/
def draining (d : Drain) (m : Mode) (cycle : Nat) : State :=
  let s := tasked (taskWith [(4, 0x100000)]) m { Partition.reset with en := true, draining := true, drain := some d }
  { s with core := { s.core with accesses := [aLoad] }, pkg := { s.pkg with cycle := cycle } }

theorem witness_WatchdogRules :
    ((5 : BitVec 32) ≠ 0 ∧ (5 : BitVec 32).toNat ≤ 5 ∧ ¬ (5 : BitVec 32).toNat ≤ 4 ∧ Partition.reset.draining = false) ∧
    (partOf (draining ⟨8, none, false, none⟩ .running 9).pkg 0).drain = some ⟨8, none, false, none⟩ ∧
    OnlyTask (draining ⟨8, none, false, none⟩ .running 9) 0 0 (taskWith [(4, 0x100000)]) ∧
    (OnlyTask (draining ⟨8, some 8, false, none⟩ .running 9) 0 0 (taskWith [(4, 0x100000)]) ∧
      (draining ⟨8, some 8, false, none⟩ .running 9).core.accesses ≠ [] ∧ 16 ≤ cardQueue (taskWith [(4, 0x100000)]).card ∧
      ∀ a ∈ [aLoad], ∃ pa, Place.here pa ∈ a.places ∧ ∀ x ∈ a.places, ∃ y, x = .here y) ∧
    (NoTask (inPart { Partition.reset with drain := some ⟨8, some 8, true, some 8⟩ }) 0 ∧
      (partOf (inPart { Partition.reset with drain := some ⟨8, some 8, true, some 8⟩ }).pkg 0).drain = some ⟨8, some 8, true, some 8⟩) ∧
    OnlyTask (draining ⟨8, some 8, true, some 8⟩ .forced 9) 0 0 (taskWith [(4, 0x100000)]) := by
  refine ⟨by decide, by decide +kernel, onlyTask_of rfl rfl rfl, ⟨onlyTask_of rfl rfl rfl, by decide, by decide, fun a ha => ?_⟩,
    ⟨noTask_of rfl rfl rfl 0, by decide +kernel⟩, onlyTask_of rfl rfl rfl⟩
  rw [List.mem_singleton] at ha
  subst ha
  exact ⟨0x20000, by decide, by simp [aLoad, anAccess]⟩

/-- Ports 1 and 3 of partition 0 on a package of pages 0 to 15, a route to node 5 by port 1, and port 3 as given. -/
def podded (p : Port) (time : BitVec 48) (held : List Held) : Package :=
  let q := { mappedPart 3 with ports := 10, held := held }
  let o : Port := { Port.reset with en := true, wag := true, up := true }
  { Package.reset with
    parts := Package.reset.parts.setIfInBounds 0 q, ports := (Package.reset.ports.setIfInBounds 1 o).setIfInBounds 3 p
    rtab := [(5, 0x11), (6, 0x13)], time := time }
def aPort (wag joined : Bool) (received : Nat) : Port :=
  { Port.reset with en := true, wag := wag, up := true, joined := joined, received := received }

theorem carries_podded (p : Port) (h : p.en = true) (h' : p.up = true) (t : BitVec 48) (l : List Held) : Carries (podded p t l) 3 0 := by
  refine ⟨by decide, h, h', by decide, fun q hq => ?_⟩
  have all : ∀ q < 16, q ≠ 0 → (partOf Package.reset q).en = false := by decide +kernel
  by_cases h0 : q = 0
  · subst h0
    exact ⟨fun _ => ⟨rfl, show (10 : BitVec 16).getLsbD 3 = true by decide⟩, fun _ => rfl⟩
  · refine ⟨fun h => absurd h h0, fun h => ?_⟩
    have e : partOf (podded p t l) q = partOf Package.reset q := by
      have h0' : 0 ≠ q := fun h => h0 h.symm
      simp [partOf, podded, vget, hq, h0']
    rw [e, all q hq h0] at h
    exact absurd h.1 (by decide)

/-- The same package with the range of partition 0 in the windows. -/
def windowed : Package :=
  let k := podded (aPort true true 0) 5 []
  { k with parts := k.parts.setIfInBounds 0 { ranged 0x8000000 0x8FFFFFF with ports := 10 } }
/-- A bulk flit for node `dest` in partition 0, and a request as it comes to a port. -/
def aFlit (dest hops : Nat) (body : BulkBody) : Flit := ⟨dest, 0, hops, body⟩
def remoteRead : RemoteRequest := ⟨0, 5, 0, 0, 4, 0xFFFF8, .read 8⟩

theorem carries_windowed : Carries windowed 3 0 := by
  refine ⟨by decide, rfl, rfl, by decide, fun q hq => ?_⟩
  have all : ∀ q < 16, q ≠ 0 → (partOf windowed q).en = false := by decide +kernel
  by_cases h0 : q = 0
  · subst h0
    exact ⟨fun _ => ⟨rfl, show (10 : BitVec 16).getLsbD 3 = true by decide⟩, fun _ => rfl⟩
  · exact ⟨fun h => absurd h h0, fun h => absurd h.1 (by rw [all q hq h0]; decide)⟩

theorem witness_PodRules :
    ((podded { Port.reset with en := true } 0 []).ports[3].en = true ∧ (podded { Port.reset with en := true } 0 []).ports[3].up = false) ∧
    (Carries (podded (aPort true true 0) 5 []) 3 0 ∧ ¬ ((5 : Nat) + 4 < 9 ∨ 9 + 4 < (5 : Nat)) ∧ ((5 : Nat) + 4 < 10)) ∧
    (CarriesNothing (podded (aPort true true 0) 5 []) 2 ∧ CarriesNothing Package.reset 0 ∧ CarriesNothing Package.reset 16) ∧
    (RouteTo (podded (aPort true true 0) 5 []) 0 5 1 ∧ NoRoute (podded (aPort true true 0) 5 []) 0 7 false ∧
      NoRoute (podded (aPort false true 0) 5 []) 0 6 true) ∧
    ((podded (aPort true true 0) 5 []).pnode.toNat = 0 ∧ inPartition (partOf (podded (aPort true true 0) 5 []) 0) 0x100000 8 = false) ∧
    (InRange (podded (aPort true true 0) 5 []) (partOf (podded (aPort true true 0) 5 []) 0) 0xFFFF8 8 ∧
      ¬ PoisonAt (podded (aPort true true 0) 5 []) 0xFFFF8 8 ∧ PoisonAt { Package.reset with memBad := [0x1FFFF] } 0xFFFF8 8) ∧
    ((∀ f, FlitComes (.flitForward 3 f) 3 f) ∧ FlitComes (.remoteRequestArrival 3 remoteRead) 3 (aFlit 0 0 (.request 5 4 0xFFFF8 (.read 8))) ∧
      AsksFor (.read 8) 8 ∧ AsksFor (.write [1] []) 1 ∧ AsksFor (.amo 0 4 0 0 0 0 0) 4) ∧
    (Carries windowed 3 0 ∧ inTier windowed 0x8FFFFFFFFF8 8 = true ∧ inPartition (partOf windowed 0) 0x8FFFFFFFFF8 8 = true ∧
      ∀ j < 8, Unwindowed windowed (0x8FFFFFFFFF8 + j)) ∧
    (¬ 1000 ≤ ((999 : BitVec 48) - BitVec.ofNat 48 0).toNat ∧ 1000 ≤ ((1000 : BitVec 48) - BitVec.ofNat 48 0).toNat) := by
  refine ⟨by decide +kernel, ⟨carries_podded _ rfl rfl _ _, by decide, by decide⟩,
    ⟨by unfold CarriesNothing; decide +kernel, by unfold CarriesNothing; decide +kernel, .inl (by decide)⟩,
    ⟨⟨0x11, by decide +kernel, by decide +kernel, by decide, by decide, by decide +kernel, by decide +kernel⟩,
      by unfold NoRoute; decide +kernel, by unfold NoRoute; decide +kernel⟩, by decide +kernel,
    ⟨⟨by decide +kernel, by decide +kernel, fun i hi => plain_of _ (by decide +kernel) (by omega)⟩, by unfold PoisonAt; decide +kernel,
      by unfold PoisonAt; decide +kernel⟩,
    ⟨fun _ => .inl rfl, .inr ⟨_, rfl, rfl⟩, .inl rfl, .inr (.inl ⟨_, _, rfl, rfl⟩), .inr (.inr ⟨_, _, _, _, _, _, rfl⟩)⟩,
    ⟨carries_windowed, by decide +kernel, by decide +kernel, by unfold Unwindowed; decide +kernel⟩, by decide⟩

def aPacket (stamp dest hops : Nat) : Packet :=
  { stamp := stamp, node := 2, seq := 1, part := 0, dest := dest, user := 0, x := 0, y := 0, payload := List.replicate 64 9, bad := [], hops := hops }
def aHeld (stamp : Nat) : Held := ⟨3, 0, none, aPacket stamp 0 0⟩
def anOutgoing : Outgoing := { core := 0, engine := 0, serial := 1, dests := [5], user := 0, payload := List.replicate 64 1, bad := [] }

/-- The same package with its mailbox pointer elsewhere, and with the line at 0 being copied. -/
def pointing (mbrptr : BitVec 64) (k : Package) : Package :=
  { k with parts := k.parts.setIfInBounds 0 { partOf k 0 with mbrptr := mbrptr } }
def moving (k : Package) : Package :=
  let m : Migration := { old := 0, new := 0x40000, lines := 2, p := 0, since := 0, en := true, done := false }
  { k with migrations := k.migrations.setIfInBounds 2 m }

theorem witness_WaggleRules :
    (let k := podded (aPort true true 8) 0 []
     Carries k 3 0 ∧ (portOf k 3).wag = true ∧ Bounds k 0 3 0 ∧ ∀ u, Bounds k 0 3 u → 0 ≤ u) ∧
    ((portOf (podded (aPort false true 8) 0 []) 3).wag = false ∧ 7 < (portOf (podded (aPort true true 8) 0 []) 3).received ∧
      (portOf (podded (aPort true false 8) 0 []) 3).joined = false) ∧
    ((aPacket 7 0 0).part ≠ 1 ∧ (aPacket 7 0 0).dest = (podded (aPort true true 8) 0 []).pnode.toNat ∧
      (aPacket 7 5 14).dest ≠ (podded (aPort true true 8) 0 []).pnode.toNat ∧
      share (partOf (podded (aPort true true 8) 0 (List.replicate 16 (aHeld 7))) 0) 3 = 16 ∧
      share (partOf (podded (aPort true true 8) 0 (List.replicate 15 (aHeld 7))) 0) 3 < 16 ∧
      NoSpace (partOf (podded (aPort true true 8) 0 (List.replicate 16 (aHeld 7))) 0) 3 ∧
      NoSpace { Partition.reset with held := List.replicate 256 { aHeld 7 with port := 5 } } 3 ∧
      ¬ NoSpace (partOf (podded (aPort true true 8) 0 (List.replicate 15 (aHeld 7))) 0) 3) ∧
    (RouteTo (podded (aPort true true 8) 0 []) 0 5 1 ∧ (portOf (podded (aPort true true 8) 0 []) 1).wag = true ∧
      NoRoute (podded (aPort true true 8) 0 []) 0 7 true) ∧
    (anOutgoing.dests.Nodup ∧ (podded (aPort true true 8) 0 []).pnode.toNat ∉ anOutgoing.dests ∧
      ∀ d ∈ anOutgoing.dests, d ≠ 0 → (portOf (podded (aPort true true 8) 0 []) 1).wag = true) ∧
    (Smallest (partOf (podded (aPort true true 8) 5000 [aHeld 7]) 0) (aHeld 7) ∧
      Passed (podded (aPort true true 8) 5000 [aHeld 7]) 0 7 ∧ ¬ Passed (podded (aPort true true 8) 5000 [aHeld 8]) 0 8) ∧
    (let k := podded (aPort true true 8) 5000 [aHeld 7]
     let q := partOf k 0
     InRange k q q.mbrptr.toNat 8 ∧ ¬ PoisonAt k q.mbrptr.toNat 8 ∧ Room q 0 (aPacket 7 0 0) ∧ ¬ Room { q with mbw := 63 } 0 (aPacket 7 0 0)) ∧
    ((∃ i < 8, InCopy (moving (podded (aPort true true 8) 5000 [aHeld 7])) (0 + i)) ∧
      Passed (moving (podded (aPort true true 8) 5000 [aHeld 7])) 0 7 ∧
      (∃ a ∈ recordBytes (partOf (podded (aPort true true 8) 0 []) 0) 128, InCopy (moving (podded (aPort true true 8) 0 [])) a)) ∧
    (let k := pointing 0x100000 (podded (aPort true true 8) 5000 [aHeld 7])
     Passed k 0 7 ∧ (∀ i < 8, Plain k (0x100000 + i)) ∧ inPartition (partOf k 0) 0x100000 8 = false) ∧
    (let k := pointing 0x80000000000 (podded (aPort true true 8) 5000 [aHeld 7])
     Passed k 0 7 ∧ ∀ i < 8, Unwindowed k (0x80000000000 + i)) ∧
    ((aHeld 7).sender = none ∧ ({ aHeld 7 with sender := some (0, 0, 1) } : Held).sender = some (0, 0, 1)) ∧
    ((let q := { Partition.reset with mbbase := 0x80000000000 }
      ∃ a ∈ recordBytes q 128, Unwindowed Package.reset a) ∧
      let q := { Partition.reset with stalled := true, stallCause := 1, stallPort := 3 }
      q.stalled = true ∧ q.stallCause = 1 ∧ (portOf Package.reset q.stallPort).wagReg = false ∧ ({ Port.reset with wagReg := true } : Port).wagReg = true) ∧
    ((64 : Nat) ∣ (aPacket 7 0 0).payload.length ∧ slotsFor (aPacket 7 0 0) ≤ 2 ^ Partition.reset.mbLog2n ∧
      (∀ a ∈ recordBytes (partOf (podded (aPort true true 8) 0 []) 0) 128, Plain (podded (aPort true true 8) 0 []) a ∧
        inTier (podded (aPort true true 8) 0 []) a 1 = true ∧ inPartition (partOf (podded (aPort true true 8) 0 []) 0) a 1 = true)) ∧
    (Late (podded (aPort true true 7) 100000 [aHeld 7]) 0 3 ∧ (∀ m < 3, ¬ Late (podded (aPort true true 7) 100000 [aHeld 7]) 0 m) ∧
      ∀ m, ¬ Late Package.reset 0 m) ∧
    (MailboxFits (podded (aPort true true 8) 0 []) (partOf (podded (aPort true true 8) 0 []) 0) ∧ ¬ MailboxFits Package.reset Partition.reset) := by
  refine ⟨⟨carries_podded _ rfl rfl _ _, by decide +kernel, .inl (by decide +kernel), fun _ _ => Nat.zero_le _⟩, by decide +kernel, by unfold NoSpace; decide +kernel,
    ⟨⟨0x11, by decide +kernel, by decide +kernel, by decide, by decide, by decide +kernel, by decide +kernel⟩, by decide +kernel,
      by unfold NoRoute; decide +kernel⟩,
    by decide +kernel, ⟨⟨by decide +kernel, by unfold KeyBelow; decide +kernel⟩, ⟨by decide +kernel, fun n h => ?_⟩, fun h => ?_⟩,
    ⟨⟨by decide +kernel, by decide +kernel, fun i hi => plain_of _ (by decide +kernel) ?_⟩, by unfold PoisonAt; decide +kernel,
      by unfold Room; decide +kernel, by unfold Room; decide +kernel⟩,
    ⟨⟨0, by decide, by unfold InCopy; decide +kernel⟩, ⟨by decide +kernel, fun n h => ?_⟩, 0, by decide +kernel, by unfold InCopy; decide +kernel⟩,
    ⟨⟨by decide +kernel, fun n h => ?_⟩, fun i hi => plain_of _ (by decide +kernel) (by omega), by decide +kernel⟩,
    ⟨⟨by decide +kernel, fun n h => ?_⟩, by unfold Unwindowed; decide +kernel⟩, ⟨rfl, rfl⟩,
    ⟨⟨0x80000000000, by decide +kernel, by unfold Unwindowed; decide +kernel⟩, by decide +kernel⟩,
    ⟨by decide, by decide, fun a ha => ⟨plain_of _ (by decide +kernel) ?_, ?_, ?_⟩⟩,
    ⟨⟨by unfold Input; decide +kernel, aHeld 7, by decide +kernel, by decide +kernel, by decide +kernel, by decide +kernel⟩, fun m hm h => ?_,
      fun m h => ?_⟩, by unfold MailboxFits; decide +kernel⟩
  · obtain ⟨hn, h⟩ := h
    revert n; decide +kernel
  · exact absurd (h.2 3 (by unfold Input; decide +kernel)) (by decide +kernel)
  · have : (partOf (podded (aPort true true 8) 5000 [aHeld 7]) 0).mbrptr.toNat = 0 := by decide +kernel
    omega
  · obtain ⟨hn, h⟩ := h
    revert n; decide +kernel
  · obtain ⟨hn, h⟩ := h
    revert n; decide +kernel
  · obtain ⟨hn, h⟩ := h
    revert n; decide +kernel
  · revert a; decide +kernel
  · revert a; decide +kernel
  · revert a; decide +kernel
  · have h' := h.1
    clear h
    unfold Input at h'
    revert m; decide +kernel
  · obtain ⟨_, x, hx, _⟩ := h
    rw [show (partOf Package.reset 0).held = [] by decide +kernel] at hx
    exact (List.not_mem_nil hx).elim

/-- An image of id 7 at page 4: region 0, start-resident, of one bundle of four nops, one entry point, and two bytes of data. -/
def imageBytes : List Host.Cell :=
  [(0x40000, 0x4B), (0x40001, 0x49), (0x40002, 0x4D), (0x40003, 0x47), (0x40005, 1), (0x40006, 7), (0x40008, 1), (0x4000C, 1),
    (0x40011, 1), (0x40019, 2), (0x40021, 3), (0x40028, 2), (0x40031, 4), (0x40039, 5), (0x40100, 3), (0x40104, 1), (0x40109, 6),
    (0x40300, 1), (0x40301, 2), (0x40603, 0x30), (0x40607, 0x30), (0x4060B, 0x30), (0x4060F, 0x30)]
def nops : Bundle := 0x30000000300000003000000030000000
def theImage : Image := { id := 7, nbv := 1, entries := [0], code := [(0, nops)], regions := [(0, true)], data := [1, 2] }
def imagePart : Partition := { mappedPart 3 with imgpa := 0x40000 }
def withImage (i : Option Image) : Package :=
  { Package.reset with mem := imageBytes, parts := Package.reset.parts.setIfInBounds 0 { imagePart with images := i.toList } }

theorem readable_of (pa n : Nat) (h0 : 0x40000 ≤ pa) (h1 : pa + n ≤ 0x41000) :
    Readable (withImage none) imagePart pa (bytesAt (withImage none) pa n) := by
  have len : (bytesAt (withImage none) pa n).length = n := by simp [bytesAt]
  refine ⟨by rw [len], fun i hi => ?_⟩
  rw [len] at hi
  obtain ⟨j, hj, e⟩ : ∃ j < 0x1000, pa + i = 0x40000 + j := ⟨pa + i - 0x40000, by omega, by omega⟩
  rw [e]
  refine ⟨?_, ?_, plain_of _ (by decide +kernel) (by omega), fun h => (List.not_mem_nil h).elim⟩
  · have : inHbm (0x40000 + j) = true := by unfold inHbm; simp; omega
    simp [inTier, rangeInMemory, rangeIn, this]
  · have h : (0x40000 + j) % 65536 + 1 ≤ 65536 ∧ (0x40000 + j) / 65536 = 4 := by omega
    unfold inPartition
    rw [h.2, show ceilDiv ((0x40000 + j) % 65536 + 1) 65536 = 1 by unfold ceilDiv; omega]
    decide +kernel

theorem witness_ImageAndRepairRules :
    CoresInOrder State.reset ∧
    (inPartition Partition.reset 0 1 = false ∧ ({ imagePart with imgCmd := some .load } : Partition).imgCmd = some .load ∧
      ({ imagePart with imgCmd := some (.unload 7) } : Partition).imgCmd = some (.unload 7) ∧ imagePart.imgCmd = none) ∧
    (Plain (withImage none) 0x40000 ∧ 0x40000 / 8 ∈ ({ withImage none with memBad := [0x8000] } : Package).memBad) ∧
    NativeImage (withImage none) imagePart imagePart.imgpa.toNat theImage ∧
    (InUse (tasked (taskWith [(0, 7)]) .running Partition.reset) 0 7 ∧ ¬ InUse { State.reset with pkg := withImage none } 0 7) ∧
    (((List.replicate 64 { theImage with id := 8 }).filter fun x => decide (x.id ≠ theImage.id)).length = 64 ∧
      ((withImage (some theImage)).parts[0].images.filter fun x => decide (x.id ≠ theImage.id)).length < 64) ∧
    (Repairs .hbmRowRepair 1 [3, 4] ∧ Repairs .superTierRemap 5 [5, 6]) ∧
    ((0x1510 : BitVec 64).getLsbD 4 = true ∧ (0x1501 : BitVec 64).getLsbD 4 = false ∧ Package.reset.repBusy = false) ∧
    (∃ p < 16, (partOf (withImage none) p).en = true) ∧ (∀ p < 16, (partOf Package.reset p).en = false) ∧
    (let e : LogEntry := { kind := 3, unit := 0, count := 1, addr := 0x15, time := 0 }
     Logged { Package.reset with log := { ErrorLog.reset with entries := [e] } } e ∧ e.kind ∈ [(3 : BitVec 8), 4] ∧
       e.addr.setWidth 56 = (0x1510 : BitVec 64).extractLsb' 8 56) := by
  refine ⟨by unfold CoresInOrder; decide +kernel, by decide +kernel, ⟨plain_of _ (by decide +kernel) (by decide), by decide⟩, ?_, ⟨?_, ?_⟩, by decide +kernel, ⟨.inl ⟨rfl, rfl, rfl⟩,
    .inr (.inr (.inr (.inr ⟨rfl, rfl, rfl⟩)))⟩, by decide, by decide +kernel, by decide +kernel, ⟨.inl (List.mem_singleton_self _), by decide, by decide⟩⟩
  · have code : ∀ g < 16, (fieldAt (bytesAt (withImage none) 0x40100 256) (16 * g) 1).testBit 0 = true → g = 0 := by decide +kernel
    have safe : ∀ pc b, (pc, b) ∈ theImage.code → ∀ x ∈ slotsOf b, ∀ m, liveMaskOf x.2.1 ≠ some m := by
      intro pc b hb x hx m hm
      obtain ⟨rfl, rfl⟩ := Prod.mk.inj (List.mem_singleton.1 hb)
      have all : ∀ x ∈ slotsOf nops, liveMaskOf x.2.1 = none := by decide +kernel
      rw [all x hx] at hm
      cases hm
    refine ⟨bytesAt (withImage none) 0x40000 256, bytesAt (withImage none) 0x40100 256, bytesAt (withImage none) 0x40200 2,
      [], bytesAt (withImage none) 0x40400 0, fun _ => bytesAt (withImage none) 0x40600 16, ?_⟩
    dsimp only
    refine ⟨readable_of _ _ (by decide) (by decide), ?_, ?_, ?_, ?_, ?_, ?_, ?_, ?_, ?_, ?_, ?_,
      readable_of 0x40100 256 (by decide) (by decide), ?_, readable_of 0x40200 2 (by decide) (by decide), ?_,
      readable_of 0x40300 2 (by decide) (by decide), ?_, ⟨rfl, nofun⟩, ?_,
      readable_of 0x40400 0 (by decide) (by decide), ?_, fun g hg hb => by
        obtain rfl := code g hg hb
        exact ⟨by decide +kernel, by decide +kernel, readable_of 0x40600 16 (by decide) (by decide), by decide +kernel⟩,
      ?_, rfl, ?_, ?_, ?_, ⟨false, ?_, ?_⟩,
      fun pc b hb x hx m hm => (safe pc b hb x hx m hm).elim⟩
    all_goals decide +kernel
  · exact .inl ⟨0, taskWith [(0, 7)], rfl, rfl, by decide +kernel⟩
  · rintro (⟨n, t, h, _⟩ | ⟨w, hw, _⟩)
    · by_cases hn : n = 0
      · subst hn
        have : (coreState { State.reset with pkg := withImage none } 0).task = none := rfl
        rw [this] at h
        exact absurd h (by simp)
      · have : coreState { State.reset with pkg := withImage none } n = Core.reset := if_neg hn
        rw [this] at h
        exact absurd h (by unfold Core.reset; simp)
    · rw [show (partOf ({ State.reset with pkg := withImage none } : State).pkg 0).waiting = [] by decide +kernel] at hw
      exact (List.not_mem_nil hw).elim

/-- A host's access to a register, and to memory by BAR4. -/
def anAccessTo (space : HostSpace) (op : HostOp) (fn offset : Nat) (wide : Bool) : HostReg := ⟨fn, offset, wide, space, op⟩
def hosted (write poisoned atomic : Bool) : HostAccess := { addr := 0xFFFFE, bytes := [1, 2], write := write, poisoned := poisoned, atomic := atomic }

theorem witness_ServiceRules :
    (Package.reset.powered = true ∧ (afresh Package.reset).powered = false ∧ (afresh Package.reset).booted = false ∧
      (afresh Package.reset).recovery = false ∧ Package.reset.trip = false ∧ ({ Package.reset with trip := true } : Package).trip = true) ∧
    ((⟨true, List.replicate 16 0, 5, [], 1536, [], []⟩ : BootInput).measurements.length = 16 ∧
      (⟨false, [], 5, [], 1536, [], []⟩ : BootInput).signaturesOk = false) ∧
    ({ Package.reset with recovery := true } : Package).recovery = true ∧
    (CoresInOrder State.reset ∧ (32767 : Nat) < 32768 ∧ 32768 ≤ (32768 : Nat)) ∧
    ((100 * 94 < 95 * 100) ∧ (100 < 101) ∧ (1024 : Nat) % 1024 = 0 ∧ (min 960 (0 + 64) = 0 ↔ ¬ (0 = 0))) ∧
    (((2 : BitVec 64).extractLsb' 0 2) ≠ 3 ∧ ∀ p < 16, (partOf Package.reset p).en = false) ∧
    ((94 : BitVec 8).toNat < Package.reset.warn.toNat ∧ Package.reset.warn.toNat ≤ (95 : BitVec 8).toNat ∧ Package.reset.warned = false) ∧
    (let k := fun t : MsixTable => { Package.reset with msix := Package.reset.msix.setIfInBounds 15 t }
     let t : MsixTable := { MsixTable.reset with en := true, hush := false, masks := 0 }
     LetsThrough (k t) 15 63 ∧ ¬ LetsThrough (k { t with masks := BitVec.allOnes 64 }) 15 63 ∧ ¬ LetsThrough (k { t with hush := true }) 15 63 ∧
       ({ t with en := false } : MsixTable).en = false) ∧
    ((anAccessTo .msix .write 15 0x3FC false).offset = 16 * 63 + 12 ∧ ∀ j < 64, (anAccessTo .msix .write 15 8 false).offset ≠ 16 * j + 12) ∧
    ((anAccessTo .config .read 0 0 false).space = .config ∧ Package.reset.booted = true) ∧
    ((anAccessTo .bar2 .write 3 0x7000 false).offset = 0x1000 * 7 ∧ ∀ n < 8, (anAccessTo .bar2 .write 3 0x8000 false).offset ≠ 0x1000 * n) ∧
    ((∀ row ∈ controlRead Package.reset, ReadsControl row.1 (anAccessTo .bar0 .read 0 row.1 true)) ∧
      (∀ o ∈ [0, 0x410, 0x2228, 0x11D0, 0x15F0, 0xFFF8], ReadsWindow 15 o (anAccessTo .bar0 .read 15 o true))) ∧
    ((anAccessTo .bar0 .read 0 0x60034 false).offset = 8 * 0xC006 + 4 ∧
      PkgTakes State.reset (.registerWrite (anAccessTo .bar0 .read 0 0x60030 true) 0)
        { Package.reset with completions := [⟨0, toBytes 8 0x600, false, .ok⟩] }) ∧
    (BarByte (partRanges (mappedPart 3)) 0 0 ∧ BarByte (partRanges (mappedPart 3)) 0xFFFFF 0xFFFFF ∧
      ∀ pa, ¬ BarByte (partRanges (mappedPart 3)) 0x100000 pa) ∧
    ((hosted false false false).bytes.length = [0xFFFFE, 0xFFFFF].length ∧ [0xFFFFE, 0xFFFFF].Nodup ∧
      (∀ x ∈ [0xFFFFE, 0xFFFFF], BarByte (partRanges (mappedPart 3)) x x ∧ Plain (mapped 3 0) x)) ∧
    (BarByte (partRanges (partOf windowed 0)) 0 0x80000000000 ∧ Unwindowed windowed 0x80000000000) := by
  have ranges : partRanges (mappedPart 3) = [(0, 0x100000)] := by decide +kernel
  have bar : ∀ x < 0x100000, BarByte (partRanges (mappedPart 3)) x x := by
    intro x hx
    rw [ranges]
    exact ⟨[], _, [], rfl, by simp, by simpa using hx, by simp⟩
  refine ⟨by decide +kernel, by decide, by decide, ⟨.nil, by decide, by decide⟩, by decide, by decide +kernel, by decide +kernel,
    by unfold LetsThrough; decide +kernel, by decide, by decide, by decide,
    ⟨fun row h => ⟨rfl, rfl, ?_, rfl, rfl, rfl, rfl⟩, by unfold ReadsWindow Window; decide⟩,
    ⟨by decide, by unfold PkgTakes; rfl⟩, ⟨bar _ (by decide), bar _ (by decide), fun pa => ?_⟩,
    ⟨rfl, by decide, fun x hx => ⟨bar x ?_, plain_of _ (by decide +kernel) ?_⟩⟩, ?_, by unfold Unwindowed; decide +kernel⟩
  · revert row; decide +kernel
  · rw [ranges]
    rintro ⟨pre, r, post, h, h1, h2, h3⟩
    have : pre = [] ∧ r = (0, 0x100000) := by
      cases pre with
      | nil => exact ⟨rfl, by simp at h; exact h.1.symm⟩
      | cons a t => simp at h
    obtain ⟨rfl, rfl⟩ := this
    simp at h2
  · revert x; decide
  · revert x; decide
  · rw [show partRanges (partOf windowed 0) = [(0x80000000000, 0x10000000000)] by decide +kernel]
    exact ⟨[], _, [], rfl, by decide, by decide, by decide⟩

theorem witness_DecodeAndEncodeAgree :
    (Instr.addi 12 2 0x7FD none).wf = true ∧ encode (.addi 12 2 0x7FD none) = some (0x118107FD, none) ∧
    decode 0x118107FD none = .ok (.addi 12 2 0x7FD none) := by decide

theorem witness_StepsKeepTheCanonicalForm : Canonical State.reset ∧ ∃ t, Machine.step State.reset = .next t :=
  ⟨by unfold Canonical CoresInOrder; decide +kernel, _, rfl⟩

/-! ## Values from the manual's worked examples

Each expected result is the manual's own; the comment names the example. -/

-- R111's example: A = −7, B = 2.
def divisor : Core → Core := withX [(1, 0xFFFFFFFFFFFFFFF9), (2, 2)]
theorem test_div : results divisor (.div 3 1 2 0) = [0xFFFFFFFFFFFFFFFD] := by decide +kernel
theorem test_rem : results divisor (.rem 3 1 2 0) = [0xFFFFFFFFFFFFFFFF] := by decide +kernel
theorem test_divn : results divisor (.divn 3 1 2 0) = [0x7FFFFFFFFFFFFFFC] := by decide +kernel
theorem test_remn : results divisor (.remn 3 1 2 0) = [1] := by decide +kernel
-- R111's table: a division by 0, and the most negative number by −1.
theorem test_div_by_zero : results divisor (.div 3 1 0 0) = [0xFFFFFFFFFFFFFFFF] := by decide +kernel
theorem test_div_wraps : results (withX [(1, 0x8000000000000000), (2, 0xFFFFFFFFFFFFFFFF)]) (.div 3 1 2 0) = [0x8000000000000000] := by
  decide +kernel
-- R115's examples of 64-bit constants.
theorem test_li_lend : results id (.li 5 0xA2B3C (some 0x091)) = [0x091A2B3C] := by decide +kernel
theorem test_lic_lend : results (withX [(5, 0x091A2B3C)]) (.lic 5 0xBCDEF (some 0x09A)) = [0x0123456789ABCDEF] := by decide +kernel
theorem test_lic_top : results (withX [(5, 0x3F6E5D4C3)]) (.lic 5 0x43210 (some 0x165)) = [0x7EDCBA9876543210] := by decide +kernel
-- R54 and R55's example: KEY 1, STEP 0, address 0 give 0x688990; binary32 values that stochastic rounding takes to bfloat16.
theorem test_generator : gen 1 0 0 = 0x688990 := by decide +kernel
theorem test_stochastic_down : (convertOp (.ieee 8 7) (.ieee 8 23) { rm := 5, r := 0x688990 } false 0x3F808000).bits = 0x3F80 := by decide +kernel
theorem test_stochastic_up : (convertOp (.ieee 8 7) (.ieee 8 23) { rm := 5, r := 0x688990 } false 0xBF80C000).bits = 0xBF81 := by decide +kernel
-- R57's example: a NaN narrowed to bfloat16 and to binary16.
theorem test_nan_to_bfloat16 : (convertOp (.ieee 8 7) (.ieee 8 23) { rm := 0, r := 0 } false 0x7FC12345).bits = 0x7FC1 := by decide +kernel
theorem test_nan_to_binary16 : (convertOp (.ieee 5 10) (.ieee 8 23) { rm := 0, r := 0 } false 0x7FC12345).bits = 0x7E09 := by decide +kernel
-- R41's table and R43's example for T8 with es 1: 3.0 and NaR; 1000 by RNE, RTZ, RUP and RDN.
theorem test_taper_value : decodeNum (.taper 8 1) 0x58 = .fin false 24 (-3) ∧ decodeNum (.taper 8 1) 0x80 = .nar := by decide +kernel
theorem test_taper_rounds : ([0, 1, 2, 3].map fun rm => (roundExact (.taper 8 1) rm false 0 { neg := false, m := 1000, e := 0, sticky := false }).bits) =
    [0x7E, 0x7D, 0x7E, 0x7D] := by decide +kernel
-- R110: a sum modulo 2^64.
theorem test_add_wraps : results (withX [(1, 0xFFFFFFFFFFFFFFFF), (2, 2)]) (.add 3 1 2 0) = [1] := by decide +kernel
-- The example after R168: a compare of eight 32-bit lanes, and R163's compress.
def lanes : BitVec 1024 := 0x00000004FFFFFFFF00000003FFFFFFF70000000700000000FFFFFFFE00000005
theorem test_vcmp : results (withV [(1, lanes)]) (.vcmp 0 1 1 0 2 0x100) = [0xA9] := by decide +kernel
theorem test_vcmpr : results (fun c => withV [(1, lanes)] { c with m := c.m.setIfInBounds 1 0xA9 }) (.vcmpr 0 2 1 2 0x009) =
    [0x00000004000000030000000700000005] := by decide +kernel
-- R280's example: a stochastic atomic, and its finite overflow.
theorem test_addsr : amoNew .addsr 16 0x0001000000000000 0x3F80 0x3BC00000 0 0 0 = 0x3F81 ∧
    amoNew .addsr 16 0x0001000000000000 0x3F80 0x3B800000 0 0 0 = 0x3F80 ∧
    amoNew .addsr 16 0x0001000000000000 0x7F80 0xFF800000 0 0 0 = 0x7FC0 := by decide +kernel
-- R313's example: the row statistics of a bank.
theorem test_row_sum : rowStatistic 1 4 [{ x := 2 ^ 544, status := 0 }, { x := 2 ^ 520, status := 0 }, { x := 2 ^ 520, status := 0 }] =
    { bits := 0x3F800001, flags := 0 } ∧
    (rowStatistic 2 4 [{ x := 2 ^ 544, status := 0 }, { x := 2 ^ 520, status := 0 }, { x := 2 ^ 520, status := 0 }]).bits = 0x3F800000 := by
  decide +kernel
-- R339's example: the offset dx +3, dy −1 of a remote write.
theorem test_packed_offset : packedOffset 0xFF03 = some (3, -1) := by decide +kernel
-- R208, R430, R350, R410, R411: registers as the tables give their reset values, through the physical function's BAR0.
theorem test_host_reads : hostRead State.reset (anAccessTo .bar0 .read 0 0x60028 true) = some 0x5F00 ∧ hostRead State.reset (anAccessTo .bar0 .read 0 0x2001008 true) = some 4 ∧
    hostRead State.reset (anAccessTo .bar0 .read 0 0x60030 false) = some 0x600 ∧ hostRead State.reset (anAccessTo .bar0 .read 3 0x2208 true) = some 0xFFFF0006 ∧
    hostRead State.reset (anAccessTo .bar0 .read 3 0x12000 true) = some 0 ∧ hostRead State.reset (anAccessTo .bar0 .read 0 0x60029 true) = some 0 := by decide +kernel
-- R351: the summary and the S entry of a stop record.
theorem test_stop_record_words :
    recordWord { StopRecord.reset with valid := true, held := true, streams := 1, code := 0x14 } 0 = 0x14000D ∧
    recordWord { StopRecord.reset with streams := 1, pc := 0x123, slotMask := 2, slotCodes := 0x1400 } 8 = 0x140020000123 := by
  decide +kernel

end Sys2Proof.Tests
end

section
/-!
The canonical form of memory, of every comb and of the list of cores (R4, R226; log entry 3): what each operation on a core, on the
package and on the state leaves of it, and that every step keeps it.
-/

namespace Sys2Proof.Machine

/-! ## What leaves the comb of a core as it is -/

@[simp] theorem pruneTlb_comb (c : Core) : (pruneTlb c).comb = c.comb := rfl
@[simp] theorem settleCells_comb (c : Core) : (settleCells c).comb = c.comb := by unfold settleCells; rfl
@[simp] theorem onCommand_comb (n : Nat) (f : Command → Command) (c : Core) : (onCommand n f c).comb = c.comb := rfl
@[simp] theorem dropCommand_comb (n : Nat) (c : Core) : (dropCommand n c).comb = c.comb := rfl
@[simp] theorem applyCommand_comb (k : Command) (c : Core) : (applyCommand k c).comb = c.comb := by
  unfold applyCommand
  split <;> rfl
@[simp] theorem delayArray_comb (c : Core) : (delayArray c).comb = c.comb := rfl
@[simp] theorem joinStop_comb (f : Stop → Stop) (c : Core) : (joinStop f c).comb = c.comb := rfl
@[simp] theorem haltCore_comb (c : Core) : (haltCore c).comb = c.comb := by
  unfold haltCore
  split <;> rfl
@[simp] theorem countCycle_comb (c : Core) : (countCycle c).comb = c.comb := rfl
@[simp] theorem bundleFault_comb (code : BitVec 8) (a : BitVec 64) (c : Core) : (bundleFault code a c).comb = c.comb := by
  simp [bundleFault]
@[simp] theorem slotsFault_comb (fs : List SlotFault) (c : Core) : (slotsFault fs c).comb = c.comb := by
  simp [slotsFault]
@[simp] theorem eventFreeze_comb (c : Core) : (eventFreeze c).comb = c.comb := rfl
@[simp] theorem scoreboardFreeze_comb (b : Bool) (c : Core) : (scoreboardFreeze b c).comb = c.comb := by
  unfold scoreboardFreeze
  cases b <;> rfl
@[simp] theorem advancePc_comb (s : State) (c : Core) : (advancePc s c).comb = c.comb := rfl
@[simp] theorem endCore_comb (st : BitVec 8) (c : Core) : (endCore st c).comb = c.comb := rfl
@[simp] theorem sealLimits_comb (n : Nat) (c : Core) : (sealLimits n c).comb = c.comb := rfl
@[simp] theorem takeTrap_comb (pc : BitVec 12) (c : Core) : (takeTrap pc c).comb = c.comb := by simp [takeTrap]
@[simp] theorem joinTrap_comb (c : Core) : (joinTrap c).comb = c.comb := by
  unfold joinTrap
  split <;> rfl
@[simp] theorem stopIfFaulted_comb (c : Core) : (stopIfFaulted c).comb = c.comb := by
  unfold stopIfFaulted
  split <;> simp
@[simp] theorem drainingCycle_comb (k : Package) (c : Core) : (drainingCycle k c).comb = c.comb := by
  unfold drainingCycle
  split
  · rfl
  · simp only [stopIfFaulted_comb, joinTrap_comb]
    split <;> rfl
@[simp] theorem settlingCycle_comb (k : Package) (c : Core) : (settlingCycle k c).comb = c.comb := by
  unfold settlingCycle
  split <;> rfl
@[simp] theorem onAccess_comb (n : Nat) (f : Access → Access) (c : Core) : (onAccess n f c).comb = c.comb := rfl
@[simp] theorem dropAccess_comb (n : Nat) (c : Core) : (dropAccess n c).comb = c.comb := rfl
@[simp] theorem deliver_comb (n v : Nat) (b : Bool) (c : Core) : (deliver n v b c).comb = c.comb := rfl
@[simp] theorem recheckEarly_comb (k : Package) (a : Access) (c : Core) : (recheckEarly k a c).comb = c.comb := by
  unfold recheckEarly
  split <;> rfl
@[simp] theorem reportFault_comb (a : Access) (c : Core) : (reportFault a c).comb = c.comb := by
  unfold reportFault
  split <;> simp
@[simp] theorem answer_comb (a : Access) (r : Option Reply) (c : Core) : (answer a r c).comb = c.comb := by
  unfold answer
  split <;> simp
@[simp] theorem revokePages_comb (first count : Nat) (c : Core) : (revokePages first count c).comb = c.comb := rfl
@[simp] theorem refreshPages_comb (k : Package) (p first count : Nat) (c : Core) :
    (refreshPages k p first count c).comb = c.comb := rfl
@[simp] theorem finishWalk_comb (k : Package) (c : Core) : (finishWalk k c).comb = c.comb := rfl
@[simp] theorem dropDraws_comb (d : Nat) (c : Core) : (dropDraws d c).comb = c.comb := rfl
@[simp] theorem streamFault_comb (e : Nat) (f : StreamFault) (c : Core) : (streamFault e f c).comb = c.comb := by
  simp [streamFault]
@[simp] theorem clearRetries_comb (e : Nat) (c : Core) : (clearRetries e c).comb = c.comb := by
  unfold clearRetries
  dsimp only
  split
  · rfl
  · split <;> rfl
@[simp] theorem takeAnswer_comb (e cycle : Nat) (c : Core) : (takeAnswer e cycle c).comb = c.comb := by simp [takeAnswer]
@[simp] theorem onStream_comb (d : Nat) (f : Stream → Stream) (c : Core) : (onStream d f c).comb = c.comb := rfl
@[simp] theorem freshState_comb (d : Nat) (r : StreamResult) (c : Core) : (freshState d r c).comb = c.comb := by
  unfold freshState
  split <;> rfl
@[simp] theorem placeTable_comb (n : Nat) (t : DecTable) (c : Core) : (placeTable n t c).comb = c.comb := rfl
@[simp] theorem loadRegion_comb (m : Command) (c : Core) : (loadRegion m c).comb = c.comb := by unfold loadRegion; rfl
@[simp] theorem completeCopy_comb (m : Command) (c : Core) : (completeCopy m c).comb = c.comb := by
  simp only [completeCopy, settleCells_comb, dropCommand_comb]
  split <;> simp
@[simp] theorem ackCopy_comb (node n : Nat) (c : Core) : (ackCopy node n c).comb = c.comb := rfl
@[simp] theorem copyAcked_comb (k : Package) (i : Nat) (m : Command) (c : Core) : (copyAcked k i m c).comb = c.comb := by
  unfold copyAcked
  split
  · split <;> simp
  · rfl
@[simp] theorem resumeCore_comb (c : Core) : (resumeCore c).comb = c.comb := rfl
@[simp] theorem countResumption_comb (c : Core) : (countResumption c).comb = c.comb := rfl
@[simp] theorem relieve_comb (c : Core) : (relieve c).comb = c.comb := rfl
@[simp] theorem withHandles_comb (b : List (Nat × Handle) × List TlbEntry) (c : Core) : (withHandles b c).comb = c.comb := rfl
@[simp] theorem placeRegion_comb (i : Image) (p r : Nat) (c : Core) : (placeRegion i p r c).comb = c.comb := by
  unfold placeRegion
  dsimp only
  split <;> rfl
@[simp] theorem markStore_comb (file n : Nat) (c : Core) : (markStore file n c).comb = c.comb := by
  unfold markStore
  split <;> rfl
@[simp] theorem restoreDecoder_comb (b : Bool) (bs : List Byte) (c : Core) : (restoreDecoder b bs c).comb = c.comb := rfl

/-- A system register is no part of the comb. -/
@[simp] theorem sysWrite_comb (n : Nat) (v : XWord) (c : Core) : (sysWrite n v c).comb = c.comb := by
  simp only [sysWrite, apply_ite Core.comb, ite_self]

/-- Changes that each leave the comb leave it all together. -/
theorem foldl_comb {α : Type} {f : Core → α → Core} (hf : ∀ c x, (f c x).comb = c.comb) (l : List α) (c : Core) :
    (l.foldl f c).comb = c.comb :=
   List.foldlRecOn l f (motive := fun d => d.comb = c.comb) rfl fun d hd x _ => (hf d x).trans hd

@[simp] theorem landResult_comb (l : Landing) (c : Core) : (landResult l c).comb = c.comb := by
  unfold landResult
  split <;> simp
@[simp] theorem landResults_comb (c : Core) : (landResults c).comb = c.comb := by
  unfold landResults
  split
  · rfl
  · exact foldl_comb (fun c l => landResult_comb l c) _ _
@[simp] theorem matrixFault_comb (code : BitVec 8) (b : BusyOp) (c : Core) : (matrixFault code b c).comb = c.comb := by
  simp only [matrixFault]
  split <;> simp
@[simp] theorem matrixAdvance_comb (c : Core) (cycle : Nat) : (matrixAdvance c cycle).comb = c.comb := by
  unfold matrixAdvance
  split
  · rfl
  · dsimp only
    split_ifs <;> rfl
@[simp] theorem discardFrom_comb (e n : Nat) (c : Core) : (discardFrom e n c).comb = c.comb :=
  foldl_comb (fun c n => dropCommand_comb n c) _ _
@[simp] theorem commandFault_comb (e : Nat) (code : BitVec 8) (cause : BitVec 4) (m : Command) (a : BitVec 64) (c : Core) :
    (commandFault e code cause m a c).comb = c.comb := by
  unfold commandFault
  split <;> simp
@[simp] theorem requestFault_comb (k : Package) (e : Nat) (code : BitVec 8) (cause : BitVec 4) (m : Command) (q : Request)
    (c : Core) : (requestFault k e code cause m q c).comb = c.comb := by
  unfold requestFault
  split <;> simp
@[simp] theorem plainFault_comb (e : Nat) (code : BitVec 8) (cause : BitVec 4) (m : Command) (c : Core) :
    (plainFault e code cause m c).comb = c.comb := by
  unfold plainFault
  split
  · rfl
  · rw [commandFault_comb]
    split <;> rfl
@[simp] theorem sendRequest_comb (e cycle : Nat) (m : Command) (c : Core) : (sendRequest e cycle m c).comb = c.comb := by
  unfold sendRequest
  split
  · rfl
  · split <;> simp
@[simp] theorem decoderFault_comb (code : BitVec 8) (pc : BitVec 12) (d : Nat) (c : Core) :
    (decoderFault code pc d c).comb = c.comb := by
  simp only [decoderFault]
  split <;> simp
@[simp] theorem decodeCycle_comb (cycle d : Nat) (c : Core) : (decodeCycle cycle d c).comb = c.comb := by
  unfold decodeCycle
  dsimp only
  split
  · rfl
  · split
    · rfl
    · split
      · simp
      · split <;> simp
@[simp] theorem restartCycle_comb (cycle d : Nat) (c : Core) : (restartCycle cycle d c).comb = c.comb := by
  unfold restartCycle
  dsimp only
  split
  · rfl
  · split
    · rfl
    · split
      · rfl
      · split
        · simp
        · split <;> simp
@[simp] theorem settleStream_comb (m : Command) (r : StreamResult) (c : Core) : (settleStream m r c).comb = c.comb := by
  simp only [settleStream]
  split <;> simp
@[simp] theorem discardFaulted_comb (p : Stop) (c : Core) : (discardFaulted p c).comb = c.comb := by
  have dropped : ∀ (l : List Nat) (c : Core), (l.foldl (fun c n => dropCommand n c) c).comb = c.comb :=
    foldl_comb fun c n => dropCommand_comb n c
  unfold discardFaulted
  dsimp only
  split
  all_goals
    simp only [dropDraws_comb, discardQueue, discardFrom_comb]
    split_ifs <;> simp only [dropped, discardFrom_comb]
@[simp] theorem endFatally_comb (p : Stop) (c : Core) : (endFatally p c).comb = c.comb := by simp [endFatally]
@[simp] theorem endHeld_comb (code : BitVec 8) (c : Core) : (endHeld code c).comb = c.comb :=
  foldl_comb (fun c (m : Command) => dropCommand_comb m.serial c) _ _
@[simp] theorem rebindHandles_comb (k : Package) (p : Nat) (bs : List Byte) (c : Core) : (rebindHandles k p bs c).comb = c.comb := by
  refine foldl_comb (fun c i => ?_) _ _
  dsimp only
  split
  · rfl
  · split <;> rfl
@[simp] theorem restoreSection_comb (bs : List Byte) (bit : Nat) (c : Core) : (restoreSection bs bit c).comb = c.comb := by
  unfold restoreSection
  dsimp only
  split_ifs <;> rfl
@[simp] theorem restoreRegisters_comb (n : Nat) (bs : List Byte) (c : Core) : (restoreRegisters n bs c).comb = c.comb := by
  refine foldl_comb (fun c r => ?_) _ _
  dsimp only
  split_ifs
  all_goals first | rfl | exact sysWrite_comb _ _ _

/-! ## What starts the comb afresh -/

@[simp] theorem freeCore_comb (c : Core) : (freeCore c).comb = [] := rfl
@[simp] theorem taskStartState_comb (k : Package) (t : Task) (c : Core) : (taskStartState k t c).comb = [] := rfl

theorem spoilComb_wf (n draw : Nat) (c : Core) : Memory.wf (spoilComb n draw c).comb = true := by
  unfold spoilComb
  dsimp only
  exact setBytes_wf (by decide)

/-! ## What stores into the comb -/

theorem applyEffect_wf {b : BusyOp} {c : Core} (h : Memory.wf c.comb = true) (e : BusyEffect) :
    Memory.wf (applyEffect b c e).comb = true := by
  cases e with
  | comb lo bs => exact setBytes_wf h
  | latches page first vals rowsA rowsB =>
    simp only [applyEffect]
    split <;> exact h
  | _ => exact h

/-- Changes that each keep the comb in canonical form keep it so all together. -/
theorem foldl_comb_wf {α : Type} {f : Core → α → Core}
    (hf : ∀ c x, Memory.wf c.comb = true → Memory.wf (f c x).comb = true) (l : List α) {c : Core}
    (h : Memory.wf c.comb = true) : Memory.wf (l.foldl f c).comb = true :=
  List.foldlRecOn l f (motive := fun d => Memory.wf d.comb = true) h fun d hd x _ => hf d x hd

theorem endBusy_wf {b : BusyOp} {c : Core} (h : Memory.wf c.comb = true) : Memory.wf (endBusy b c).comb = true := by
  have effects : Memory.wf (b.effects.foldl (applyEffect b) c).comb = true :=
    foldl_comb_wf (fun _ e hc => applyEffect_wf hc e) _ h
  simp only [endBusy]
  split_ifs <;> simpa only [matrixFault_comb] using effects

theorem endBusyStates_wf {c : Core} (h : Memory.wf c.comb = true) : Memory.wf (endBusyStates c).comb = true := by
  unfold endBusyStates
  split
  · exact h
  · exact foldl_comb_wf (fun _ _ hc => endBusy_wf hc) _ h

theorem fillComb_wf {lo : Nat} {bs : List Byte} {bad : List Bool} {c : Core} (h : Memory.wf c.comb = true) :
    Memory.wf (fillComb lo bs bad c).comb = true := setBytes_wf h

theorem takeData_wf {m : Command} {q : Request} {bs : List Byte} {bad : List Bool} {c : Core}
    (h : Memory.wf c.comb = true) : Memory.wf (takeData m q bs bad c).comb = true := by
  unfold takeData
  dsimp only
  split
  · exact h
  · exact h
  · rw [onCommand_comb]
    exact fillComb_wf h

theorem saveImage_wf {c c' : Core} {st : Stream} {cell off : Nat} (h : Memory.wf c.comb = true)
    (hs : saveImage c st cell off = .ok c') : Memory.wf c'.comb = true := by
  simp only [saveImage] at hs
  split at hs
  · cases hs
    exact fillComb_wf h
  · cases hs

theorem completeDecoder_wf {m : Command} {c : Core} (h : Memory.wf c.comb = true) :
    Memory.wf (completeDecoder m c).comb = true := by
  unfold completeDecoder
  dsimp only
  split
  case h_1 => split <;> simpa using h
  case h_4 =>
    split
    · next heq =>
      split at heq
      · cases heq
      · rw [dropCommand_comb]
        exact saveImage_wf h heq
    · simpa using h
  all_goals simpa using h

theorem loadTask_wf {k : Package} {t : Task} {c : Core} (h : Memory.wf c.comb = true) :
    Memory.wf (loadTask k t c).comb = true := by
  unfold loadTask
  split
  · exact h
  · exact setBytes_wf rfl

theorem restoreCells_wf {bs : List Byte} {c : Core} (h : Memory.wf c.comb = true) :
    Memory.wf (restoreCells bs c).comb = true := by
  unfold restoreCells
  dsimp only
  refine List.foldlRecOn _ _ (motive := fun (acc : Nat × Core) => Memory.wf acc.2.comb = true) h fun acc hacc x _ => ?_
  split
  · exact hacc
  · exact setBytes_wf hacc

theorem restoreCore_wf {k : Package} {n : Nat} {t : Task} {bs : List Byte} {c : Core} (h : Memory.wf c.comb = true) :
    Memory.wf (restoreCore k n t bs c).comb = true := by
  unfold restoreCore
  extract_lets mask size sections bytesOf bound placed restored registers pt resumed celled
  have hbound : bound.comb = c.comb := by
    simp only [bound]
    split <;> simp
  have hplaced : placed.comb = c.comb := by
    simp only [placed]
    split
    · exact (foldl_comb (fun c r => placeRegion_comb _ _ r c) _ _).trans hbound
    · exact hbound
  have hresumed : resumed.comb = c.comb :=
    (restoreRegisters_comb n bs restored).trans
      ((foldl_comb (fun c (x : Nat × List Byte) => restoreSection_comb x.2 x.1 c) _ _).trans hplaced)
  have hcelled : Memory.wf celled.comb = true := by
    rw [← hresumed] at h
    simp only [celled]
    split
    · exact restoreCells_wf h
    · exact h
  split
  · simpa using hcelled
  · exact hcelled

end Sys2Proof.Machine
end

section
namespace Sys2Proof.Machine

/-! ## What leaves memory as it is -/

/-- Changes that each leave memory leave it all together. -/
theorem foldl_mem {α : Type} {f : Package → α → Package} (hf : ∀ k x, (f k x).mem = k.mem) (l : List α) (k : Package) :
    (l.foldl f k).mem = k.mem :=
  List.foldlRecOn l f (motive := fun g => g.mem = k.mem) rfl fun g hg x _ => (hf g x).trans hg

@[simp] theorem onPart_mem (n : Nat) (f : Partition → Partition) (k : Package) : (onPart n f k).mem = k.mem := rfl
@[simp] theorem onPort_mem (n : Nat) (f : Port → Port) (k : Package) : (onPort n f k).mem = k.mem := rfl
@[simp] theorem onMigration_mem (n : Nat) (f : Migration → Migration) (k : Package) : (onMigration n f k).mem = k.mem := rfl
@[simp] theorem onFrame_mem (n : Nat) (f : Frame → Frame) (k : Package) : (onFrame n f k).mem = k.mem := rfl
@[simp] theorem onAperture_mem (n : Nat) (f : Aperture → Aperture) (k : Package) : (onAperture n f k).mem = k.mem := rfl
@[simp] theorem onWrite_mem (id : Nat) (st : WriteState) (k : Package) : (onWrite id st k).mem = k.mem := rfl
@[simp] theorem countDiscard_mem (n : Nat) (k : Package) : (countDiscard n k).mem = k.mem := rfl
@[simp] theorem sendFlit_mem (part dest : Nat) (b : BulkBody) (k : Package) : (sendFlit part dest b k).mem = k.mem := by
  unfold sendFlit
  split <;> rfl
@[simp] theorem sendRequests_mem (part id : Nat) (ps : List Place) (ask : RemoteRun → RemoteKind) (k : Package) :
    (sendRequests part id ps ask k).mem = k.mem := foldl_mem (fun k _ => sendFlit_mem part _ _ k) _ _
@[simp] theorem acceptCard_mem (part : Nat) (w : List XWord) (ring : Nat) (o : Origin) (by' : Option Nat)
    (poster : Option (Nat × Nat)) (g : Option Nat) (place : Card → List Card → List Card) (k : Package) :
    (acceptCard part w ring o by' poster g place k).mem = k.mem := rfl
@[simp] theorem acceptPosted_mem (n : Nat) (t : Task) (w : List XWord) (o : Origin) (k : Package) :
    (acceptPosted n t w o k).mem = k.mem := rfl
@[simp] theorem sendArrival_mem (n part group : Nat) (k : Package) : (sendArrival n part group k).mem = k.mem := rfl
@[simp] theorem raiseVector_mem (fn v : Nat) (k : Package) : (raiseVector fn v k).mem = k.mem := by
  unfold raiseVector
  dsimp only
  split
  · rfl
  · split <;> rfl
@[simp] theorem logError_mem (part : Option Nat) (kind unit : BitVec 8) (a : BitVec 64) (k : Package) :
    (logError part kind unit a k).mem = k.mem := by
  unfold logError
  dsimp only
  split <;> simp
@[simp] theorem startMigration_mem (n : Nat) (k : Package) : (startMigration n k).mem = k.mem := by
  unfold startMigration
  split <;> rfl
@[simp] theorem askFor_mem (part : Nat) (m : Command) (q : Request) (k : Package) : (askFor part m q k).mem = k.mem := by
  simp [askFor]
@[simp] theorem leaveFrames_mem (n serial : Nat) (k : Package) : (leaveFrames n serial k).mem = k.mem := rfl
@[simp] theorem sendContribution_mem (part : Nat) (m : Command) (bs : List Byte) (bad : List Bool) (k : Package) :
    (sendContribution part m bs bad k).mem = k.mem := foldl_mem (fun k _ => sendFlit_mem part _ _ k) _ _
@[simp] theorem noteTaker_mem (i : CollItem) (rank : Nat) (k : Package) : (noteTaker i rank k).mem = k.mem := rfl
@[simp] theorem sendBack_mem (w : RemoteWrite) (b : Bool) (cycle : Nat) (k : Package) : (sendBack w b cycle k).mem = k.mem := rfl
@[simp] theorem delayFlits_mem (w : RemoteWrite) (k : Package) : (delayFlits w k).mem = k.mem := rfl
@[simp] theorem dropRecord_mem (part q : Nat) (k : Package) : (dropRecord part q k).mem = k.mem := rfl
@[simp] theorem resetWatchdog_mem (part ring : Nat) (k : Package) : (resetWatchdog part ring k).mem = k.mem := rfl
@[simp] theorem checkReady_mem (part : Nat) (k : Package) : (checkReady part k).mem = k.mem := by
  refine foldl_mem (fun k w => ?_) _ _
  split
  · rfl
  · split <;> rfl
@[simp] theorem advanceRing_mem (part n : Nat) (k : Package) : (advanceRing part n k).mem = k.mem := rfl
@[simp] theorem launchGraph_mem (part ring : Nat) (w : List XWord) (cards : List (List XWord)) (k : Package) :
    (launchGraph part ring w cards k).mem = k.mem :=
  foldl_mem (fun k c => acceptCard_mem part c ring _ _ _ _ _ k) _ _
@[simp] theorem createPartition_mem (n : Nat) (k : Package) : (createPartition n k).mem = k.mem := rfl
@[simp] theorem writeApcfg_mem (n : Nat) (v : BitVec 64) (k : Package) : (writeApcfg n v k).mem = k.mem := by
  unfold writeApcfg
  dsimp only
  split <;> rfl
@[simp] theorem podInterrupt_mem (part : Nat) (k : Package) : (podInterrupt part k).mem = k.mem := raiseVector_mem _ _ _
@[simp] theorem passTime_mem (k : Package) : (passTime k).mem = k.mem := by
  unfold passTime
  dsimp only
  split
  · split <;> rfl
  · rfl
@[simp] theorem trainPort_mem (n : Nat) (t : BitVec 48) (l : BitVec 4) (k : Package) : (trainPort n t l k).mem = k.mem := by
  unfold trainPort
  split <;> rfl
@[simp] theorem exchangeTime_mem (n : Nat) (t : BitVec 48) (k : Package) : (exchangeTime n t k).mem = k.mem := by
  unfold exchangeTime
  extract_lets p far count aligned late
  split
  · rfl
  · split
    · rfl
    · split <;> simp [late, aligned]
@[simp] theorem takeWag_mem (n : Nat) (k : Package) : (takeWag n k).mem = k.mem := rfl
@[simp] theorem recordStall_mem (part port cause : Nat) (k : Package) : (recordStall part port cause k).mem = k.mem := by
  simp [recordStall]
@[simp] theorem suspend_mem (part port cause : Nat) (k : Package) : (suspend part port cause k).mem = k.mem := by
  unfold suspend
  split <;> simp
@[simp] theorem sendWatermark_mem (part n : Nat) (k : Package) : (sendWatermark part n k).mem = k.mem := rfl
@[simp] theorem regression_mem (part n : Nat) (k : Package) : (regression part n k).mem = k.mem := by simp [regression]
@[simp] theorem receiveWatermark_mem (n v : Nat) (k : Package) : (receiveWatermark n v k).mem = k.mem := by
  unfold receiveWatermark
  split
  · rfl
  · dsimp only
    split_ifs <;> simp
@[simp] theorem holdPacket_mem (part port : Nat) (sender : Option (Nat × Nat × Nat)) (w : Packet) (k : Package) :
    (holdPacket part port sender w k).mem = k.mem := rfl
@[simp] theorem queuePacket_mem (out : Nat) (w : Packet) (k : Package) : (queuePacket out w k).mem = k.mem := rfl
@[simp] theorem receivePacket_mem (n : Nat) (w : Packet) (k : Package) : (receivePacket n w k).mem = k.mem := by
  unfold receivePacket
  split
  · rfl
  · extract_lets p check
    have hcheck : ∀ g, (check g).mem = g.mem := fun g => by
      simp only [check]
      split <;> simp
    split
    · rfl
    · split
      · rfl
      · split
        · split
          · rfl
          · exact hcheck _
        · split
          · rfl
          · exact hcheck _
@[simp] theorem sendCopy_mem (part : Nat) (o : Outgoing) (node : Nat) (k : Package) : (sendCopy part o node k).mem = k.mem := by
  unfold sendCopy
  dsimp only
  split
  · rfl
  · split <;> rfl
@[simp] theorem injectPacket_mem (part : Nat) (k : Package) : (injectPacket part k).mem = k.mem := by
  unfold injectPacket
  dsimp only
  split
  · rfl
  · split
    · rfl
    · exact foldl_mem (fun k n => sendCopy_mem part _ n k) _ _
@[simp] theorem beginDelivery_mem (part draw : Nat) (k : Package) : (beginDelivery part draw k).mem = k.mem := by
  unfold beginDelivery
  dsimp only
  split
  · rfl
  · split
    · rfl
    · split
      · rfl
      · split
        · simp
        · split <;> rfl
@[simp] theorem checkStall_mem (part : Nat) (k : Package) : (checkStall part k).mem = k.mem := by
  unfold checkStall
  dsimp only
  split
  · rfl
  · split
    · simp
    · split
      · split <;> simp
      · rfl
@[simp] theorem startRepair_mem (kind : Nat) (v : BitVec 64) (k : Package) : (startRepair kind v k).mem = k.mem := by
  simp only [startRepair, apply_ite Package.mem, ite_self]
@[simp] theorem finishRepair_mem (draw : Nat) (k : Package) : (finishRepair draw k).mem = k.mem := by
  unfold finishRepair
  split <;> rfl
@[simp] theorem resetPackage_mem (k : Package) : (resetPackage k).mem = k.mem := rfl
@[simp] theorem freshPackage_mem (k : Package) : (freshPackage k).mem = [] := rfl
@[simp] theorem logSelfTest_mem (failed : List (BitVec 16)) (k : Package) : (logSelfTest failed k).mem = k.mem :=
  foldl_mem (fun k _ => foldl_mem (fun k _ => logError_mem _ _ _ _ k) _ k) _ _
@[simp] theorem bootPackage_mem (b : BootInput) (k : Package) : (bootPackage b k).mem = k.mem := by
  unfold bootPackage
  split <;> simp
@[simp] theorem answerSpdm_mem (fn draw : Nat) (k : Package) : (answerSpdm fn draw k).mem = k.mem := by
  unfold answerSpdm
  split <;> rfl
@[simp] theorem updateDuty_mem (watts : Nat) (k : Package) : (updateDuty watts k).mem = k.mem := by
  simp only [updateDuty]
  split <;> simp
@[simp] theorem warnHeat_mem (k : Package) : (warnHeat k).mem = k.mem := by
  unfold warnHeat
  split <;> simp
@[simp] theorem measureHeat_mem (t : BitVec 8) (k : Package) : (measureHeat t k).mem = k.mem := by simp [measureHeat]
@[simp] theorem markGranules_mem (rs : List Reached) (k : Package) : (markGranules rs k).mem = k.mem := rfl
@[simp] theorem complete_mem (c : Completion) (k : Package) : (complete c k).mem = k.mem := rfl
@[simp] theorem writeAperture_mem (n : Nat) (f : Aperture → Aperture) (k : Package) : (writeAperture n f k).mem = k.mem := by
  unfold writeAperture
  split <;> rfl
@[simp] theorem writeTherm_mem (v : BitVec 64) (k : Package) : (writeTherm v k).mem = k.mem := by
  unfold writeTherm
  dsimp only
  split <;> simp
@[simp] theorem sendPending_mem (fn : Nat) (k : Package) : (sendPending fn k).mem = k.mem := by
  refine foldl_mem (fun k v => ?_) _ _
  dsimp only
  split <;> rfl
@[simp] theorem writeMsix_mem (fn o : Nat) (v : BitVec 32) (k : Package) : (writeMsix fn o v k).mem = k.mem := by
  unfold writeMsix
  dsimp only
  split
  · rfl
  · split
    · simp
    · split <;> simp
@[simp] theorem clearBumps_mem (k : Package) : (clearBumps k).mem = k.mem := rfl

/-! ## What stores into memory -/

/-- Changes that each keep memory in canonical form keep it so all together. -/
theorem foldl_mem_wf {α : Type} {f : Package → α → Package}
    (hf : ∀ k x, Memory.wf k.mem = true → Memory.wf (f k x).mem = true) (l : List α) {k : Package}
    (h : Memory.wf k.mem = true) : Memory.wf (l.foldl f k).mem = true :=
  List.foldlRecOn l f (motive := fun g => Memory.wf g.mem = true) h fun g hg x _ => hf g x hg

theorem putMemory_wf {k : Package} {ps : List (Nat × Byte)} (h : Memory.wf k.mem = true) :
    Memory.wf (putMemory k ps).mem = true :=
  List.foldlRecOn ps _ (motive := fun m => Memory.wf m = true) h fun _ hm _ _ => setByte_wf hm

theorem writeBytes_wf {p : Nat} {k : Package} {rs : List Reached} {bs : List Byte} {bad : Bool}
    (h : Memory.wf k.mem = true) : Memory.wf (writeBytes p k rs bs bad).mem = true := putMemory_wf h

theorem applyAccess_wf {p : Nat} {a : Access} {k : Package} (h : Memory.wf k.mem = true) :
    Memory.wf (applyAccess p a k).mem = true := by
  unfold applyAccess
  dsimp only
  split
  · exact writeBytes_wf h
  · exact h

theorem copyLine_wf {n : Nat} {k : Package} (h : Memory.wf k.mem = true) : Memory.wf (copyLine n k).mem = true := by
  unfold copyLine
  dsimp only
  split
  · exact h
  · rw [onMigration_mem]
    dsimp only
    exact putMemory_wf h

theorem finishCopies_wf {k : Package} (h : Memory.wf k.mem = true) : Memory.wf (finishCopies k).mem = true :=
  foldl_mem_wf (fun _ _ hk => copyLine_wf hk) _ h

theorem writeMarked_wf {p : Nat} {k : Package} {rs : List Reached} {bs : List Byte} {bad : List Bool}
    (h : Memory.wf k.mem = true) : Memory.wf (writeMarked p k rs bs bad).mem = true := by
  simp only [writeMarked]
  split
  · exact writeBytes_wf h
  · exact writeBytes_wf (writeBytes_wf h)

theorem writeRecord_wf {part q : Nat} {bits : BitVec 128} {k : Package} (h : Memory.wf k.mem = true) :
    Memory.wf (writeRecord part q bits k).mem = true := by
  simp only [writeRecord, raiseVector_mem, onPart_mem]
  exact writeBytes_wf h

theorem writePiece_wf {part : Nat} {p : Nat × Nat} {bs : List Byte} {k : Package} (h : Memory.wf k.mem = true) :
    Memory.wf (writePiece part p bs k).mem = true := by
  unfold writePiece
  split
  · exact h
  · exact writeBytes_wf h

theorem writeRange_wf {part va : Nat} {bs : List Byte} {k : Package} (h : Memory.wf k.mem = true) :
    Memory.wf (writeRange part va bs k).mem = true := foldl_mem_wf (fun _ _ hk => writePiece_wf hk) _ h

theorem spoilRange_wf {part draw va len : Nat} {k : Package} (h : Memory.wf k.mem = true) :
    Memory.wf (spoilRange part draw va len k).mem = true := by
  unfold spoilRange
  refine List.foldlRecOn _ _ (motive := fun (acc : Bool × Package) => Memory.wf acc.2.mem = true) h fun acc hacc p _ => ?_
  split
  · exact hacc
  · exact writePiece_wf hacc

theorem forcedCompletion_wf {n : Nat} {c : Core} {t : Task} {k : Package} (h : Memory.wf k.mem = true) :
    Memory.wf (forcedCompletion n c t k).mem = true := by
  unfold forcedCompletion
  dsimp only
  split_ifs
  · exact h
  · exact h
  · exact writeRecord_wf h
  · exact h

/-- Leaving entries out keeps the canonical form. -/
theorem risingFrom_filter {lo : Nat} {m : List Host.Cell} (p : Host.Cell → Bool) (h : risingFrom lo m = true) :
    risingFrom lo (m.filter p) = true := by
  induction m generalizing lo with
  | nil => rfl
  | cons x rest ih =>
    simp only [risingFrom, Bool.and_eq_true, decide_eq_true_eq] at h
    obtain ⟨⟨hlo, hx⟩, hrest⟩ := h
    rw [List.filter_cons]
    split
    · simp only [risingFrom, Bool.and_eq_true, decide_eq_true_eq]
      exact ⟨⟨hlo, hx⟩, ih hrest⟩
    · exact risingFrom_mono (ih hrest) (by omega)

theorem rekeyMemory_wf {rs : List (Nat × Nat)} {draw : Nat} {k : Package} (h : Memory.wf k.mem = true) :
    Memory.wf (rekeyMemory rs draw k).mem = true := risingFrom_filter _ h

theorem chooseKeys_wf {n draw : Nat} {old new : Package} (h : Memory.wf new.mem = true) :
    Memory.wf (chooseKeys n draw old new).mem = true := rekeyMemory_wf h

theorem reachRange_wf {k : Package} {write : Bool} {pa n : Nat} (h : Memory.wf k.mem = true) :
    Memory.wf (reachRange k write pa n).1.mem = true := by
  unfold reachRange
  extract_lets at' k'
  split
  · split <;> dsimp only
    · exact finishCopies_wf (finishCopies_wf h)
    · exact finishCopies_wf h
  · exact h

theorem serveRequest_wf {pa draw : Nat} {kind : RemoteKind} {k : Package} (h : Memory.wf k.mem = true) :
    Memory.wf (serveRequest pa draw kind k).1.mem = true := by
  unfold serveRequest
  extract_lets write r k' old bad
  have hreached : Memory.wf k'.mem = true := reachRange_wf h
  split
  · exact hreached
  · cases kind with
    | read n => exact hreached
    | write bs marks => exact writeMarked_wf hreached
    | amo op size b c key step va =>
      dsimp only
      split
      · exact writeBytes_wf hreached
      · exact hreached

theorem serveRemote_wf {n part src id pa draw : Nat} {kind : RemoteKind} {k : Package} (h : Memory.wf k.mem = true) :
    Memory.wf (serveRemote n part src id pa draw kind k).mem = true := by
  simp only [serveRemote]
  split
  · exact h
  · rw [sendFlit_mem]
    exact serveRequest_wf h

theorem receiveFlit_wf {n draw : Nat} {f : Flit} {k : Package} (h : Memory.wf k.mem = true) :
    Memory.wf (receiveFlit n draw f k).mem = true := by
  unfold receiveFlit
  split
  · exact h
  · split
    · exact h
    · split
      · split <;> exact h
      · split
        · exact serveRemote_wf h
        · exact h
        · exact h

theorem barSettle_wf {k : Package} {p : Partition} {write : Bool} {as : List Nat} (h : Memory.wf k.mem = true) :
    Memory.wf (barSettle k p write as).mem = true := by
  unfold barSettle
  dsimp only
  split
  · split
    · exact finishCopies_wf (finishCopies_wf h)
    · exact finishCopies_wf h
  · exact h

theorem hostAccess_wf {fn draw : Nat} {a : HostAccess} {k : Package} (h : Memory.wf k.mem = true) :
    Memory.wf (hostAccess fn draw a k).mem = true := by
  unfold hostAccess
  extract_lets p as write settled rs
  have hsettled : Memory.wf settled.mem = true := by
    simp only [settled]
    split
    · exact h
    · exact barSettle_wf h
  split
  · exact hsettled
  · split
    · exact hsettled
    · split
      · split
        · rw [markGranules_mem]
          exact writeBytes_wf hsettled
        · exact writeBytes_wf hsettled
      · exact hsettled

end Sys2Proof.Machine
end

section
namespace Sys2Proof.Machine
open Claims (Canonical CoresInOrder)

/-! ## The list of cores -/

/-- What a stored core adds to the list. -/
theorem mem_storeCore {n : Nat} {c : Core} {l : List (Nat × Core)} {x : Nat × Core} (h : x ∈ storeCore n c l) :
    x = (n, c) ∨ x ∈ l := by
  induction l with
  | nil => exact .inl (List.mem_singleton.mp h)
  | cons y rest ih =>
    simp only [storeCore] at h
    split at h
    · exact List.mem_cons.mp h
    · split at h
      · exact (List.mem_cons.mp h).imp_right (List.mem_cons_of_mem _)
      · rcases List.mem_cons.mp h with rfl | h
        · exact .inr List.mem_cons_self
        · exact (ih h).imp_right (List.mem_cons_of_mem _)

/-- A core is stored in its place. -/
theorem storeCore_inOrder {n : Nat} {c : Core} {l : List (Nat × Core)} (h : (l.map (·.1)).Pairwise (· < ·)) :
    ((storeCore n c l).map (·.1)).Pairwise (· < ·) := by
  induction l with
  | nil => exact List.pairwise_singleton _ _
  | cons y rest ih =>
    obtain ⟨m, d⟩ := y
    rw [List.map_cons, List.pairwise_cons] at h
    obtain ⟨hm, hrest⟩ := h
    simp only [storeCore]
    split
    · next hlt =>
      rw [List.map_cons, List.pairwise_cons, List.map_cons, List.pairwise_cons]
      refine ⟨fun k hk => ?_, hm, hrest⟩
      rcases List.mem_cons.mp hk with rfl | hk
      · exact hlt
      · exact hlt.trans (hm k hk)
    · split
      · next heq =>
        subst heq
        rw [List.map_cons, List.pairwise_cons]
        exact ⟨hm, hrest⟩
      · next hge hne =>
        rw [List.map_cons, List.pairwise_cons]
        refine ⟨fun k hk => ?_, ih hrest⟩
        obtain ⟨x, hx, rfl⟩ := List.mem_map.mp hk
        rcases mem_storeCore hx with rfl | hx
        · show m < n
          omega
        · exact hm _ (List.mem_map_of_mem hx)

/-! ## The rules of the canonical form -/

theorem canonical_mem {s : State} (hs : Canonical s) : Memory.wf s.pkg.mem = true := hs.1

/-- The comb of every core is in canonical form, the core listed or not. -/
theorem canonical_coreState {s : State} (hs : Canonical s) (n : Nat) : Memory.wf (coreState s n).comb = true := by
  obtain ⟨-, hcore, hcores, -⟩ := hs
  unfold coreState
  split
  · exact hcore
  · split
    · next heq => exact hcores _ (List.mem_of_find?_eq_some heq)
    · rfl

/-- A change of the package that keeps memory in canonical form. -/
theorem canonical_onPkg {s : State} {f : Package → Package} (hs : Canonical s)
    (hf : Memory.wf s.pkg.mem = true → Memory.wf (f s.pkg).mem = true) : Canonical (onPkg f s) := by
  obtain ⟨hmem, hrest⟩ := hs
  exact ⟨hf hmem, hrest⟩

/-- A change of the package that leaves memory as it is. -/
theorem canonical_onPkg_mem {s : State} {f : Package → Package} (hs : Canonical s) (hf : (f s.pkg).mem = s.pkg.mem) :
    Canonical (onPkg f s) :=
  canonical_onPkg hs fun h => hf ▸ h

/-- A change of the core in issue that keeps its comb in canonical form. -/
theorem canonical_onCore {s : State} {f : Core → Core} (hs : Canonical s)
    (hf : Memory.wf s.core.comb = true → Memory.wf (f s.core).comb = true) : Canonical (s.onCore f) := by
  obtain ⟨hmem, hcore, hcores, hord⟩ := hs
  exact ⟨hmem, hf hcore, hcores, hord⟩

/-- A change of one core that keeps its comb in canonical form. -/
theorem canonical_onCoreAt {s : State} {n : Nat} {f : Core → Core} (hs : Canonical s)
    (hf : Memory.wf (coreState s n).comb = true → Memory.wf (f (coreState s n)).comb = true) :
    Canonical (onCoreAt n f s) := by
  have hnew := hf (canonical_coreState hs n)
  obtain ⟨hmem, hcore, hcores, hord⟩ := hs
  unfold onCoreAt
  split
  · next here =>
    rw [coreState, if_pos here] at hnew
    exact ⟨hmem, hnew, hcores, hord⟩
  · refine ⟨hmem, hcore, fun x hx => ?_, storeCore_inOrder hord⟩
    rcases mem_storeCore hx with rfl | hx
    · exact hnew
    · exact hcores x hx

/-- A change of one core that leaves its comb as it is. -/
theorem canonical_onCoreAt_comb {s : State} {n : Nat} {f : Core → Core} (hs : Canonical s)
    (hf : ∀ c, (f c).comb = c.comb) : Canonical (onCoreAt n f s) :=
  canonical_onCoreAt hs fun h => (hf _).symm ▸ h

/-- Changes that each keep the canonical form keep it all together. -/
theorem canonical_foldl {α : Type} {f : State → α → State} (hf : ∀ s x, Canonical s → Canonical (f s x)) (l : List α)
    {s : State} (hs : Canonical s) : Canonical (l.foldl f s) :=
  List.foldlRecOn l f (motive := Canonical) hs fun s hs x _ => hf s x hs

/-- Another core comes to be the one in issue. -/
theorem canonical_focus {s : State} (n : Nat) (hs : Canonical s) : Canonical (focus n s) := by
  have hnew := canonical_coreState hs n
  obtain ⟨hmem, hcore, hcores, hord⟩ := hs
  simp only [focus]
  split
  · exact ⟨hmem, hcore, hcores, hord⟩
  · refine ⟨hmem, hnew, fun x hx => ?_, ?_⟩
    · rcases mem_storeCore (List.mem_filter.mp hx).1 with rfl | hx
      · exact hcore
      · exact hcores x hx
    · exact (storeCore_inOrder hord).sublist (List.filter_sublist.map _)

/-- The image of the core in issue before its bundle is the core itself. -/
theorem focus_before_comb (n : Nat) (s : State) : (focus n s).before.comb = (focus n s).core.comb := by
  simp only [focus]
  split
  · next here => simp [coreState, here]
  · rfl

end Sys2Proof.Machine
end

section
/-!
Every syllable changes nothing but the core in issue and what its bundle records, and keeps the comb of that core in canonical form
(R15): one lemma for each shape that syllables share, then each syllable by its shape.
-/

namespace Sys2Proof.Machine

/-- The step from `s` to `t` changes nothing but the core in issue and the record of its bundle, and keeps the comb in canonical
form. -/
structure IssueOnly (s t : State) : Prop where
  frame : t = { s with core := t.core, issue := t.issue }
  comb : Memory.wf s.core.comb = true → Memory.wf t.core.comb = true

theorem IssueOnly.refl (s : State) : IssueOnly s s := ⟨rfl, id⟩

theorem IssueOnly.trans {s t u : State} (h : IssueOnly s t) (k : IssueOnly t u) : IssueOnly s u := by
  obtain ⟨hf, hc⟩ := h
  obtain ⟨kf, kc⟩ := k
  refine ⟨?_, kc ∘ hc⟩
  rw [kf, hf]

section shapes
variable {s t : State}

theorem issueOnly_ite {p : Prop} [Decidable p] {a b : State} (ha : IssueOnly s a) (hb : IssueOnly s b) :
    IssueOnly s (if p then a else b) := by
  split
  · exact ha
  · exact hb

theorem issueOnly_onIssue {f : Issue → Issue} (h : IssueOnly s t) : IssueOnly s (t.onIssue f) := h.trans ⟨rfl, id⟩

theorem issueOnly_onCore {f : Core → Core} (h : IssueOnly s t) (hf : ∀ c, (f c).comb = c.comb) : IssueOnly s (t.onCore f) :=
  h.trans ⟨rfl, fun hc => (hf t.core).symm ▸ hc⟩

theorem issueOnly_foldl {α : Type} {f : State → α → State} (hf : ∀ u x, IssueOnly s u → IssueOnly s (f u x)) (l : List α)
    (h : IssueOnly s t) : IssueOnly s (l.foldl f t) :=
  List.foldlRecOn l f (motive := IssueOnly s) h fun u hu x _ => hf u x hu

/-! ## What a syllable records -/

theorem raiseFault_issueOnly {code : BitVec 8} {a : BitVec 64} (h : IssueOnly s t) : IssueOnly s (raiseFault code a t) :=
  issueOnly_onIssue h
theorem noteWait_issueOnly {w : Wait} (h : IssueOnly s t) : IssueOnly s (noteWait w t) := issueOnly_onIssue h
theorem noteReads_issueOnly {rs : List Reg} (h : IssueOnly s t) : IssueOnly s (noteReads rs t) := issueOnly_onIssue h
theorem notePost_issueOnly {p : Post} (h : IssueOnly s t) : IssueOnly s (notePost p t) := issueOnly_onIssue h

theorem noteCombWaits_issueOnly {lo len : Nat} {w : Bool} (h : IssueOnly s t) : IssueOnly s (noteCombWaits lo len w t) :=
  have event : IssueOnly s (if combHazard t.before lo len w then noteWait .event t else t) :=
    issueOnly_ite (noteWait_issueOnly h) h
  issueOnly_ite (noteWait_issueOnly event) event

theorem noteResources_issueOnly {reads writes : List Resource} (h : IssueOnly s t) :
    IssueOnly s (noteResources reads writes t) :=
  issueOnly_ite h (noteWait_issueOnly h)

theorem noteArray_issueOnly (h : IssueOnly s t) : IssueOnly s (noteArray t) := issueOnly_ite (noteWait_issueOnly h) h

/-! ## Results -/

theorem putLanding_issueOnly {d : Dest} {v : Nat} {p : Bool} {f : Flags} {lat : Nat} {w : Option Nat} (h : IssueOnly s t) :
    IssueOnly s (putLanding d v p f lat w t) :=
  issueOnly_onCore h fun _ => rfl

theorem pushResult_issueOnly {v : Nat} {p : Bool} {f : Flags} {lat : Nat} {w : Option Nat} (h : IssueOnly s t) :
    IssueOnly s (pushResult v p f lat w t) :=
  putLanding_issueOnly (issueOnly_onCore h fun _ => rfl)

theorem landScalar_issueOnly {d : BitVec 6} {v : Val} {f : Flags} {lat : Nat} {w : Option Nat} (h : IssueOnly s t) :
    IssueOnly s (landScalar d v f lat w t) :=
  issueOnly_ite (putLanding_issueOnly h) <| issueOnly_ite (putLanding_issueOnly h) <|
    issueOnly_ite (pushResult_issueOnly h) <| issueOnly_ite (raiseFault_issueOnly h) (putLanding_issueOnly h)

theorem landVector_issueOnly {n lo len v : Nat} {p : Bool} {f : Flags} {lat : Nat} {rs : List Nat} (h : IssueOnly s t) :
    IssueOnly s (landVector n lo len v p f lat rs t) :=
  putLanding_issueOnly (noteReads_issueOnly h)

theorem landMask_issueOnly {n v : Nat} {f : Flags} {lat : Nat} {rs : List Nat} (h : IssueOnly s t) :
    IssueOnly s (landMask n v f lat rs t) :=
  putLanding_issueOnly (noteReads_issueOnly h)

theorem landGroup_issueOnly {n total v : Nat} {p : Bool} {f : Flags} {lat : Nat} (h : IssueOnly s t) :
    IssueOnly s (landGroup n total v p f lat t) :=
  issueOnly_foldl (fun _ _ hu => putLanding_issueOnly hu) _ h

/-! ## Guards and operands -/

theorem suppressed_issueOnly {d : BitVec 6} {lat : Nat} (h : IssueOnly s t) : IssueOnly s (suppressed d lat t) :=
  issueOnly_ite (pushResult_issueOnly h) h

theorem guarded_issueOnly {l : Lend} {legal : Bool} {d : BitVec 6} {lat : Nat} {body : State → State} (h : IssueOnly s t)
    (hb : ∀ u, IssueOnly s u → IssueOnly s (body u)) : IssueOnly s (guarded l legal d lat body t) :=
  have read := noteReads_issueOnly h
  issueOnly_ite (raiseFault_issueOnly read) <| issueOnly_ite (hb _ read) (suppressed_issueOnly read)

theorem unguarded_issueOnly {legal : Bool} {body : State → State} (h : IssueOnly s t)
    (hb : ∀ u, IssueOnly s u → IssueOnly s (body u)) : IssueOnly s (unguarded legal body t) :=
  issueOnly_ite (hb _ h) (raiseFault_issueOnly h)

theorem withIndex_issueOnly {x : BitVec 6} {k : State → State} (h : IssueOnly s t)
    (hk : ∀ u, IssueOnly s u → IssueOnly s (k u)) : IssueOnly s (withIndex x k t) :=
  have read := noteReads_issueOnly h
  issueOnly_ite (raiseFault_issueOnly read) (hk _ read)

theorem withBase_issueOnly {rm : BitVec 3} {base : Nat} {k : State → State} (h : IssueOnly s t)
    (hk : ∀ u, IssueOnly s u → IssueOnly s (k u)) : IssueOnly s (withBase rm base k t) :=
  have read := noteReads_issueOnly h
  issueOnly_ite (issueOnly_ite (raiseFault_issueOnly read) (hk _ read)) (hk _ h)

theorem checked_issueOnly {checks : List (Bool × BitVec 8)} {k : State → State} (h : IssueOnly s t)
    (hk : ∀ u, IssueOnly s u → IssueOnly s (k u)) : IssueOnly s (checked checks k t) := by
  unfold checked
  split
  · exact raiseFault_issueOnly h
  · exact hk _ h

theorem afterChecks_issueOnly {vals : List Val} {check : Option (BitVec 8 × BitVec 64)} {k : State → State}
    (h : IssueOnly s t) (hk : ∀ u, IssueOnly s u → IssueOnly s (k u)) : IssueOnly s (afterChecks vals check k t) := by
  unfold afterChecks
  split
  · exact raiseFault_issueOnly h
  · split
    · exact raiseFault_issueOnly h
    · exact hk _ h

/-! ## Scalar forms -/

theorem binaryForm_issueOnly {f : XWord → XWord → XWord} {lat : Nat} {d a b : BitVec 6} {l : Lend} (h : IssueOnly s t) :
    IssueOnly s (binaryForm f lat d a b l t) :=
  guarded_issueOnly h fun _ hu => landScalar_issueOnly (noteReads_issueOnly hu)

theorem unaryForm_issueOnly {f : XWord → XWord} {lat : Nat} {d a : BitVec 6} {l : Lend} (h : IssueOnly s t) :
    IssueOnly s (unaryForm f lat d a l t) :=
  guarded_issueOnly h fun _ hu => landScalar_issueOnly (noteReads_issueOnly hu)

theorem immediateForm_issueOnly {f : XWord → XWord → XWord} {lat : Nat} {d a : BitVec 6} {i : BitVec 11} {l : Option Lend}
    (h : IssueOnly s t) : IssueOnly s (immediateForm f lat d a i l t) :=
  unguarded_issueOnly h fun _ hu => landScalar_issueOnly (noteReads_issueOnly hu)

theorem selectForm_issueOnly {d a b : BitVec 6} {l : Lend} (h : IssueOnly s t) : IssueOnly s (selectForm d a b l t) :=
  unguarded_issueOnly (noteReads_issueOnly h) fun _ hu => landScalar_issueOnly (noteReads_issueOnly hu)

theorem insertForm_issueOnly {d a b : BitVec 6} {l : Lend} (h : IssueOnly s t) : IssueOnly s (insertForm d a b l t) :=
  guarded_issueOnly h fun _ hu => landScalar_issueOnly (noteReads_issueOnly hu)

theorem loadImmediate_issueOnly {d : BitVec 6} {i : BitVec 20} {l : Option Lend} (h : IssueOnly s t) :
    IssueOnly s (loadImmediate d i l t) :=
  unguarded_issueOnly h fun _ hu => landScalar_issueOnly hu

theorem insertImmediate_issueOnly {d : BitVec 6} {i : BitVec 20} {l : Option Lend} (h : IssueOnly s t) :
    IssueOnly s (insertImmediate d i l t) :=
  unguarded_issueOnly h fun _ hu => landScalar_issueOnly (noteReads_issueOnly hu)

theorem floatForm_issueOnly {d : BitVec 6} {legal : Bool} {srcs : List (BitVec 6)} {mode : Option (State → BitVec 3)}
    {lat : Nat} {f : Core → RoundIn → List Val → Rounded} {l : Lend} (h : IssueOnly s t) :
    IssueOnly s (floatForm d legal srcs mode lat f l t) :=
  guarded_issueOnly h fun _ hu =>
    have read := noteReads_issueOnly hu
    have base := noteReads_issueOnly read
    issueOnly_ite (issueOnly_ite (raiseFault_issueOnly base) (landScalar_issueOnly base)) (landScalar_issueOnly read)

/-! ## Control -/

theorem setTransfer_issueOnly {b : Bool} {p : BitVec 12} (h : IssueOnly s t) : IssueOnly s (setTransfer b p t) :=
  issueOnly_onCore h fun _ => rfl

theorem guardedTransfer_issueOnly {l : Lend} {legal : Bool} {body : State → State} (h : IssueOnly s t)
    (hb : ∀ u, IssueOnly s u → IssueOnly s (body u)) : IssueOnly s (guardedTransfer l legal body t) :=
  guarded_issueOnly (setTransfer_issueOnly h) hb

theorem registerTransfer_issueOnly {a : BitVec 6} (h : IssueOnly s t) : IssueOnly s (registerTransfer a t) :=
  have read := noteReads_issueOnly h
  issueOnly_ite (raiseFault_issueOnly read) (setTransfer_issueOnly read)

/-! ## The comb -/

theorem clearCheck_issueOnly {n : Nat} (h : IssueOnly s t) : IssueOnly s (clearCheck n t) :=
  issueOnly_ite (issueOnly_onCore h fun _ => rfl) h

theorem cellAccess_issueOnly {n : Nat} {off : Int} {len align : Nat} {store : Bool} {effect : Nat → State → State}
    (h : IssueOnly s t) (he : ∀ lo u, IssueOnly s u → IssueOnly s (effect lo u)) :
    IssueOnly s (cellAccess n off len align store effect t) := by
  unfold cellAccess
  split
  · exact raiseFault_issueOnly h
  · have waits := noteCombWaits_issueOnly (lo := (cellOf t.before n).base + off.toNat) (len := len) (w := store) h
    exact he _ _ (issueOnly_ite waits (clearCheck_issueOnly waits))

theorem combWrite_issueOnly {lo : Nat} {bs : List Byte} (h : IssueOnly s t) : IssueOnly s (combWrite lo bs t) :=
  h.trans ⟨rfl, setBytes_wf⟩

theorem combLoad_issueOnly {signed : Bool} {r c : BitVec 6} {z : BitVec 2} {off : Int} (h : IssueOnly s t) :
    IssueOnly s (combLoad signed r c z off t) :=
  cellAccess_issueOnly h fun _ _ hu => landScalar_issueOnly hu

theorem combStore_issueOnly {r c : BitVec 6} {z : BitVec 2} {off : Int} (h : IssueOnly s t) :
    IssueOnly s (combStore r c z off t) :=
  have read := noteReads_issueOnly h
  issueOnly_ite (raiseFault_issueOnly read) (cellAccess_issueOnly read fun _ _ hu => combWrite_issueOnly hu)

/-! ## Global accesses -/

theorem issueAccess_issueOnly {kind : AccessKind} {va z : Nat} {data : List Byte} {scope : BitVec 18}
    {k : Nat → State → State} (h : IssueOnly s t) (hk : ∀ id u, IssueOnly s u → IssueOnly s (k id u)) :
    IssueOnly s (issueAccess kind va z data scope k t) :=
  hk _ _ (issueOnly_onCore (issueOnly_ite (noteWait_issueOnly h) h) fun _ => rfl)

theorem globalAccess_issueOnly {n : Nat} {va : Int} {z align : Nat} {kind : AccessKind} {data : List Byte}
    {scope : BitVec 18} {k : Nat → State → State} (h : IssueOnly s t) (hk : ∀ id u, IssueOnly s u → IssueOnly s (k id u)) :
    IssueOnly s (globalAccess n va z align kind data scope k t) := by
  unfold globalAccess
  split
  · exact raiseFault_issueOnly h
  · exact issueAccess_issueOnly h hk

theorem globalLoad_issueOnly {signed : Bool} {r : BitVec 6} {n : BitVec 4} {z : BitVec 2} {off : XWord}
    (h : IssueOnly s t) : IssueOnly s (globalLoad signed r n z off t) :=
  globalAccess_issueOnly h fun _ _ hu => landScalar_issueOnly hu

theorem speculativeLoad_issueOnly {r : BitVec 6} {n : BitVec 4} {z : BitVec 2} {off : XWord} {p : Bool}
    (h : IssueOnly s t) : IssueOnly s (speculativeLoad r n z off p t) := by
  unfold speculativeLoad
  dsimp only
  split
  · exact landScalar_issueOnly h
  · exact issueAccess_issueOnly h fun _ _ hu => landScalar_issueOnly hu

theorem globalStore_issueOnly {r : BitVec 6} {n : BitVec 4} {z : BitVec 2} {off : XWord} (h : IssueOnly s t) :
    IssueOnly s (globalStore r n z off t) :=
  have read := noteReads_issueOnly h
  issueOnly_ite (raiseFault_issueOnly read) (globalAccess_issueOnly read fun _ _ hu => hu)

theorem atomicForm_issueOnly {op : AmoOp} {d : BitVec 6} {n : BitVec 4} {b : BitVec 6} {scope : BitVec 2} {z : Nat}
    {order : BitVec 2} {l : Lend} (h : IssueOnly s t) : IssueOnly s (atomicForm op d n b scope z order l t) := by
  unfold atomicForm
  refine unguarded_issueOnly h fun u hu => ?_
  extract_lets src v cmp noted
  have read : IssueOnly s noted := noteReads_issueOnly hu
  split
  · exact raiseFault_issueOnly read
  · exact globalAccess_issueOnly read fun _ _ hv => issueOnly_ite hv (landScalar_issueOnly hv)

theorem bindingForm_issueOnly {d b : BitVec 6} {perm : BitVec 2} {k : Nat → Nat → BitVec 3 → State → State}
    (h : IssueOnly s t) (hk : ∀ v n m u, IssueOnly s u → IssueOnly s (k v n m u)) :
    IssueOnly s (bindingForm d b perm k t) := by
  unfold bindingForm
  apply unguarded_issueOnly h
  intro u hu
  extract_lets va len v n noted
  have read : IssueOnly s noted := noteReads_issueOnly hu
  split
  · exact raiseFault_issueOnly read
  · split
    · exact raiseFault_issueOnly read
    · split
      · exact raiseFault_issueOnly read
      · exact issueOnly_ite (hk _ _ _ _ read) (raiseFault_issueOnly read)

/-! ## Vector forms -/

theorem vectorForm_issueOnly {w : BitVec 2} {bits : Nat} {k : MaskUse} {d : BitVec 6} {srcs : List Nat} {rd extra : Bool}
    {lat : Nat} {f : Nat → Rounded} (h : IssueOnly s t) : IssueOnly s (vectorForm w bits k d srcs rd extra lat f t) :=
  landVector_issueOnly (noteReads_issueOnly h)

theorem maskForm_issueOnly {w : BitVec 2} {bits : Nat} {k : MaskUse} {d : BitVec 3} {srcs : List Nat} {lat : Nat}
    {f : Nat → Bool × Flags} (h : IssueOnly s t) : IssueOnly s (maskForm w bits k d srcs lat f t) :=
  have read := noteReads_issueOnly h
  issueOnly_ite (raiseFault_issueOnly read) (landMask_issueOnly read)

theorem roundedForm_issueOnly {lat : Nat} {w : BitVec 2} {d : BitVec 6} {srcs : List Nat} {rd : Bool} {ty : BitVec 3}
    {l : Lend} {f : Layout → RoundIn → Nat → Rounded} (h : IssueOnly s t) :
    IssueOnly s (roundedForm lat w d srcs rd ty l f t) :=
  withBase_issueOnly h fun _ hu => vectorForm_issueOnly hu

theorem convertForm_issueOnly {d : BitVec 6} {srcs : List Nat} {dsts : Nat} {rm : BitVec 3} {base lat : Nat}
    {k : Bool → Nat → State → State} (h : IssueOnly s t) (hk : ∀ p n u, IssueOnly s u → IssueOnly s (k p n u)) :
    IssueOnly s (convertForm d srcs dsts rm base lat k t) :=
  issueOnly_ite (raiseFault_issueOnly h) (withBase_issueOnly h fun _ hu => hk _ _ _ (noteReads_issueOnly hu))

theorem gatherLanes_issueOnly {w : BitVec 2} {d a : BitVec 6} {ty : BitVec 3} {l : Lend}
    {pick : List Nat → Nat → Option Nat} (h : IssueOnly s t) : IssueOnly s (gatherLanes w d a ty l pick t) :=
  landVector_issueOnly (noteReads_issueOnly h)

/-! ## The matrix unit -/

theorem startBusy_issueOnly {b : BusyOp} (h : IssueOnly s t) : IssueOnly s (startBusy b t) := by
  unfold startBusy
  exact issueOnly_onCore h fun _ => rfl

theorem tileTransfer_issueOnly {n : Nat} {c : BitVec 6} {off : Nat} {store : Bool} {k : Nat → State → State}
    (h : IssueOnly s t) (hk : ∀ lo u, IssueOnly s u → IssueOnly s (k lo u)) :
    IssueOnly s (tileTransfer n c off store k t) := by
  simp only [tileTransfer]
  have noted : IssueOnly s (noteResources (if store then [.tile n] else []) (if store then [] else [.tile n])
      (noteReads [.sys (0x40 + n), .sys 0x50] t)) := noteResources_issueOnly (noteReads_issueOnly h)
  split
  · split
    · exact raiseFault_issueOnly noted
    · exact raiseFault_issueOnly noted
  · exact cellAccess_issueOnly noted fun _ _ hu => issueOnly_ite (raiseFault_issueOnly hu) (hk _ _ hu)

theorem tileToTile_issueOnly {d a n : Nat} {w : TileWord} {f : Flags} (h : IssueOnly s t) :
    IssueOnly s (tileToTile d a n w f t) := startBusy_issueOnly h

theorem bankOperation_issueOnly {q n : Nat} {reads : List Resource} {b : Bank} {tag : Option (BitVec 3)}
    (h : IssueOnly s t) : IssueOnly s (bankOperation q n reads b tag t) := startBusy_issueOnly h

theorem startMac_issueOnly {reads : List Resource} {q : BitVec 1} {z : Bool} {m : MacOp} (h : IssueOnly s t) :
    IssueOnly s (startMac reads q z m t) :=
  startBusy_issueOnly (issueOnly_onCore h fun _ => rfl)

theorem plainMac_issueOnly {form : MacForm} {q : BitVec 1} {a b : BitVec 4} {f : BitVec 5} {z bt : Bool}
    (h : IssueOnly s t) : IssueOnly s (plainMac form q a b f z bt t) :=
  checked_issueOnly (noteArray_issueOnly (noteResources_issueOnly (noteReads_issueOnly h))) fun _ hu => startMac_issueOnly hu

/-! ## Commands -/

theorem copyForm_issueOnly {binds : Binds} {legal : Bool} {body : State → State} (h : IssueOnly s t)
    (hb : ∀ u, IssueOnly s u → IssueOnly s (body u)) : IssueOnly s (copyForm binds legal body t) :=
  issueOnly_ite (raiseFault_issueOnly h) (unguarded_issueOnly h hb)

theorem takeEntry_issueOnly {decode : Bool} {k : Command} (h : IssueOnly s t) : IssueOnly s (takeEntry decode k t) :=
  issueOnly_ite (issueOnly_onIssue (noteWait_issueOnly h)) <| issueOnly_onCore h fun c => by
    simp only [apply_ite Core.comb, ite_self]

theorem takeCredit_issueOnly {k : Command} (h : IssueOnly s t) : IssueOnly s (takeCredit k t) :=
  issueOnly_ite (noteWait_issueOnly h) (issueOnly_onCore h fun _ => rfl)

theorem startCommand_issueOnly {decode : Bool} {k : Command} (h : IssueOnly s t) : IssueOnly s (startCommand decode k t) := by
  have taken : IssueOnly s (if boundKind t = 0 then takeEntry decode k t else takeCredit k t) :=
    issueOnly_ite (takeEntry_issueOnly h) (takeCredit_issueOnly h)
  exact issueOnly_ite (issueOnly_ite (issueOnly_onCore taken (applyCommand_comb k)) taken) taken

theorem startCellCommand_issueOnly {k : Command} (h : IssueOnly s t) : IssueOnly s (startCellCommand k t) :=
  issueOnly_ite (takeEntry_issueOnly h) (issueOnly_onCore h fun _ => settleCells_comb _)

theorem collectiveForm_issueOnly {kind : CmdKind} {i : Instr} {c a b e : BitVec 6} (h : IssueOnly s t) :
    IssueOnly s (collectiveForm kind i c a b e t) :=
  copyForm_issueOnly h fun _ hu =>
    afterChecks_issueOnly (noteCombWaits_issueOnly (noteReads_issueOnly hu)) fun _ hv => startCommand_issueOnly hv

theorem cgForm_issueOnly {kind : CmdKind} {i : Instr} {c : BitVec 6} {n : BitVec 4} {o m : BitVec 6} {fill index rows : Bool}
    {set : Command → Command} (h : IssueOnly s t) : IssueOnly s (cgForm kind i c n o m fill index rows set t) :=
  copyForm_issueOnly h fun _ hu => afterChecks_issueOnly (noteReads_issueOnly hu) fun _ hv => startCommand_issueOnly hv

theorem postCard_issueOnly {a : BitVec 6} {k : BitVec 2} {dx dy : BitVec 6} (h : IssueOnly s t) :
    IssueOnly s (postCard a k dx dy t) := by
  have read := noteReads_issueOnly (rs := [sourceReg a]) h
  refine issueOnly_ite (raiseFault_issueOnly read) (issueOnly_ite (raiseFault_issueOnly read) ?_)
  split
  · exact raiseFault_issueOnly read
  · refine issueOnly_ite (raiseFault_issueOnly read) <| issueOnly_ite (raiseFault_issueOnly read) <|
      issueOnly_ite (raiseFault_issueOnly read) (pushResult_issueOnly ?_)
    split
    · exact issueOnly_ite (notePost_issueOnly (clearCheck_issueOnly (noteCombWaits_issueOnly read)))
        (clearCheck_issueOnly (noteCombWaits_issueOnly read))
    · exact clearCheck_issueOnly (noteCombWaits_issueOnly read)

end shapes

end Sys2Proof.Machine
end

section
namespace Sys2Proof.Machine

/-! ## Each syllable -/

/-- A syllable goes on from `s`, with nothing but the core in issue and the record of its bundle changed. -/
def NextIssueOnly (s : State) (o : Host.Outcome State Fault Refusal) : Prop := ∃ t, o = .next t ∧ IssueOnly s t

theorem nextIssueOnly {s t : State} (h : IssueOnly s t) : NextIssueOnly s (.next t) := ⟨t, rfl, h⟩

section syllables
variable {s : State}

/-! ### Control and tasks -/

theorem execLoop_issueOnly {a : BitVec 6} {e : BitVec 12} : NextIssueOnly s (execLoop a e s) :=
  nextIssueOnly <| unguarded_issueOnly (.refl s) fun _ hu =>
    have read := noteReads_issueOnly hu
    issueOnly_ite (raiseFault_issueOnly read) <| issueOnly_ite (raiseFault_issueOnly read) <|
      issueOnly_ite (issueOnly_onIssue read) (issueOnly_onCore read fun _ => rfl)

theorem execGbar_issueOnly {g : BitVec 2} {l : Lend} : NextIssueOnly s (execGbar g l s) :=
  nextIssueOnly <| guarded_issueOnly (.refl s) fun _ hu =>
    issueOnly_ite (raiseFault_issueOnly hu) (notePost_issueOnly (issueOnly_onIssue hu))

theorem execWait_issueOnly {c : BitVec 6} {l : Lend} : NextIssueOnly s (execWait c l s) :=
  nextIssueOnly <| guarded_issueOnly (.refl s) fun _ hu =>
    issueOnly_ite (raiseFault_issueOnly hu) (issueOnly_onIssue hu)

theorem execBrk_issueOnly {c : BitVec 15} {l : Lend} : NextIssueOnly s (execBrk c l s) :=
  nextIssueOnly <| guarded_issueOnly (.refl s) fun _ hu => issueOnly_ite hu (raiseFault_issueOnly hu)

theorem execMtsr_issueOnly {r : BitVec 6} {n : BitVec 12} {l : Lend} : NextIssueOnly s (execMtsr r n l s) :=
  nextIssueOnly <| guarded_issueOnly (.refl s) fun _ hu =>
    have read := noteReads_issueOnly hu
    issueOnly_ite (raiseFault_issueOnly read) <|
      putLanding_issueOnly (issueOnly_ite (noteResources_issueOnly read) read)

/-! ### Translation -/

theorem execProbe_issueOnly {d : BitVec 6} {h : BitVec 4} {b : BitVec 6} {p : BitVec 2} :
    NextIssueOnly s (execProbe d h b p s) := by
  refine nextIssueOnly (bindingForm_issueOnly (.refl s) fun va len mode u hu => ?_)
  split
  · exact noteWait_issueOnly (issueOnly_ite hu (issueOnly_onCore hu fun _ => rfl))
  · exact issueOnly_ite (raiseFault_issueOnly hu) (issueOnly_onCore hu fun _ => rfl)

theorem execXlat_issueOnly {d : BitVec 6} {h : BitVec 4} {b : BitVec 6} {p : BitVec 2} :
    NextIssueOnly s (execXlat d h b p s) :=
  nextIssueOnly (bindingForm_issueOnly (.refl s) fun _ _ _ _ hu => putLanding_issueOnly hu)

/-! ### Vectors and memory -/

theorem floatLanes_issueOnly {op : Layout → RoundIn → Num → Num → Rounded} {lat : Nat} {w : BitVec 2} {d a b : BitVec 6}
    {t : BitVec 3} {l : Lend} : IssueOnly s (floatLanes op lat w d a b t l s) := by
  unfold floatLanes
  exact roundedForm_issueOnly (.refl s)

theorem fusedLanes_issueOnly {negate : Bool} {w : BitVec 2} {d a b : BitVec 6} {t : BitVec 3} {l : Lend} :
    IssueOnly s (fusedLanes negate w d a b t l s) := by
  unfold fusedLanes
  exact roundedForm_issueOnly (.refl s)

theorem specialLanes_issueOnly {op : Layout → RoundIn → Num → Rounded} {w : BitVec 2} {d a : BitVec 6} {t : BitVec 3}
    {l : Lend} : IssueOnly s (specialLanes op w d a t l s) := by
  unfold specialLanes
  exact roundedForm_issueOnly (.refl s)

theorem execVbitx_issueOnly {w : BitVec 2} {d : BitVec 3} {a : BitVec 6} :
    NextIssueOnly s (execVbitx w d a s) :=
  nextIssueOnly (issueOnly_ite (raiseFault_issueOnly (noteReads_issueOnly (.refl s))) (landMask_issueOnly (.refl s)))

theorem execVld_issueOnly {w : BitVec 2} {v c x : BitVec 6} {i : BitVec 4} {l : Option Lend} :
    NextIssueOnly s (execVld w v c x i l s) :=
  nextIssueOnly <| unguarded_issueOnly (.refl s) fun _ hu =>
    have read := noteReads_issueOnly hu
    issueOnly_ite (raiseFault_issueOnly read) (cellAccess_issueOnly read fun _ _ hv => landVector_issueOnly hv)

theorem execVst_issueOnly {w : BitVec 2} {v c x : BitVec 6} {i : BitVec 4} {l : Option Lend} :
    NextIssueOnly s (execVst w v c x i l s) :=
  nextIssueOnly <| unguarded_issueOnly (.refl s) fun _ hu =>
    have read := noteReads_issueOnly hu
    issueOnly_ite (raiseFault_issueOnly read) (cellAccess_issueOnly read fun _ _ hv => combWrite_issueOnly hv)

theorem execVgat_issueOnly {w : BitVec 2} {v c x : BitVec 6} {i : BitVec 4} {l : Lend} :
    NextIssueOnly s (execVgat w v c x i l s) := by
  unfold execVgat
  extract_lets k z act offs regs noted base waiting cleared
  refine nextIssueOnly ?_
  have read : IssueOnly s noted := noteReads_issueOnly (.refl s)
  split
  · exact raiseFault_issueOnly (noteReads_issueOnly read)
  · split
    · exact raiseFault_issueOnly (noteReads_issueOnly read)
    · have waits : IssueOnly s waiting := issueOnly_foldl (fun _ _ hu => noteCombWaits_issueOnly hu) _ read
      exact landVector_issueOnly (issueOnly_ite waits (clearCheck_issueOnly waits))

theorem execVsct_issueOnly {w : BitVec 2} {v c x : BitVec 6} {i : BitVec 4} {l : Lend} :
    NextIssueOnly s (execVsct w v c x i l s) := by
  unfold execVsct
  extract_lets z act offs noted
  refine nextIssueOnly ?_
  have read : IssueOnly s noted := noteReads_issueOnly (.refl s)
  split
  · exact raiseFault_issueOnly read
  · split
    · exact raiseFault_issueOnly read
    · exact issueOnly_foldl (fun _ _ hu => combWrite_issueOnly hu) _
        (issueOnly_foldl (fun _ _ hu => noteCombWaits_issueOnly hu) _ read)

theorem execVldg_issueOnly {w : BitVec 2} {v : BitVec 6} {h : BitVec 4} {x : BitVec 6} {i : BitVec 4} {l : Option Lend} :
    NextIssueOnly s (execVldg w v h x i l s) :=
  nextIssueOnly <| unguarded_issueOnly (.refl s) fun _ hu =>
    withIndex_issueOnly hu fun _ hv => globalAccess_issueOnly hv fun _ _ hw => putLanding_issueOnly hw

theorem execVstg_issueOnly {w : BitVec 2} {v : BitVec 6} {h : BitVec 4} {x : BitVec 6} {i : BitVec 4} {l : Option Lend} :
    NextIssueOnly s (execVstg w v h x i l s) :=
  nextIssueOnly <| unguarded_issueOnly (.refl s) fun _ hu =>
    have read := noteReads_issueOnly hu
    issueOnly_ite (raiseFault_issueOnly read) (globalAccess_issueOnly read fun _ _ hv => hv)

theorem execVldS_issueOnly {w : BitVec 2} {v : BitVec 6} {h : BitVec 4} {x : BitVec 6} {i : BitVec 4} {l : Option Lend} :
    NextIssueOnly s (execVldS w v h x i l s) := by
  refine nextIssueOnly (unguarded_issueOnly (.refl s) fun u hu => ?_)
  have read := noteReads_issueOnly (rs := [sourceReg x]) hu
  dsimp only
  split
  · exact putLanding_issueOnly read
  · exact issueAccess_issueOnly read fun _ _ hv => putLanding_issueOnly hv

/-! ### The matrix unit -/

theorem execMmz_issueOnly {q : BitVec 1} {a : BitVec 4} {n : BitVec 1} {f : BitVec 5} {z : Bool} :
    NextIssueOnly s (execMmz q a n f z s) :=
  have noted := noteArray_issueOnly (noteResources_issueOnly (noteReads_issueOnly (.refl s)))
  nextIssueOnly <| checked_issueOnly (issueOnly_ite (noteWait_issueOnly noted) noted) fun _ hu =>
    startMac_issueOnly (issueOnly_onCore hu fun _ => rfl)

theorem execQst_issueOnly {q : BitVec 1} {c : BitVec 6} {l : Lend} : NextIssueOnly s (execQst q c l s) :=
  nextIssueOnly (cellAccess_issueOnly (noteResources_issueOnly (.refl s)) fun _ _ hu => startBusy_issueOnly hu)

theorem execQld_issueOnly {q : BitVec 1} {c : BitVec 6} {l : Lend} : NextIssueOnly s (execQld q c l s) :=
  nextIssueOnly (cellAccess_issueOnly (noteResources_issueOnly (.refl s)) fun _ _ hu =>
    startBusy_issueOnly (issueOnly_onCore hu fun _ => rfl))

theorem execTld_issueOnly {d : BitVec 4} {c : BitVec 6} {i : BitVec 9} {l : Option Lend} :
    NextIssueOnly s (execTld d c i l s) :=
  nextIssueOnly (tileTransfer_issueOnly (.refl s) fun _ _ hu => startBusy_issueOnly (issueOnly_onCore hu fun _ => rfl))

theorem execVqr_issueOnly {q : BitVec 1} {r v : BitVec 6} {f : BitVec 5} {m : BitVec 3} {l : Lend} :
    NextIssueOnly s (execVqr q r v f m l s) :=
  nextIssueOnly <| withBase_issueOnly (noteResources_issueOnly (noteReads_issueOnly (.refl s))) fun _ hu =>
    checked_issueOnly hu fun _ hv => putLanding_issueOnly (startBusy_issueOnly (noteReads_issueOnly hv))

/-! ### Commands -/

theorem execCpOvl_issueOnly {r : BitVec 4} {h : BitVec 4} {o : BitVec 6} : NextIssueOnly s (execCpOvl r h o s) :=
  nextIssueOnly <| copyForm_issueOnly (.refl s) fun _ hu =>
    afterChecks_issueOnly (noteReads_issueOnly hu) fun _ hv =>
      startCommand_issueOnly (issueOnly_onCore hv fun _ => rfl)

/-- Every syllable goes on, with nothing but the core in issue and the record of its bundle changed. -/
theorem execSyllable_issueOnly (i : Instr) (s : State) : NextIssueOnly s (execSyllable i s) := by
  cases i
  case add | sub | mul | mulh | mulhn | div | divn | rem | remn | and | or | xor | andn | orn | shl | shr | sra | rol |
      ror | min | max | minn | maxn | addw | subw | mulw | bext | cmpEq | cmpNe | cmpLt | cmpGe | cmpLtn | cmpGen |
      cmpTst =>
    exact nextIssueOnly (binaryForm_issueOnly (.refl s))
  case clz | ctz | popc | bswap | sext => exact nextIssueOnly (unaryForm_issueOnly (.refl s))
  case sel => exact nextIssueOnly (selectForm_issueOnly (.refl s))
  case bins => exact nextIssueOnly (insertForm_issueOnly (.refl s))
  case addi | andi | ori | xori | shli | shri | srai | muli | cmpiEq | cmpiNe | cmpiLt | cmpiLtn =>
    exact nextIssueOnly (immediateForm_issueOnly (.refl s))
  case li => exact nextIssueOnly (loadImmediate_issueOnly (.refl s))
  case lic => exact nextIssueOnly (insertImmediate_issueOnly (.refl s))
  case fadd | fsub | fmul | fdiv | fma | fsqrt | fcvt | fcvti | fcvtf | fmin | fmax | fabs | fneg | fclass | fcmpEq |
      fcmpLt | fcmpLe | fcmpUn =>
    exact nextIssueOnly (floatForm_issueOnly (.refl s))
  case br => exact nextIssueOnly (setTransfer_issueOnly (.refl s))
  case brc | chkv => exact nextIssueOnly (setTransfer_issueOnly (noteReads_issueOnly (.refl s)))
  case call =>
    exact nextIssueOnly (guardedTransfer_issueOnly (.refl s) fun _ hu => landScalar_issueOnly (setTransfer_issueOnly hu))
  case ret | jr => exact nextIssueOnly (guardedTransfer_issueOnly (.refl s) fun _ hu => registerTransfer_issueOnly hu)
  case loop => exact execLoop_issueOnly
  case chk =>
    exact nextIssueOnly (unguarded_issueOnly (.refl s) fun _ hu => setTransfer_issueOnly (noteReads_issueOnly hu))
  case safe | yield | fence | fenceE => exact nextIssueOnly (issueOnly_onIssue (.refl s))
  case endTask => exact nextIssueOnly (guarded_issueOnly (.refl s) fun _ hu => issueOnly_onIssue hu)
  case post => exact nextIssueOnly (guarded_issueOnly (.refl s) fun _ hu => postCard_issueOnly hu)
  case gbar => exact execGbar_issueOnly
  case wait => exact execWait_issueOnly
  case trap => exact nextIssueOnly (guarded_issueOnly (.refl s) fun _ hu => raiseFault_issueOnly hu)
  case brk => exact execBrk_issueOnly
  case ldImm | ldxImm => exact nextIssueOnly (unguarded_issueOnly (.refl s) fun _ hu => globalLoad_issueOnly hu)
  case stImm => exact nextIssueOnly (unguarded_issueOnly (.refl s) fun _ hu => globalStore_issueOnly hu)
  case ldSImm => exact nextIssueOnly (unguarded_issueOnly (.refl s) fun _ hu => speculativeLoad_issueOnly hu)
  case ldIndexed | ldxIndexed =>
    exact nextIssueOnly (guarded_issueOnly (.refl s) fun _ hu => withIndex_issueOnly hu fun _ hv => globalLoad_issueOnly hv)
  case stIndexed =>
    exact nextIssueOnly (guarded_issueOnly (.refl s) fun _ hu => withIndex_issueOnly hu fun _ hv => globalStore_issueOnly hv)
  case ldSIndexed =>
    exact nextIssueOnly (guarded_issueOnly (.refl s) fun _ hu => speculativeLoad_issueOnly (noteReads_issueOnly hu))
  case amoAdd | amoAnd | amoOr | amoXor | amoMin | amoMax | amoMinn | amoMaxn | amoSwap | amoCas | amoFadd | amoAddsr =>
    exact nextIssueOnly (atomicForm_issueOnly (.refl s))
  case probe => exact execProbe_issueOnly
  case xlat => exact execXlat_issueOnly
  case hinv => exact nextIssueOnly (putLanding_issueOnly (.refl s))
  case hinfo => exact nextIssueOnly (unguarded_issueOnly (.refl s) fun _ hu => landScalar_issueOnly hu)
  case mfsr =>
    exact nextIssueOnly (guarded_issueOnly (.refl s) fun _ hu => landScalar_issueOnly (noteReads_issueOnly hu))
  case mtsr => exact execMtsr_issueOnly
  case ldcImm | ldcxImm => exact nextIssueOnly (unguarded_issueOnly (.refl s) fun _ hu => combLoad_issueOnly hu)
  case stcImm => exact nextIssueOnly (unguarded_issueOnly (.refl s) fun _ hu => combStore_issueOnly hu)
  case ldcIndexed | ldcxIndexed =>
    exact nextIssueOnly (guarded_issueOnly (.refl s) fun _ hu => withIndex_issueOnly hu fun _ hv => combLoad_issueOnly hv)
  case stcIndexed =>
    exact nextIssueOnly (guarded_issueOnly (.refl s) fun _ hu => withIndex_issueOnly hu fun _ hv => combStore_issueOnly hv)
  case vadd | vsub | vmul | vmulh | vmin | vmax | vshl | vshr | vadds | vsubs | vand | vor | vxor | vabs | vdot4 |
      vfmin | vfmax | vfabs | vfneg | vfclass | vmov | vperm | vshuf | vrot =>
    exact nextIssueOnly (vectorForm_issueOnly (.refl s))
  case vcmp | vfcmp => exact nextIssueOnly (maskForm_issueOnly (.refl s))
  case vfadd | vfsub | vfmul | vdiv => exact nextIssueOnly floatLanes_issueOnly
  case vfma | vfnma => exact nextIssueOnly fusedLanes_issueOnly
  case vfscl => exact nextIssueOnly (roundedForm_issueOnly (.refl s))
  case vrecip | vrsqrt | vsqrt | vexp2 | vlog2 | vexp => exact nextIssueOnly specialLanes_issueOnly
  case vfsel => exact nextIssueOnly (vectorForm_issueOnly (noteReads_issueOnly (.refl s)))
  case vcvt | vdeq | vbdq =>
    exact nextIssueOnly (convertForm_issueOnly (.refl s) fun _ _ _ hu => landGroup_issueOnly hu)
  case vqnt | vbq =>
    exact nextIssueOnly (convertForm_issueOnly (.refl s) fun _ _ _ hu => putLanding_issueOnly (landGroup_issueOnly hu))
  case vrng => exact nextIssueOnly (withBase_issueOnly (.refl s) fun _ hu => landVector_issueOnly hu)
  case vbcst =>
    exact nextIssueOnly (unguarded_issueOnly (.refl s) fun _ hu => vectorForm_issueOnly (noteReads_issueOnly hu))
  case vli | vred => exact nextIssueOnly (landVector_issueOnly (.refl s))
  case vmsk => exact nextIssueOnly (pushResult_issueOnly (landMask_issueOnly (noteReads_issueOnly (.refl s))))
  case vxtr => exact nextIssueOnly (pushResult_issueOnly (noteReads_issueOnly (.refl s)))
  case vins =>
    exact nextIssueOnly (unguarded_issueOnly (.refl s) fun _ hu => landVector_issueOnly (noteReads_issueOnly hu))
  case vbitx => exact execVbitx_issueOnly (w := 0)
  case vcmpr | vexpd => exact nextIssueOnly (gatherLanes_issueOnly (.refl s))
  case vld => exact execVld_issueOnly
  case vst => exact execVst_issueOnly
  case vgat => exact execVgat_issueOnly
  case vsct => exact execVsct_issueOnly
  case vldg => exact execVldg_issueOnly
  case vstg => exact execVstg_issueOnly
  case vldS => exact execVldS_issueOnly
  case vqadd =>
    exact nextIssueOnly <| checked_issueOnly (noteResources_issueOnly (noteReads_issueOnly (.refl s))) fun _ hu =>
      bankOperation_issueOnly hu
  case vqr => exact execVqr_issueOnly
  case vqz | qadd =>
    exact nextIssueOnly (checked_issueOnly (noteResources_issueOnly (.refl s)) fun _ hu => bankOperation_issueOnly hu)
  case mma | mmn | mmx => exact nextIssueOnly (plainMac_issueOnly (.refl s))
  case mms =>
    exact nextIssueOnly <| checked_issueOnly (noteArray_issueOnly (noteResources_issueOnly (noteReads_issueOnly (.refl s)))) fun _ hu =>
      startMac_issueOnly hu
  case mmz => exact execMmz_issueOnly
  case qzero | qscl => exact nextIssueOnly (bankOperation_issueOnly (noteResources_issueOnly (.refl s)))
  case qrnd | msl =>
    exact nextIssueOnly <| checked_issueOnly (noteResources_issueOnly (noteReads_issueOnly (.refl s))) fun _ hu =>
      startBusy_issueOnly hu
  case qst => exact execQst_issueOnly
  case qld => exact execQld_issueOnly
  case qmsk | qtl =>
    exact nextIssueOnly <| checked_issueOnly (noteResources_issueOnly (noteReads_issueOnly (.refl s))) fun _ hu =>
      bankOperation_issueOnly hu
  case tld => exact execTld_issueOnly
  case tst => exact nextIssueOnly (tileTransfer_issueOnly (.refl s) fun _ _ hu => startBusy_issueOnly hu)
  case tmov | ttr | tcvt =>
    exact nextIssueOnly <| checked_issueOnly (noteResources_issueOnly (noteReads_issueOnly (.refl s))) fun _ hu =>
      tileToTile_issueOnly hu
  case tzero => exact nextIssueOnly (startBusy_issueOnly (noteResources_issueOnly (.refl s)))
  case rstat =>
    exact nextIssueOnly <| checked_issueOnly (noteResources_issueOnly (.refl s)) fun _ hu =>
      putLanding_issueOnly (startBusy_issueOnly hu)
  case cpG2c | cpC2g | cpGat | cpSct | cpBmg => exact nextIssueOnly (cgForm_issueOnly (.refl s))
  case cpG2g | cpC2r | osend =>
    exact nextIssueOnly <| copyForm_issueOnly (.refl s) fun _ hu =>
      afterChecks_issueOnly (noteReads_issueOnly hu) fun _ hv => startCommand_issueOnly hv
  case cpOvl => exact execCpOvl_issueOnly
  case cellArm | cellExpect | cellOpen =>
    exact nextIssueOnly <| copyForm_issueOnly (.refl s) fun _ hu =>
      afterChecks_issueOnly (noteReads_issueOnly hu) fun _ hv => startCellCommand_issueOnly hv
  case cellSeal | cellFree =>
    exact nextIssueOnly <| copyForm_issueOnly (.refl s) fun _ hu =>
      afterChecks_issueOnly hu fun _ hv => startCellCommand_issueOnly hv
  case decTab | decOpen | decSeek | decSave | decLoad =>
    exact nextIssueOnly (copyForm_issueOnly (.refl s) fun _ hu => startCommand_issueOnly hu)
  case collMx | collBs | collBc | collAg => exact nextIssueOnly (collectiveForm_issueOnly (.refl s))
  all_goals exact nextIssueOnly (.refl s)

end syllables

end Sys2Proof.Machine
end

section
namespace Sys2Proof.Machine
open Claims (Canonical CoresInOrder)

/-! ## The sequencer -/

theorem runSlot_issueOnly {s t : State} {x : Nat × Syllable × Option Lend} (h : IssueOnly s t) : IssueOnly s (runSlot x t) := by
  unfold runSlot
  extract_lets slotted evaluated
  have hslot : IssueOnly s slotted := issueOnly_onIssue h
  have heval : IssueOnly s evaluated := by
    unfold evaluated
    split
    · exact raiseFault_issueOnly hslot
    · next i _ =>
      obtain ⟨u, hu, hissue⟩ := execSyllable_issueOnly i slotted
      rw [hu]
      exact hslot.trans hissue
  exact issueOnly_ite (issueOnly_onIssue heval) heval

theorem runSlots_issueOnly (xs : List (Nat × Syllable × Option Lend)) (s : State) : IssueOnly s (runSlots xs s) :=
  issueOnly_foldl (fun _ _ hu => runSlot_issueOnly hu) xs (.refl s)

/-- The syllables of a bundle keep the canonical form. -/
theorem canonical_issueOnly {s t : State} (hs : Canonical s) (h : IssueOnly s t) : Canonical t := by
  obtain ⟨hframe, hcomb⟩ := h
  obtain ⟨hmem, hcore, hcores, hord⟩ := hs
  rw [hframe]
  exact ⟨hmem, hcomb hcore, hcores, hord⟩

/-- A change of the core in issue that leaves its comb as it is. -/
theorem canonical_onCore_comb {s : State} {f : Core → Core} (hs : Canonical s) (hf : (f s.core).comb = s.core.comb) :
    Canonical (s.onCore f) :=
  canonical_onCore hs fun h => hf ▸ h

/-- Another core in its place, with its comb in canonical form. -/
theorem canonical_core {s : State} {c : Core} (hs : Canonical s) (hc : Memory.wf c.comb = true) :
    Canonical { s with core := c } := by
  obtain ⟨hmem, -, hcores, hord⟩ := hs
  exact ⟨hmem, hc, hcores, hord⟩

theorem sendPosts_canonical {s : State} (hs : Canonical s) : Canonical (sendPosts s) := by
  unfold sendPosts
  split
  · exact hs
  · refine canonical_foldl (fun u p hu => ?_) _ hs
    split
    · exact canonical_onPkg_mem hu (acceptPosted_mem ..)
    · exact canonical_onPkg_mem hu (sendArrival_mem ..)

theorem reserveCore_canonical {s : State} (hs : Canonical s) : Canonical (reserveCore s) := by
  unfold reserveCore
  split
  · split
    · exact canonical_onPkg_mem hs (onPart_mem ..)
    · exact hs
  · exact hs

theorem commitBundle_canonical {s : State} (hs : Canonical s) : Canonical (commitBundle s) := by
  unfold commitBundle
  extract_lets posted counted
  have hcounted : Canonical counted := canonical_onCore_comb (sendPosts_canonical hs) rfl
  split
  · exact canonical_onCore_comb hcounted rfl
  · split
    · exact canonical_onCore_comb (reserveCore_canonical hcounted) rfl
    · exact hcounted

theorem waitBundle_canonical {s : State} (hs : Canonical s) (hbefore : Memory.wf s.before.comb = true) :
    Canonical (waitBundle s) := by
  refine canonical_core hs ?_
  split
  · exact hbefore
  · simpa using hbefore

/-- A bundle is issued by a core whose image before it has a comb in canonical form. -/
theorem issueBundle_canonical {s : State} (hs : Canonical s) (hbefore : Memory.wf s.before.comb = true) :
    Canonical (issueBundle s) := by
  unfold issueBundle
  extract_lets c b ran
  split
  · exact canonical_onCore_comb hs (bundleFault_comb ..)
  · split
    · exact canonical_onCore_comb hs (bundleFault_comb ..)
    · have hissue : IssueOnly s ran := runSlots_issueOnly _ s
      have hran : Canonical ran := canonical_issueOnly hs hissue
      have hranBefore : Memory.wf ran.before.comb = true := by rw [hissue.frame]; exact hbefore
      split
      · exact waitBundle_canonical hran hranBefore
      · split
        · exact commitBundle_canonical hran
        · exact canonical_core hran (by simpa using hranBefore)
        · exact canonical_core hran (by simpa using hranBefore)

theorem runningCycle_canonical {s : State} (hs : Canonical s) (hbefore : Memory.wf s.before.comb = true) :
    Canonical (runningCycle s) := by
  unfold runningCycle
  refine canonical_onCore_comb ?_ (stopIfFaulted_comb _)
  split
  · exact canonical_onCore_comb hs rfl
  · split
    · exact canonical_onCore_comb hs (takeTrap_comb ..)
    · exact canonical_onCore_comb hs (bundleFault_comb ..)
    · exact issueBundle_canonical hs hbefore

/-- The step of the sequencer of a core keeps the canonical form. -/
theorem execBundleIssue_canonical {s t : State} {n : Nat} (hs : Canonical s) (h : execBundleIssue n s = .next t) :
    Canonical t := by
  have hfocus := canonical_focus n hs
  have hbefore : Memory.wf (focus n s).before.comb = true := by
    rw [focus_before_comb]
    exact hfocus.2.1
  obtain rfl := Host.Outcome.next.inj h
  split
  · exact runningCycle_canonical hfocus hbefore
  · exact canonical_onCore_comb hfocus (drainingCycle_comb ..)
  · exact canonical_onCore_comb hfocus (drainingCycle_comb ..)
  · exact canonical_onCore_comb hfocus (by simp)
  · exact canonical_onCore_comb hfocus (by simp)
  · exact hfocus

end Sys2Proof.Machine
end

section
namespace Sys2Proof.Machine
open Claims (Canonical CoresInOrder)

/-! ## Accesses performed -/

theorem performForAll_canonical {n id : Nat} {s : State} (hs : Canonical s) : Canonical (performForAll n id s) :=
  canonical_foldl (fun u x hu => by
    split
    · exact hu
    · exact canonical_onPkg (canonical_onCoreAt_comb hu (onAccess_comb _ _)) applyAccess_wf) _ hs

theorem settleScoped_canonical {all : Bool} {p : Nat} {ps : List Place} {s : State} (hs : Canonical s) :
    Canonical (settleScoped all p ps s) :=
  canonical_foldl (fun _ _ hu => performForAll_canonical hu) _ hs

theorem performWithin_canonical {n : Nat} {a : Access} {scope : BitVec 18} {s : State} (hs : Canonical s) :
    Canonical (performWithin n a scope s) := by
  unfold performWithin
  extract_lets others settled
  have hsettled : Canonical settled := canonical_foldl (fun _ _ hu => performForAll_canonical hu) _ hs
  split
  · exact canonical_onCoreAt_comb hsettled (onAccess_comb _ _)
  · exact hsettled

theorem askRemote_canonical {n : Nat} {a : Access} {s : State} (hs : Canonical s) : Canonical (askRemote n a s) :=
  canonical_onPkg_mem hs (sendRequests_mem ..)

theorem performParts_canonical {n : Nat} {a : Access} {now : List Nat} {s : State} (hs : Canonical s) :
    Canonical (performParts n a now s) := by
  unfold performParts
  extract_lets p store settled k rs own all drawn bytes
  have hsettled : Canonical settled := by
    unfold settled
    split
    · exact settleScoped_canonical hs
    · exact hs
  have hdrawn : Canonical drawn := hsettled
  have hasked : ∀ u, Canonical u → Canonical (if all = true then askRemote n a u else u) := fun u hu => by
    split
    · exact askRemote_canonical hu
    · exact hu
  split
  · exact canonical_onCoreAt_comb hdrawn (onAccess_comb _ _)
  · split
    · exact hdrawn
    · refine hasked _ ?_
      split
      · exact canonical_onCoreAt_comb (canonical_onPkg hdrawn writeBytes_wf) (onAccess_comb _ _)
      · exact canonical_onCoreAt_comb hdrawn (onAccess_comb _ _)

theorem performAccess_canonical {n : Nat} {a : Access} {s : State} (hs : Canonical s) : Canonical (performAccess n a s) :=
  performParts_canonical hs

theorem performRest_canonical {n : Nat} {a : Access} {s : State} (hs : Canonical s) : Canonical (performRest n a s) :=
  performParts_canonical hs

theorem performPosted_canonical {n : Nat} {a : Access} {perform : State → State} {s : State} (hs : Canonical s)
    (hp : ∀ u, Canonical u → Canonical (perform u)) : Canonical (performPosted n a perform s) := by
  have hdrawn : Canonical { s with choice := s.choice + 1 } := hs
  unfold performPosted
  extract_lets c
  split
  · exact performForAll_canonical hs
  · split
    · split
      · exact performWithin_canonical hdrawn
      · exact hp _ hdrawn
    · exact hp _ hs

theorem performAtomic_canonical {n : Nat} {a : Access} {s : State} (hs : Canonical s) : Canonical (performAtomic n a s) := by
  unfold performAtomic
  extract_lets p c settled rs old bad drawn written
  have hdrawn : Canonical drawn := settleScoped_canonical (s := s) hs
  split
  · exact askRemote_canonical (canonical_onCoreAt_comb hdrawn (onAccess_comb _ _))
  · split
    · exact canonical_onCoreAt_comb hdrawn (onAccess_comb _ _)
    · split
      · exact hdrawn
      · have hwritten : Canonical written := by
          refine canonical_onPkg (canonical_onCoreAt_comb hdrawn fun c => by simp) fun h => ?_
          split
          · exact h
          · exact writeBytes_wf h
        split
        · exact canonical_onPkg_mem hwritten (logError_mem ..)
        · exact hwritten

theorem onTaskCores_canonical {part : Nat} {f : Core → Core} {s : State} (hs : Canonical s) (hf : ∀ c, (f c).comb = c.comb) :
    Canonical (onTaskCores part f s) :=
  canonical_foldl (fun _ _ hu => canonical_onCoreAt_comb hu hf) _ hs

/-! ## Engines -/

theorem performWrite_canonical {n e : Nat} {m : Command} {q : Request} {r : Option Reply} {s : State} (hs : Canonical s) :
    Canonical (performWrite n e m q r s) := by
  unfold performWrite
  extract_lets p va ps settled rs now own all draw drawn bs bad
  have hdrawn : Canonical drawn := settleScoped_canonical (s := s) hs
  split
  · exact canonical_onCoreAt_comb hdrawn (by simp)
  · split
    · exact hdrawn
    · refine canonical_onPkg (canonical_onCoreAt_comb hdrawn fun c => ?_) writeMarked_wf
      split <;> simp

theorem sendCopyWrite_canonical {n : Nat} {m : Command} {q : Request} {s : State} (hs : Canonical s) :
    Canonical (sendCopyWrite n m q s) := by
  unfold sendCopyWrite
  split
  · exact canonical_onPkg_mem hs (askFor_mem ..)
  · exact canonical_onCoreAt_comb hs (onCommand_comb _ _)

theorem performRead_canonical {n e : Nat} {m : Command} {q : Request} {r : Option Reply} {s : State} (hs : Canonical s) :
    Canonical (performRead n e m q r s) := by
  have hdrawn : Canonical { s with choice := s.choice + 1 } := hs
  unfold performRead
  extract_lets ps now all k draw drawn pick
  split
  · exact hdrawn
  · exact canonical_onCoreAt_comb hdrawn (by simp)
  · extract_lets got answered
    have hanswered : Canonical answered := by
      refine canonical_onCoreAt hdrawn fun h => ?_
      split
      · simpa using takeData_wf h
      · simpa using h
    split
    · exact sendCopyWrite_canonical hanswered
    · exact hanswered

theorem answerRequest_canonical {n e : Nat} {m : Command} {q : Request} {r : Option Reply} {s : State} (hs : Canonical s) :
    Canonical (answerRequest n e m q r s) := by
  unfold answerRequest
  split
  · exact hs
  · split
    · exact performWrite_canonical hs
    · exact performRead_canonical hs

theorem sendPacket_canonical {n e : Nat} {m : Command} {s : State} (hs : Canonical s) : Canonical (sendPacket n e m s) :=
  canonical_onPkg_mem (canonical_onCoreAt_comb hs (onCommand_comb _ _)) (onPart_mem ..)

/-! ## Collectives -/

theorem countOwn_canonical {n e : Nat} {m : Command} {bs : List Byte} {bad : List Bool} {s : State} (hs : Canonical s) :
    Canonical (countOwn n e m bs bad s) :=
  canonical_onPkg_mem (canonical_onCoreAt_comb hs (by simp)) (sendContribution_mem ..)

theorem readOwnSource_canonical {n e : Nat} {m : Command} {reply : Option Reply} {s : State} (hs : Canonical s) :
    Canonical (readOwnSource n e m reply s) := by
  have hdrawn : Canonical { s with choice := s.choice + 1 } := hs
  unfold readOwnSource
  extract_lets ps q got gotBad stop k draw
  split
  · exact hs
  · split
    · exact hdrawn
    · exact canonical_onCoreAt_comb hs (by simp)
    · split
      · exact countOwn_canonical hdrawn
      · exact canonical_onCoreAt_comb hdrawn (onCommand_comb _ _)

theorem takeRemote_canonical {n e : Nat} {m : Command} {r : Nat} {p : Reply} {s : State} (hs : Canonical s) :
    Canonical (takeRemote n e m r p s) := by
  unfold takeRemote
  extract_lets part bad
  split
  · exact canonical_onCoreAt_comb hs (by simp)
  · exact canonical_onPkg_mem (canonical_onCoreAt_comb hs (by simp)) (sendFlit_mem ..)

theorem takeContribution_canonical {n e : Nat} {m : Command} {r : Nat} {reply : Option Reply} {s : State}
    (hs : Canonical s) : Canonical (takeContribution n e m r reply s) := by
  unfold takeContribution
  split
  · exact hs
  · split
    · exact readOwnSource_canonical hs
    · split
      · split
        · exact hs
        · exact takeRemote_canonical hs
      · split
        · exact hs
        · split
          · exact hs
          · extract_lets me
            split
            · exact hs
            · split
              · exact canonical_onCoreAt_comb hs (by simp)
              · exact canonical_onCoreAt_comb (canonical_onCoreAt_comb hs (onCommand_comb _ _)) (by simp)

theorem takeItem_canonical {n e : Nat} {m : Command} {x : CollItem × List Nat} {s : State} (hs : Canonical s) :
    Canonical (takeItem n e m x s) := by
  unfold takeItem
  extract_lets i
  split
  · exact hs
  · refine canonical_onPkg_mem (canonical_onCoreAt_comb hs fun c => ?_) (noteTaker_mem ..)
    split <;> simp

theorem collectiveArrival_canonical {n e : Nat} {m : Command} {k : Nat} {reply : Option Reply} {s : State}
    (hs : Canonical s) : Canonical (collectiveArrival n e m k reply s) := by
  unfold collectiveArrival
  extract_lets p
  split
  · exact takeContribution_canonical hs
  · split
    · split
      · exact hs
      · exact canonical_onCoreAt_comb hs (onCommand_comb _ _)
    · split
      · exact takeItem_canonical hs
      · exact hs

theorem writeResults_canonical {n e : Nat} {m : Command} {out : List (Byte × Bool)} {finish : State → State} {s : State}
    (hs : Canonical s) (hf : ∀ u, Canonical u → Canonical (finish u)) : Canonical (writeResults n e m out finish s) := by
  unfold writeResults
  extract_lets p stop draw ps settled rs piece bs ask written
  have hsettled : Canonical settled := settleScoped_canonical (s := { s with choice := s.choice + 1 }) hs
  split
  · exact hsettled
  · split
    · exact canonical_onCoreAt_comb hsettled (by simp)
    · have hwritten : Canonical written := canonical_onPkg hsettled fun h => by simpa using writeMarked_wf h
      split
      · exact hf _ hwritten
      · exact canonical_onCoreAt_comb hwritten (onCommand_comb _ _)

theorem completeCollective_canonical {n e : Nat} {m : Command} {s : State} (hs : Canonical s) :
    Canonical (completeCollective n e m s) := by
  unfold completeCollective
  extract_lets c out finish
  have hfinish : ∀ u, Canonical u → Canonical (finish u) := fun u hu =>
    canonical_onPkg_mem (canonical_onCoreAt_comb hu (by simp)) (leaveFrames_mem ..)
  split
  · exact hs
  · split
    · exact hfinish _ (canonical_onCoreAt hs fillComb_wf)
    · exact writeResults_canonical hs hfinish

/-! ## Remote writes -/

theorem meetBuffer_canonical {w : RemoteWrite} {since : Nat} {s : State} (hs : Canonical s) :
    Canonical (meetBuffer w since s) := by
  unfold meetBuffer
  extract_lets c
  split
  · exact canonical_onPkg_mem hs (sendBack_mem ..)
  · split
    · exact canonical_onPkg_mem hs (by simp)
    · exact canonical_onPkg_mem hs rfl

theorem headerArrives_canonical {id : Nat} {s : State} (hs : Canonical s) : Canonical (headerArrives id s) := by
  have moved : ∀ st, Canonical (onPkg (onWrite id st) s) := fun st => canonical_onPkg_mem hs (onWrite_mem ..)
  unfold headerArrives
  split
  · exact hs
  · extract_lets now
    split
    · split
      · exact moved _
      · split
        · exact hs
        · split
          · exact meetBuffer_canonical hs
          · exact moved _
    · split
      · exact hs
      · exact moved _
    · exact meetBuffer_canonical hs
    · exact hs

theorem injectWrite_canonical {n e : Nat} {m : Command} {s : State} (hs : Canonical s) : Canonical (injectWrite n e m s) :=
  canonical_onPkg_mem (canonical_onCoreAt_comb hs (onCommand_comb _ _)) rfl

theorem finishWrite_canonical {w : RemoteWrite} {a : Nat} {s : State} (hs : Canonical s) : Canonical (finishWrite w a s) := by
  unfold finishWrite
  extract_lets c x bad sent
  have hsent : Canonical sent := canonical_onPkg_mem hs (sendBack_mem ..)
  split
  · exact hsent
  · exact canonical_onCoreAt hsent fun h => fillComb_wf (c := { coreState sent w.dst with cells := _ }) h

theorem answerWriter_canonical {w : RemoteWrite} {refused : Bool} {s : State} (hs : Canonical s) :
    Canonical (answerWriter w refused s) := by
  unfold answerWriter
  extract_lets left
  have hleft : Canonical left := canonical_onPkg_mem hs rfl
  split
  · exact hleft
  · refine canonical_onCoreAt_comb hleft fun c => ?_
    split <;> simp

/-! ## Commands -/

theorem carryCommand_canonical {n e : Nat} {m : Command} {s : State} (hs : Canonical s) : Canonical (carryCommand n e m s) := by
  unfold carryCommand
  extract_lets f carried
  have hcarried : Canonical carried := canonical_onCoreAt_comb hs (onCommand_comb _ _)
  split
  · exact hs
  · split
    · exact hcarried
    · exact canonical_onPkg_mem hcarried (onFrame_mem ..)

theorem beginCommand_canonical {n e : Nat} {m : Command} {s : State} (hs : Canonical s) : Canonical (beginCommand n e m s) := by
  unfold beginCommand
  extract_lets c cycle
  split
  · exact canonical_onCoreAt_comb hs (onCommand_comb _ _)
  · split
    · exact carryCommand_canonical hs
    · exact canonical_onCoreAt_comb hs (onCommand_comb _ _)

theorem beginFirst_canonical {n e : Nat} {s : State} (hs : Canonical s) : Canonical (beginFirst n e s) := by
  unfold beginFirst
  extract_lets c
  split
  · exact hs
  · extract_lets moves
    split
    · exact hs
    · split
      · split
        · exact beginCommand_canonical (canonical_onCoreAt_comb hs (applyCommand_comb _))
        · exact hs
      · exact beginCommand_canonical hs

theorem beginDecoder_canonical {n : Nat} {ms : List Command} {s : State} (hs : Canonical s) :
    Canonical (beginDecoder n ms s) := by
  induction ms generalizing s with
  | nil => exact hs
  | cons m rest ih =>
    simp only [beginDecoder]
    split
    · exact ih hs
    · split
      · exact hs
      · exact ih (beginCommand_canonical hs)

theorem completeCommand_canonical {n e : Nat} {m : Command} {s : State} (hs : Canonical s) :
    Canonical (completeCommand n e m s) := by
  unfold completeCommand
  extract_lets c drop
  have hdrop : Canonical (drop s) := canonical_onPkg_mem (canonical_onCoreAt_comb hs (by simp)) (leaveFrames_mem ..)
  split
  · split
    · exact canonical_onCoreAt hs completeDecoder_wf
    · exact hs
  · split
    · split
      · exact hdrop
      · exact hs
    · split
      · exact hdrop
      · exact hs
    · split
      · split
        · exact completeCollective_canonical hs
        · exact hs
      · split
        · exact canonical_onPkg_mem (canonical_onCoreAt_comb hs (completeCopy_comb _)) (leaveFrames_mem ..)
        · exact hs

/-! ## Stops, records and retirement -/

@[simp] theorem memory_wf_nil : Memory.wf [] = true := rfl

theorem settleStop_canonical {n : Nat} {p : Stop} {s : State} (hs : Canonical s) : Canonical (settleStop n p s) := by
  unfold settleStop
  extract_lets c done
  have hcomb : done.comb = (coreState s n).comb := rfl
  split
  · exact canonical_onPkg_mem (canonical_onCoreAt hs fun h => by simpa [hcomb] using h)
      (foldl_mem (fun k (m : Command) => leaveFrames_mem n m.serial k) _ _)
  · exact canonical_onPkg_mem (canonical_onCoreAt hs fun h => h) (raiseVector_mem ..)
  · exact canonical_onCoreAt hs fun h => h

theorem afterRecord_canonical {part : Nat} {d : DueRecord} {s : State} (hs : Canonical s) : Canonical (afterRecord part d s) := by
  unfold afterRecord
  extract_lets signalled
  have hsignalled : Canonical signalled := by
    unfold signalled
    split
    · exact canonical_onPkg_mem hs (onPart_mem ..)
    · exact hs
  split
  · exact hsignalled
  · refine canonical_onCoreAt_comb hsignalled fun c => ?_
    split <;> rfl

theorem completeRecord_canonical {part q : Nat} {s : State} (hs : Canonical s) : Canonical (completeRecord part q s) := by
  unfold completeRecord
  extract_lets p
  split
  · exact hs
  · split
    · exact hs
    · refine afterRecord_canonical (canonical_onPkg (canonical_onPkg_mem hs (onPart_mem ..)) fun h => ?_)
      split
      · simpa using writeRecord_wf h
      · simpa using h

theorem beginRecord_canonical {n : Nat} {status : BitVec 8} {s : State} (hs : Canonical s) :
    Canonical (beginRecord n status s) := by
  unfold beginRecord
  split
  · exact hs
  · split
    · exact canonical_onPkg_mem (canonical_onCoreAt_comb hs fun _ => rfl) (onPart_mem ..)
    · exact canonical_onCoreAt_comb hs fun _ => rfl

/-- A core is freed, and its comb is empty. -/
theorem canonical_freeCore {n : Nat} {s : State} (hs : Canonical s) : Canonical (onCoreAt n freeCore s) :=
  canonical_onCoreAt hs fun _ => by simp

theorem finishRetirement_canonical {n : Nat} {status : BitVec 8} {s : State} (hs : Canonical s) :
    Canonical (finishRetirement n status s) := by
  unfold finishRetirement
  split
  · exact canonical_freeCore hs
  · exact canonical_onPkg_mem (canonical_freeCore hs) (onPart_mem ..)

/-! ## Dispatch -/

theorem leaveQueue_canonical {part : Nat} {c : Card} {w : Waiting} {s : State} (hs : Canonical s) :
    Canonical (leaveQueue part c w s) :=
  canonical_onPkg_mem hs (onPart_mem ..)

theorem dispatchFresh_canonical {part : Nat} {c : Card} {w : Waiting} {bs : List (List (Nat × Handle) × List TlbEntry)}
    {cores : List Nat} {s : State} (hs : Canonical s) : Canonical (dispatchFresh part c w bs cores s) :=
  canonical_foldl (fun _ _ hu => canonical_onCoreAt hu fun _ => by simp) _ (leaveQueue_canonical hs)

theorem dispatchResumed_canonical {part : Nat} {c : Card} {w : Waiting} {cores : List Nat} {s : State} (hs : Canonical s) :
    Canonical (dispatchResumed part c w cores s) :=
  canonical_foldl (fun _ _ hu => canonical_onCoreAt hu fun _ => by simp) _ (leaveQueue_canonical hs)

theorem dispatchCard_canonical {part : Nat} {w : Waiting} {cores : List Nat} {s : State} (hs : Canonical s) :
    Canonical (dispatchCard part w cores s) := by
  unfold dispatchCard
  extract_lets failed
  have hfailed : ∀ code, Canonical (failed code) := fun code => canonical_onPkg_mem hs (onPart_mem ..)
  split
  · exact hs
  · split
    · exact dispatchResumed_canonical hs
    · split
      · exact hfailed _
      · split
        · exact hfailed _
        · split
          · exact hfailed _
          · exact dispatchFresh_canonical hs

end Sys2Proof.Machine
end

section
namespace Sys2Proof.Machine
open Claims (Canonical CoresInOrder)

/-! ## The scheduler -/

theorem makeRequest'_canonical {stamp victim : Nat} {s : State} (hs : Canonical s) :
    Canonical (makeRequest' stamp victim s) := by
  unfold makeRequest'
  extract_lets c
  split
  · exact hs
  · split
    · exact hs
    · refine canonical_foldl (fun u n hu => canonical_onCoreAt_comb hu fun c => ?_) _ (canonical_onPkg_mem hs rfl)
      split <;> rfl

theorem requestVictims_canonical {part : Nat} {words : List XWord} {w : Waiting} {free : List Nat} {s : State}
    (hs : Canonical s) : Canonical (requestVictims part words w free s) := by
  unfold requestVictims
  extract_lets p vs
  split
  · exact hs
  · split
    · exact hs
    · exact canonical_foldl (fun _ _ hu => makeRequest'_canonical hu) _ hs

theorem placeReady_canonical {part : Nat} {ws : List Waiting} {taken used : List Nat} {s : State} (hs : Canonical s) :
    Canonical (placeReady part ws taken used s) := by
  induction ws generalizing taken used s with
  | nil => exact hs
  | cons w rest ih =>
    simp only [placeReady]
    split
    · exact ih (dispatchCard_canonical hs)
    · refine ih ?_
      split
      · exact hs
      · exact requestVictims_canonical hs

theorem decide'_canonical {part : Nat} {s : State} (hs : Canonical s) : Canonical (decide' part s) := by
  unfold decide'
  extract_lets p
  split
  · exact hs
  · exact placeReady_canonical (canonical_onPkg_mem (canonical_onPkg_mem hs (onPart_mem ..)) (checkReady_mem ..))

theorem requestArrives_canonical {n : Nat} {s : State} (hs : Canonical s) : Canonical (requestArrives n s) := by
  unfold requestArrives
  extract_lets c
  split
  · split
    · exact hs
    · refine canonical_foldl (fun u n hu => canonical_onCoreAt_comb hu fun c => ?_) _ hs
      split <;> rfl
  · exact hs

theorem startTask_canonical {n : Nat} {s : State} (hs : Canonical s) : Canonical (startTask n s) := by
  unfold startTask
  extract_lets c
  split
  · exact hs
  · split
    · exact hs
    · split
      · exact canonical_onCoreAt hs loadTask_wf
      · split
        · exact canonical_onCoreAt_comb hs fun _ => rfl
        · exact hs
      · exact hs

/-! ## Contexts -/

theorem saveContext_canonical {n : Nat} {mask : BitVec 9} {s : State} (hs : Canonical s) : Canonical (saveContext n mask s) := by
  unfold saveContext
  extract_lets c
  split
  · exact hs
  · extract_lets va bytes
    have hdrawn : Canonical { s with choice := s.choice + 1 } := hs
    split
    · exact canonical_onPkg (canonical_onCoreAt_comb hdrawn fun _ => rfl) spoilRange_wf
    · exact canonical_onPkg (canonical_freeCore hdrawn) fun h => by simpa using writeRange_wf h

theorem failResumed_canonical {t : Task} {code : BitVec 8} {s : State} (hs : Canonical s) : Canonical (failResumed t code s) :=
  canonical_onPkg_mem (canonical_foldl (fun _ _ hu => canonical_freeCore hu) _ hs) (onPart_mem ..)

theorem restoreContext_canonical {n : Nat} {t : Task} {s : State} (hs : Canonical s) : Canonical (restoreContext n t s) := by
  unfold restoreContext
  split
  · exact hs
  · split
    · exact failResumed_canonical hs
    · split
      · exact failResumed_canonical hs
      · exact canonical_onCoreAt (s := { s with choice := s.choice + 1 }) hs fun _ => restoreCore_wf (spoilComb_wf ..)

/-! ## Rings -/

theorem takeCard_canonical {part ring : Nat} {w : List XWord} {s : State} (hs : Canonical s) :
    Canonical (takeCard part ring w s) := by
  have hdrawn : Canonical { s with choice := s.choice + 1 } := hs
  unfold takeCard
  extract_lets p n
  split
  · split
    · exact hs
    · split
      · exact hs
      · split
        · exact hdrawn
        · exact canonical_onPkg_mem hdrawn (by simp)
  · exact canonical_onPkg_mem hs (by simp)

theorem fetchCard_canonical {part ring : Nat} {s : State} (hs : Canonical s) : Canonical (fetchCard part ring s) := by
  have hdrawn : Canonical { s with choice := s.choice + 1 } := hs
  unfold fetchCard
  extract_lets p r va
  split
  · exact hs
  · split
    · exact hs
    · split
      · exact hdrawn
      · exact takeCard_canonical hdrawn

/-! ## Drains -/

theorem performAll_canonical {n : Nat} {s : State} (hs : Canonical s) : Canonical (performAll n s) := by
  refine canonical_foldl (fun u a hu => ?_) _ hs
  split
  · exact hu
  · split
    · exact hu
    · split
      · exact performForAll_canonical hu
      · split
        · exact performAtomic_canonical hu
        · exact performRest_canonical hu

theorem sweepCores_canonical {part g : Nat} {s : State} (hs : Canonical s) : Canonical (sweepCores part g s) :=
  canonical_foldl (fun u x hu => canonical_onCoreAt_comb hu fun c => by split <;> rfl) _ hs

theorem beginSweep_canonical {part : Nat} {d : Drain} {s : State} (hs : Canonical s) : Canonical (beginSweep part d s) :=
  canonical_onPkg_mem (sweepCores_canonical hs) (onPart_mem ..)

theorem forceStop_canonical {n : Nat} {s : State} (hs : Canonical s) : Canonical (forceStop n s) := by
  unfold forceStop
  extract_lets c
  split
  · exact hs
  · exact canonical_onPkg (canonical_onCoreAt_comb hs fun _ => rfl) fun h => forcedCompletion_wf h

theorem forceRemaining_canonical {part : Nat} {s : State} (hs : Canonical s) : Canonical (forceRemaining part s) :=
  canonical_foldl (fun _ _ hu => forceStop_canonical hu) _ hs

theorem forceUnfinished_canonical {part : Nat} {s : State} (hs : Canonical s) : Canonical (forceUnfinished part s) := by
  refine canonical_foldl (fun u x hu => ?_) _ hs
  split
  · exact finishRetirement_canonical hu
  · exact canonical_onPkg (forceStop_canonical (s := { u with choice := u.choice + 1 }) hu) spoilRange_wf
  · exact forceStop_canonical hu

theorem forceStep_canonical {part : Nat} {d : Drain} {s : State} (hs : Canonical s) : Canonical (forceStep part d s) := by
  unfold forceStep
  extract_lets stopped drawn
  have hstopped : Canonical stopped := by
    unfold stopped
    split
    · exact hs
    · exact forceRemaining_canonical hs
  have hdrawn : Canonical drawn := hstopped
  split
  · exact canonical_onPkg_mem (forceUnfinished_canonical hdrawn) (onPart_mem ..)
  · exact canonical_onPkg_mem hdrawn (onPart_mem ..)

theorem resetCore_canonical {n : Nat} {s : State} (hs : Canonical s) : Canonical (resetCore n s) := by
  unfold resetCore
  extract_lets c left
  have hleft : Canonical left :=
    canonical_onPkg_mem hs (foldl_mem (fun k (m : Command) => leaveFrames_mem n m.serial k) _ _)
  split
  · exact canonical_freeCore hleft
  · exact canonical_onPkg_mem (canonical_freeCore hleft) (onPart_mem ..)

theorem resetPartition_canonical {part : Nat} {s : State} (hs : Canonical s) : Canonical (resetPartition part s) :=
  canonical_onPkg_mem (canonical_foldl (fun _ _ hu => resetCore_canonical hu) _ hs) (by simp)

/-! ## Partitions -/

theorem changeRanges_canonical {n : Nat} {new : Package} {s : State} (hs : Canonical s) (hm : new.mem = s.pkg.mem) :
    Canonical (changeRanges n new s) := by
  obtain ⟨hmem, hrest⟩ := hs
  exact ⟨chooseKeys_wf (hm ▸ hmem), hrest⟩

theorem writePcfg_canonical {n : Nat} {v : BitVec 64} {s : State} (hs : Canonical s) : Canonical (writePcfg n v s) := by
  unfold writePcfg
  extract_lets p frames ports en new
  split
  · exact hs
  · refine changeRanges_canonical hs ?_
    split <;> rfl

theorem writePmem_canonical {n j : Nat} {v : BitVec 64} {s : State} (hs : Canonical s) : Canonical (writePmem n j v s) := by
  unfold writePmem
  extract_lets p v put
  split
  · exact hs
  · refine changeRanges_canonical hs ?_
    split <;> rfl

theorem writePlim_canonical {n j : Nat} {v : BitVec 64} {s : State} (hs : Canonical s) : Canonical (writePlim n j v s) := by
  unfold writePlim
  extract_lets p v new
  split
  · exact hs
  · split
    · exact hs
    · exact changeRanges_canonical hs rfl

/-! ## Mailboxes -/

theorem completeDelivery_canonical {part : Nat} {s : State} (hs : Canonical s) : Canonical (completeDelivery part s) := by
  unfold completeDelivery
  extract_lets p
  split
  · exact hs
  · extract_lets w places rs bytes bad written signalled
    split
    · exact hs
    · split
      · exact canonical_onPkg_mem hs (suspend_mem ..)
      · have hwritten : Canonical written := canonical_onPkg hs fun h => by simpa using writeMarked_wf h
        have hsignalled : Canonical signalled := canonical_onPkg_mem hwritten (onPart_mem ..)
        split
        · exact canonical_onPkg_mem hsignalled (sendFlit_mem ..)
        · exact canonical_onCoreAt_comb hsignalled (ackCopy_comb _ _)

/-! ## Power and upsets -/

theorem clearCores_canonical {s : State} (hs : Canonical s) : Canonical (clearCores s) := by
  refine ⟨(canonical_mem hs : Memory.wf s.pkg.mem = true), rfl, ?_, ?_⟩
  · intro x hx
    exact absurd hx List.not_mem_nil
  · exact List.Pairwise.nil

theorem losePower_canonical {s : State} (hs : Canonical s) : Canonical (losePower s) :=
  canonical_onPkg (clearCores_canonical hs) fun _ => by simp

/-- An error is logged beside a change that leaves memory as it is. -/
theorem canonical_logError {s : State} {part : Package → Option Nat} {kind unit : BitVec 8} {a : BitVec 64}
    {f : Package → Package} (hs : Canonical s) (hf : (f s.pkg).mem = s.pkg.mem) :
    Canonical (onPkg (fun k => logError (part k) kind unit a (f k)) s) :=
  canonical_onPkg_mem hs ((logError_mem ..).trans hf)

theorem meetUpset_canonical {u : Upset} {s : State} (hs : Canonical s) : Canonical (meetUpset u s) := by
  unfold meetUpset
  extract_lets place log
  have hlog : ∀ n kind v, Canonical v → Canonical (log n kind v) := fun n kind v hv => canonical_onPkg_mem hv (logError_mem ..)
  cases u with
  | comb n w double =>
    refine hlog _ _ _ ?_
    split
    · exact canonical_onCoreAt_comb hs fun _ => rfl
    · exact hs
  | fetch n pc => exact hlog _ _ _ (canonical_onCoreAt_comb hs fun _ => rfl)
  | store n file i => exact canonical_onCoreAt_comb hs (markStore_comb _ _)
  | memory w double =>
    refine canonical_logError hs ?_
    split <;> rfl
  | lane kind unit addr => exact canonical_onPkg_mem hs (logError_mem ..)

theorem meetUpsets_canonical {s : State} (hs : Canonical s) : Canonical (meetUpsets s) :=
  canonical_foldl (fun _ _ hu => meetUpset_canonical hu) _ (canonical_onPkg_mem hs rfl)

/-! ## Images -/

theorem clearTags_canonical {part : Nat} {id : BitVec 16} {s : State} (hs : Canonical s) : Canonical (clearTags part id s) := by
  unfold clearTags
  extract_lets clear
  have hclear : ∀ c, (clear c).comb = c.comb := fun _ => rfl
  exact canonical_foldl (fun _ _ hu => canonical_onCoreAt_comb hu hclear) _ hs

theorem imageError_canonical {part : Nat} {e : BitVec 8} {s : State} (hs : Canonical s) : Canonical (imageError part e s) :=
  canonical_onPkg_mem hs (onPart_mem ..)

theorem installImage_canonical {part : Nat} {i : Image} {s : State} (hs : Canonical s) : Canonical (installImage part i s) := by
  unfold installImage
  extract_lets others
  split
  · exact imageError_canonical hs
  · split
    · exact imageError_canonical hs
    · exact imageError_canonical (clearTags_canonical (canonical_onPkg_mem hs (onPart_mem ..)))

theorem takeImage_canonical {part : Nat} {s : State} (hs : Canonical s) : Canonical (takeImage part s) := by
  have hdrawn : Canonical { s with choice := s.choice + 1 } := hs
  rw [takeImage]
  split
  · exact imageError_canonical hdrawn
  · exact installImage_canonical hdrawn

theorem endImageCommand_canonical {part : Nat} {s : State} (hs : Canonical s) : Canonical (endImageCommand part s) :=
  canonical_onPkg_mem hs (onPart_mem ..)

theorem dropImage_canonical {part : Nat} {id : BitVec 16} {s : State} (hs : Canonical s) : Canonical (dropImage part id s) := by
  unfold dropImage
  split
  · exact imageError_canonical hs
  · exact imageError_canonical (clearTags_canonical (canonical_onPkg_mem hs (onPart_mem ..)))

/-! ## The start of a cycle -/

theorem countAll_canonical {s : State} (hs : Canonical s) : Canonical (countAll s) :=
  canonical_foldl (fun _ _ hu => canonical_onPkg_mem hu (onPart_mem ..)) _ hs

theorem startCycle_canonical {s : State} (hs : Canonical s) : Canonical (startCycle s) := by
  unfold startCycle
  split
  · exact hs
  · extract_lets met repaired plan
    have hmet : Canonical met := meetUpsets_canonical (countAll_canonical (canonical_onPkg_mem hs (by simp)))
    exact canonical_onPkg_mem (f := finishRepair met.choice) hmet (finishRepair_mem ..)

end Sys2Proof.Machine
end

section
namespace Sys2Proof.Machine
open Claims (Canonical CoresInOrder)

/-! ## The steps of the package's own -/

/-- A meaning that goes on does so in canonical form. -/
def NextCanonical (o : Host.Outcome State Fault Refusal) : Prop := ∀ t, o = .next t → Canonical t

theorem nextCanonical {t : State} (ht : Canonical t) : NextCanonical (.next t) := fun _ h => Host.Outcome.next.inj h ▸ ht

section steps
variable {s : State}

theorem execMemoryAccessPerformed_canonical {n id : Nat} (hs : Canonical s) :
    NextCanonical (execMemoryAccessPerformed n id s) := by
  refine nextCanonical ?_
  split
  · split
    · exact hs
    · split
      · exact hs
      · split
        · exact performAccess_canonical hs
        · exact performPosted_canonical hs fun _ hu => performAccess_canonical hu
  · exact hs

theorem execAmoPerformed_canonical {n id : Nat} (hs : Canonical s) : NextCanonical (execAmoPerformed n id s) := by
  refine nextCanonical ?_
  split
  · split
    · split
      · exact hs
      · split
        · exact performPosted_canonical hs fun _ hu => performAtomic_canonical hu
        · exact performAtomic_canonical hs
    · exact hs
  · exact hs

theorem execGlobalLoadReturn_canonical {n id : Nat} {r : Option Reply} (hs : Canonical s) :
    NextCanonical (execGlobalLoadReturn n id r s) := by
  refine nextCanonical (canonical_onCoreAt_comb hs fun c => ?_)
  split
  · split
    · split
      · exact answer_comb ..
      · rfl
    · rfl
  · rfl

theorem execAtomicReturn_canonical {n id : Nat} {r : Option Reply} (hs : Canonical s) :
    NextCanonical (execAtomicReturn n id r s) := by
  refine nextCanonical (canonical_onCoreAt_comb hs fun c => ?_)
  split
  · split
    · split
      · exact answer_comb ..
      · rfl
    · rfl
  · rfl

theorem execPostedWriteAck_canonical {n id : Nat} (hs : Canonical s) : NextCanonical (execPostedWriteAck n id s) := by
  refine nextCanonical (canonical_onCoreAt_comb hs fun c => ?_)
  split
  · simp only [apply_ite Core.comb, dropAccess_comb, ite_self]
  · rfl

theorem execApertureFaultReport_canonical {n id : Nat} (hs : Canonical s) :
    NextCanonical (execApertureFaultReport n id s) := by
  refine nextCanonical (canonical_onCoreAt_comb hs fun c => ?_)
  split
  · split
    · exact reportFault_comb ..
    · rfl
  · rfl

theorem execRemoteWriteInjection_canonical {n e : Nat} (hs : Canonical s) :
    NextCanonical (execRemoteWriteInjection n e s) := by
  refine nextCanonical ?_
  split
  · split
    · exact injectWrite_canonical hs
    · exact hs
  · exact hs

theorem execCellCommandTakesEffect_canonical {n e : Nat} (hs : Canonical s) :
    NextCanonical (execCellCommandTakesEffect n e s) := by
  refine nextCanonical ?_
  split
  · split
    · exact canonical_onCoreAt_comb hs fun c => by simp
    · exact hs
  · exact hs

theorem execEngineCommandBegin_canonical {n e : Nat} (hs : Canonical s) : NextCanonical (execEngineCommandBegin n e s) := by
  refine nextCanonical ?_
  split
  · exact hs
  · split
    · exact beginDecoder_canonical hs
    · exact beginFirst_canonical hs

theorem execEngineRequestSend_canonical {n e : Nat} (hs : Canonical s) : NextCanonical (execEngineRequestSend n e s) := by
  refine nextCanonical ?_
  split
  · exact hs
  · split
    · exact hs
    · split
      · exact sendPacket_canonical hs
      · extract_lets sent
        have hsent : Canonical sent := canonical_onCoreAt_comb hs fun c => by simp
        split
        · exact canonical_onPkg_mem hsent (askFor_mem ..)
        · exact hsent

theorem execEngineResponseArrival_canonical {n e i : Nat} {r : Option Reply} (hs : Canonical s) :
    NextCanonical (execEngineResponseArrival n e i r s) := by
  refine nextCanonical ?_
  split
  · exact hs
  · split
    · exact canonical_onCoreAt_comb hs fun c => by simp
    · split
      · exact collectiveArrival_canonical hs
      · split
        · exact answerRequest_canonical hs
        · exact hs

theorem execMigrationHoldTimeout_canonical {n e : Nat} (hs : Canonical s) :
    NextCanonical (execMigrationHoldTimeout n e s) := by
  refine nextCanonical ?_
  split
  · exact canonical_onCoreAt_comb hs fun c => by simp
  · exact hs

theorem execEngineCommandComplete_canonical {n e : Nat} (hs : Canonical s) :
    NextCanonical (execEngineCommandComplete n e s) :=
  nextCanonical (canonical_foldl (fun _ _ hu => completeCommand_canonical hu) _ hs)

theorem execRemoteWriteAccept_canonical {id : Nat} (hs : Canonical s) : NextCanonical (execRemoteWriteAccept id s) := by
  have sent : ∀ w b c, Canonical (onPkg (sendBack w b c) s) := fun w b c => canonical_onPkg_mem hs (sendBack_mem ..)
  refine nextCanonical ?_
  split
  · exact hs
  · extract_lets c x
    split
    · split
      · exact sent _ _ _
      · split
        · exact hs
        · split
          · exact sent _ _ _
          · exact canonical_onPkg_mem hs (onWrite_mem ..)
    · split
      · exact hs
      · exact finishWrite_canonical hs
    · exact hs

theorem execRemoteWriteAckArrival_canonical {id : Nat} (hs : Canonical s) :
    NextCanonical (execRemoteWriteAckArrival id s) := by
  refine nextCanonical ?_
  split
  · exact hs
  · split
    · split
      · exact hs
      · split
        · exact answerWriter_canonical hs
        · exact canonical_onPkg_mem hs (onWrite_mem ..)
    · split
      · exact hs
      · exact canonical_onPkg_mem hs (onWrite_mem ..)
    · exact hs

theorem execBoundCommandDelivery_canonical {i : Nat} (hs : Canonical s) : NextCanonical (execBoundCommandDelivery i s) := by
  refine nextCanonical ?_
  split
  · exact hs
  · split
    · exact hs
    · exact canonical_onPkg_mem (canonical_onCoreAt_comb hs fun _ => rfl) (onFrame_mem ..)

theorem execStopRecordWrite_canonical {n : Nat} (hs : Canonical s) : NextCanonical (execStopRecordWrite n s) := by
  refine nextCanonical ?_
  split
  · exact settleStop_canonical hs
  · exact hs

theorem execAutomaticResume_canonical {n : Nat} (hs : Canonical s) : NextCanonical (execAutomaticResume n s) := by
  refine nextCanonical ?_
  split
  · exact hs
  · split
    · exact canonical_onPkg_mem (canonical_onCoreAt_comb hs fun _ => rfl) (raiseVector_mem ..)
    · exact canonical_onCoreAt_comb hs fun c => by simp

theorem execRetirement_canonical {n : Nat} (hs : Canonical s) : NextCanonical (execRetirement n s) := by
  refine nextCanonical ?_
  split
  · split
    · exact beginRecord_canonical hs
    · exact hs
  · exact finishRetirement_canonical hs
  · exact hs

theorem execContextSave_canonical {n : Nat} (hs : Canonical s) : NextCanonical (execContextSave n s) := by
  refine nextCanonical ?_
  split
  · split
    · exact saveContext_canonical hs
    · exact hs
  · exact hs

theorem execContextRestore_canonical {n : Nat} (hs : Canonical s) : NextCanonical (execContextRestore n s) := by
  refine nextCanonical ?_
  split
  · exact restoreContext_canonical hs
  · exact hs

theorem execReleaseArrival_canonical {n : Nat} (hs : Canonical s) : NextCanonical (execReleaseArrival n s) := by
  refine nextCanonical ?_
  split
  · exact hs
  · exact canonical_onCoreAt_comb (canonical_onPkg_mem hs (onPart_mem ..)) fun _ => rfl

theorem execBarrierArrival_canonical {p i : Nat} (hs : Canonical s) : NextCanonical (execBarrierArrival p i s) := by
  refine nextCanonical ?_
  split
  · exact hs
  · split
    · exact hs
    · extract_lets performed
      have hperformed : Canonical performed := performAll_canonical hs
      split
      · exact hperformed
      · exact canonical_onPkg_mem hperformed (onPart_mem ..)

theorem execGraphInstanceComplete_canonical {p g : Nat} (hs : Canonical s) :
    NextCanonical (execGraphInstanceComplete p g s) := by
  refine nextCanonical ?_
  split
  · split
    · exact canonical_onPkg_mem hs (onPart_mem ..)
    · exact hs
  · exact hs

theorem execRequestLapse_canonical {n : Nat} (hs : Canonical s) : NextCanonical (execRequestLapse n s) := by
  refine nextCanonical ?_
  split
  · exact hs
  · extract_lets giving
    split
    · split
      · exact canonical_onPkg_mem (canonical_onCoreAt_comb hs fun _ => rfl) (onPart_mem ..)
      · exact hs
    · exact hs

theorem execWatchdogExpiry_canonical {p k : Nat} (hs : Canonical s) : NextCanonical (execWatchdogExpiry p k s) := by
  refine nextCanonical ?_
  split
  · exact hs
  · exact canonical_onPkg_mem hs (onPart_mem ..)

theorem execDrainDeadline_canonical {p : Nat} (hs : Canonical s) : NextCanonical (execDrainDeadline p s) := by
  refine nextCanonical ?_
  split
  · exact hs
  · split
    · split
      · exact beginSweep_canonical hs
      · exact hs
    · split
      · exact forceStep_canonical hs
      · exact hs

theorem execPartitionReset_canonical {p : Nat} (hs : Canonical s) : NextCanonical (execPartitionReset p s) := by
  refine nextCanonical ?_
  split
  · split
    · exact resetPartition_canonical hs
    · exact hs
  · exact hs

theorem execWatermarkSend_canonical {k : Nat} (hs : Canonical s) : NextCanonical (execWatermarkSend k s) := by
  refine nextCanonical ?_
  split
  · exact hs
  · refine canonical_onPkg_mem hs ?_
    rw [takeWag_mem]
    split <;> simp

theorem execDutyBoundary_canonical {watts : Nat} (hs : Canonical s) : NextCanonical (execDutyBoundary watts s) := by
  refine nextCanonical ?_
  split
  · exact canonical_onPkg_mem hs (updateDuty_mem ..)
  · exact hs

theorem execImageLoad_canonical {p : Nat} (hs : Canonical s) : NextCanonical (execImageLoad p s) := by
  refine nextCanonical ?_
  split
  · exact endImageCommand_canonical (takeImage_canonical hs)
  · exact hs

theorem execImageUnload_canonical {p : Nat} {id : BitVec 16} (hs : Canonical s) :
    NextCanonical (execImageUnload p id s) := by
  refine nextCanonical ?_
  split
  · exact endImageCommand_canonical (dropImage_canonical hs)
  · exact hs

/-- Every step of the package's own keeps the canonical form. -/
theorem runDevice_canonical (d : DeviceStep) (hs : Canonical s) : NextCanonical (runDevice d s) := by
  have hdrawn : Canonical { s with choice := s.choice + 1 } := hs
  cases d with
  | resultLanding c => exact nextCanonical (canonical_onCoreAt_comb hs landResults_comb)
  | busyStateEnd c => exact nextCanonical (canonical_onCoreAt hs endBusyStates_wf)
  | bundleIssue c => exact fun t ht => execBundleIssue_canonical hs ht
  | matrixStep c => exact nextCanonical (canonical_onCoreAt_comb hs fun _ => by simp)
  | memoryAccessPerformed c id => exact execMemoryAccessPerformed_canonical hs
  | amoPerformed c id => exact execAmoPerformed_canonical hs
  | globalLoadReturn c id => exact execGlobalLoadReturn_canonical hs
  | atomicReturn c id => exact execAtomicReturn_canonical hs
  | postedWriteAck c id => exact execPostedWriteAck_canonical hs
  | apertureFaultReport c id => exact execApertureFaultReport_canonical hs
  | translationWalkDone c => exact nextCanonical (canonical_onCoreAt_comb hs fun _ => finishWalk_comb ..)
  | remoteWriteInjection c e => exact execRemoteWriteInjection_canonical hs
  | cellCommandTakesEffect c e => exact execCellCommandTakesEffect_canonical hs
  | engineCommandBegin c e => exact execEngineCommandBegin_canonical hs
  | engineRequestSend c e => exact execEngineRequestSend_canonical hs
  | engineResponseArrival c e i => exact execEngineResponseArrival_canonical hs
  | migrationHoldTimeout c e => exact execMigrationHoldTimeout_canonical hs
  | engineCommandComplete c e => exact execEngineCommandComplete_canonical hs
  | loadSegment c d => exact nextCanonical (canonical_onCoreAt_comb hs fun _ => by simp)
  | decodeRound c d => exact nextCanonical (canonical_onCoreAt_comb hs fun _ => by simp)
  | remoteWriteHeaderArrival id => exact nextCanonical (headerArrives_canonical hs)
  | remoteWriteAccept id => exact execRemoteWriteAccept_canonical hs
  | remoteWriteAckArrival id => exact execRemoteWriteAckArrival_canonical hs
  | boundCommandDelivery i => exact execBoundCommandDelivery_canonical hs
  | migrationLineCopy n => exact nextCanonical (canonical_onPkg hs copyLine_wf)
  | tlbiComplete p => exact nextCanonical (canonical_onPkg_mem hs (onPart_mem ..))
  | stopRecordWrite c => exact execStopRecordWrite_canonical hs
  | automaticResume c => exact execAutomaticResume_canonical hs
  | retirement c => exact execRetirement_canonical hs
  | contextSave c => exact execContextSave_canonical hs
  | contextRestore c => exact execContextRestore_canonical hs
  | taskStart c => exact nextCanonical (startTask_canonical hs)
  | releaseArrival c => exact execReleaseArrival_canonical hs
  | barrierArrival p i => exact execBarrierArrival_canonical hs
  | graphInstanceComplete p g => exact execGraphInstanceComplete_canonical hs
  | completionRecordWrite p q => exact nextCanonical (completeRecord_canonical hs)
  | ringFetch p k => exact nextCanonical (fetchCard_canonical hs)
  | schedulerDecision p => exact nextCanonical (decide'_canonical hs)
  | preemptionRequestArrival c => exact nextCanonical (requestArrives_canonical hs)
  | requestLapse c => exact execRequestLapse_canonical hs
  | watchdogExpiry p k => exact execWatchdogExpiry_canonical hs
  | drainDeadline p => exact execDrainDeadline_canonical hs
  | partitionReset p => exact execPartitionReset_canonical hs
  | injectorAccept p => exact nextCanonical (canonical_onPkg_mem hs (injectPacket_mem ..))
  | waggleDelivery p => exact nextCanonical (canonical_onPkg_mem hdrawn (beginDelivery_mem ..))
  | mailboxRecordComplete p => exact nextCanonical (completeDelivery_canonical hs)
  | deliveryStall p => exact nextCanonical (canonical_onPkg_mem hs (checkStall_mem ..))
  | watermarkSend k => exact execWatermarkSend_canonical hs
  | dutyBoundary watts => exact execDutyBoundary_canonical hs
  | imageLoad p => exact execImageLoad_canonical hs
  | imageUnload p id => exact execImageUnload_canonical hs

end steps

end Sys2Proof.Machine
end

section
namespace Sys2Proof.Machine
open Claims (Canonical CoresInOrder)

/-! ## What comes from outside -/

section inputs
variable {s : State}

/-- What a host's input does to the package alone, memory untouched. -/
theorem nextCanonical_onPkg {f : Package → Package} (hs : Canonical s) (hf : (f s.pkg).mem = s.pkg.mem) :
    NextCanonical (.next (onPkg f s)) :=
  nextCanonical (canonical_onPkg_mem hs hf)

/-- An input that changes the package under a condition, or not at all. -/
theorem nextCanonical_onPkg_ite {p : Prop} [Decidable p] {f : Package → Package} (hs : Canonical s)
    (hf : (f s.pkg).mem = s.pkg.mem) : NextCanonical (.next (if p then onPkg f s else s)) := by
  split
  · exact nextCanonical_onPkg hs hf
  · exact nextCanonical hs

/-- A change of the package under a condition on it. -/
theorem nextCanonical_onPkg_cond {p : Package → Bool} {f : Package → Package} (hs : Canonical s)
    (hf : (f s.pkg).mem = s.pkg.mem) : NextCanonical (.next (onPkg (fun k => if p k then f k else k) s)) := by
  refine nextCanonical_onPkg hs ?_
  split
  · exact hf
  · rfl

theorem execEngineFault_canonical {n e : Nat} {code : BitVec 8} {cause : BitVec 4} (hs : Canonical s) :
    NextCanonical (execEngineFault n e code cause s) := by
  refine nextCanonical ?_
  split
  · split
    · exact canonical_onCoreAt_comb hs fun c => by simp
    · exact hs
  · split
    · split
      · exact canonical_onPkg_mem (canonical_onCoreAt_comb hs fun c => by simp) rfl
      · exact hs
    · exact hs

theorem execTlbRevoke_canonical {p : Nat} {pages : BitVec 32} (hs : Canonical s) :
    NextCanonical (execTlbRevoke p pages s) :=
  nextCanonical_onPkg (onTaskCores_canonical hs fun _ => revokePages_comb ..) (onPart_mem ..)

theorem execTlbRefresh_canonical {p : Nat} {pages : BitVec 32} (hs : Canonical s) :
    NextCanonical (execTlbRefresh p pages s) :=
  nextCanonical_onPkg (onTaskCores_canonical hs fun _ => refreshPages_comb ..) (onPart_mem ..)

theorem execDoorbell_canonical {p k : Nat} {v : BitVec 32} (hs : Canonical s) : NextCanonical (execDoorbell p k v s) := by
  refine nextCanonical ?_
  split
  · exact hs
  · split
    · exact canonical_onPkg_mem hs (by simp)
    · exact canonical_onPkg_mem hs (onPart_mem ..)

theorem execGrpWrite_canonical {p g : Nat} {v : BitVec 64} (hs : Canonical s) : NextCanonical (execGrpWrite p g v s) := by
  refine nextCanonical ?_
  split
  · exact hs
  · exact canonical_onPkg_mem hs (onPart_mem ..)

theorem execStopcmdResume_canonical {p : Nat} (hs : Canonical s) : NextCanonical (execStopcmdResume p s) := by
  refine nextCanonical ?_
  split
  · exact canonical_onCoreAt_comb hs fun c => by simp
  · exact hs

theorem execStopcmdEnd_canonical {p : Nat} {code : BitVec 8} (hs : Canonical s) : NextCanonical (execStopcmdEnd p code s) := by
  refine nextCanonical ?_
  split
  · exact canonical_onPkg_mem (canonical_onCoreAt_comb hs fun c => by simp)
      (foldl_mem (fun k (m : Command) => leaveFrames_mem _ m.serial k) _ _)
  · exact hs

theorem execFrapplyGo_canonical {f : Nat} (hs : Canonical s) : NextCanonical (execFrapplyGo f s) := by
  refine nextCanonical ?_
  split
  · exact hs
  · exact canonical_onPkg_mem hs (onFrame_mem ..)

theorem execQownWrite_canonical {v : BitVec 64} (hs : Canonical s) : NextCanonical (execQownWrite v s) := by
  refine nextCanonical ?_
  split
  · exact hs
  · exact canonical_onPkg_mem hs rfl

theorem execPackageReset_canonical (hs : Canonical s) : NextCanonical (execPackageReset s) := by
  refine nextCanonical ?_
  split
  · exact canonical_onPkg_mem (clearCores_canonical hs) (resetPackage_mem _)
  · exact hs

theorem execPowerOnBoot_canonical {b : BootInput} (hs : Canonical s) : NextCanonical (execPowerOnBoot b s) := by
  refine nextCanonical ?_
  split
  · exact hs
  · exact canonical_onPkg_mem hs (bootPackage_mem ..)

theorem execRecoveryImage_canonical {image : List (BitVec 8)} {ok : Bool} (hs : Canonical s) :
    NextCanonical (execRecoveryImage image ok s) := by
  refine nextCanonical ?_
  split
  · exact canonical_onPkg_mem (clearCores_canonical hs) rfl
  · exact hs

theorem execClkselWrite_canonical {v : BitVec 64} (hs : Canonical s) : NextCanonical (execClkselWrite v s) := by
  refine nextCanonical ?_
  split
  · exact hs
  · exact canonical_onPkg_mem hs rfl

theorem execThermalTrip_canonical (hs : Canonical s) : NextCanonical (execThermalTrip s) := by
  refine nextCanonical ?_
  split
  · exact losePower_canonical hs
  · exact hs

theorem execMbbaseWrite_canonical {p : Nat} {v : BitVec 64} (hs : Canonical s) : NextCanonical (execMbbaseWrite p v s) :=
  nextCanonical_onPkg_cond (f := fun k => onPart p (fun _ => _) k) hs (onPart_mem ..)

theorem execMbcfgWrite_canonical {p : Nat} {v : BitVec 64} (hs : Canonical s) : NextCanonical (execMbcfgWrite p v s) :=
  nextCanonical_onPkg_cond (f := fun k => onPart p (fun _ => _) k) hs (onPart_mem ..)

theorem execMbrptrWrite_canonical {p : Nat} {v : BitVec 64} (hs : Canonical s) : NextCanonical (execMbrptrWrite p v s) :=
  nextCanonical_onPkg_cond (f := fun k => onPart p (fun q => { q with mbrptr := _ }) k) hs (onPart_mem ..)

/-! ### Registers -/

theorem nextCanonical_ite {p : Prop} [Decidable p] {a b : Host.Outcome State Fault Refusal} (ha : NextCanonical a)
    (hb : NextCanonical b) : NextCanonical (if p then a else b) := by
  split
  · exact ha
  · exact hb

theorem writeStopcmd_canonical {p : Nat} {v : BitVec 64} (hs : Canonical s) : NextCanonical (writeStopcmd p v s) := by
  unfold writeStopcmd
  split
  · exact nextCanonical hs
  · split
    · exact execStopcmdResume_canonical hs
    · exact execStopcmdEnd_canonical hs
    · exact nextCanonical hs

theorem writeRepcmd_canonical {v : BitVec 64} (hs : Canonical s) : NextCanonical (writeRepcmd v s) := by
  unfold writeRepcmd
  split
  iterate 5 exact nextCanonical_onPkg hs (startRepair_mem ..)
  exact nextCanonical hs

/-- A write to any register keeps the canonical form. -/
theorem writeRegister_canonical (r : Register) (v : BitVec 64) (hs : Canonical s) : NextCanonical (writeRegister r v s) := by
  cases r with
  | pcfg n => exact nextCanonical (writePcfg_canonical hs)
  | pmem n k => exact nextCanonical (writePmem_canonical hs)
  | plim n k => exact nextCanonical (writePlim_canonical hs)
  | apcfg n => exact nextCanonical_onPkg hs (writeApcfg_mem ..)
  | apback n | app0 n | app1 n => exact nextCanonical_onPkg hs (writeAperture_mem ..)
  | mold n | mnew n | mlen n => exact nextCanonical_onPkg hs (onMigration_mem ..)
  | mctl n => exact nextCanonical_ite (nextCanonical_onPkg hs (startMigration_mem ..)) (nextCanonical_onPkg hs (onMigration_mem ..))
  | frepa f | frepb f => exact nextCanonical_onPkg hs (onFrame_mem ..)
  | frapply f => exact nextCanonical_ite (execFrapplyGo_canonical hs) (nextCanonical hs)
  | mhold | pnode | ptbound | rtab n | pwrlim => exact nextCanonical_onPkg hs rfl
  | ppctl k => exact nextCanonical_onPkg_ite hs (onPort_mem ..)
  | ppstat k => exact nextCanonical_onPkg hs (onPort_mem ..)
  | qown => exact execQownWrite_canonical hs
  | repcmd => exact writeRepcmd_canonical hs
  | clksel => exact execClkselWrite_canonical hs
  | therm => exact nextCanonical_onPkg hs (writeTherm_mem ..)
  | tlbicmd p => exact nextCanonical_ite (execTlbRefresh_canonical hs) (execTlbRevoke_canonical hs)
  | wdclr p => exact nextCanonical_ite (nextCanonical_onPkg_ite hs (onPart_mem ..)) (nextCanonical hs)
  | wclr p => exact nextCanonical_ite (nextCanonical_onPkg_ite hs (onPart_mem ..)) (nextCanonical hs)
  | mbbase p => exact execMbbaseWrite_canonical hs
  | mbcfg p => exact execMbcfgWrite_canonical hs
  | mbrptr p => exact execMbrptrWrite_canonical hs
  | grp p g => exact execGrpWrite_canonical hs
  | counter p i => exact nextCanonical_onPkg_ite hs (onPart_mem ..)
  | stopcmd p => exact writeStopcmd_canonical hs
  | ptroot p | tlbiva p | sage p | imgpa p | imgcmd p | rbase p k | rcfg p k | rrst p k | qwdog p k | cqbase p q | cqcfg p q
  | cqridx p q | wgm p i | ordstall p | stopsel p => exact nextCanonical_onPkg hs (onPart_mem ..)

theorem writeBar0_canonical {r : HostReg} {v : BitVec 64} (hs : Canonical s) : NextCanonical (writeBar0 r v s) := by
  unfold writeBar0
  extract_lets o
  refine nextCanonical_ite (nextCanonical hs) ?_
  split
  · exact nextCanonical hs
  · exact nextCanonical_ite (nextCanonical hs) (writeRegister_canonical _ _ hs)

theorem writeBar2_canonical {r : HostReg} {v : BitVec 64} (hs : Canonical s) : NextCanonical (writeBar2 r v s) := by
  unfold writeBar2
  exact nextCanonical_ite (execDoorbell_canonical hs) (nextCanonical hs)

theorem writeData_canonical {r : HostReg} {v : BitVec 64} (hs : Canonical s) : NextCanonical (writeData r v s) := by
  unfold writeData
  split
  · exact writeBar0_canonical hs
  · exact writeBar2_canonical hs
  · refine nextCanonical_onPkg hs ?_
    split
    · rw [writeMsix_mem, writeMsix_mem]
    · exact writeMsix_mem ..
  · exact nextCanonical hs

theorem execRegisterWrite_canonical {r : HostReg} {v : BitVec 64} (hs : Canonical s) :
    NextCanonical (execRegisterWrite r v s) := by
  unfold execRegisterWrite
  extract_lets done
  have hdone : ∀ bytes st, Canonical (done bytes st s) := fun bytes st => canonical_onPkg_mem hs (complete_mem ..)
  refine nextCanonical_ite (nextCanonical (hdone _ _)) ?_
  split
  · exact nextCanonical (hdone _ _)
  · exact nextCanonical (t := { done (toBytes (accessSize r) (readData r s).toNat) .ok s with choice := s.choice + 1 }) (hdone _ _)
  · exact nextCanonical_ite (nextCanonical (hdone _ _)) (writeData_canonical hs)

/-- Every input keeps the canonical form. -/
theorem exec_canonical {i : Instr} (hi : fromOutside i = true) (hs : Canonical s) : NextCanonical (exec i s) := by
  have hdrawn : Canonical { s with choice := s.choice + 1 } := hs
  cases i
  case globalLoadReturn => exact execGlobalLoadReturn_canonical hs
  case atomicReturn => exact execAtomicReturn_canonical hs
  case postedWriteAck => exact execPostedWriteAck_canonical hs
  case apertureFaultReport => exact execApertureFaultReport_canonical hs
  case engineResponseArrival => exact execEngineResponseArrival_canonical hs
  case engineFault => exact execEngineFault_canonical hs
  case collectiveCombine => exact nextCanonical_onPkg hs rfl
  case migrationStart => exact nextCanonical_onPkg hs (startMigration_mem ..)
  case migrationRetire => exact nextCanonical_onPkg hs (onMigration_mem ..)
  case tlbRevoke => exact execTlbRevoke_canonical hs
  case tlbRefresh => exact execTlbRefresh_canonical hs
  case apcfgWrite => exact nextCanonical_onPkg hs (writeApcfg_mem ..)
  case doorbell => exact execDoorbell_canonical hs
  case ringReset | cqcfgWrite => exact nextCanonical_onPkg hs (onPart_mem ..)
  case grpWrite => exact execGrpWrite_canonical hs
  case eventCounterWrite | wdclrGo | wclrGo | tdispRequest => exact nextCanonical_onPkg_ite hs (onPart_mem ..)
  case stopcmdResume => exact execStopcmdResume_canonical hs
  case stopcmdEnd => exact execStopcmdEnd_canonical hs
  case pcfgWrite => exact nextCanonical (writePcfg_canonical hs)
  case pmemWrite => exact nextCanonical (writePmem_canonical hs)
  case plimWrite => exact nextCanonical (writePlim_canonical hs)
  case frapplyGo => exact execFrapplyGo_canonical hs
  case qownWrite => exact execQownWrite_canonical hs
  case portTraining => exact nextCanonical_onPkg hs (trainPort_mem ..)
  case timeExchange => exact nextCanonical_onPkg hs (exchangeTime_mem ..)
  case watermarkReceive => exact nextCanonical_onPkg hs (receiveWatermark_mem ..)
  case wagglePacketArrival => exact nextCanonical_onPkg hs (receivePacket_mem ..)
  case flitForward | remoteRequestArrival => exact nextCanonical (canonical_onPkg hdrawn receiveFlit_wf)
  case ppctlWrite | podPortLinkLoss => exact nextCanonical_onPkg_ite hs (onPort_mem ..)
  case hbmRowRepair | hbmBankRepair | ucieLaneRepair | podLaneRepair | superTierRemap =>
    exact nextCanonical_onPkg hs (startRepair_mem ..)
  case packageReset => exact execPackageReset_canonical hs
  case powerOnBoot => exact execPowerOnBoot_canonical hs
  case recoveryImage => exact execRecoveryImage_canonical hs
  case spdmRequest => exact nextCanonical (canonical_onPkg_mem hdrawn (answerSpdm_mem ..))
  case pwrlimWrite => exact nextCanonical_onPkg hs rfl
  case clkselWrite => exact execClkselWrite_canonical hs
  case thermalWarning => exact nextCanonical_onPkg hs (measureHeat_mem ..)
  case thermalTrip => exact execThermalTrip_canonical hs
  case powerLoss => exact nextCanonical (losePower_canonical hs)
  case hostMemoryAccess => exact nextCanonical (canonical_onPkg hdrawn hostAccess_wf)
  case mbbaseWrite => exact execMbbaseWrite_canonical hs
  case mbcfgWrite => exact execMbcfgWrite_canonical hs
  case mbrptrWrite => exact execMbrptrWrite_canonical hs
  case registerWrite => exact execRegisterWrite_canonical hs
  all_goals exact absurd hi Bool.false_ne_true

end inputs

/-- Settles O59: a step is an input's meaning, a lost input, a step of the package's own or the start of a cycle, and each of
these keeps the canonical form. -/
theorem stepsKeepTheCanonicalForm : Obligations.StepsKeepTheCanonicalForm := by
  intro s t hs hstep
  match hin : s.inputs, hag : s.agenda with
  | i :: rest, _ =>
    have hrest : Canonical { s with inputs := rest } := hs
    cases htake : takesInput s.pkg i with
    | true =>
      rw [step_input hin htake] at hstep
      exact exec_canonical (Bool.and_eq_true_iff.mp htake).1 hrest t hstep
    | false =>
      rw [step_lost hin htake] at hstep
      exact nextCanonical hrest t hstep
  | [], d :: rest =>
    rw [step_agenda hin hag] at hstep
    exact runDevice_canonical d (s := { s with agenda := rest }) hs t hstep
  | [], [] =>
    rw [step_cycle hin hag] at hstep
    exact nextCanonical (startCycle_canonical hs) t hstep

end Sys2Proof.Machine
end

section
/-!
What the physical function sets up of a partition (R2, R205, R362, R394, R423): ranges as sets of addresses, memory under
another key, and the writes of PCFG, PMEM and PLIM.
-/

namespace Sys2Proof.Machine
open Claims (HasRange OfPartition SharesFrames SharesMemory OutsideTiers Apart InMemory Live Rekeyed setPart)

/-! ## Elements of vectors, and partitions -/

theorem vget_vset_same {α : Type} {n : Nat} {v : Vector α n} {i : Nat} {x d : α} (hi : i < n) : vget (vset v i x) i d = x := by
  simp [vget, vset, hi]

theorem vget_vset_ne {α : Type} {n : Nat} {v : Vector α n} {i j : Nat} {x d : α} (h : i ≠ j) :
    vget (vset v i x) j d = vget v j d := by
  unfold vget vset
  split
  · next hj => rw [Vector.getElem_setIfInBounds_ne hj h]
  · rfl

theorem partOf_onPart_same {n : Nat} {f : Partition → Partition} {k : Package} (hn : n < 16) :
    partOf (onPart n f k) n = f (partOf k n) := vget_vset_same hn

theorem onPart_onPart {n : Nat} {f g : Partition → Partition} {k : Package} (hn : n < 16) :
    onPart n g (onPart n f k) = onPart n (fun p => g (f p)) k := by
  show { k with parts := vset (onPart n f k).parts n (g (partOf (onPart n f k) n)) } = _
  rw [partOf_onPart_same hn]
  simp [onPart, vset]

/-- A partition replaced by what a function makes of it. -/
theorem onPart_eq_setPart (n : Nat) (f : Partition → Partition) (k : Package) : onPart n f k = setPart k n (f (partOf k n)) := rfl

/-! ## Ranges -/

theorem partRange_eq_some {p : Partition} {j lo len : Nat} (hj : j < 8) :
    partRange p j = some (lo, len) ↔ HasRange p j lo len := by
  unfold partRange HasRange
  simp only [Option.ite_none_right_eq_some, Bool.and_eq_true, decide_eq_true_eq, Option.some.injEq, Prod.mk.injEq]
  constructor
  · rintro ⟨⟨hen, hle⟩, rfl, rfl⟩
    exact ⟨hj, hen, rfl, hle, by omega⟩
  · rintro ⟨-, hen, rfl, hle, hlen⟩
    exact ⟨⟨hen, hle⟩, rfl, by omega⟩

/-- R362: the enabled ranges of a partition, each with its first byte and its length. -/
theorem mem_partRanges {p : Partition} {lo len : Nat} : (lo, len) ∈ partRanges p ↔ ∃ j, HasRange p j lo len := by
  simp only [partRanges, List.mem_filterMap, List.mem_range]
  constructor
  · rintro ⟨j, hj, h⟩
    exact ⟨j, (partRange_eq_some hj).mp h⟩
  · rintro ⟨j, h⟩
    exact ⟨j, h.1, (partRange_eq_some h.1).mpr h⟩

theorem hasRange_pos {p : Partition} {j lo len : Nat} (h : HasRange p j lo len) : 0 < len := by
  obtain ⟨-, -, -, hle, hlen⟩ := h
  omega

theorem meets_iff {a n b k : Nat} : meets a n b k = true ↔ ¬ Apart a n b k := by
  simp only [meets, Apart, Bool.and_eq_true, bne_iff_ne, decide_eq_true_eq]
  omega

/-- Whether some range of a list holds an address. -/
def inRanges (rs : List (Nat × Nat)) (a : Nat) : Bool := rs.any fun r => r.1 ≤ a && a < r.1 + r.2

theorem inRanges_partRanges {p : Partition} {a : Nat} : inRanges (partRanges p) a = true ↔ OfPartition p a := by
  simp only [inRanges, List.any_eq_true, Bool.and_eq_true, decide_eq_true_eq, OfPartition, Prod.exists, mem_partRanges]
  constructor
  · rintro ⟨lo, len, ⟨j, h⟩, hlo, hhi⟩
    exact ⟨j, lo, len, h, hlo, hhi⟩
  · rintro ⟨j, lo, len, h, hlo, hhi⟩
    exact ⟨lo, len, ⟨j, h⟩, hlo, hhi⟩

theorem inRanges_keyedRanges {p : Partition} {a : Nat} :
    inRanges (keyedRanges p) a = true ↔ p.en = true ∧ OfPartition p a := by
  unfold keyedRanges
  split
  · next h => simp [h, inRanges_partRanges]
  · next h => simp [h, inRanges]

theorem keyedRanges_pos {p : Partition} {r : Nat × Nat} (h : r ∈ keyedRanges p) : 0 < r.2 := by
  unfold keyedRanges at h
  split at h
  · obtain ⟨j, hj⟩ := mem_partRanges.mp h
    exact hasRange_pos hj
  · exact absurd h List.not_mem_nil

/-! ## Ranges less others -/

/-- The draw of the first range that holds an address. -/
def drawAt (a : Nat) (u : List (Nat × Nat × Nat)) : Option Nat := (u.find? fun r => r.1 ≤ a && a < r.1 + r.2.1).map (·.2.2)

theorem undefinedDraw_eq (k : Package) (a : Nat) : undefinedDraw k a = drawAt a k.undef := rfl

theorem drawAt_append (a : Nat) (u w : List (Nat × Nat × Nat)) : drawAt a (u ++ w) = (drawAt a u).or (drawAt a w) := by
  simp only [drawAt, List.find?_append]
  cases u.find? fun r => decide (r.1 ≤ a) && decide (a < r.1 + r.2.1) <;> simp

theorem drawAt_cons (a : Nat) (r : Nat × Nat × Nat) (u : List (Nat × Nat × Nat)) :
    drawAt a (r :: u) = if r.1 ≤ a ∧ a < r.1 + r.2.1 then some r.2.2 else drawAt a u := by
  simp only [drawAt, List.find?_cons]
  split <;> simp_all

/-- A piece of a range, left out where it is empty. -/
theorem drawAt_piece (a lo len draw : Nat) :
    drawAt a (if len = 0 then [] else [(lo, len, draw)]) = if lo ≤ a ∧ a < lo + len then some draw else none := by
  split
  · next h =>
    rw [if_neg (by omega)]
    rfl
  · exact drawAt_cons ..

/-- A range less another has its draw where the other does not reach. -/
theorem drawAt_cutRange (a lo len : Nat) (r : Nat × Nat × Nat) :
    drawAt a (cutRange lo len r) =
      if lo ≤ a ∧ a < lo + len then none else if r.1 ≤ a ∧ a < r.1 + r.2.1 then some r.2.2 else none := by
  simp only [cutRange]
  split
  · next hapart =>
    rw [Bool.not_eq_true', ← Bool.not_eq_true, meets_iff, not_not] at hapart
    unfold Apart at hapart
    rw [drawAt_cons]
    by_cases hr : r.1 ≤ a ∧ a < r.1 + r.2.1
    · rw [if_neg (by omega : ¬ (lo ≤ a ∧ a < lo + len))]
      rfl
    · simp [hr, drawAt]
  · next hmeets =>
    rw [Bool.not_eq_true', Bool.not_eq_false, meets_iff] at hmeets
    unfold Apart at hmeets
    rw [drawAt_append, drawAt_piece, drawAt_piece]
    by_cases hin : lo ≤ a ∧ a < lo + len
    · rw [if_neg (by omega), if_neg (by omega), if_pos hin]
      rfl
    · rw [if_neg hin]
      by_cases hr : r.1 ≤ a ∧ a < r.1 + r.2.1
      · rw [if_pos hr]
        rcases Nat.lt_or_ge a lo with hlt | hge
        · rw [if_pos (by omega)]
          rfl
        · rw [if_neg (by omega), if_pos (by omega)]
          rfl
      · rw [if_neg hr, if_neg (by omega), if_neg (by omega)]
        rfl

/-- Ranges less another have their draws where the other does not reach. -/
theorem drawAt_flatMap_cutRange (a lo len : Nat) (u : List (Nat × Nat × Nat)) :
    drawAt a (u.flatMap (cutRange lo len)) = if lo ≤ a ∧ a < lo + len then none else drawAt a u := by
  induction u with
  | nil => simp [drawAt]
  | cons r rest ih =>
    rw [List.flatMap_cons, drawAt_append, ih, drawAt_cutRange, drawAt_cons]
    split
    · rfl
    · split <;> rfl

/-- Ranges less many others. -/
theorem drawAt_foldl_cutRange (a : Nat) (rs : List (Nat × Nat)) (u : List (Nat × Nat × Nat)) :
    drawAt a (rs.foldl (fun u r => u.flatMap (cutRange r.1 r.2)) u) = if inRanges rs a then none else drawAt a u := by
  induction rs generalizing u with
  | nil => simp [inRanges]
  | cons r rest ih =>
    rw [List.foldl_cons, ih, drawAt_flatMap_cutRange]
    have hcons : inRanges (r :: rest) a = (decide (r.1 ≤ a ∧ a < r.1 + r.2) || inRanges rest a) := by simp [inRanges]
    by_cases hr : r.1 ≤ a ∧ a < r.1 + r.2 <;> simp [hcons, hr]

theorem drawAt_isSome_iff {a : Nat} {u : List (Nat × Nat × Nat)} :
    (drawAt a u).isSome = true ↔ ∃ r ∈ u, r.1 ≤ a ∧ a < r.1 + r.2.1 := by
  simp [drawAt]

/-- Some ranges less others hold what the first hold and the others do not. -/
theorem inRanges_rangesLess (rs others : List (Nat × Nat)) (a : Nat) :
    inRanges (rangesLess rs others) a = (inRanges rs a && !inRanges others a) := by
  have hall : ∀ u : List (Nat × Nat × Nat), inRanges (u.map fun r => (r.1, r.2.1)) a = (drawAt a u).isSome := fun u => by
    rw [Bool.eq_iff_iff, drawAt_isSome_iff]
    simp [inRanges]
  have hrs : (drawAt a (rs.map fun r => (r.1, r.2, 0))).isSome = inRanges rs a := by
    rw [Bool.eq_iff_iff, drawAt_isSome_iff]
    simp [inRanges]
  rw [rangesLess, hall, drawAt_foldl_cutRange, ← hrs]
  cases inRanges others a <;> simp

/-- A range less another is in pieces that are not empty. -/
theorem cutRange_pos {lo len : Nat} {r x : Nat × Nat × Nat} (h : 0 < r.2.1) (hx : x ∈ cutRange lo len r) : 0 < x.2.1 := by
  simp only [cutRange] at hx
  split at hx
  · rwa [List.mem_singleton.mp hx]
  · rcases List.mem_append.mp hx with hx | hx
    all_goals
      split at hx
      · exact absurd hx List.not_mem_nil
      · next hne =>
        rw [List.mem_singleton.mp hx]
        exact Nat.pos_of_ne_zero hne

theorem foldl_cutRange_pos {rs : List (Nat × Nat)} {u : List (Nat × Nat × Nat)} (h : ∀ x ∈ u, 0 < x.2.1) :
    ∀ x ∈ rs.foldl (fun u r => u.flatMap (cutRange r.1 r.2)) u, 0 < x.2.1 := by
  refine List.foldlRecOn rs _ (motive := fun u : List (Nat × Nat × Nat) => ∀ x ∈ u, 0 < x.2.1) h fun u hu r _ x hx => ?_
  obtain ⟨y, hy, hxy⟩ := List.mem_flatMap.mp hx
  exact cutRange_pos (hu y hy) hxy

/-- Ranges that are not empty, less themselves, are none. -/
theorem rangesLess_self {rs : List (Nat × Nat)} (h : ∀ r ∈ rs, 0 < r.2) : rangesLess rs rs = [] := by
  refine List.eq_nil_iff_forall_not_mem.mpr fun x hx => ?_
  have hpos : 0 < x.2 := by
    obtain ⟨y, hy, rfl⟩ := List.mem_map.mp hx
    refine foldl_cutRange_pos (fun z hz => ?_) y hy
    obtain ⟨r, hr, rfl⟩ := List.mem_map.mp hz
    exact h r hr
  have hin : inRanges (rangesLess rs rs) x.1 = true := by
    simp only [inRanges, List.any_eq_true, Bool.and_eq_true, decide_eq_true_eq]
    exact ⟨x, hx, le_refl _, by omega⟩
  rw [inRanges_rangesLess, Bool.and_not_self] at hin
  exact Bool.false_ne_true hin

/-! ## Memory under another key -/

theorem memByte_filter {m : List Host.Cell} {p : Host.Cell → Bool} {a : Nat} (h : ∀ x, p (a, x) = true) :
    memByte (m.filter p) a = memByte m a := by
  induction m with
  | nil => rfl
  | cons y rest ih =>
    obtain ⟨b, x⟩ := y
    by_cases hb : b = a
    · subst hb
      simp [h, memByte]
    · rw [List.filter_cons]
      split <;> simp [memByte, hb, ih]

/-- Ranges that all have one draw. -/
theorem drawAt_map (a draw : Nat) (rs : List (Nat × Nat)) :
    drawAt a (rs.map fun r => (r.1, r.2, draw)) = if inRanges rs a then some draw else none := by
  induction rs with
  | nil => rfl
  | cons r rest ih =>
    have hcons : inRanges (r :: rest) a = (decide (r.1 ≤ a ∧ a < r.1 + r.2) || inRanges rest a) := by simp [inRanges]
    rw [List.map_cons, drawAt_cons, ih, hcons]
    by_cases hr : r.1 ≤ a ∧ a < r.1 + r.2 <;> simp [hr]

theorem undefinedDraw_rekeyMemory (rs : List (Nat × Nat)) (draw : Nat) (k : Package) (a : Nat) :
    undefinedDraw (rekeyMemory rs draw k) a = if inRanges rs a then some draw else undefinedDraw k a := by
  rw [undefinedDraw_eq, undefinedDraw_eq]
  simp only [rekeyMemory]
  rw [drawAt_append, drawAt_map, drawAt_foldl_cutRange]
  split <;> rfl

/-- R423: memory whose key changes at some addresses. -/
theorem rekeyMemory_rekeyed {rs : List (Nat × Nat)} {draw : Nat} {k : Package} {mine : Nat → Prop}
    (hmine : ∀ a, inRanges rs a = true ↔ mine a) : Rekeyed k (rekeyMemory rs draw k) mine draw := by
  refine ⟨⟨_, _, _, _, rfl⟩, fun w => ?_, fun hwf => ⟨rekeyMemory_wf hwf, fun a => ⟨fun ha => ?_, fun ha => ?_⟩⟩⟩
  · rw [← hmine]
    simp [rekeyMemory, inRanges]
  · rw [memAt, undefinedDraw_rekeyMemory, if_pos ((hmine a).mpr ha)]
  · have hout : ¬ inRanges rs a = true := fun h => ha ((hmine a).mp h)
    have hmem : memByte (rekeyMemory rs draw k).mem a = memByte k.mem a :=
      memByte_filter fun _ => by simpa [inRanges] using hout
    rw [memAt, undefinedDraw_rekeyMemory, if_neg hout, hmem]
    rfl

/-- With no address under another key, nothing changes. -/
theorem rekeyMemory_nil (draw : Nat) (k : Package) : rekeyMemory [] draw k = k := by
  simp [rekeyMemory]

/-- R423: the addresses whose key a change of a partition's registers changes: those that it held before or holds now, but not
both, and all that it holds now where its key is fresh. -/
def keyChanges (p q : Partition) (a : Nat) : Prop :=
  if p.keys = q.keys then ¬ ((p.en = true ∧ OfPartition p a) ↔ (q.en = true ∧ OfPartition q a))
  else (p.en = true ∧ OfPartition p a) ∨ (q.en = true ∧ OfPartition q a)

theorem inRanges_append (rs others : List (Nat × Nat)) (a : Nat) :
    inRanges (rs ++ others) a = (inRanges rs a || inRanges others a) := by
  simp [inRanges]

theorem chooseKeys_rekeyed (n draw : Nat) (old new : Package) :
    Rekeyed new (chooseKeys n draw old new) (keyChanges (partOf old n) (partOf new n)) draw := by
  refine rekeyMemory_rekeyed fun a => ?_
  rw [keyChanges, ← inRanges_keyedRanges, ← inRanges_keyedRanges, inRanges_append, inRanges_rangesLess]
  have hnone : inRanges [] a = false := rfl
  by_cases hkeys : (partOf old n).keys = (partOf new n).keys
  · rw [if_pos hkeys, if_neg (by simp [hkeys]), inRanges_rangesLess]
    cases inRanges (keyedRanges (partOf old n)) a <;> cases inRanges (keyedRanges (partOf new n)) a <;> simp
  · rw [if_neg hkeys, if_pos (by simp [hkeys]), inRanges_rangesLess, hnone]
    cases inRanges (keyedRanges (partOf old n)) a <;> cases inRanges (keyedRanges (partOf new n)) a <;> simp

/-- A change that leaves the key and the ranges of a partition leaves memory. -/
theorem chooseKeys_same {n draw : Nat} {old new : Package} (hkeys : (partOf old n).keys = (partOf new n).keys)
    (hranges : keyedRanges (partOf old n) = keyedRanges (partOf new n)) : chooseKeys n draw old new = new := by
  have hself := rangesLess_self fun r (h : r ∈ keyedRanges (partOf new n)) => keyedRanges_pos h
  simp only [chooseKeys, hkeys, hranges, hself, bne_self_eq_false, Bool.false_eq_true, if_false, List.append_nil,
    rekeyMemory_nil]

/-! ## What refuses a write -/

theorem and_ne_zero_iff {w : Nat} {x y : BitVec w} :
    x &&& y ≠ 0 ↔ ∃ i < w, x.getLsbD i = true ∧ y.getLsbD i = true := by
  constructor
  · intro hne
    by_contra hnone
    refine hne (BitVec.eq_of_getLsbD_eq fun i hi => ?_)
    rw [BitVec.getLsbD_and, BitVec.ofNat_eq_ofNat, BitVec.getLsbD_zero, ← Bool.not_eq_true, Bool.and_eq_true]
    exact fun h => hnone ⟨i, hi, h⟩
  · rintro ⟨i, -, hx, hy⟩ hzero
    have hbit := congrArg (·.getLsbD i) hzero
    simp [hx, hy] at hbit

theorem sharesFrames_iff {k : Package} {n : Nat} {frames ports : BitVec 16} :
    sharesFrames k n frames ports = true ↔ SharesFrames k n frames ports := by
  simp only [sharesFrames, SharesFrames, List.any_eq_true, List.mem_range, Bool.and_eq_true, Bool.or_eq_true, bne_iff_ne,
    and_ne_zero_iff, and_assoc]
  refine exists_congr fun m => and_congr_right fun _ => and_congr_right fun _ => and_congr_right fun _ => ?_
  rw [← exists_or]
  exact exists_congr fun i => and_or_left.symm

theorem sharesRanges_iff {k : Package} {n : Nat} : sharesRanges k n = true ↔ SharesMemory k n := by
  simp only [sharesRanges, SharesMemory, List.any_eq_true, List.mem_range, Bool.and_eq_true, bne_iff_ne, meets_iff,
    Prod.exists, mem_partRanges]
  constructor
  · rintro ⟨m, hm, ⟨hmn, lo, len, ⟨i, hi⟩, lo', len', ⟨j, hj⟩, h⟩⟩
    exact ⟨m, hm, hmn, i, j, lo, len, lo', len', hi, hj, h⟩
  · rintro ⟨m, hm, hmn, i, j, lo, len, lo', len', hi, hj, h⟩
    exact ⟨m, hm, hmn, lo, len, ⟨i, hi⟩, lo', len', ⟨j, hj⟩, h⟩

theorem partitionBusy_iff {s : State} {n : Nat} : partitionBusy s n = true ↔ Live s n := by
  simp [partitionBusy, Live]

/-- R245: a range that is not empty lies in one tier. -/
theorem inTier_iff {k : Package} {lo len : Nat} (h : 0 < len) :
    inTier k lo len = true ↔ InMemory k lo len ∨ (0x80000000000 ≤ lo ∧ lo + len ≤ 0x90000000000) := by
  simp only [inTier, rangeInMemory, rangeIn, inHbm, inSuper, inWindows, InMemory, Bool.or_eq_true, Bool.and_eq_true,
    decide_eq_true_eq, beq_iff_eq]
  omega

theorem outsideTiers_iff {k : Package} {n : Nat} : outsideTiers k n = true ↔ OutsideTiers k (partOf k n) := by
  simp only [outsideTiers, OutsideTiers, List.any_eq_true, Prod.exists, mem_partRanges, Bool.not_eq_true', ← Bool.not_eq_true]
  constructor
  · rintro ⟨lo, len, ⟨j, h⟩, hout⟩
    rw [inTier_iff (hasRange_pos h), not_or] at hout
    exact ⟨j, lo, len, h, hout⟩
  · rintro ⟨j, lo, len, h, hout⟩
    refine ⟨lo, len, ⟨j, h⟩, ?_⟩
    rwa [inTier_iff (hasRange_pos h), not_or]

end Sys2Proof.Machine
end

section
namespace Sys2Proof.Machine
open Claims (HasRange OfPartition SharesFrames SharesMemory OutsideTiers Apart InMemory Live Rekeyed setPart)

/-! ## Writes of PCFG, PMEM and PLIM -/

theorem partOf_setPart_same {k : Package} {n : Nat} {q : Partition} (hn : n < 16) : partOf (setPart k n q) n = q :=
  vget_vset_same hn

/-- A partition's registers have changed, and some addresses are under another key. -/
theorem changeRanges_rekeyed {s : State} {n : Nat} {q : Partition} {mine : Nat → Prop} (hn : n < 16)
    (hmine : ∀ a, keyChanges (partOf s.pkg n) q a ↔ mine a) :
    ∃ k, Rekeyed (setPart s.pkg n q) k mine s.choice ∧
      changeRanges n (setPart s.pkg n q) s = { s with choice := s.choice + 1, pkg := k } := by
  have hkeys := chooseKeys_rekeyed n s.choice s.pkg (setPart s.pkg n q)
  rw [partOf_setPart_same hn, funext fun a => propext (hmine a)] at hkeys
  exact ⟨_, hkeys, rfl⟩

/-- A partition's registers have changed, its key and its ranges have not. -/
theorem changeRanges_same {s : State} {n : Nat} {q : Partition} (hn : n < 16) (hkeys : (partOf s.pkg n).keys = q.keys)
    (hranges : keyedRanges (partOf s.pkg n) = keyedRanges q) :
    changeRanges n (setPart s.pkg n q) s = { s with choice := s.choice + 1, pkg := setPart s.pkg n q } := by
  rw [changeRanges, chooseKeys_same] <;> rwa [partOf_setPart_same hn]

/-- R362: when a write of PCFG is taken. -/
def TakesPcfg (s : State) (n : Nat) (v : BitVec 64) : Prop :=
  (partOf s.pkg n).locked = false ∧
    (Live s n → v.extractLsb' 0 16 = (partOf s.pkg n).frames ∧ v.extractLsb' 16 16 = (partOf s.pkg n).ports)

/-- R362: what refuses to enable a partition with the frames and ports of a write of PCFG. -/
def RefusesPcfg (s : State) (n : Nat) (v : BitVec 64) : Prop :=
  SharesFrames s.pkg n (v.extractLsb' 0 16) (v.extractLsb' 16 16) ∨ SharesMemory s.pkg n

theorem takesPcfg_iff {s : State} {n : Nat} {v : BitVec 64} (hn : n < 16) :
    (16 ≤ n || (partOf s.pkg n).locked || (partitionBusy s n && (v.extractLsb' 0 16 != (partOf s.pkg n).frames ||
      v.extractLsb' 16 16 != (partOf s.pkg n).ports))) = true ↔ ¬ TakesPcfg s n v := by
  have hlow : ¬ 16 ≤ n := by omega
  simp only [Bool.or_eq_true, Bool.and_eq_true, decide_eq_true_eq, hlow, false_or, partitionBusy_iff, bne_iff_ne, TakesPcfg,
    not_and_or, Classical.not_imp, Bool.not_eq_false]

/-- R362: the enable bit that a write of PCFG leaves. -/
theorem pcfgEnables_iff {s : State} {n : Nat} {v : BitVec 64} :
    (v.getLsbD 32 && !sharesFrames s.pkg n (v.extractLsb' 0 16) (v.extractLsb' 16 16) && !sharesRanges s.pkg n) = true ↔
      v.getLsbD 32 = true ∧ ¬ RefusesPcfg s n v := by
  simp only [Bool.and_eq_true, Bool.not_eq_true', ← Bool.not_eq_true, sharesFrames_iff, sharesRanges_iff, RefusesPcfg,
    not_or, and_assoc]

theorem writePcfg_ignored {s : State} {n : Nat} {v : BitVec 64} (hn : n < 16) (h : ¬ TakesPcfg s n v) :
    writePcfg n v s = s := if_pos ((takesPcfg_iff hn).mpr h)

theorem writePcfg_disables {s : State} {n : Nat} {v : BitVec 64} (hn : n < 16) (h : TakesPcfg s n v)
    (hen : ¬ (v.getLsbD 32 = true ∧ ¬ RefusesPcfg s n v)) :
    writePcfg n v s = changeRanges n (setPart s.pkg n
      { partOf s.pkg n with frames := v.extractLsb' 0 16, ports := v.extractLsb' 16 16, en := false }) s := by
  have htaken := mt (takesPcfg_iff hn).mp (not_not_intro h)
  rw [← pcfgEnables_iff, Bool.not_eq_true] at hen
  simp only [writePcfg, if_neg htaken, hen, Bool.false_and, Bool.false_eq_true, if_false, onPart_eq_setPart]

theorem writePcfg_stays {s : State} {n : Nat} {v : BitVec 64} (hn : n < 16) (h : TakesPcfg s n v)
    (hen : v.getLsbD 32 = true ∧ ¬ RefusesPcfg s n v) (hwas : (partOf s.pkg n).en = true) :
    writePcfg n v s = changeRanges n (setPart s.pkg n
      { partOf s.pkg n with frames := v.extractLsb' 0 16, ports := v.extractLsb' 16 16 }) s := by
  have htaken := mt (takesPcfg_iff hn).mp (not_not_intro h)
  rw [← pcfgEnables_iff] at hen
  simp only [writePcfg, if_neg htaken, hen, hwas, Bool.not_true, Bool.and_false, Bool.false_eq_true, if_false,
    onPart_eq_setPart]

theorem writePcfg_creates {s : State} {n : Nat} {v : BitVec 64} (hn : n < 16) (h : TakesPcfg s n v)
    (hen : v.getLsbD 32 = true ∧ ¬ RefusesPcfg s n v) (hwas : (partOf s.pkg n).en = false) :
    writePcfg n v s = changeRanges n (setPart s.pkg n
      { partOf s.pkg n with
          frames := v.extractLsb' 0 16, ports := v.extractLsb' 16 16, en := true, keys := (partOf s.pkg n).keys + 1
          counters := [], seq := 0, cards := (partOf s.pkg n).cards.filter fun c => c.left != 0 }) s := by
  have htaken := mt (takesPcfg_iff hn).mp (not_not_intro h)
  rw [← pcfgEnables_iff] at hen
  simp only [writePcfg, if_neg htaken, hen, hwas, Bool.not_false, Bool.and_true, if_true, createPartition,
    onPart_onPart hn]
  rfl

/-- R362: when a write of a memory register of a partition is taken. -/
def TakesRange (s : State) (n : Nat) (old new : BitVec 64) : Prop :=
  (partOf s.pkg n).locked = false ∧ (Live s n → new = old)

theorem takesRange_iff {s : State} {n : Nat} {old new : BitVec 64} (hn : n < 16) :
    (16 ≤ n || (partOf s.pkg n).locked || (partitionBusy s n && new != old)) = true ↔ ¬ TakesRange s n old new := by
  have hlow : ¬ 16 ≤ n := by omega
  simp only [Bool.or_eq_true, Bool.and_eq_true, decide_eq_true_eq, hlow, false_or, partitionBusy_iff, bne_iff_ne,
    TakesRange, not_and_or, Classical.not_imp, Bool.not_eq_false]

/-- R2, R362: what refuses to enable the ranges of a partition. -/
def RefusesRanges (s : State) (n : Nat) (q : Partition) : Prop := SharesMemory (setPart s.pkg n q) n ∨ OutsideTiers s.pkg q

theorem refusesRanges_iff {s : State} {n : Nat} {q : Partition} (hn : n < 16) :
    (sharesRanges (setPart s.pkg n q) n || outsideTiers (setPart s.pkg n q) n) = true ↔ RefusesRanges s n q := by
  rw [Bool.or_eq_true, sharesRanges_iff, outsideTiers_iff, partOf_setPart_same hn]
  rfl

theorem writePmem_ignored {s : State} {n j : Nat} {v : BitVec 64} (hn : n < 16)
    (h : ¬ TakesRange s n (vget (partOf s.pkg n).pmem j 0) (pmemBits v)) : writePmem n j v s = s :=
  if_pos ((takesRange_iff hn).mpr h)

theorem writePmem_taken {s : State} {n j : Nat} {v : BitVec 64} (hn : n < 16)
    (h : TakesRange s n (vget (partOf s.pkg n).pmem j 0) (pmemBits v))
    (hr : ¬ RefusesRanges s n { partOf s.pkg n with pmem := vset (partOf s.pkg n).pmem j (pmemBits v) }) :
    writePmem n j v s = changeRanges n (setPart s.pkg n
      { partOf s.pkg n with pmem := vset (partOf s.pkg n).pmem j (pmemBits v) }) s := by
  have htaken := mt (takesRange_iff hn).mp (not_not_intro h)
  exact (if_neg htaken).trans (congrArg (changeRanges n · s) (if_neg (mt (refusesRanges_iff hn).mp hr)))

/-- R2, R362: a range that is refused is not enabled. -/
theorem writePmem_refused {s : State} {n j : Nat} {v : BitVec 64} (hn : n < 16)
    (h : TakesRange s n (vget (partOf s.pkg n).pmem j 0) (pmemBits v))
    (hr : RefusesRanges s n { partOf s.pkg n with pmem := vset (partOf s.pkg n).pmem j (pmemBits v) }) :
    writePmem n j v s = changeRanges n (setPart s.pkg n
      { partOf s.pkg n with pmem := vset (partOf s.pkg n).pmem j (pmemBits v &&& ~~~1) }) s := by
  have htaken := mt (takesRange_iff hn).mp (not_not_intro h)
  exact (if_neg htaken).trans (congrArg (changeRanges n · s) (if_pos ((refusesRanges_iff hn).mpr hr)))

theorem writePlim_ignored {s : State} {n j : Nat} {v : BitVec 64} (hn : n < 16)
    (h : ¬ TakesRange s n (vget (partOf s.pkg n).plim j 0) (plimBits v)) : writePlim n j v s = s :=
  if_pos ((takesRange_iff hn).mpr h)

/-- R362: a write of PLIM whose ranges are refused is ignored whole. -/
theorem writePlim_refused {s : State} {n j : Nat} {v : BitVec 64} (hn : n < 16)
    (hr : RefusesRanges s n { partOf s.pkg n with plim := vset (partOf s.pkg n).plim j (plimBits v) }) :
    writePlim n j v s = s := by
  have hrefused := (refusesRanges_iff hn).mpr hr
  unfold writePlim
  extract_lets p w new
  split
  · rfl
  · exact if_pos hrefused

theorem writePlim_taken {s : State} {n j : Nat} {v : BitVec 64} (hn : n < 16)
    (h : TakesRange s n (vget (partOf s.pkg n).plim j 0) (plimBits v))
    (hr : ¬ RefusesRanges s n { partOf s.pkg n with plim := vset (partOf s.pkg n).plim j (plimBits v) }) :
    writePlim n j v s = changeRanges n (setPart s.pkg n
      { partOf s.pkg n with plim := vset (partOf s.pkg n).plim j (plimBits v) }) s := by
  have htaken := mt (takesRange_iff hn).mp (not_not_intro h)
  exact (if_neg htaken).trans (if_neg (mt (refusesRanges_iff hn).mp hr))

theorem pmemBits_disabled (v : BitVec 64) : pmemBits v &&& ~~~1 = pmemBits v &&& 0x000FFFFFFFFF0000 := by
  simp only [pmemBits, BitVec.and_assoc]
  rfl

/-- R423: with the same key, memory is under another key where a partition that is enabled gains or loses it. -/
theorem keyChanges_of_enabled_same {p q : Partition} (hkeys : q.keys = p.keys) (hen : q.en = p.en) (a : Nat) :
    keyChanges p q a ↔ p.en = true ∧ ¬ (OfPartition p a ↔ OfPartition q a) := by
  rw [keyChanges, if_pos hkeys.symm, hen]
  by_cases h : p.en = true <;> simp [h]

/-! ## The obligation -/

/-- Settles O42: each write is ignored, refused or taken, and a change of ranges is memory under another key. -/
theorem partitionSetup : Obligations.PartitionSetup := by
  refine ⟨fun s n v hn => ?_, fun s n j v hn hj => ?_, fun s n locked h1 hn => ?_⟩
  · refine ⟨fun h => ?_, fun h hen => ?_, fun h hen hr => ⟨fun hwas => ?_, fun hwas => ?_⟩⟩
    · exact congrArg Host.Outcome.next (writePcfg_ignored hn h)
    · have hoff : ¬ (v.getLsbD 32 = true ∧ ¬ RefusesPcfg s n v) := by
        rintro ⟨hon, hnr⟩
        rcases hen with hen | hen
        · exact Bool.false_ne_true (hen.symm.trans hon)
        · exact hnr hen
      obtain ⟨k, hk, hnext⟩ := changeRanges_rekeyed (s := s) (q := { partOf s.pkg n with
        frames := v.extractLsb' 0 16, ports := v.extractLsb' 16 16, en := false })
          (mine := fun a => (partOf s.pkg n).en = true ∧ OfPartition (partOf s.pkg n) a) hn fun a => by
        rw [keyChanges, if_pos rfl]
        simp
      exact ⟨k, hk, congrArg Host.Outcome.next ((writePcfg_disables hn h hoff).trans hnext)⟩
    · exact congrArg Host.Outcome.next ((writePcfg_stays hn h ⟨hen, hr⟩ hwas).trans (changeRanges_same hn rfl rfl))
    · obtain ⟨k, hk, hnext⟩ := changeRanges_rekeyed (s := s) (q := { partOf s.pkg n with
          frames := v.extractLsb' 0 16, ports := v.extractLsb' 16 16, en := true, keys := (partOf s.pkg n).keys + 1
          counters := [], seq := 0, cards := (partOf s.pkg n).cards.filter fun c => c.left != 0 })
          (mine := OfPartition (partOf s.pkg n)) hn fun a => by
        rw [keyChanges, if_neg (by simp)]
        simp [hwas, OfPartition, HasRange]
      exact ⟨k, hk, congrArg Host.Outcome.next ((writePcfg_creates hn h ⟨hen, hr⟩ hwas).trans hnext)⟩
  · have taken : ∀ {i : Instr} {q : Partition}, q.keys = (partOf s.pkg n).keys → q.en = (partOf s.pkg n).en →
        exec i s = .next (changeRanges n (setPart s.pkg n q) s) →
        ∃ k, Rekeyed (setPart s.pkg n q) k
            (fun a => (partOf s.pkg n).en = true ∧ ¬ (OfPartition (partOf s.pkg n) a ↔ OfPartition q a)) s.choice ∧
          exec i s = .next { s with choice := s.choice + 1, pkg := k } := fun hkeys hen hexec => by
      obtain ⟨k, hk, hnext⟩ := changeRanges_rekeyed hn (keyChanges_of_enabled_same hkeys hen)
      exact ⟨k, hk, hexec.trans (congrArg Host.Outcome.next hnext)⟩
    have ignored : ∀ {old new : BitVec 64}, (partOf s.pkg n).locked = true ∨ (Live s n ∧ new ≠ old) →
        ¬ TakesRange s n old new := by
      rintro old new (hlock | ⟨hlive, hne⟩) ⟨hfree, hsame⟩
      · exact Bool.false_ne_true (hfree.symm.trans hlock)
      · exact hne (hsame hlive)
    refine ⟨fun h => ?_, fun hfree hlive => ⟨fun hr => ?_, fun hr => ?_⟩, fun h => ?_, fun hfree hlive hr => ?_⟩
    · exact congrArg Host.Outcome.next (writePmem_ignored hn (ignored h))
    · exact taken rfl rfl (congrArg Host.Outcome.next (writePmem_taken hn ⟨hfree, hlive⟩ hr))
    · exact taken rfl rfl (congrArg Host.Outcome.next (pmemBits_disabled v ▸ writePmem_refused hn ⟨hfree, hlive⟩ hr))
    · rcases or_assoc.mpr h with h | h
      · exact congrArg Host.Outcome.next (writePlim_ignored hn (ignored h))
      · exact congrArg Host.Outcome.next (writePlim_refused hn h)
    · exact taken rfl rfl (congrArg Host.Outcome.next (writePlim_taken hn ⟨hfree, hlive⟩ hr))
  · exact congrArg Host.Outcome.next (if_pos (by simp [h1, hn]))

end Sys2Proof.Machine
end

section
/-!
The host's writes to BAR0 (R409 to R411): the register at each offset, and the meaning of a write of 64 or of 32 bits by the register
that it reaches.
-/

namespace Sys2Proof.Machine
open Claims (Window Control WindowOffset ControlOffset)

/-! ## The registers of a window -/

/-- R208, R411: the register at offset `i` of ring `k`. -/
def ringRegister (p k : Nat) : Nat → Option Register
  | 0 => some (.rbase p k)
  | 8 => some (.rcfg p k)
  | 0x20 => some (.rrst p k)
  | 0x28 => some (.qwdog p k)
  | _ => none

/-- R208, R411: the register at offset `i` of completion queue `q`. -/
def queueRegister (p q : Nat) : Nat → Option Register
  | 0 => some (.cqbase p q)
  | 8 => some (.cqcfg p q)
  | 24 => some (.cqridx p q)
  | _ => none

theorem windowRegister_ring {p k i : Nat} (hk : k < 8) (hi : i < 0x40) :
    windowRegister p (0x1000 + 0x40 * k + i) = ringRegister p k i := by
  unfold windowRegister
  split
  case h_15 =>
    have hblock : (0x1000 + 0x40 * k + i - 0x1000) / 0x40 = k := by omega
    have hplace : (0x1000 + 0x40 * k + i) % 0x40 = i := by omega
    rw [if_pos (by simp; omega), hblock, hplace]
    rfl
  all_goals omega

theorem windowRegister_queue {p q i : Nat} (hq : q < 16) (hi : i < 0x20) :
    windowRegister p (0x1400 + 0x20 * q + i) = queueRegister p q i := by
  unfold windowRegister
  split
  case h_15 =>
    have hblock : (0x1400 + 0x20 * q + i - 0x1400) / 0x20 = q := by omega
    have hplace : (0x1400 + 0x20 * q + i) % 0x20 = i := by omega
    rw [if_neg (by simp; omega), if_pos (by simp; omega), hblock, hplace]
    rfl
  all_goals omega

theorem windowRegister_wgm {p i : Nat} (hi : i < 64) : windowRegister p (0x2000 + 8 * i) = some (.wgm p i) := by
  unfold windowRegister
  split
  case h_15 =>
    have hplace : (0x2000 + 8 * i - 0x2000) / 0x20 * 4 + (0x2000 + 8 * i - 0x2000) % 0x20 / 8 = i := by omega
    rw [if_neg (by simp; omega), if_neg (by simp; omega), if_pos (by simp; omega), hplace]
  all_goals omega

theorem windowRegister_grp {p g : Nat} (h1 : 1 ≤ g) (hg : g < 256) : windowRegister p (0x4000 + 8 * g) = some (.grp p g) := by
  unfold windowRegister
  split
  case h_15 =>
    have hplace : (0x4000 + 8 * g - 0x4000) / 8 = g := by omega
    rw [if_neg (by simp; omega), if_neg (by simp; omega), if_neg (by simp; omega), if_pos (by simp; omega), hplace]
  all_goals omega

theorem windowRegister_counter {p i : Nat} (hi : i < 4096) : windowRegister p (0x8000 + 8 * i) = some (.counter p i) := by
  unfold windowRegister
  split
  case h_15 =>
    have hplace : (0x8000 + 8 * i - 0x8000) / 8 = i := by omega
    rw [if_neg (by simp; omega), if_neg (by simp; omega), if_neg (by simp; omega), if_neg (by simp; omega),
      if_pos (by simp; omega), hplace]
  all_goals omega

/-- R411: a window holds registers at these offsets alone. -/
theorem windowRegister_none {p o : Nat} (h : ¬ WindowOffset o) : windowRegister p o = none := by
  obtain ⟨hlone, hring, hqueue, hwgm, hgrp, hcounter⟩ := by simpa only [WindowOffset, not_or] using h
  unfold windowRegister
  split
  case h_15 =>
    split
    · next hrange =>
      simp only [Bool.and_eq_true, decide_eq_true_eq] at hrange
      dsimp only
      split
      case h_5 => rfl
      all_goals
        rename_i hplace
        exact absurd ⟨(o - 0x1000) / 0x40, by omega, o % 0x40, by rw [hplace]; decide, by omega⟩ hring
    · split
      · next hrange =>
        simp only [Bool.and_eq_true, decide_eq_true_eq] at hrange
        dsimp only
        split
        case h_4 => rfl
        all_goals
          rename_i hplace
          exact absurd ⟨(o - 0x1400) / 0x20, by omega, o % 0x20, by rw [hplace]; decide, by omega⟩ hqueue
      · split
        · next hrange =>
          simp only [Bool.and_eq_true, decide_eq_true_eq] at hrange
          exact absurd ⟨(o - 0x2000) / 8, by omega, by omega⟩ hwgm
        · split
          · next hrange =>
            simp only [Bool.and_eq_true, decide_eq_true_eq] at hrange
            exact absurd ⟨(o - 0x4000) / 8, by omega, by omega, by omega⟩ hgrp
          · split
            · next hrange =>
              simp only [Bool.and_eq_true, decide_eq_true_eq] at hrange
              exact absurd ⟨(o - 0x8000) / 8, by omega, by omega⟩ hcounter
            · rfl
  all_goals exact absurd (by decide) hlone

/-! ## The registers of package control -/

/-- R246, R410: the register at offset `i` of aperture `n`. -/
def apertureRegister (n : Nat) : Nat → Option Register
  | 0 => some (.apcfg n)
  | 8 => some (.apback n)
  | 16 => some (.app0 n)
  | 24 => some (.app1 n)
  | _ => none

/-- R251, R410: the register at offset `i` of migration entry `n`. -/
def migrationRegister (n : Nat) : Nat → Option Register
  | 0 => some (.mold n)
  | 8 => some (.mnew n)
  | 0x10 => some (.mlen n)
  | 0x20 => some (.mctl n)
  | _ => none

/-- R375, R410: the register at offset `i` of frame `f`. -/
def frameRegister (f : Nat) : Nat → Option Register
  | 0 => some (.frepa f)
  | 8 => some (.frepb f)
  | 16 => some (.frapply f)
  | _ => none

theorem packageRegister_pcfg {n : Nat} (hn : n < 16) : packageRegister (0x100 * n) = some (.pcfg n) := by
  have hblock : 0x100 * n / 0x10000 = 0 := by omega
  have hrow : 0x100 * n % 0x10000 / 0x100 = n := by omega
  have hplace : 0x100 * n % 0x10000 % 0x100 = 0 := by omega
  simp only [packageRegister, hblock, hrow, hplace]
  rw [if_neg (by omega), if_pos trivial]

theorem packageRegister_pmem {n j : Nat} (hn : n < 16) (hj : j < 8) :
    packageRegister (0x100 * n + 0x40 + 16 * j) = some (.pmem n j) := by
  have hblock : (0x100 * n + 0x40 + 16 * j) / 0x10000 = 0 := by omega
  have hrow : (0x100 * n + 0x40 + 16 * j) % 0x10000 / 0x100 = n := by omega
  have hplace : (0x100 * n + 0x40 + 16 * j) % 0x10000 % 0x100 = 0x40 + 16 * j := by omega
  have hentry : (0x40 + 16 * j - 0x40) / 16 = j := by omega
  simp only [packageRegister, hblock, hrow, hplace]
  rw [if_neg (by omega), if_neg (by omega), if_pos (by simp; omega), if_pos (by omega), hentry]

theorem packageRegister_plim {n j : Nat} (hn : n < 16) (hj : j < 8) :
    packageRegister (0x100 * n + 0x48 + 16 * j) = some (.plim n j) := by
  have hblock : (0x100 * n + 0x48 + 16 * j) / 0x10000 = 0 := by omega
  have hrow : (0x100 * n + 0x48 + 16 * j) % 0x10000 / 0x100 = n := by omega
  have hplace : (0x100 * n + 0x48 + 16 * j) % 0x10000 % 0x100 = 0x48 + 16 * j := by omega
  have hentry : (0x48 + 16 * j - 0x40) / 16 = j := by omega
  simp only [packageRegister, hblock, hrow, hplace]
  rw [if_neg (by omega), if_neg (by omega), if_pos (by simp; omega), if_neg (by omega), if_pos (by omega), hentry]

theorem packageRegister_aperture {n i : Nat} (hn : n < 64) (hi : i < 0x20) :
    packageRegister (0x10000 + 0x20 * n + i) = apertureRegister n i := by
  have hblock : (0x10000 + 0x20 * n + i) / 0x10000 = 1 := by omega
  have hrow : (0x10000 + 0x20 * n + i) % 0x10000 / 0x20 = n := by omega
  have hplace : (0x10000 + 0x20 * n + i) % 0x10000 % 0x20 = i := by omega
  simp only [packageRegister, hblock, hrow, hplace]
  rw [if_neg (by omega)]
  rfl

theorem packageRegister_migration {n i : Nat} (hn : n < 16) (hi : i < 0x40) :
    packageRegister (0x20000 + 0x40 * n + i) = migrationRegister n i := by
  have hblock : (0x20000 + 0x40 * n + i) / 0x10000 = 2 := by omega
  have hrow : (0x20000 + 0x40 * n + i) % 0x10000 / 0x40 = n := by omega
  have hplace : (0x20000 + 0x40 * n + i) % 0x10000 % 0x40 = i := by omega
  have hfirst : (0x20000 + 0x40 * n + i) % 0x10000 ≠ 0x400 := by omega
  simp only [packageRegister, hblock, hrow, hplace, if_neg hfirst]
  rw [if_neg (by omega)]
  rfl

theorem packageRegister_frame {f i : Nat} (hf : f < 16) (hi : i < 0x20) :
    packageRegister (0x30000 + 0x20 * f + i) = frameRegister f i := by
  have hblock : (0x30000 + 0x20 * f + i) / 0x10000 = 3 := by omega
  have hrow : (0x30000 + 0x20 * f + i) % 0x10000 / 0x20 = f := by omega
  have hplace : (0x30000 + 0x20 * f + i) % 0x10000 % 0x20 = i := by omega
  simp only [packageRegister, hblock, hrow, hplace]
  rw [if_neg (by omega)]
  rfl

theorem packageRegister_ppctl {k : Nat} (hk : k < 16) : packageRegister (0x40100 + 16 * k) = some (.ppctl k) := by
  have hblock : (0x40100 + 16 * k) / 0x10000 = 4 := by omega
  have hplace : (0x40100 + 16 * k) % 0x10000 = 0x100 + 16 * k := by omega
  have hentry : (0x100 + 16 * k - 0x100) / 16 = k := by omega
  simp only [packageRegister, hblock, hplace]
  rw [if_neg (by omega), if_neg (by omega), if_pos (by simp; omega), if_pos (by omega), hentry]

theorem packageRegister_ppstat {k : Nat} (hk : k < 16) : packageRegister (0x40108 + 16 * k) = some (.ppstat k) := by
  have hblock : (0x40108 + 16 * k) / 0x10000 = 4 := by omega
  have hplace : (0x40108 + 16 * k) % 0x10000 = 0x108 + 16 * k := by omega
  have hentry : (0x108 + 16 * k - 0x100) / 16 = k := by omega
  simp only [packageRegister, hblock, hplace]
  rw [if_neg (by omega), if_neg (by omega), if_pos (by simp; omega), if_neg (by omega), if_pos (by omega), hentry]

theorem packageRegister_rtab {n : Nat} (hn : n < 256) : packageRegister (0x40400 + 8 * n) = some (.rtab n) := by
  have hblock : (0x40400 + 8 * n) / 0x10000 = 4 := by omega
  have hplace : (0x40400 + 8 * n) % 0x10000 = 0x400 + 8 * n := by omega
  have hentry : (0x400 + 8 * n - 0x400) / 8 = n := by omega
  simp only [packageRegister, hblock, hplace]
  rw [if_neg (by omega), if_neg (by omega), if_neg (by simp; omega), if_pos (by simp; omega), hentry]

end Sys2Proof.Machine
end

section
namespace Sys2Proof.Machine
open Claims (Window Control WindowOffset ControlOffset)

/-- R410: package control holds registers at these offsets alone. -/
theorem packageRegister_none {o : Nat} (h : ¬ ControlOffset o) : packageRegister o = none := by
  obtain ⟨hpart, haperture, hmhold, hmigration, hframe, hport, hrtab, hlone⟩ := by simpa only [ControlOffset, not_or] using h
  simp only [packageRegister]
  split
  case h_1 hblock =>
    split
    · rfl
    · split
      · exact absurd ⟨o % 0x10000 / 0x100, by omega, .inl (by omega)⟩ hpart
      · split
        · next hrange =>
          simp only [Bool.and_eq_true, decide_eq_true_eq] at hrange
          have held : o % 0x10000 % 0x100 % 8 ≠ 0 := fun hplace => hpart
            ⟨o % 0x10000 / 0x100, by omega, .inr ⟨(o % 0x10000 % 0x100 - 0x40) / 8, by omega, by omega⟩⟩
          rw [if_neg (by omega), if_neg (by omega)]
        · rfl
  case h_2 hblock =>
    split
    · rfl
    · split
      case h_5 => rfl
      all_goals
        rename_i hplace
        exact absurd ⟨o % 0x10000 / 0x20, by omega, o % 0x20 / 8, by omega, by omega⟩ haperture
  case h_3 hblock =>
    split
    · exact absurd (by omega) hmhold
    · split
      · rfl
      · split
        case h_5 => rfl
        all_goals
          rename_i hplace
          exact absurd ⟨o % 0x10000 / 0x40, by omega, o % 0x10000 % 0x40, by rw [hplace]; decide, by omega⟩ hmigration
  case h_4 hblock =>
    split
    · rfl
    · split
      case h_4 => rfl
      all_goals
        rename_i hplace
        exact absurd ⟨o % 0x10000 / 0x20, by omega, o % 0x10000 % 0x20, by rw [hplace]; decide, by omega⟩ hframe
  case h_5 hblock =>
    simp only [List.mem_cons, List.not_mem_nil, or_false, not_or] at hlone
    rw [if_neg (by omega), if_neg (by omega)]
    split
    · next hrange =>
      simp only [Bool.and_eq_true, decide_eq_true_eq] at hrange
      have held : o % 0x10000 % 8 ≠ 0 := fun hplace => hport ⟨(o % 0x10000 - 0x100) / 8, by omega, by omega⟩
      rw [if_neg (by omega), if_neg (by omega)]
    · split
      · next hrange =>
        simp only [Bool.and_eq_true, decide_eq_true_eq] at hrange
        exact absurd ⟨(o % 0x10000 - 0x400) / 8, by omega, by omega⟩ hrtab
      · rfl
  case h_6 hblock =>
    simp only [List.mem_cons, List.not_mem_nil, or_false, not_or] at hlone
    rw [if_neg (by omega)]
  case h_7 hblock =>
    simp only [List.mem_cons, List.not_mem_nil, or_false, not_or] at hlone
    split
    case h_5 => rfl
    all_goals omega
  case h_8 => rfl

/-! ## The register that a write reaches -/

/-- R409: a write to a window reaches the register at its offset, aligned to 8 bytes. -/
theorem registerAt_window {p o : Nat} {r : HostReg} (h : Window p o r) :
    registerAt r.fn (r.offset / 8 * 8) = windowRegister p (o / 8 * 8) := by
  obtain ⟨hp, ho, -, -, ⟨hfn, hoff⟩ | ⟨hfn, hp0, hoff⟩⟩ := h
  · have hwindow : (r.offset / 8 * 8 - 0x2000000) / 0x200000 = p := by omega
    have hplace : r.offset / 8 * 8 % 0x200000 = o / 8 * 8 := by omega
    unfold registerAt
    rw [hfn, if_neg (by omega), if_neg (by omega), if_neg (by omega), if_pos (by omega), hwindow, hplace]
  · unfold registerAt
    rw [hfn, hoff, if_neg (by omega), if_pos hp0, if_pos (by omega)]

theorem registerAt_control {o : Nat} {r : HostReg} (h : Control o r) :
    registerAt r.fn (r.offset / 8 * 8) = packageRegister (o / 8 * 8) := by
  obtain ⟨ho, -, -, hfn, hoff⟩ := h
  unfold registerAt
  rw [hfn, hoff, if_neg (by omega), if_neg (by omega), if_pos (by omega)]

/-- R409: a write past the registers reaches none. -/
theorem registerAt_none {fn o : Nat}
    (h : 16 ≤ fn ∨ (1 ≤ fn ∧ (0x200000 ≤ o ∨ ¬ WindowOffset o)) ∨ (fn = 0 ∧ o < 0x2000000 ∧ ¬ ControlOffset o) ∨
      (fn = 0 ∧ 0x2000000 ≤ o ∧ (0x4000000 ≤ o ∨ ¬ WindowOffset (o % 0x200000)))) : registerAt fn o = none := by
  unfold registerAt
  split
  · rfl
  · split
    · split
      · rcases h with h | ⟨-, h | h⟩ | ⟨h, -⟩ | ⟨h, -⟩
        · omega
        · omega
        · exact windowRegister_none h
        · exact absurd h ‹_›
        · exact absurd h ‹_›
      · rfl
    · split
      · rcases h with h | ⟨h, -⟩ | ⟨-, -, h⟩ | ⟨-, h, -⟩
        · omega
        · omega
        · exact packageRegister_none h
        · omega
      · split
        · rcases h with h | ⟨h, -⟩ | ⟨-, h, -⟩ | ⟨-, -, h | h⟩
          · omega
          · omega
          · omega
          · omega
          · exact windowRegister_none h
        · rfl

/-! ## Writes of 64 and of 32 bits -/

theorem exec_registerWrite_bar0 {r : HostReg} {v : BitVec 64} {s : State} (hspace : r.space = .bar0) (hop : r.op = .write) :
    exec (.registerWrite r v) s = writeBar0 r v s := by
  show execRegisterWrite r v s = _
  simp [execRegisterWrite, writeData, hspace, hop]

/-- R409: a write whose offset is not aligned takes nothing. -/
theorem writeBar0_unaligned {r : HostReg} {v : BitVec 64} {s : State} (h : r.offset % (if r.wide then 8 else 4) ≠ 0) :
    writeBar0 r v s = .next s := if_pos h

/-- R409: a write that reaches no register takes nothing. -/
theorem writeBar0_none {r : HostReg} {v : BitVec 64} {s : State} (h : registerAt r.fn (r.offset / 8 * 8) = none) :
    writeBar0 r v s = .next s := by
  simp only [writeBar0, h, ite_self]

/-- R409: an aligned write of 64 bits is the write of its register. -/
theorem writeBar0_wide {r : HostReg} {v : BitVec 64} {s : State} {x : Register} (hwide : r.wide = true)
    (halign : r.offset % 8 = 0) (hreg : registerAt r.fn (r.offset / 8 * 8) = some x) :
    writeBar0 r v s = writeRegister x v s := by
  have hwhole : touchesNothing false x = false := by cases x <;> rfl
  simp only [writeBar0, hwide, if_true, hreg, halign, ne_eq, not_true_eq_false, if_false, Bool.not_true, Bool.false_and,
    hwhole, Bool.false_eq_true]

/-- R409: an aligned write of 32 bits is a write of its register with the other half kept, or of none of its fields. -/
theorem writeBar0_narrow {r : HostReg} {v : BitVec 64} {s : State} {x : Register} (hnarrow : r.wide = false)
    (halign : r.offset % 4 = 0) (hreg : registerAt r.fn (r.offset / 8 * 8) = some x) :
    writeBar0 r v s = if touchesNothing (r.offset % 8 = 4) x then .next s
      else writeRegister x (mergeHalf (registerValue s.pkg x) v (r.offset % 8 = 4)) s := by
  simp only [writeBar0, hnarrow, hreg, halign, Bool.false_eq_true, if_false, ne_eq, not_true_eq_false, Bool.not_false,
    Bool.true_and]

end Sys2Proof.Machine
end

section
namespace Sys2Proof.Machine
open Claims (Window Control WindowOffset ControlOffset ApertureLocked WindowRefused HasRange Apart InMemory ColumnsWritten setPart)

/-- R409: an aligned write of 64 bits to a window. -/
theorem exec_window_wide {p o : Nat} {r : HostReg} {v : BitVec 64} {s : State} {x : Register} (h : Window p o r)
    (hwide : r.wide = true) (halign : o % 8 = 0) (hreg : windowRegister p o = some x) :
    exec (.registerWrite r v) s = writeRegister x v s := by
  have hreached := registerAt_window h
  obtain ⟨hp, ho, hspace, hop, hoff⟩ := h
  have hplace : o / 8 * 8 = o := by omega
  have hr : r.offset % 8 = 0 := by omega
  rw [hplace, hreg] at hreached
  rw [exec_registerWrite_bar0 hspace hop, writeBar0_wide hwide hr hreached]

/-- R409: an aligned write of 64 bits to package control. -/
theorem exec_control_wide {o : Nat} {r : HostReg} {v : BitVec 64} {s : State} {x : Register} (h : Control o r)
    (hwide : r.wide = true) (halign : o % 8 = 0) (hreg : packageRegister o = some x) :
    exec (.registerWrite r v) s = writeRegister x v s := by
  have hreached := registerAt_control h
  obtain ⟨ho, hspace, hop, -, hoff⟩ := h
  have hplace : o / 8 * 8 = o := by omega
  rw [hplace, hreg] at hreached
  rw [exec_registerWrite_bar0 hspace hop, writeBar0_wide hwide (hoff ▸ halign) hreached]

/-- R409: a write of the low half of a register of a window. -/
theorem exec_window_low {p o : Nat} {r : HostReg} {v : BitVec 64} {s : State} {x : Register} (h : Window p o r)
    (hnarrow : r.wide = false) (halign : o % 8 = 0) (hreg : windowRegister p o = some x) :
    exec (.registerWrite r v) s = writeRegister x (mergeHalf (registerValue s.pkg x) v false) s := by
  have hreached := registerAt_window h
  obtain ⟨hp, ho, hspace, hop, hoff⟩ := h
  have hplace : o / 8 * 8 = o := by omega
  have hhalf : ¬ r.offset % 8 = 4 := by omega
  have hwhole : touchesNothing false x = false := by cases x <;> rfl
  rw [hplace, hreg] at hreached
  rw [exec_registerWrite_bar0 hspace hop, writeBar0_narrow hnarrow (by omega) hreached, decide_eq_false hhalf, hwhole]
  rfl

/-- R409: a write of the high half of a register of a window. -/
theorem exec_window_high {p o : Nat} {r : HostReg} {v : BitVec 64} {s : State} {x : Register} (h : Window p (o + 4) r)
    (hnarrow : r.wide = false) (halign : o % 8 = 0) (hreg : windowRegister p o = some x) :
    exec (.registerWrite r v) s =
      if touchesNothing true x then .next s else writeRegister x (mergeHalf (registerValue s.pkg x) v true) s := by
  have hreached := registerAt_window h
  obtain ⟨hp, ho, hspace, hop, hoff⟩ := h
  have hplace : (o + 4) / 8 * 8 = o := by omega
  have hhalf : r.offset % 8 = 4 := by omega
  rw [hplace, hreg] at hreached
  rw [exec_registerWrite_bar0 hspace hop, writeBar0_narrow hnarrow (by omega) hreached, decide_eq_true hhalf]

/-- R409: a write of the high half of a register of package control. -/
theorem exec_control_high {o : Nat} {r : HostReg} {v : BitVec 64} {s : State} {x : Register} (h : Control (o + 4) r)
    (hnarrow : r.wide = false) (halign : o % 8 = 0) (hreg : packageRegister o = some x) :
    exec (.registerWrite r v) s =
      if touchesNothing true x then .next s else writeRegister x (mergeHalf (registerValue s.pkg x) v true) s := by
  have hreached := registerAt_control h
  obtain ⟨ho, hspace, hop, -, hoff⟩ := h
  have hplace : (o + 4) / 8 * 8 = o := by omega
  have hhalf : r.offset % 8 = 4 := by omega
  rw [hplace, hreg] at hreached
  rw [exec_registerWrite_bar0 hspace hop, writeBar0_narrow hnarrow (by omega) hreached, decide_eq_true hhalf]

/-! ## The half that a write of 32 bits keeps -/

theorem mergeHalf_low (old v : BitVec 64) :
    mergeHalf old v false = (old &&& 0xFFFFFFFF00000000#64) ||| (v &&& 0xFFFFFFFF#64) := rfl

theorem mergeHalf_high (old v : BitVec 64) :
    mergeHalf old v true = (old &&& 0xFFFFFFFF#64) ||| (v &&& 0xFFFFFFFF#64) <<< 32 := rfl

theorem setWidth_mergeHalf_low (old v : BitVec 64) : (mergeHalf old v false).setWidth 32 = v.setWidth 32 := by
  have hkept : (0xFFFFFFFF00000000#64).setWidth 32 = 0#32 := rfl
  have hwritten : (0xFFFFFFFF#64).setWidth 32 = BitVec.allOnes 32 := rfl
  rw [mergeHalf_low, BitVec.setWidth_or, BitVec.setWidth_and, BitVec.setWidth_and, hkept, hwritten, BitVec.and_zero,
    BitVec.zero_or, BitVec.and_allOnes]

theorem getLsbD_mergeHalf_low_zero (v : BitVec 64) : (mergeHalf 0#64 v false).getLsbD 32 = false := by
  have hmask : (0xFFFFFFFF#64).getLsbD 32 = false := rfl
  rw [mergeHalf_low, BitVec.zero_and, BitVec.zero_or, BitVec.getLsbD_and, hmask, Bool.and_false]

theorem extract_mergeHalf_high_zero (v : BitVec 64) : (mergeHalf 0#64 v true).extractLsb' 0 4 = 0#4 := by
  rw [mergeHalf_high, BitVec.zero_and, BitVec.zero_or]
  refine BitVec.eq_of_getLsbD_eq fun i hi => ?_
  have hlow : 0 + i < 32 := by omega
  simp only [BitVec.getLsbD_extractLsb', BitVec.getLsbD_shiftLeft, BitVec.getLsbD_zero, hlow, decide_true, Bool.not_true,
    Bool.and_false, Bool.false_and]

theorem mergeHalf_high_imgpa (old v : BitVec 64) :
    mergeHalf old v true &&& 0x000FFFFFFFFFFF00#64 = ((v &&& 0xFFFFF#64) <<< 32) ||| (old &&& 0xFFFFFF00#64) := by
  have hkept : 0xFFFFFFFF#64 &&& 0x000FFFFFFFFFFF00#64 = 0xFFFFFF00#64 := rfl
  have hwritten : (0xFFFFFFFF#64 <<< 32) &&& 0x000FFFFFFFFFFF00#64 = 0xFFFFF#64 <<< 32 := rfl
  rw [mergeHalf_high, BitVec.and_or_distrib_right, BitVec.and_assoc, hkept, BitVec.shiftLeft_and_distrib, BitVec.and_assoc,
    hwritten, ← BitVec.shiftLeft_and_distrib, BitVec.or_comm]

/-! ## Apertures -/

theorem toList_any {α : Type} {n : Nat} {l : Vector α n} {d : α} {f : α → Bool} :
    l.toList.any f = true ↔ ∃ i < n, f (vget l i d) = true := by
  simp only [List.any_eq_true, Vector.mem_toList_iff, Vector.mem_iff_getElem]
  constructor
  · rintro ⟨_, ⟨i, hi, rfl⟩, h⟩
    exact ⟨i, hi, by simpa [vget, hi] using h⟩
  · rintro ⟨i, hi, h⟩
    exact ⟨_, ⟨i, hi, rfl⟩, by simpa [vget, hi] using h⟩

theorem apertureLocked_iff {k : Package} {n : Nat} : apertureLocked k n = true ↔ ApertureLocked k n := by
  simp only [apertureLocked, ApertureLocked, toList_any (d := Partition.reset), Bool.and_eq_true, List.any_eq_true, Prod.exists,
    mem_partRanges, meets_iff]
  refine exists_congr fun m => and_congr_right fun _ => and_congr_right fun _ => ?_
  constructor
  · rintro ⟨lo, len, ⟨j, hj⟩, h⟩
    exact ⟨j, lo, len, hj, h⟩
  · rintro ⟨j, lo, len, hj, h⟩
    exact ⟨lo, len, ⟨j, hj⟩, h⟩

/-- R245: an address is one of a memory tier. -/
theorem inMemory_one_iff {k : Package} {a : Nat} : (inHbm a || inSuper k a) = true ↔ InMemory k a 1 := by
  simp only [inHbm, inSuper, InMemory, Bool.or_eq_true, Bool.and_eq_true, decide_eq_true_eq]
  omega

theorem windowRefused_iff {k : Package} {n : Nat} {a : Aperture} : windowRefused k n a = true ↔ WindowRefused k n a := by
  have hmeets : (k.apertures.toList.zipIdx.any fun x => x.2 != n && x.1.en && meets x.1.window x.1.size a.window a.size) = true ↔
      ∃ m < 64, m ≠ n ∧ (apertureOf k m).en = true ∧
        ¬ Apart (apertureOf k m).window (apertureOf k m).size a.window a.size := by
    simp only [List.any_eq_true, Prod.exists, List.mk_mem_zipIdx_iff_getElem?, Bool.and_eq_true, bne_iff_ne, meets_iff, and_assoc]
    constructor
    · rintro ⟨x, m, hx, h⟩
      obtain ⟨hm, rfl⟩ := List.getElem?_eq_some_iff.mp hx
      have hm64 : m < 64 := by simpa using hm
      exact ⟨m, hm64, by simpa [apertureOf, vget, hm64] using h⟩
    · rintro ⟨m, hm, h⟩
      exact ⟨apertureOf k m, m, by simp [apertureOf, vget, hm], h⟩
  rw [windowRefused, Bool.or_eq_true, Bool.or_eq_true, decide_eq_true_eq, Bool.not_eq_true', ← Bool.not_eq_true,
    inMemory_one_iff, hmeets, WindowRefused, or_assoc]

end Sys2Proof.Machine
end

section
namespace Sys2Proof.Machine
open Claims (Window Control WindowOffset ControlOffset ApertureLocked WindowRefused ColumnsWritten setPart)

/-! ## Repair maps -/

/-- R375: what a write leaves in column `c` of a map. -/
def writtenColumn (old v : BitVec 64) (c : Nat) : BitVec 5 :=
  if (v.extractLsb' (5 * c) 5).toNat ≤ 16 then v.extractLsb' (5 * c) 5 else old.extractLsb' (5 * c) 5

theorem writeColumns_eq (old v : BitVec 64) :
    writeColumns old v = BitVec.ofNat 64 ((List.range 8).foldl (fun w c => w + (writtenColumn old v c).toNat * 2 ^ (5 * c)) 0) := by
  unfold writeColumns writtenColumn
  congr
  funext w c
  dsimp only
  split <;> rfl

theorem packed_succ (f : Nat → Nat) (n : Nat) :
    (List.range (n + 1)).foldl (fun w c => w + f c * 2 ^ (5 * c)) 0 =
      (List.range n).foldl (fun w c => w + f c * 2 ^ (5 * c)) 0 + f n * 2 ^ (5 * n) := by
  rw [List.range_succ, List.foldl_append]
  rfl

/-- Fields of 5 bits side by side stay below the next field. -/
theorem packed_lt {f : Nat → Nat} (hf : ∀ c, f c < 32) (n : Nat) :
    (List.range n).foldl (fun w c => w + f c * 2 ^ (5 * c)) 0 < 2 ^ (5 * n) := by
  induction n with
  | zero => exact Nat.one_pos
  | succ n ih =>
    have hfield : f n * 2 ^ (5 * n) ≤ 31 * 2 ^ (5 * n) := Nat.mul_le_mul_right _ (Nat.le_of_lt_succ (hf n))
    have hpow : 2 ^ (5 * (n + 1)) = 32 * 2 ^ (5 * n) := by rw [Nat.mul_succ, Nat.pow_add, Nat.mul_comm]
    rw [packed_succ, hpow]
    omega

/-- Each of some fields of 5 bits side by side reads back. -/
theorem packed_field {f : Nat → Nat} (hf : ∀ c, f c < 32) {n c : Nat} (hc : c < n) :
    (List.range n).foldl (fun w c => w + f c * 2 ^ (5 * c)) 0 / 2 ^ (5 * c) % 32 = f c := by
  induction n with
  | zero => exact absurd hc (Nat.not_lt_zero c)
  | succ n ih =>
    rw [packed_succ]
    rcases Nat.lt_succ_iff_lt_or_eq.mp hc with hlt | rfl
    · have hpow : f n * 2 ^ (5 * n) = f n * 2 ^ (5 * (n - c - 1)) * 32 * 2 ^ (5 * c) := by
        rw [Nat.mul_assoc, Nat.mul_assoc, show (32 : Nat) = 2 ^ 5 from rfl, ← Nat.pow_add, ← Nat.pow_add]
        congr 2
        omega
      rw [hpow, Nat.add_mul_div_right _ _ (Nat.two_pow_pos _), Nat.add_mul_mod_self_right, ih hlt]
    · rw [Nat.add_mul_div_right _ _ (Nat.two_pow_pos _), Nat.div_eq_of_lt (packed_lt hf c), Nat.zero_add,
        Nat.mod_eq_of_lt (hf c)]

/-- R375: a field above 16 keeps its previous value. -/
theorem writeColumns_written (old v : BitVec 64) : ColumnsWritten old v (writeColumns old v) := by
  have hf : ∀ c, (writtenColumn old v c).toNat < 32 := fun c => (writtenColumn old v c).isLt
  have hlt := packed_lt hf 8
  have hword : (writeColumns old v).toNat =
      (List.range 8).foldl (fun w c => w + (writtenColumn old v c).toNat * 2 ^ (5 * c)) 0 := by
    rw [writeColumns_eq, BitVec.toNat_ofNat, Nat.mod_eq_of_lt (lt_trans hlt (by norm_num))]
  refine ⟨BitVec.eq_of_toNat_eq ?_, fun c hc => BitVec.eq_of_toNat_eq ?_⟩
  · rw [BitVec.extractLsb'_toNat, hword, Nat.shiftRight_eq_div_pow, Nat.div_eq_of_lt hlt]
    rfl
  · rw [BitVec.extractLsb'_toNat, hword, Nat.shiftRight_eq_div_pow]
    exact packed_field hf hc

end Sys2Proof.Machine
end

section
namespace Sys2Proof.Machine
open Claims (Window Control WindowOffset ControlOffset ApertureLocked WindowRefused ColumnsWritten setPart setMigration
  PartBecomes PkgBecomes Nothing WindowStep PackageStep plainWindow ringWindow queueWindow plainControl apertureControl)

/-! ## Offsets of single registers -/

theorem windowRegister_rrst {p k : Nat} (hk : k < 8) : windowRegister p (0x1020 + 0x40 * k) = some (.rrst p k) := by
  have hplace : 0x1020 + 0x40 * k = 0x1000 + 0x40 * k + 0x20 := by omega
  rw [hplace, windowRegister_ring hk (by omega)]
  rfl

theorem windowRegister_cqcfg {p k : Nat} (hk : k < 16) : windowRegister p (0x1408 + 0x20 * k) = some (.cqcfg p k) := by
  have hplace : 0x1408 + 0x20 * k = 0x1400 + 0x20 * k + 8 := by omega
  rw [hplace, windowRegister_queue hk (by omega)]
  rfl

theorem packageRegister_apcfg {n : Nat} (hn : n < 64) : packageRegister (0x10000 + 0x20 * n) = some (.apcfg n) :=
  packageRegister_aperture (i := 0) hn (by omega)

theorem packageRegister_mold {n : Nat} (hn : n < 16) : packageRegister (0x20000 + 0x40 * n) = some (.mold n) :=
  packageRegister_migration (i := 0) hn (by omega)

theorem packageRegister_mnew {n : Nat} (hn : n < 16) : packageRegister (0x20008 + 0x40 * n) = some (.mnew n) := by
  have hplace : 0x20008 + 0x40 * n = 0x20000 + 0x40 * n + 8 := by omega
  rw [hplace, packageRegister_migration hn (by omega)]
  rfl

theorem packageRegister_mlen {n : Nat} (hn : n < 16) : packageRegister (0x20010 + 0x40 * n) = some (.mlen n) := by
  have hplace : 0x20010 + 0x40 * n = 0x20000 + 0x40 * n + 0x10 := by omega
  rw [hplace, packageRegister_migration hn (by omega)]
  rfl

theorem packageRegister_mctl {n : Nat} (hn : n < 16) : packageRegister (0x20020 + 0x40 * n) = some (.mctl n) := by
  have hplace : 0x20020 + 0x40 * n = 0x20000 + 0x40 * n + 0x20 := by omega
  rw [hplace, packageRegister_migration hn (by omega)]
  rfl

theorem packageRegister_frapply {f : Nat} (hf : f < 16) : packageRegister (0x30010 + 0x20 * f) = some (.frapply f) := by
  have hplace : 0x30010 + 0x20 * f = 0x30000 + 0x20 * f + 16 := by omega
  rw [hplace, packageRegister_frame hf (by omega)]
  rfl

/-! ## What each write does -/

section writes
variable {s : State} {p : Nat} {r : HostReg} {v : BitVec 64}

/-- R246: a write of APCFG. -/
theorem apcfgWrite_rules {n : Nat} :
    let a := { apertureOf s.pkg n with cfg := v &&& 0xFFFFFFFFFFFF0007#64 }
    let become := fun (x : Aperture) =>
      PkgBecomes s (.apcfgWrite n v) { s.pkg with apertures := s.pkg.apertures.setIfInBounds n x }
    (ApertureLocked s.pkg n → Nothing s (.apcfgWrite n v)) ∧
    (¬ ApertureLocked s.pkg n → a.en = false ∨ ¬ WindowRefused s.pkg n a → become a) ∧
    (¬ ApertureLocked s.pkg n → a.en = true → WindowRefused s.pkg n a →
      become { a with cfg := v &&& 0xFFFFFFFFFFFF0006#64 }) := by
  intro a become
  have hexec : exec (.apcfgWrite n v) s = .next (onPkg (writeApcfg n v) s) := rfl
  have hwritten : ¬ ApertureLocked s.pkg n → ∀ x,
      (if a.en && windowRefused s.pkg n a then { a with cfg := a.cfg &&& ~~~1 } else a) = x → become x := by
    rintro hfree x rfl
    rw [← apertureLocked_iff] at hfree
    exact congrArg (fun k => Host.Outcome.next { s with pkg := k }) (if_neg hfree)
  refine ⟨fun hlocked => ?_, fun hfree h => hwritten hfree _ ?_, fun hfree hen hr => hwritten hfree _ ?_⟩
  · rw [← apertureLocked_iff] at hlocked
    exact congrArg (fun k => Host.Outcome.next { s with pkg := k }) (if_pos hlocked)
  · refine if_neg fun hboth => ?_
    obtain ⟨hen, hr⟩ := Bool.and_eq_true_iff.mp hboth
    rcases h with h | h
    · exact Bool.false_ne_true (h.symm.trans hen)
    · exact h (windowRefused_iff.mp hr)
  · rw [if_pos (Bool.and_eq_true_iff.mpr ⟨hen, windowRefused_iff.mpr hr⟩)]
    have hcfg : a.cfg &&& ~~~1 = v &&& 0xFFFFFFFFFFFF0006#64 := by
      show (v &&& 0xFFFFFFFFFFFF0007#64) &&& ~~~1 = _
      rw [BitVec.and_assoc]
      rfl
    rw [hcfg]

/-- R376: a frame's maps take effect while no enabled partition has the frame. -/
theorem frapplyGo_taken {f : Nat} (hf : f < 16)
    (h : ∀ n < 16, ¬ ((partOf s.pkg n).en = true ∧ (partOf s.pkg n).frames.getLsbD f = true)) :
    exec (.frapplyGo f) s = .next (onPkg (onFrame f applyMaps) s) := by
  have hfree : ¬ ((List.range 16).any fun n => frameIn s.pkg n f) = true := by
    simpa [frameIn, hf] using h
  exact congrArg Host.Outcome.next (if_neg hfree)

theorem frapplyGo_ignored {f : Nat} (hf : f < 16)
    (h : ∃ n < 16, (partOf s.pkg n).en = true ∧ (partOf s.pkg n).frames.getLsbD f = true) :
    Nothing s (.frapplyGo f) := by
  have hheld : ((List.range 16).any fun n => frameIn s.pkg n f) = true := by
    simpa [frameIn, hf] using h
  exact congrArg Host.Outcome.next (if_pos hheld)

theorem writeRcfg_eq (v : BitVec 64) (r : Ring) : writeRcfg v r = { r with
    en := v.getLsbD 8
    log2n := if 4 ≤ (v.extractLsb' 0 5).toNat ∧ (v.extractLsb' 0 5).toNat ≤ 16 then (v.extractLsb' 0 5).toNat
      else r.log2n } := by
  simp [writeRcfg, writeLog2n]

/-- R411: the registers of a window that a write of 64 bits stores into. -/
theorem plainWindow_written (hwide : r.wide = true) : ∀ row ∈ plainWindow, Window p row.1 r →
    PartBecomes s (.registerWrite r v) p (row.2 v (partOf s.pkg p)) := by
  intro row hrow hw
  simp only [plainWindow, List.mem_cons, List.not_mem_nil, or_false] at hrow
  rcases hrow with rfl | rfl | rfl | rfl | rfl | rfl
  · exact exec_window_wide (x := .ptroot p) hw hwide rfl rfl
  · exact exec_window_wide (x := .tlbiva p) hw hwide rfl rfl
  · exact exec_window_wide (x := .sage p) hw hwide rfl rfl
  · exact exec_window_wide (x := .imgpa p) hw hwide rfl rfl
  · exact exec_window_wide (x := .ordstall p) hw hwide rfl rfl
  · exact exec_window_wide (x := .stopsel p) hw hwide rfl rfl

theorem ringWindow_written (hwide : r.wide = true) : ∀ k < 8, ∀ row ∈ ringWindow, Window p (0x1000 + 0x40 * k + row.1) r →
    PartBecomes s (.registerWrite r v) p { partOf s.pkg p with
      rings := (partOf s.pkg p).rings.setIfInBounds k (row.2 v (vget (partOf s.pkg p).rings k Ring.reset)) } := by
  intro k hk row hrow hw
  simp only [ringWindow, List.mem_cons, List.not_mem_nil, or_false] at hrow
  rcases hrow with rfl | rfl | rfl
  · exact exec_window_wide (x := .rbase p k) hw hwide (by omega) (windowRegister_ring hk (by omega))
  · have hexec := exec_window_wide (x := .rcfg p k) (v := v) (s := s) hw hwide (by omega) (windowRegister_ring hk (by omega))
    have hstore : ∀ x y : Ring, x = y → (Host.Outcome.next (onPkg (onPart p fun q => { q with
        rings := q.rings.setIfInBounds k x }) s) : Host.Outcome State Fault Refusal) =
        .next { s with pkg := setPart s.pkg p { partOf s.pkg p with rings := (partOf s.pkg p).rings.setIfInBounds k y } } := by
      rintro x _ rfl
      rfl
    exact hexec.trans (hstore _ _ (writeRcfg_eq v (vget (partOf s.pkg p).rings k Ring.reset)))
  · exact exec_window_wide (x := .qwdog p k) hw hwide (by omega) (windowRegister_ring hk (by omega))

theorem queueWindow_written (hwide : r.wide = true) : ∀ k < 16, ∀ row ∈ queueWindow, Window p (0x1400 + 0x20 * k + row.1) r →
    PartBecomes s (.registerWrite r v) p { partOf s.pkg p with
      queues := (partOf s.pkg p).queues.setIfInBounds k (row.2 v (vget (partOf s.pkg p).queues k CompQueue.reset)) } := by
  intro k hk row hrow hw
  simp only [queueWindow, List.mem_cons, List.not_mem_nil, or_false] at hrow
  rcases hrow with rfl | rfl
  · exact exec_window_wide (x := .cqbase p k) hw hwide (by omega) (windowRegister_queue hk (by omega))
  · exact exec_window_wide (x := .cqridx p k) hw hwide (by omega) (windowRegister_queue hk (by omega))

end writes

end Sys2Proof.Machine
end

section
namespace Sys2Proof.Machine
open Claims (Window Control WindowOffset ControlOffset ApertureLocked WindowRefused ColumnsWritten setPart setMigration
  PartBecomes PkgBecomes Nothing WindowStep PackageStep plainWindow ringWindow queueWindow plainControl apertureControl)

section writes
variable {s : State} {p : Nat} {r : HostReg} {v : BitVec 64}

/-! ## The windows -/

/-- R411: a register of a window whose write is the write that its own function names. -/
theorem window_step {o : Nat} {x : Register} {i : Instr} (hwide : r.wide = true) (hw : Window p o r) (halign : o % 8 = 0)
    (hreg : windowRegister p o = some x) (hstep : writeRegister x v s = exec i s) :
    exec (.registerWrite r v) s = exec i s :=
  (exec_window_wide hw hwide halign hreg).trans hstep

theorem wgmWindow_written (hwide : r.wide = true) : ∀ i < 64, Window p (0x2000 + 8 * i) r →
    PartBecomes s (.registerWrite r v) p { partOf s.pkg p with
      wgm := ((partOf s.pkg p).wgm.filter fun e => e.1 != i) ++ [(i, v)] } := fun i hi hw =>
  exec_window_wide (x := .wgm p i) hw hwide (by omega) (windowRegister_wgm hi)

theorem writeImgcmd_busy {q : Partition} (h : q.imgCmd ≠ none) : writeImgcmd v q = q :=
  if_pos (Option.isSome_iff_ne_none.mpr h)

theorem writeImgcmd_load {q : Partition} (h : q.imgCmd = none) (hv : v.extractLsb' 0 2 = 1) :
    writeImgcmd v q = { q with imgCmd := some .load } := by
  simp [writeImgcmd, h, hv]

theorem writeImgcmd_unload {q : Partition} (h : q.imgCmd = none) (hv : v.extractLsb' 0 2 = 2) :
    writeImgcmd v q = { q with imgCmd := some (.unload (v.extractLsb' 16 16)) } := by
  simp [writeImgcmd, h, hv]

theorem writeImgcmd_other {q : Partition} (hv : v.extractLsb' 0 2 = 0 ∨ v.extractLsb' 0 2 = 3) : writeImgcmd v q = q := by
  rcases hv with hv | hv <;> simp [writeImgcmd, hv]

/-- R419: a write of IMGCMD. -/
theorem imgcmdWindow_written (hwide : r.wide = true) (hw : Window p 0x408 r) :
    ((partOf s.pkg p).imgCmd = none → v.extractLsb' 0 2 = 1 →
      PartBecomes s (.registerWrite r v) p { partOf s.pkg p with imgCmd := some .load }) ∧
    ((partOf s.pkg p).imgCmd = none → v.extractLsb' 0 2 = 2 →
      PartBecomes s (.registerWrite r v) p { partOf s.pkg p with imgCmd := some (.unload (v.extractLsb' 16 16)) }) ∧
    ((partOf s.pkg p).imgCmd ≠ none ∨ v.extractLsb' 0 2 = 0 ∨ v.extractLsb' 0 2 = 3 →
      PartBecomes s (.registerWrite r v) p (partOf s.pkg p)) := by
  have hwritten : ∀ q, writeImgcmd v (partOf s.pkg p) = q → PartBecomes s (.registerWrite r v) p q := by
    rintro _ rfl
    exact exec_window_wide (x := .imgcmd p) hw hwide rfl rfl
  refine ⟨fun h hv => hwritten _ (writeImgcmd_load h hv), fun h hv => hwritten _ (writeImgcmd_unload h hv), ?_⟩
  rintro (h | hv)
  · exact hwritten _ (writeImgcmd_busy h)
  · exact hwritten _ (writeImgcmd_other hv)

/-- R244: a write of TLBICMD without its bit 32 is a revoke. -/
theorem writeTlbicmd_revoke (hv : v.getLsbD 32 = false) : writeTlbicmd p v s = execTlbRevoke p (v.setWidth 32) s :=
  if_neg (ne_true_of_eq_false hv)

/-- R353: the bits of STOPCMD that hold neither CMD nor CODE. -/
theorem stopcmd_reserved : ~~~0xFF03#64 = 0xFFFFFFFFFFFF00FC#64 := rfl

theorem writeStopcmd_reserved (h : v &&& 0xFFFFFFFFFFFF00FC#64 ≠ 0) : writeStopcmd p v s = .next s := if_pos h

theorem writeStopcmd_resume (h : v &&& 0xFFFFFFFFFFFF00FC#64 = 0) (hcmd : v.extractLsb' 0 2 = 1) :
    writeStopcmd p v s = execStopcmdResume p s := by
  simp [writeStopcmd, stopcmd_reserved, h, hcmd]

theorem writeStopcmd_end (h : v &&& 0xFFFFFFFFFFFF00FC#64 = 0) (hcmd : v.extractLsb' 0 2 = 2) :
    writeStopcmd p v s = execStopcmdEnd p (v.extractLsb' 8 8) s := by
  simp [writeStopcmd, stopcmd_reserved, h, hcmd]

theorem writeStopcmd_other (hcmd : v.extractLsb' 0 2 = 0 ∨ v.extractLsb' 0 2 = 3) : writeStopcmd p v s = .next s := by
  rcases hcmd with hcmd | hcmd <;> simp [writeStopcmd, hcmd]

/-- R411: the registers of a window whose write is a step of its own. -/
theorem windowStep_taken (hwide : r.wide = true) :
    ∀ o i, WindowStep p v o i → Window p o r → exec (.registerWrite r v) s = exec i s := by
  intro o i hstep hw
  rcases hstep with ⟨rfl, hv, rfl⟩ | ⟨rfl, hv, rfl⟩ | ⟨rfl, hv, rfl⟩ | ⟨rfl, hv, rfl⟩ | ⟨rfl, hmask, hcmd⟩ | ⟨rfl, rfl⟩ |
    ⟨rfl, rfl⟩ | ⟨rfl, rfl⟩
  · exact window_step (x := .tlbicmd p) hwide hw rfl rfl (if_pos hv)
  · exact window_step (x := .tlbicmd p) hwide hw rfl rfl (writeTlbicmd_revoke hv)
  · exact window_step (x := .wdclr p) hwide hw rfl rfl (if_pos hv)
  · exact window_step (x := .wclr p) hwide hw rfl rfl (if_pos hv)
  · rcases hcmd with ⟨hcmd, rfl⟩ | ⟨hcmd, rfl⟩
    · exact window_step (x := .stopcmd p) hwide hw rfl rfl (writeStopcmd_resume hmask hcmd)
    · exact window_step (x := .stopcmd p) hwide hw rfl rfl (writeStopcmd_end hmask hcmd)
  · exact window_step (x := .mbbase p) hwide hw rfl rfl rfl
  · exact window_step (x := .mbcfg p) hwide hw rfl rfl rfl
  · exact window_step (x := .mbrptr p) hwide hw rfl rfl rfl

theorem stopcmdWindow_ignored (hwide : r.wide = true) (hw : Window p 0x14000 r)
    (h : v &&& 0xFFFFFFFFFFFF00FC#64 ≠ 0 ∨ v.extractLsb' 0 2 = 0 ∨ v.extractLsb' 0 2 = 3) :
    Nothing s (.registerWrite r v) := by
  have hexec := exec_window_wide (x := .stopcmd p) (v := v) (s := s) hw hwide rfl rfl
  rcases h with h | h
  · exact hexec.trans (writeStopcmd_reserved h)
  · exact hexec.trans (writeStopcmd_other h)

theorem clearWindow_ignored (hwide : r.wide = true) (hw : Window p 0x208 r ∨ Window p 0x2230 r) (hv : v.getLsbD 0 = false) :
    Nothing s (.registerWrite r v) := by
  rcases hw with hw | hw
  · exact (exec_window_wide (x := .wdclr p) hw hwide rfl rfl).trans (if_neg (ne_true_of_eq_false hv))
  · exact (exec_window_wide (x := .wclr p) hw hwide rfl rfl).trans (if_neg (ne_true_of_eq_false hv))

/-! ## Writes of 32 bits -/

theorem sageWindow_half (hnarrow : r.wide = false) (hw : Window p 0x100 r) :
    PartBecomes s (.registerWrite r v) p { partOf s.pkg p with sage := v.setWidth 32 } := by
  have hexec := exec_window_low (x := .sage p) (v := v) (s := s) hw hnarrow rfl rfl
  have hwritten := congrArg
    (fun x => (Host.Outcome.next (onPkg (onPart p fun q => { q with sage := x }) s) : Host.Outcome State Fault Refusal))
    (setWidth_mergeHalf_low (registerValue s.pkg (.sage p)) v)
  exact hexec.trans hwritten

theorem imgpaWindow_half (hnarrow : r.wide = false) (hw : Window p 0x404 r) :
    PartBecomes s (.registerWrite r v) p { partOf s.pkg p with
      imgpa := ((v &&& 0xFFFFF#64) <<< 32) ||| ((partOf s.pkg p).imgpa &&& 0xFFFFFF00#64) } := by
  have hexec := exec_window_high (o := 0x400) (x := .imgpa p) (v := v) (s := s) hw hnarrow rfl rfl
  have hwritten := congrArg
    (fun x => (Host.Outcome.next (onPkg (onPart p fun q => { q with imgpa := x }) s) : Host.Outcome State Fault Refusal))
    (mergeHalf_high_imgpa (registerValue s.pkg (.imgpa p)) v)
  exact (hexec.trans (if_neg Bool.false_ne_true)).trans hwritten

theorem tlbicmdWindow_half (hnarrow : r.wide = false) (hw : Window p 0x10 r) :
    exec (.registerWrite r v) s = exec (.tlbRevoke p (v.setWidth 32)) s := by
  have hexec := exec_window_low (x := .tlbicmd p) (v := v) (s := s) hw hnarrow rfl rfl
  have hrevoke := writeTlbicmd_revoke (p := p) (s := s) (getLsbD_mergeHalf_low_zero v)
  rw [setWidth_mergeHalf_low] at hrevoke
  exact hexec.trans hrevoke

theorem cqcfgWindow_high {k : Nat} (hk : k < 16) (hnarrow : r.wide = false) (hw : Window p (0x140C + 0x20 * k) r) :
    Nothing s (.registerWrite r v) := by
  have hplace : 0x140C + 0x20 * k = 0x1408 + 0x20 * k + 4 := by omega
  rw [hplace] at hw
  exact (exec_window_high hw hnarrow (by omega) (windowRegister_cqcfg hk)).trans (if_pos rfl)

theorem mctlControl_high {n : Nat} (hn : n < 16) (hnarrow : r.wide = false) (hw : Control (0x20024 + 0x40 * n) r) :
    Nothing s (.registerWrite r v) := by
  have hplace : 0x20024 + 0x40 * n = 0x20020 + 0x40 * n + 4 := by omega
  rw [hplace] at hw
  exact (exec_control_high hw hnarrow (by omega) (packageRegister_mctl hn)).trans (if_pos rfl)

theorem writeRepcmd_other (h : ∀ k : BitVec 4, 1 ≤ k.toNat → k.toNat ≤ 5 → v.extractLsb' 0 4 ≠ k) :
    writeRepcmd v s = .next s := by
  have hkind : ∀ k : BitVec 4, v.extractLsb' 0 4 = k → ¬ (1 ≤ k.toNat ∧ k.toNat ≤ 5) :=
    fun k hk hrange => h k hrange.1 hrange.2 hk
  unfold writeRepcmd
  split
  case h_6 => rfl
  all_goals
    rename_i hk
    exact absurd (by omega) (hkind _ rfl)

theorem repcmdControl_high (hnarrow : r.wide = false) (hw : Control 0x60004 r) : Nothing s (.registerWrite r v) := by
  have hexec := exec_control_high (o := 0x60000) (x := .repcmd) (v := v) (s := s) hw hnarrow rfl rfl
  refine (hexec.trans (if_neg Bool.false_ne_true)).trans (writeRepcmd_other fun k hlow _ hk => ?_)
  have hzero := extract_mergeHalf_high_zero v
  have hkind := hk.symm.trans hzero
  rw [hkind] at hlow
  exact absurd hlow (by decide)

theorem unaligned_ignored (hspace : r.space = .bar0) (hop : r.op = .write) (h : r.offset % (if r.wide then 8 else 4) ≠ 0) :
    Nothing s (.registerWrite r v) :=
  (exec_registerWrite_bar0 hspace hop).trans (writeBar0_unaligned h)

end writes

end Sys2Proof.Machine
end

section
namespace Sys2Proof.Machine
open Claims (Window Control WindowOffset ControlOffset ApertureLocked WindowRefused ColumnsWritten setPart setMigration
  PartBecomes PkgBecomes Nothing WindowStep PackageStep plainWindow ringWindow queueWindow plainControl apertureControl)

section writes
variable {s : State} {r : HostReg} {v : BitVec 64}

/-! ## Package control -/

/-- R381: QOWN stays while a package task is live. -/
theorem qownWrite_taken (h : packageTaskLive s = false) :
    PkgBecomes s (.qownWrite v) { s.pkg with qown := v.extractLsb' 0 5 } :=
  congrArg Host.Outcome.next (if_neg (ne_true_of_eq_false h))

theorem qownWrite_ignored (h : packageTaskLive s = true) : Nothing s (.qownWrite v) :=
  congrArg Host.Outcome.next (if_pos h)

/-- R410: a register of package control whose write is the write that its own function names. -/
theorem control_step {o : Nat} {x : Register} {i : Instr} (hwide : r.wide = true) (hw : Control o r) (halign : o % 8 = 0)
    (hreg : packageRegister o = some x) (hstep : writeRegister x v s = exec i s) :
    exec (.registerWrite r v) s = exec i s :=
  (exec_control_wide hw hwide halign hreg).trans hstep

/-- R426: the step of each kind of repair. -/
theorem writeRepcmd_step {i : Instr}
    (h : (v.extractLsb' 0 4 = 1 ∧ i = .hbmRowRepair v) ∨ (v.extractLsb' 0 4 = 2 ∧ i = .hbmBankRepair v) ∨
      (v.extractLsb' 0 4 = 3 ∧ i = .ucieLaneRepair v) ∨ (v.extractLsb' 0 4 = 4 ∧ i = .podLaneRepair v) ∨
      (v.extractLsb' 0 4 = 5 ∧ i = .superTierRemap v)) : writeRepcmd v s = exec i s := by
  rcases h with ⟨hk, rfl⟩ | ⟨hk, rfl⟩ | ⟨hk, rfl⟩ | ⟨hk, rfl⟩ | ⟨hk, rfl⟩ <;> rw [writeRepcmd, hk] <;> rfl

/-- R410: the registers of package control whose write is a step of its own. -/
theorem packageStep_taken (hwide : r.wide = true) :
    ∀ o i, PackageStep v o i → Control o r → exec (.registerWrite r v) s = exec i s := by
  intro o i hstep hw
  rcases hstep with ⟨rfl, rfl⟩ | ⟨rfl, rfl⟩ | ⟨rfl, rfl⟩ | ⟨n, hn, rfl, rfl⟩ | ⟨n, hn, j, hj, rfl, rfl⟩ | ⟨n, hn, j, hj, rfl, rfl⟩ |
    ⟨n, hn, rfl, rfl⟩ | ⟨n, hn, rfl, hv, rfl⟩ | ⟨n, hn, rfl, hv, rfl⟩ | ⟨f, hf, rfl, hv, rfl⟩ | ⟨k, hk, rfl, rfl⟩ | ⟨rfl, hkind⟩
  · exact control_step (x := .qown) hwide hw rfl rfl rfl
  · exact control_step (x := .pwrlim) hwide hw rfl rfl rfl
  · exact control_step (x := .clksel) hwide hw rfl rfl rfl
  · exact control_step hwide hw (by omega) (packageRegister_pcfg hn) rfl
  · exact control_step hwide hw (by omega) (packageRegister_pmem hn hj) rfl
  · exact control_step hwide hw (by omega) (packageRegister_plim hn hj) rfl
  · exact control_step hwide hw (by omega) (packageRegister_apcfg hn) rfl
  · exact control_step hwide hw (by omega) (packageRegister_mctl hn) (if_pos hv)
  · exact control_step hwide hw (by omega) (packageRegister_mctl hn) (if_neg (ne_true_of_eq_false hv))
  · exact control_step hwide hw (by omega) (packageRegister_frapply hf) (if_pos hv)
  · exact control_step hwide hw (by omega) (packageRegister_ppctl hk) rfl
  · exact control_step (x := .repcmd) hwide hw rfl rfl (writeRepcmd_step hkind)

/-- R251, R389, R430: the registers of package control that a write of 64 bits stores into. -/
theorem plainControl_written (hwide : r.wide = true) :
    ∀ row ∈ plainControl v s.pkg, Control row.1 r → PkgBecomes s (.registerWrite r v) row.2 := by
  intro row hrow hw
  simp only [plainControl, List.mem_append, List.mem_cons, List.not_mem_nil, or_false, List.mem_flatMap, List.mem_map,
    List.mem_range] at hrow
  rcases hrow with ((rfl | rfl | rfl) | ⟨n, hn, rfl | rfl | rfl | rfl⟩) | ⟨n, hn, rfl⟩
  · exact exec_control_wide (o := 0x20400) (x := .mhold) hw hwide rfl rfl
  · exact exec_control_wide (o := 0x40000) (x := .pnode) hw hwide rfl rfl
  · exact exec_control_wide (o := 0x40008) (x := .ptbound) hw hwide rfl rfl
  · exact exec_control_wide hw hwide (by omega) (packageRegister_mold hn)
  · exact exec_control_wide hw hwide (by omega) (packageRegister_mnew hn)
  · exact exec_control_wide hw hwide (by omega) (packageRegister_mlen hn)
  · exact exec_control_wide hw hwide (by omega) (packageRegister_ppstat hn)
  · exact exec_control_wide hw hwide (by omega) (packageRegister_rtab hn)

theorem writeAperture_locked {n : Nat} {f : Aperture → Aperture} {k : Package} (h : ApertureLocked k n) :
    writeAperture n f k = k := if_pos (apertureLocked_iff.mpr h)

theorem writeAperture_free {n : Nat} {f : Aperture → Aperture} {k : Package} (h : ¬ ApertureLocked k n) :
    writeAperture n f k = onAperture n f k := if_neg fun hlocked => h (apertureLocked_iff.mp hlocked)

/-- R423: a write of an aperture's register takes nothing while its backing is locked. -/
theorem aperture_written {n : Nat} {f : Aperture → Aperture}
    (hexec : exec (.registerWrite r v) s = .next (onPkg (writeAperture n f) s)) :
    (ApertureLocked s.pkg n → PkgBecomes s (.registerWrite r v) s.pkg) ∧
    (¬ ApertureLocked s.pkg n → PkgBecomes s (.registerWrite r v)
      { s.pkg with apertures := s.pkg.apertures.setIfInBounds n (f (apertureOf s.pkg n)) }) :=
  ⟨fun h => hexec.trans (congrArg (fun k => Host.Outcome.next { s with pkg := k }) (writeAperture_locked h)),
    fun h => hexec.trans (congrArg (fun k => Host.Outcome.next { s with pkg := k }) (writeAperture_free h))⟩

/-- R246: the other registers of an aperture. -/
theorem apertureControl_written (hwide : r.wide = true) :
    ∀ n < 64, ∀ row ∈ apertureControl v (apertureOf s.pkg n), Control (0x10000 + 0x20 * n + row.1) r →
      (ApertureLocked s.pkg n → PkgBecomes s (.registerWrite r v) s.pkg) ∧
      (¬ ApertureLocked s.pkg n → PkgBecomes s (.registerWrite r v)
        { s.pkg with apertures := s.pkg.apertures.setIfInBounds n row.2 }) := by
  intro n hn row hrow hw
  simp only [apertureControl, List.mem_cons, List.not_mem_nil, or_false] at hrow
  rcases hrow with rfl | rfl | rfl
  · exact aperture_written (exec_control_wide (x := .apback n) hw hwide (by omega) (packageRegister_aperture hn (by omega)))
  · exact aperture_written (exec_control_wide (x := .app0 n) hw hwide (by omega) (packageRegister_aperture hn (by omega)))
  · exact aperture_written (exec_control_wide (x := .app1 n) hw hwide (by omega) (packageRegister_aperture hn (by omega)))

/-- R375: a write of a frame's repair map keeps the fields that name no column. -/
theorem frameControl_written (hwide : r.wide = true) :
    ∀ f < 16, ∀ b : Bool, Control (0x30000 + 0x20 * f + if b then 8 else 0) r →
      let x := vget s.pkg.frames f Frame.reset
      ∃ m, ColumnsWritten (if b then x.frepb else x.frepa) v m ∧ PkgBecomes s (.registerWrite r v) { s.pkg with
        frames := s.pkg.frames.setIfInBounds f (if b then { x with frepb := m } else { x with frepa := m }) } := by
  intro f hf b hw x
  cases b
  case false =>
    exact ⟨_, writeColumns_written x.frepa v,
      exec_control_wide (x := .frepa f) hw hwide (by simp; omega) (packageRegister_frame (i := 0) hf (by omega))⟩
  case true =>
    exact ⟨_, writeColumns_written x.frepb v,
      exec_control_wide (x := .frepb f) hw hwide (by simp; omega) (packageRegister_frame (i := 8) hf (by omega))⟩

theorem frapplyControl_ignored (hwide : r.wide = true) : ∀ f < 16, Control (0x30010 + 0x20 * f) r → v.getLsbD 0 = false →
    Nothing s (.registerWrite r v) := fun _ hf hw hv =>
  (exec_control_wide hw hwide (by omega) (packageRegister_frapply hf)).trans (if_neg (ne_true_of_eq_false hv))

theorem repcmdControl_ignored (hwide : r.wide = true) (hw : Control 0x60000 r)
    (h : ∀ k : BitVec 4, 1 ≤ k.toNat → k.toNat ≤ 5 → v.extractLsb' 0 4 ≠ k) : Nothing s (.registerWrite r v) :=
  (exec_control_wide (x := .repcmd) hw hwide rfl rfl).trans (writeRepcmd_other h)

/-- R430: a package whose warning is set, or whose hottest die is below the threshold, raises none. -/
theorem warnHeat_quiet {k : Package} (h : k.tmax < k.warn ∨ k.warned = true) : warnHeat k = k := by
  refine if_neg fun hboth => ?_
  obtain ⟨hle, hfree⟩ := Bool.and_eq_true_iff.mp hboth
  rcases h with hlow | hset
  · exact absurd (of_decide_eq_true hle) (by bv_omega)
  · simp [hset] at hfree

theorem warnHeat_raised {k : Package} (hle : k.warn ≤ k.tmax) (h : k.warned = false) :
    warnHeat k = raiseVector 0 28 { k with warned := true } :=
  if_pos (Bool.and_eq_true_iff.mpr ⟨decide_eq_true hle, by rw [h]; rfl⟩)

/-- R430: a write of the thermal register. -/
theorem thermControl_written (hwide : r.wide = true) (hw : Control 0x60028 r) :
    let k := { s.pkg with warn := v.extractLsb' 8 8, warned := s.pkg.warned && !v.getLsbD 16 }
    (s.pkg.warn ≤ s.pkg.tmax ∨ s.pkg.tmax < k.warn ∨ k.warned = true → PkgBecomes s (.registerWrite r v) k) ∧
    (s.pkg.tmax < s.pkg.warn → k.warn ≤ s.pkg.tmax → k.warned = false →
      PkgBecomes s (.registerWrite r v) (raiseVector 0 28 { k with warned := true })) := by
  intro k
  have hwritten : ∀ q, writeTherm v s.pkg = q → PkgBecomes s (.registerWrite r v) q := by
    rintro _ rfl
    exact exec_control_wide (x := .therm) hw hwide rfl rfl
  have hcame : ¬ s.pkg.warn ≤ s.pkg.tmax → writeTherm v s.pkg = warnHeat k := fun h => if_neg h
  constructor
  · intro h
    by_cases hwas : s.pkg.warn ≤ s.pkg.tmax
    · exact hwritten _ (if_pos hwas)
    · exact hwritten _ ((hcame hwas).trans (warnHeat_quiet (h.resolve_left hwas)))
  · intro hwas hnow hfree
    exact hwritten _ ((hcame (by bv_omega)).trans (warnHeat_raised hnow hfree))

/-- R409: a write whose offset is not aligned, or that is no register's, takes nothing. -/
theorem unmapped_ignored (hwide : r.wide = true) (hspace : r.space = .bar0) (hop : r.op = .write)
    (h : r.offset % 8 ≠ 0 ∨ 16 ≤ r.fn ∨ (1 ≤ r.fn ∧ (0x200000 ≤ r.offset ∨ ¬ WindowOffset r.offset)) ∨
      (r.fn = 0 ∧ r.offset < 0x2000000 ∧ ¬ ControlOffset r.offset) ∨
      (r.fn = 0 ∧ 0x2000000 ≤ r.offset ∧ (0x4000000 ≤ r.offset ∨ ¬ WindowOffset (r.offset % 0x200000)))) :
    Nothing s (.registerWrite r v) := by
  by_cases halign : r.offset % 8 = 0
  · have hplace : r.offset / 8 * 8 = r.offset := by omega
    refine (exec_registerWrite_bar0 hspace hop).trans (writeBar0_none ?_)
    rw [hplace]
    exact registerAt_none (h.resolve_left (not_not_intro halign))
  · exact unaligned_ignored hspace hop (by rwa [hwide, if_pos rfl])

end writes

/-- Settles O43: each clause says what the register at its offset does with a write. -/
theorem registerWriteRules : Obligations.RegisterWriteRules := by
  unfold Obligations.RegisterWriteRules
  refine ⟨fun s n v _ => apcfgWrite_rules, fun s f hf => ⟨frapplyGo_taken hf, frapplyGo_ignored hf⟩,
    fun s v => ⟨qownWrite_taken, qownWrite_ignored⟩, fun s p r v hwide => ?_, fun s r v hwide => ?_, fun s p r v hnarrow => ?_⟩
  · exact ⟨plainWindow_written hwide, ringWindow_written hwide, queueWindow_written hwide, wgmWindow_written hwide,
      imgcmdWindow_written hwide, windowStep_taken hwide,
      fun k hk hw => window_step hwide hw (by omega) (windowRegister_rrst hk) rfl,
      fun k hk hw => window_step hwide hw (by omega) (windowRegister_cqcfg hk) rfl,
      fun g h1 hg hw => window_step hwide hw (by omega) (windowRegister_grp h1 hg) rfl,
      fun i hi hw => window_step hwide hw (by omega) (windowRegister_counter hi) rfl,
      stopcmdWindow_ignored hwide, clearWindow_ignored hwide⟩
  · exact ⟨packageStep_taken hwide, plainControl_written hwide, apertureControl_written hwide, frameControl_written hwide,
      frapplyControl_ignored hwide, repcmdControl_ignored hwide, thermControl_written hwide, unmapped_ignored hwide⟩
  · exact ⟨sageWindow_half hnarrow, imgpaWindow_half hnarrow, tlbicmdWindow_half hnarrow,
      fun k hk => cqcfgWindow_high hk hnarrow, fun n hn => mctlControl_high hn hnarrow, repcmdControl_high hnarrow,
      fun hspace hop h => unaligned_ignored hspace hop (by rwa [hnarrow, if_neg Bool.false_ne_true])⟩

end Sys2Proof.Machine
end

section
/-!
Results of syllables (R18, R19, R70, R108, R109): what a result put in flight leaves, and a guarded form whose guard is true.
-/

namespace Sys2Proof.Machine
open Claims (Keeps Notes NotesWaits Lands Pushes LeavesCore ScalarAwaits ScalarLands resultOf slotFault Source Destination
  ReadDestination GuardTrue)

/-! ## What a syllable keeps -/

theorem keeps_refl (s : State) : Keeps s s := ⟨rfl, rfl, rfl, rfl, rfl, rfl, rfl⟩

theorem keeps_trans {s t u : State} (h : Keeps s t) (h' : Keeps t u) : Keeps s u := by
  obtain ⟨h1, h2, h3, h4, h5, h6, h7⟩ := h
  obtain ⟨k1, k2, k3, k4, k5, k6, k7⟩ := h'
  exact ⟨k1.trans h1, k2.trans h2, k3.trans h3, k4.trans h4, k5.trans h5, k6.trans h6, k7.trans h7⟩

theorem keeps_onCore {s t : State} (h : Keeps s t) (f : Core → Core) : Keeps s (t.onCore f) := h
theorem keeps_onIssue {s t : State} (h : Keeps s t) (f : Issue → Issue) : Keeps s (t.onIssue f) := h
theorem keeps_noteReads {s t : State} (h : Keeps s t) (rs : List Reg) : Keeps s (noteReads rs t) := h
theorem keeps_noteWait {s t : State} (h : Keeps s t) (w : Wait) : Keeps s (noteWait w t) := h
theorem keeps_raiseFault {s t : State} (h : Keeps s t) (code : BitVec 8) (a : BitVec 64) : Keeps s (raiseFault code a t) := h
theorem keeps_putLanding {s t : State} (h : Keeps s t) (d : Dest) (v : Nat) (p : Bool) (f : Flags) (lat : Nat)
    (w : Option Nat) : Keeps s (putLanding d v p f lat w t) := h
theorem keeps_pushResult {s t : State} (h : Keeps s t) (v : Nat) (p : Bool) (f : Flags) (lat : Nat)
    (w : Option Nat) : Keeps s (pushResult v p f lat w t) := by
  simpa only [Keeps, pushResult_before, pushResult_here, pushResult_cores, pushResult_pkg, pushResult_agenda,
    pushResult_inputs, pushResult_choice] using h

theorem keeps_landScalar {s t : State} (h : Keeps s t) (d : BitVec 6) (v : Val) (f : Flags) (lat : Nat) (w : Option Nat) :
    Keeps s (landScalar d v f lat w t) := by
  unfold landScalar
  dsimp only
  split_ifs
  · exact keeps_putLanding h ..
  · exact keeps_putLanding h ..
  · exact keeps_pushResult h ..
  · exact keeps_raiseFault h ..
  · exact keeps_putLanding h ..
  · exact keeps_putLanding h ..

/-! ## What a syllable notes -/

theorem notesWaits_refl (s : State) : NotesWaits s s [] [] [] := by simp [NotesWaits]

/-- Two records in turn are one, where the slot stays. -/
theorem notesWaits_trans {s t u : State} {reads reads' : List Reg} {faults faults' : List SlotFault} {waits waits' : List Wait}
    (h : NotesWaits s t reads faults waits) (h' : NotesWaits t u reads' faults' waits') :
    NotesWaits s u (reads ++ reads') (faults ++ faults') (waits ++ waits') := by
  simp only [NotesWaits] at *
  rw [h', h]
  simp

theorem notesWaits_noteReads (s : State) (rs : List Reg) : NotesWaits s (noteReads rs s) rs [] [] := by
  simp [NotesWaits]

theorem notesWaits_raiseFault (s : State) (code : BitVec 8) (a : BitVec 64) :
    NotesWaits s (raiseFault code a s) [] [slotFault s code a] [] := by
  simp [NotesWaits, slotFault]

theorem notesWaits_noteWait (s : State) (w : Wait) : NotesWaits s (noteWait w s) [] [] [w] := by
  simp [NotesWaits]

theorem notesWaits_slot {s t : State} {reads : List Reg} {faults : List SlotFault} {waits : List Wait}
    (h : NotesWaits s t reads faults waits) : t.issue.slot = s.issue.slot := by
  rw [NotesWaits] at h
  rw [h]

theorem notes_noteReads {s t : State} {reads : List Reg} (h : Notes s t reads []) (rs : List Reg) :
    Notes s (noteReads rs t) (reads ++ rs) [] := notesWaits_trans h (notesWaits_noteReads t rs)

theorem notes_raiseFault {s t : State} {reads : List Reg} (h : Notes s t reads []) (code : BitVec 8) (a : BitVec 64) :
    Notes s (raiseFault code a t) reads [slotFault s code a] := by
  have := notesWaits_trans h (notesWaits_raiseFault t code a)
  rwa [slotFault, notesWaits_slot h, List.append_nil] at this

/-! ## Results in flight -/

theorem getLsbD_setBit {n : Nat} (v : BitVec n) {i j : Nat} (b : Bool) (hj : j < n) :
    (setBit v i b).getLsbD j = if j = i then b else v.getLsbD j := by
  unfold setBit
  by_cases h : j = i
  · subst h
    cases b <;> simp [hj]
  · by_cases hij : j < i
    · cases b <;> simp [hj, h, hij]
    · have hpos : ¬ j - i = 0 := by omega
      cases b <;> simp [hj, h, hij, hpos]

theorem getLsbD_foldl_setBit {n : Nat} (v : BitVec n) (f : Nat → Bool) (k : Nat) {j : Nat} (hj : j < n) :
    ((List.range k).foldl (fun m i => setBit m i (f i)) v).getLsbD j = if j < k then f j else v.getLsbD j := by
  induction k with
  | zero => simp
  | succ k ih =>
    rw [List.range_succ, List.foldl_append, List.foldl_cons, List.foldl_nil, getLsbD_setBit _ _ hj, ih]
    grind

theorem getLsbD_shiftMarks (b : BitVec 16) (chain : Nat) {i : Nat} (hi : i < 16) :
    (shiftMarks b chain).getLsbD i =
      if i / 4 ≠ chain then b.getLsbD i else i % 4 ≠ 0 && b.getLsbD (i - 1) := by
  rw [shiftMarks, getLsbD_foldl_setBit _ _ _ hi, if_pos hi]
  by_cases h : i / 4 = chain
  · by_cases h0 : i % 4 = 0 <;> simp [h, h0]
  · simp [h]

theorem getElem_shiftChain (q : Vector QueueEntry 16) (chain id : Nat) (n : Fin 16) :
    (shiftChain q chain id)[n.val] =
      if n.val / 4 ≠ chain then q[n.val]
      else if n.val % 4 = 0 then { value := 0, poison := false, awaits := some id } else q[n.val - 1] := by
  have hn : n.val < 16 := n.isLt
  have hp : n.val - 1 < 16 := by omega
  simp [shiftChain, vget, hp]

theorem lands_putLanding {s t : State} (hcore : t.core = s.core) (hslot : t.issue.slot = s.issue.slot) (d : Dest) (v : Nat)
    (p : Bool) (f : Flags) (lat : Nat) (w : Option Nat) :
    Lands s (putLanding d v p f lat w t) [resultOf s d v p f lat w] := by
  simp only [Lands, putLanding_core, hcore, hslot, resultOf]

theorem pushes_pushResult {s t : State} (hcore : t.core = s.core) (hslot : t.issue.slot = s.issue.slot) (v : Nat)
    (p : Bool) (f : Flags) (lat : Nat) (w : Option Nat) : Pushes s (pushResult v p f lat w t) v p f lat w := by
  simp only [Pushes, pushResult_core, hcore, hslot, freshId, resultOf]
  exact ⟨fun n => getElem_shiftChain _ _ _ n, fun i hi => getLsbD_shiftMarks _ _ hi, trivial⟩

/-- R108, R109: a scalar result by its destination code. -/
theorem scalarAwaits_landScalar {s t : State} {reads : List Reg} {waits : List Wait}
    (hnotes : NotesWaits s t reads [] waits) (hcore : t.core = s.core) (d : BitVec 6) (v : XWord) (p : Bool) (f : Flags)
    (lat : Nat) (w : Option Nat) :
    ScalarAwaits s (landScalar d { bits := v, poison := p } f lat w t) d v p f lat w reads waits := by
  have hslot := notesWaits_slot hnotes
  refine ⟨?_, fun h1 h31 => ?_, ?_, fun h48 hp => ?_, ?_, fun h49 h55 hp => ?_⟩
  · rintro rfl
    exact ⟨⟨0, lands_putLanding hcore hslot ..⟩, hnotes⟩
  · have hland : landScalar d { bits := v, poison := p } f lat w t = putLanding (.x d.toNat) v.toNat p f lat w t := by
      rw [landScalar, if_neg (by omega), if_pos h31]
    rw [hland]
    exact ⟨lands_putLanding hcore hslot .., hnotes⟩
  · rintro rfl
    have hland : landScalar 32 { bits := v, poison := p } f lat w t = pushResult v.toNat p f lat w t := rfl
    have hissue : (pushResult v.toNat p f lat w t).issue = t.issue := pushResult_issue ..
    rw [hland]
    exact ⟨pushes_pushResult hcore hslot .., hissue.trans hnotes⟩
  · have hland : landScalar d { bits := v, poison := p } f lat w t = raiseFault codePoison 0 t := by
      rw [landScalar, if_neg (by omega), if_neg (by omega), if_neg (by omega), if_pos hp]
    have hfault := notesWaits_trans hnotes (notesWaits_raiseFault t codePoison 0)
    rw [slotFault, hslot, List.append_nil, List.append_nil] at hfault
    rw [hland]
    exact ⟨hcore, hfault⟩
  · rintro rfl rfl
    exact ⟨⟨v.toNat, lands_putLanding hcore hslot ..⟩, hnotes⟩
  · have hland : landScalar d { bits := v, poison := p } f lat w t =
        putLanding (.pred (d.toNat - 48)) v.toNat false f lat w t := by
      rw [landScalar, if_neg (by omega), if_neg (by omega), if_neg (by omega), if_neg (by simp [hp]),
        if_neg (by omega)]
    rw [hland]
    exact ⟨lands_putLanding hcore hslot .., hnotes⟩

/-! ## Operand codes and guards -/

theorem srcOk_iff {c : BitVec 6} : srcOk c = true ↔ Source c := by
  simp only [srcOk, Source, decide_eq_true_eq]
  omega

theorem dstOk_iff {c : BitVec 6} : dstOk c = true ↔ Destination c := by
  simp only [dstOk, Destination, Bool.or_eq_true, Bool.and_eq_true, decide_eq_true_eq]
  omega

theorem readDstOk_iff {c : BitVec 6} : readDstOk c = true ↔ ReadDestination c := by
  simp [readDstOk, ReadDestination]

theorem guardHolds_iff {s : State} {l : Lend} : guardHolds s.before l = true ↔ GuardTrue s l := by
  simp [guardHolds, GuardTrue]

/-- R70: a form of legal operands whose guard is true runs its body once the guard is noted as read. -/
theorem guarded_true {s : State} {l : Lend} {legal : Bool} (hl : legal = true) (hg : GuardTrue s l) (d : BitVec 6) (lat : Nat)
    (body : State → State) : guarded l legal d lat body s = body (noteReads [guardReg l] s) := by
  have hg' : guardHolds (noteReads [guardReg l] s).before l = true := guardHolds_iff.mpr hg
  simp [guarded, hl, hg', -noteReads_before]

end Sys2Proof.Machine
end

section
/-!
The scalar floating-point forms (R57, R58, R116, R117).
-/

namespace Sys2Proof.Machine
open Claims (Keeps Notes ScalarLands Source Destination ReadDestination GuardTrue FloatType FloatLands floatLayout pattern number
  roundsBy x17If Stochastic value poisoned floatTable)

theorem isStochastic_iff {rm : BitVec 3} : isStochastic rm = true ↔ Stochastic rm := by
  simp [isStochastic, Stochastic]

/-- R116: the layout of each type of SF. -/
theorem scalarLayout_eq {t : BitVec 4} (ht : FloatType t) (s : State) : scalarLayout s.before t = floatLayout s t := by
  rcases ht with rfl | rfl | rfl <;> rfl

/-- R116: operand `k` of a form is the number that its source holds. -/
theorem operand_map {t : BitVec 4} (ht : FloatType t) (s : State) (srcs : List (BitVec 6)) {k : Nat} {c : BitVec 6}
    (hk : srcs[k]? = some c) :
    operand (floatLayout s t) (srcs.map (readSource s.before)) k = number s t c := by
  have hbits : (floatLayout s t).bits = if t = 0 then 64 else 32 := by rcases ht with rfl | rfl | rfl <;> rfl
  rw [operand, scalarBits, hbits, List.getD_eq_getElem?_getD, List.getElem?_map, hk]
  rfl

theorem scalarRound_eq (s : State) : scalarRound s.before s.before.rm = roundsBy s := by
  simp [scalarRound, roundsBy, isStochastic]

/-- R109, R116: a rounding form of SF with legal operands under a true guard. -/
theorem floatForm_lands {s : State} {d : BitVec 6} {legal : Bool} {srcs : List (BitVec 6)} {l : Lend} (hd : legal = true)
    (hsrcs : ∀ c ∈ srcs, Source c) (hg : GuardTrue s l) (lat : Nat) (f : Core → RoundIn → List Val → Rounded) :
    Keeps s (floatForm d legal srcs (some systemMode) lat f l s) ∧
    FloatLands s (floatForm d legal srcs (some systemMode) lat f l s) d
      (f s.before (roundsBy s) (srcs.map (readSource s.before))) (srcs.any (poisoned s)) lat
      (guardReg l :: srcs.map sourceReg) := by
  have hlegal : (legal && srcs.all srcOk) = true := by
    simp only [hd, Bool.true_and, List.all_eq_true]
    exact fun c hc => srcOk_iff.mpr (hsrcs c hc)
  rw [floatForm, guarded_true hlegal hg]
  have hnotes : Notes s (noteReads (srcs.map sourceReg) (noteReads [guardReg l] s)) (guardReg l :: srcs.map sourceReg) [] :=
    notes_noteReads (notesWaits_noteReads s [guardReg l]) _
  have hkeeps : Keeps s (noteReads (srcs.map sourceReg) (noteReads [guardReg l] s)) := keeps_refl s
  have hpoison : (srcs.map (readSource s.before)).any (·.poison) = srcs.any (poisoned s) := List.any_map
  simp only [Option.isSome_some, Bool.true_and, noteReads_before, systemMode, hpoison]
  by_cases hr : isStochastic s.before.rm = true
  · have hread := notes_noteReads hnotes [.x 17]
    have h17 : x17If s = [.x 17] := if_pos (isStochastic_iff.mp hr)
    rw [if_pos hr, scalarRound_eq]
    by_cases hp : (readX s.before 17).poison = true
    · rw [if_pos hp]
      exact ⟨keeps_raiseFault (keeps_noteReads hkeeps _) _ _, fun _ _ => ⟨rfl, notes_raiseFault hread ..⟩,
        fun h => absurd ⟨isStochastic_iff.mp hr, hp⟩ h⟩
    · rw [if_neg hp]
      refine ⟨keeps_landScalar (keeps_noteReads hkeeps _) .., fun _ h => absurd h hp, fun _ => ?_⟩
      rw [h17]
      exact scalarAwaits_landScalar hread rfl ..
  · have hns : ¬ Stochastic s.before.rm := fun h => hr (isStochastic_iff.mpr h)
    have h17 : x17If s = [] := if_neg hns
    have hround : roundsBy s = { rm := s.before.rm, r := 0 } := congrArg (RoundIn.mk _) (if_neg hns)
    rw [if_neg hr, hround]
    refine ⟨keeps_landScalar hkeeps .., fun h => absurd h hns, fun _ => ?_⟩
    rw [h17, List.append_nil]
    exact scalarAwaits_landScalar hnotes rfl ..

/-- R117: a form of two rounded operands. -/
theorem floatBinary_lands {s : State} {d a b : BitVec 6} {t : BitVec 4} {l : Lend} (ht : FloatType t) (hd : Destination d)
    (ha : Source a) (hb : Source b) (hg : GuardTrue s l) (op : Layout → RoundIn → Num → Num → Rounded) (lat : Nat) :
    Keeps s (floatBinary op lat d a b t l s) ∧
    FloatLands s (floatBinary op lat d a b t l s) d (op (floatLayout s t) (roundsBy s) (number s t a) (number s t b))
      (poisoned s a || poisoned s b) lat [guardReg l, sourceReg a, sourceReg b] := by
  have h := floatForm_lands (d := d) (dstOk_iff.mpr hd) (srcs := [a, b]) (by simp [ha, hb]) hg lat
    (fun c i vs => op (scalarLayout c t) i (operand (scalarLayout c t) vs 0) (operand (scalarLayout c t) vs 1))
  simp only [scalarLayout_eq ht, operand_map ht s [a, b] (k := 0) rfl, operand_map ht s [a, b] (k := 1) rfl,
    List.any_cons, List.any_nil, Bool.or_false] at h
  exact h

/-- R58, R117: the fused form, whose addend is its destination. -/
theorem fma_lands {s : State} {d a b : BitVec 6} {t : BitVec 4} {l : Lend} (ht : FloatType t) (hd : ReadDestination d)
    (ha : Source a) (hb : Source b) (hg : GuardTrue s l) :
    ∃ u, exec (.fma d a b t l) s = .next u ∧ Keeps s u ∧
      FloatLands s u d (fmaOp (floatLayout s t) (roundsBy s) false (number s t a) (number s t b) (number s t d))
        (poisoned s a || poisoned s b || poisoned s d) (if t = 9 then 5 else 4)
        [guardReg l, sourceReg a, sourceReg b, sourceReg d] := by
  have hd' : Source d := by
    simp only [Source, ReadDestination] at *
    omega
  have h := floatForm_lands (d := d) (readDstOk_iff.mpr hd) (srcs := [a, b, d]) (by simp [ha, hb, hd']) hg (scalarBound t)
    (fun c i vs => fmaOp (scalarLayout c t) i false (operand (scalarLayout c t) vs 0) (operand (scalarLayout c t) vs 1)
      (operand (scalarLayout c t) vs 2))
  simp only [scalarLayout_eq ht, operand_map ht s [a, b, d] (k := 0) rfl, operand_map ht s [a, b, d] (k := 1) rfl,
    operand_map ht s [a, b, d] (k := 2) rfl, List.any_cons, List.any_nil, Bool.or_false, ← Bool.or_assoc] at h
  exact ⟨_, rfl, h⟩

/-- R62, R117: the square root. -/
theorem fsqrt_lands {s : State} {d a : BitVec 6} {t : BitVec 4} {l : Lend} (ht : FloatType t) (hd : Destination d)
    (ha : Source a) (hg : GuardTrue s l) :
    ∃ u, exec (.fsqrt d a t l) s = .next u ∧ Keeps s u ∧
      FloatLands s u d (sqrtOp (floatLayout s t) (roundsBy s) (number s t a)) (poisoned s a) 16
        [guardReg l, sourceReg a] := by
  have h := floatForm_lands (d := d) (dstOk_iff.mpr hd) (srcs := [a]) (by simp [ha]) hg 16
    (fun c i vs => sqrtOp (scalarLayout c t) i (operand (scalarLayout c t) vs 0))
  simp only [scalarLayout_eq ht, operand_map ht s [a] (k := 0) rfl, List.any_cons, List.any_nil, Bool.or_false] at h
  exact ⟨_, rfl, h⟩

/-- Settles O4: each form is one guarded float form, whose result lands. -/
theorem floatArithmeticResults : Obligations.FloatArithmeticResults := by
  unfold Obligations.FloatArithmeticResults
  refine ⟨fun s d a b t l ht hd ha hb hg row hrow => ?_, fun s d a b t l ht hd ha hb hg => fma_lands ht hd ha hb hg,
    fun s d a t l ht hd ha hg => fsqrt_lands ht hd ha hg⟩
  have hlands := fun op => floatBinary_lands (s := s) ht hd ha hb hg op
  simp only [floatTable, List.mem_cons, List.not_mem_nil, or_false] at hrow
  rcases hrow with rfl | rfl | rfl | rfl
  · exact ⟨_, rfl, hlands addOp _⟩
  · exact ⟨_, rfl, hlands subOp _⟩
  · exact ⟨_, rfl, hlands mulOp _⟩
  · exact ⟨_, rfl, hlands divOp _⟩

end Sys2Proof.Machine
end

section
/-!
One rounding of a real magnitude (R43, R44, R52, R53, R55): what the cut of a magnitude says of it, and when it is rounded up.
-/

namespace Sys2Proof.Machine
open Claims (StepsUp)

/-! ## Magnitudes -/

/-- What a magnitude to be rounded stands for: m × 2^e, or with `sticky` some real strictly between that and the next multiple of
2^e. -/
def StandsFor (x : Exact) (v : ℝ) : Prop :=
  (x.sticky = false → v = x.m * 2 ^ x.e) ∧ (x.sticky = true → x.m * 2 ^ x.e < v ∧ v < (x.m + 1) * 2 ^ x.e)

/-- A magnitude is known by the multiples of 2^q that lie below it. -/
def KnownBy (q : ℤ) (v : ℝ) (P : Nat → Bool → Prop) : Prop :=
  ∀ u : Nat, (P u true ↔ (u : ℝ) * 2 ^ q < v) ∧ (P u false ↔ (u : ℝ) * 2 ^ q ≤ v)

/-- What the cut of a magnitude says of it, in units of its last kept place. -/
structure CutOf (c : Cut) (w : ℝ) : Prop where
  least : (c.kept : ℝ) ≤ w
  below : w < c.kept + 1
  inexact : c.inexact = true ↔ (c.kept : ℝ) < w
  aboveHalf : c.aboveHalf = true ↔ c.kept + 1 / 2 < w
  half : c.half = true ↔ w = c.kept + 1 / 2
  digits : ∀ r < 2 ^ 24, 2 ^ 24 ≤ c.d + r ↔ (c.kept : ℝ) + (2 ^ 24 - r) / 2 ^ 24 ≤ w

theorem standsFor_floor {x : Exact} {v : ℝ} (h : StandsFor x v) :
    ∃ δ : ℝ, 0 ≤ δ ∧ δ < 1 ∧ (x.sticky = true ↔ 0 < δ) ∧ v = (x.m + δ) * 2 ^ x.e := by
  have hpos : (0 : ℝ) < 2 ^ x.e := by positivity
  obtain ⟨hexact, hsticky⟩ := h
  cases hs : x.sticky with
  | false => exact ⟨0, le_rfl, one_pos, by simp, by rw [hexact hs, add_zero]⟩
  | true =>
    obtain ⟨hlo, hhi⟩ := hsticky hs
    refine ⟨v / 2 ^ x.e - x.m, ?_, ?_, ?_, by field_simp; ring⟩
    · rw [sub_nonneg, le_div_iff₀ hpos]
      exact hlo.le
    · rw [sub_lt_iff_lt_add', div_lt_iff₀ hpos]
      exact hhi
    · simp only [true_iff, sub_pos, lt_div_iff₀ hpos]
      exact hlo

/-! ## Integers against an integer and a part below one -/

theorem natCast_le_add {a n : Nat} {δ : ℝ} (h0 : 0 ≤ δ) (h1 : δ < 1) : (a : ℝ) ≤ n + δ ↔ a ≤ n := by
  constructor
  · intro h
    have : (a : ℝ) < (n + 1 : Nat) := by push_cast; linarith
    exact Nat.lt_succ_iff.mp (by exact_mod_cast this)
  · intro h
    have : (a : ℝ) ≤ n := by exact_mod_cast h
    linarith

theorem natCast_lt_add {a n : Nat} {δ : ℝ} (h0 : 0 ≤ δ) (h1 : δ < 1) : (a : ℝ) < n + δ ↔ a < n ∨ (a = n ∧ 0 < δ) := by
  rcases lt_trichotomy a n with h | h | h
  · have : (a : ℝ) < n := by exact_mod_cast h
    exact ⟨fun _ => .inl h, fun _ => by linarith⟩
  · subst h
    simp
  · have : (n + 1 : ℝ) ≤ a := by exact_mod_cast h
    exact ⟨fun hlt => absurd hlt (by linarith), fun hor => by omega⟩

/-! ## The cut -/

/-- A magnitude at or above the place of the cut loses nothing. -/
theorem cutOf_whole (k : Nat) : CutOf { kept := k, d := 0, aboveHalf := false, half := false, inexact := false } k := by
  refine ⟨le_rfl, by simp, by simp, by simp, by simp, fun r hr => ?_⟩
  have : (r : ℝ) < 2 ^ 24 := by exact_mod_cast hr
  have hpos : (0 : ℝ) < (2 ^ 24 - r) / 2 ^ 24 := by
    apply div_pos <;> linarith
  dsimp only
  constructor
  · omega
  · intro h
    linarith

/-- A magnitude far below the place of the cut keeps nothing. -/
theorem cutOf_tiny {w : ℝ} {b : Bool} (h0 : 0 ≤ w) (h : w * 2 ^ 25 < 1) (hb : b = true ↔ 0 < w) :
    CutOf { kept := 0, d := 0, aboveHalf := false, half := false, inexact := b } w := by
  refine ⟨by simpa using h0, ?_, by simpa using hb, ?_, ?_, fun r hr => ?_⟩
  · norm_num
    linarith
  · simp
    linarith
  · simp
    intro he
    norm_num [he] at h
  · have : (r : ℝ) + 1 ≤ 2 ^ 24 := by exact_mod_cast hr
    dsimp only
    constructor
    · omega
    · intro hle
      simp only [Nat.cast_zero, zero_add, div_le_iff₀ (show (0 : ℝ) < 2 ^ 24 by positivity)] at hle
      linarith

/-- The cut of a magnitude `s` places below the last one kept: its quotient and its rest by 2^s. -/
theorem cutOf_split {m s : Nat} {δ : ℝ} {sticky : Bool} (h0 : 0 ≤ δ) (h1 : δ < 1) (hsticky : sticky = true ↔ 0 < δ)
    (hs : 0 < s) (hdeep : sticky = true → 24 ≤ s) :
    CutOf
      { kept := m / 2 ^ s
        d := if 24 ≤ s then m % 2 ^ s / 2 ^ (s - 24) else m % 2 ^ s * 2 ^ (24 - s)
        aboveHalf := 2 ^ s < 2 * (m % 2 ^ s) || (2 * (m % 2 ^ s) == 2 ^ s && sticky)
        half := 2 * (m % 2 ^ s) == 2 ^ s && !sticky
        inexact := m % 2 ^ s != 0 || sticky }
      ((m + δ) / 2 ^ s) := by
  have hpos : (0 : ℝ) < 2 ^ s := by positivity
  obtain ⟨h, hh⟩ : ∃ h, 2 ^ s = 2 * h := ⟨2 ^ (s - 1), by rw [← pow_succ', Nat.sub_add_cancel hs]⟩
  have hhr : (2 : ℝ) ^ s = 2 * h := by exact_mod_cast hh
  have hrest : m % 2 ^ s < 2 ^ s := Nat.mod_lt _ (by positivity)
  have hm : (m : ℝ) = 2 ^ s * (m / 2 ^ s : Nat) + (m % 2 ^ s : Nat) := by exact_mod_cast (Nat.div_add_mod m (2 ^ s)).symm
  have hw : ((m : ℝ) + δ) / 2 ^ s = (m / 2 ^ s : Nat) + ((m % 2 ^ s : Nat) + δ) / 2 ^ s := by
    rw [hm]
    field_simp
    ring
  generalize m % 2 ^ s = rest at *
  generalize m / 2 ^ s = k at *
  rw [hw]
  have hzero : δ = 0 ↔ sticky = false := by
    rw [← Bool.not_eq_true, hsticky]
    constructor <;> intro <;> linarith
  refine ⟨?_, ?_, ?_, ?_, ?_, fun r hr => ?_⟩
  · have : 0 ≤ ((rest : ℝ) + δ) / 2 ^ s := by positivity
    linarith
  · have : (rest : ℝ) + 1 ≤ 2 ^ s := by exact_mod_cast hrest
    have : ((rest : ℝ) + δ) / 2 ^ s < 1 := by
      rw [div_lt_one hpos]
      linarith
    simp only
    linarith
  · have h := natCast_lt_add (a := 0) (n := rest) h0 h1
    simp only [Nat.cast_zero] at h
    simp only [lt_add_iff_pos_right, div_pos_iff_of_pos_right hpos, h, Bool.or_eq_true, bne_iff_ne, hsticky]
    by_cases hr : rest = 0
    · simp [hr]
    · simp [hr, Nat.pos_of_ne_zero hr]
  · have hlt := natCast_lt_add (a := h) (n := rest) h0 h1
    rw [add_lt_add_iff_left, lt_div_iff₀ hpos, hhr, show (1 / 2 : ℝ) * (2 * h) = h by ring, hlt]
    simp only [Bool.or_eq_true, Bool.and_eq_true, decide_eq_true_eq, beq_iff_eq, hsticky, hh]
    grind
  · have hle := natCast_le_add (a := h) (n := rest) h0 h1
    have hlt := natCast_lt_add (a := h) (n := rest) h0 h1
    rw [← hsticky] at hlt
    rw [add_right_inj, div_eq_iff hpos.ne', hhr, show (1 / 2 : ℝ) * (2 * h) = h by ring,
      le_antisymm_iff (a := (rest : ℝ) + δ), hle, ← not_lt (a := (h : ℝ)), hlt]
    simp only [Bool.and_eq_true, beq_iff_eq, hh, Bool.not_eq_true']
    grind
  · rw [add_le_add_iff_left, le_div_iff₀ hpos, div_mul_eq_mul_div, div_le_iff₀ (by positivity)]
    have hsub : ((2 : ℝ) ^ 24 - r) = (2 ^ 24 - r : Nat) := by
      rw [Nat.cast_sub hr.le]
      norm_num
    rw [hsub]
    simp only
    split
    · next h24 =>
      have hsplit : (2 : ℝ) ^ s = (2 ^ (s - 24) : Nat) * 2 ^ 24 := by
        push_cast
        rw [← pow_add, Nat.sub_add_cancel h24]
      rw [hsplit, ← mul_assoc, mul_le_mul_iff_left₀ (by positivity), ← Nat.cast_mul, natCast_le_add h0 h1,
        ← Nat.le_div_iff_mul_le (by positivity)]
      omega
    · next h24 =>
      have hδ : δ = 0 := hzero.mpr (Bool.eq_false_iff.mpr fun hb => h24 (hdeep hb))
      have hsplit : (2 : ℝ) ^ 24 = (2 ^ (24 - s) : Nat) * 2 ^ s := by
        push_cast
        rw [← pow_add, Nat.sub_add_cancel (by omega)]
      rw [hδ, add_zero, show ((rest : ℝ) * 2 ^ 24) = rest * (2 ^ (24 - s) : Nat) * 2 ^ s by rw [hsplit]; ring,
        mul_le_mul_iff_left₀ hpos, ← Nat.cast_mul, Nat.cast_le]
      omega

theorem lt_two_pow_bitLength (m : Nat) : m < 2 ^ bitLength m := by
  unfold bitLength
  split
  · subst m
    norm_num
  · exact Nat.lt_log2_self

/-- R55: the cut of a magnitude, which is known to 24 places below the last kept one where it is not exact. -/
theorem cutAt_cutOf {x : Exact} {v : ℝ} {q : ℤ} (hx : StandsFor x v) (hdeep : x.sticky = true → x.e + 24 ≤ q) :
    CutOf (cutAt x q) (v / 2 ^ q) := by
  obtain ⟨δ, h0, h1, hsticky, hv⟩ := standsFor_floor hx
  unfold cutAt
  split
  · next hq =>
    have hs : x.sticky = false := Bool.eq_false_iff.mpr fun h => by have := hdeep h; omega
    have hw : v / 2 ^ q = (x.m * 2 ^ (x.e - q).toNat : Nat) := by
      have hδ : δ = 0 := by
        have := mt hsticky.mpr (by simp [hs])
        linarith
      rw [hv, hδ, add_zero, mul_div_assoc, ← zpow_sub₀ (by norm_num)]
      push_cast
      rw [← zpow_natCast, Int.toNat_of_nonneg (by omega)]
    rw [hw, hs]
    exact cutOf_whole _
  · next hq =>
    have hw : v / 2 ^ q = (x.m + δ) / 2 ^ (q - x.e).toNat := by
      rw [hv, ← zpow_natCast, Int.toNat_of_nonneg (by omega), zpow_sub₀ (by norm_num)]
      field_simp
    rw [hw]
    split
    · next hfar =>
      have hm1 : (x.m : ℝ) + δ < 2 ^ bitLength x.m := by
        have : ((x.m + 1 : Nat) : ℝ) ≤ 2 ^ bitLength x.m := by exact_mod_cast lt_two_pow_bitLength x.m
        push_cast at this
        linarith
      refine cutOf_tiny (by positivity) ?_ ?_
      · rw [div_mul_eq_mul_div, div_lt_one (by positivity)]
        calc ((x.m : ℝ) + δ) * 2 ^ 25 < 2 ^ bitLength x.m * 2 ^ 25 := by gcongr
          _ = 2 ^ (bitLength x.m + 25) := (pow_add ..).symm
          _ ≤ 2 ^ (q - x.e).toNat := by
            gcongr
            · norm_num
            · omega
      · have h := natCast_lt_add (a := 0) (n := x.m) h0 h1
        simp only [Nat.cast_zero] at h
        rw [div_pos_iff_of_pos_right (by positivity), h, Bool.or_eq_true, bne_iff_ne, hsticky]
        by_cases hm : x.m = 0
        · simp [hm]
        · simp [hm, Nat.pos_of_ne_zero hm]
    · exact cutOf_split h0 h1 hsticky (by omega) fun h => by have := hdeep h; omega

/-! ## Rounding up -/

/-- R52: whether a magnitude is rounded up, from its cut. -/
theorem roundsUp_iff {c : Cut} {w : ℝ} (hc : CutOf c w) (rm : BitVec 3) (neg : Bool) {r : Nat} (hr : r < 2 ^ 24) :
    roundsUp (ruleOf rm) neg r c = true ↔ (c.kept : ℝ) < w ∧
      (((rm = 0 ∨ rm = 6) ∧ ((c.kept : ℝ) + 1 / 2 < w ∨ (c.kept % 2 = 1 ∧ (c.kept : ℝ) + 1 / 2 ≤ w))) ∨
       (rm = 2 ∧ neg = false) ∨ (rm = 3 ∧ neg = true) ∨ (rm = 4 ∧ (c.kept : ℝ) + 1 / 2 ≤ w) ∨
       ((rm = 5 ∨ rm = 7) ∧ (c.kept : ℝ) + (2 ^ 24 - r) / 2 ^ 24 ≤ w)) := by
  have hhalf : (c.kept : ℝ) + 1 / 2 ≤ w ↔ c.aboveHalf = true ∨ c.half = true := by
    rw [hc.aboveHalf, hc.half, le_iff_lt_or_eq, eq_comm (a := w)]
  rw [hhalf, ← hc.inexact, ← hc.aboveHalf, ← hc.digits r hr, roundsUp.eq_def, Bool.and_eq_true]
  refine and_congr_right fun _ => ?_
  have hcases : rm = 0 ∨ rm = 1 ∨ rm = 2 ∨ rm = 3 ∨ rm = 4 ∨ rm = 5 ∨ rm = 6 ∨ rm = 7 := by
    revert rm
    decide
  rcases hcases with rfl | rfl | rfl | rfl | rfl | rfl | rfl | rfl <;> simp [ruleOf] <;> grind

/-- R52, R55: between the multiples `kept` and `kept + 1` of 2^q, which are U = 2^24 × J units each, the rounding up that the
cut decides is that to the greater neighbour. -/
theorem stepsUp_iff {P : Nat → Bool → Prop} {unit q : ℤ} {v : ℝ} {c : Cut} {J : Nat} {odd : Prop} (hP : KnownBy unit v P)
    (hc : CutOf c (v / 2 ^ q)) (hJ : ((2 ^ 24 * J : Nat) : ℝ) * 2 ^ unit = 2 ^ q) (hodd : odd ↔ c.kept % 2 = 1)
    (rm : BitVec 3) (neg : Bool) {r : Nat} (hr : r < 2 ^ 24) :
    StepsUp rm neg r P odd (c.kept * (2 ^ 24 * J)) ((c.kept + 1) * (2 ^ 24 * J)) ↔ roundsUp (ruleOf rm) neg r c = true := by
  have hq : (0 : ℝ) < 2 ^ q := by positivity
  have hmid : (c.kept * (2 ^ 24 * J) + (c.kept + 1) * (2 ^ 24 * J)) / 2 = c.kept * (2 ^ 24 * J) + 2 ^ 23 * J := by
    have : c.kept * (2 ^ 24 * J) + (c.kept + 1) * (2 ^ 24 * J) = 2 * (c.kept * (2 ^ 24 * J) + 2 ^ 23 * J) := by ring
    omega
  have hstep : ((c.kept + 1) * (2 ^ 24 * J) - c.kept * (2 ^ 24 * J)) / 2 ^ 24 * (2 ^ 24 - r) = J * (2 ^ 24 - r) := by
    have : (c.kept + 1) * (2 ^ 24 * J) - c.kept * (2 ^ 24 * J) = 2 ^ 24 * J := by
      rw [Nat.add_mul, Nat.one_mul, Nat.add_sub_cancel_left]
    rw [this, Nat.mul_div_cancel_left _ (by positivity)]
  push_cast at hJ
  have hlo : ((c.kept * (2 ^ 24 * J) : Nat) : ℝ) * 2 ^ unit = c.kept * 2 ^ q := by
    rw [← hJ]
    push_cast
    ring
  have hhalf : ((c.kept * (2 ^ 24 * J) + 2 ^ 23 * J : Nat) : ℝ) * 2 ^ unit = (c.kept + 1 / 2) * 2 ^ q := by
    rw [← hJ]
    push_cast
    ring
  have hrand : ((c.kept * (2 ^ 24 * J) + J * (2 ^ 24 - r) : Nat) : ℝ) * 2 ^ unit =
      (c.kept + (2 ^ 24 - r) / 2 ^ 24) * 2 ^ q := by
    rw [← hJ, Nat.cast_add, Nat.cast_mul J, Nat.cast_sub hr.le]
    push_cast
    ring
  rw [roundsUp_iff hc rm neg hr, StepsUp, hmid, hstep, hodd]
  simp only [hP _, hlo, hhalf, hrand, lt_div_iff₀ hq, le_div_iff₀ hq]

end Sys2Proof.Machine
end

section
/-!
The one rounding to a binary format and to an integer (R36, R43, R44, R53, R55): the result is one of the two neighbours of the
magnitude in the format, with its flags.
-/

namespace Sys2Proof.Machine
open Claims (BinaryFormat StepsUp Rounds RoundsInt formatD formatF formatBf formatH formatE5 formatE4 formatE2 infinite zero
  invalid)

/-! ## The formats -/

/-- A binary format that speaks of its layout: its fields, its least and greatest patterns, and what an overflow gives. -/
structure SpeaksOf (f : BinaryFormat) : Prop where
  frac : f.layout.fields.2 = f.frac
  frac_pos : 1 ≤ f.frac
  frac_le : f.frac ≤ 52
  lsb : f.layout.minLsb = f.lsb
  greatest : f.layout.maxBits = f.greatest
  sign : ∀ neg, signBit f.layout neg = f.sign neg
  zero : ∀ neg, zeroBits f.layout neg = f.sign neg
  ieee : ∀ rm sat r x, roundExact f.layout rm sat r x = roundIeee f.layout rm sat r x
  overflow : ∀ rm sat neg, overflowBits f.layout rm sat neg =
    f.sign neg + (if sat = true ∨ rm = 1 ∨ rm = 6 ∨ rm = 7 ∨ rm = 2 ∧ neg = true ∨ rm = 3 ∧ neg = false
      then f.greatest else f.beyond)

theorem formats_speak : ∀ f ∈ [formatD, formatF, formatBf, formatH, formatE5, formatE4, formatE2], SpeaksOf f := by
  intro f hf
  simp only [List.mem_cons, List.not_mem_nil, or_false] at hf
  rcases hf with rfl | rfl | rfl | rfl | rfl | rfl | rfl
  all_goals
    exact ⟨rfl, by decide, by decide, rfl, rfl, by decide, by decide, fun _ _ _ _ => rfl, by decide⟩

/-- A format with infinities and NaNs above its finite patterns. -/
structure IeeeFormat (f : BinaryFormat) : Prop extends SpeaksOf f where
  layout : ∃ eb, 1 ≤ eb ∧ f.layout = .ieee eb f.frac
  beyond : f.layout.infBits = f.beyond
  next : f.beyond = f.greatest + 1
  nan : f.layout.defaultNan = f.nan

theorem formats_ieee : ∀ f ∈ [formatD, formatF, formatBf, formatH, formatE5], IeeeFormat f := by
  intro f hf
  have hs : SpeaksOf f := formats_speak f (by
    simp only [List.mem_cons, List.not_mem_nil, or_false] at hf ⊢
    tauto)
  simp only [List.mem_cons, List.not_mem_nil, or_false] at hf
  rcases hf with rfl | rfl | rfl | rfl | rfl
  all_goals exact ⟨hs, ⟨_, by decide, rfl⟩, rfl, rfl, rfl⟩

/-! ## The grid of a format -/

/-- A pattern is a number of least places and an integer of them: one below 2^frac at the least exponent, and else one that has
frac + 1 bits. -/
theorem pattern_split (f : BinaryFormat) (p : Nat) :
    ∃ j k, p = j * 2 ^ f.frac + k ∧ k < 2 ^ (f.frac + 1) ∧ (j = 0 ∨ 2 ^ f.frac ≤ k) := by
  have hpos : 0 < 2 ^ f.frac := by positivity
  have hdiv := Nat.div_add_mod p (2 ^ f.frac)
  have hmod := Nat.mod_lt p hpos
  rw [pow_succ]
  rcases Nat.eq_zero_or_pos (p / 2 ^ f.frac) with h0 | h1
  · refine ⟨0, p, by omega, ?_, .inl rfl⟩
    rw [h0] at hdiv
    omega
  · obtain ⟨j, hj⟩ : ∃ j, p / 2 ^ f.frac = j + 1 := ⟨_, (Nat.sub_add_cancel h1).symm⟩
    refine ⟨j, 2 ^ f.frac + p % 2 ^ f.frac, ?_, by omega, .inr (by omega)⟩
    have hsucc : 2 ^ f.frac * (j + 1) = j * 2 ^ f.frac + 2 ^ f.frac := by ring
    rw [hj] at hdiv
    omega

/-- The pattern of an integer `k` of places that each are 2^j of the least ones. -/
theorem grid_split (f : BinaryFormat) {j k : Nat} (hk : k ≤ 2 ^ (f.frac + 1)) (hj : j = 0 ∨ 2 ^ f.frac ≤ k) :
    f.grid (j * 2 ^ f.frac + k) = k * (2 ^ 24 * (2 * 2 ^ j)) := by
  have hpos : 0 < 2 ^ f.frac := by positivity
  unfold BinaryFormat.grid
  rcases Nat.lt_or_ge k (2 ^ f.frac) with hlt | hge
  · have h0 : j = 0 := hj.resolve_right (by omega)
    subst h0
    rw [Nat.zero_mul, Nat.zero_add, if_pos hlt]
    ring
  · rw [if_neg (by omega)]
    rcases Nat.lt_or_ge k (2 ^ (f.frac + 1)) with hlt | htop
    · obtain ⟨i, rfl⟩ := Nat.exists_eq_add_of_le hge
      have hi : i < 2 ^ f.frac := by
        rw [pow_succ] at hlt
        omega
      rw [show j * 2 ^ f.frac + (2 ^ f.frac + i) = i + 2 ^ f.frac * (j + 1) by ring, Nat.add_mul_mod_self_left,
        Nat.add_mul_div_left _ _ hpos, Nat.mod_eq_of_lt hi, Nat.div_eq_of_lt hi, Nat.zero_add, Nat.add_sub_cancel]
      ring
    · have hk2 : k = 2 ^ f.frac * 2 := by
        rw [pow_succ] at hk htop
        omega
      rw [hk2, show j * 2 ^ f.frac + 2 ^ f.frac * 2 = 0 + 2 ^ f.frac * (j + 2) by ring, Nat.add_mul_mod_self_left,
        Nat.add_mul_div_left _ _ hpos, Nat.zero_mod, Nat.zero_div, Nat.zero_add, Nat.add_zero,
        show j + 2 - 1 = j + 1 by omega]
      ring

theorem grid_strictMono (f : BinaryFormat) : StrictMono f.grid := by
  refine strictMono_nat_of_lt_succ fun p => ?_
  obtain ⟨j, k, rfl, hk, hj⟩ := pattern_split f p
  rw [grid_split f hk.le hj, Nat.add_assoc, grid_split f hk (hj.imp_right fun h => by omega)]
  exact Nat.mul_lt_mul_of_pos_right (Nat.lt_succ_self k) (by positivity)

theorem unit_scale (f : BinaryFormat) (j : Nat) :
    ((2 ^ 24 * (2 * 2 ^ j) : Nat) : ℝ) * 2 ^ f.unit = 2 ^ (f.lsb + j) := by
  have h : ((2 ^ 24 * (2 * 2 ^ j) : Nat) : ℝ) = 2 ^ ((25 + j : Nat) : ℤ) := by
    rw [zpow_natCast]
    push_cast
    ring
  rw [h, ← zpow_add₀ (by norm_num), BinaryFormat.unit]
  congr 1
  push_cast
  ring

/-! ## The magnitude and its leading bit -/

theorem two_zpow_floorLog2_le {x : Exact} {v : ℝ} (hx : StandsFor x v) (hm : x.m ≠ 0) :
    (2 : ℝ) ^ floorLog2 x.m x.e ≤ v := by
  obtain ⟨δ, h0, -, -, rfl⟩ := standsFor_floor hx
  have hlog : (2 : ℝ) ^ Nat.log2 x.m ≤ x.m := by exact_mod_cast Nat.log2_self_le hm
  rw [floorLog2, zpow_add₀ (by norm_num), zpow_natCast]
  gcongr
  linarith

theorem lt_two_zpow_floorLog2 {x : Exact} {v : ℝ} (hx : StandsFor x v) : v < (2 : ℝ) ^ (floorLog2 x.m x.e + 1) := by
  obtain ⟨δ, -, h1, -, rfl⟩ := standsFor_floor hx
  have hlog : ((x.m + 1 : Nat) : ℝ) ≤ 2 ^ (Nat.log2 x.m + 1) := by exact_mod_cast Nat.lt_log2_self
  push_cast at hlog
  rw [floorLog2, show (Nat.log2 x.m : ℤ) + x.e + 1 = ((Nat.log2 x.m + 1 : Nat) : ℤ) + x.e by push_cast; ring,
    zpow_add₀ (by norm_num), zpow_natCast]
  gcongr
  linarith

/-- R55: a magnitude that is not exact is known to more places than any format keeps. -/
def Fine (frac : Nat) (x : Exact) : Prop := x.sticky = true → frac + 24 ≤ Nat.log2 x.m

theorem fine_exact (frac : Nat) (neg : Bool) (m : Nat) (e : ℤ) : Fine frac { neg := neg, m := m, e := e, sticky := false } :=
  fun h => absurd h Bool.false_ne_true

/-- A cut that leaves at most frac + 1 bits leaves an integer below 2^(frac + 1). -/
theorem kept_lt {c : Cut} {w : ℝ} (hc : CutOf c w) {n : Nat} (hw : w < 2 ^ n) : c.kept < 2 ^ n := by
  exact_mod_cast hc.least.trans_lt hw

theorem le_kept {c : Cut} {w : ℝ} (hc : CutOf c w) {n : Nat} : n ≤ c.kept ↔ (n : ℝ) ≤ w := by
  constructor
  · intro h
    exact (Nat.cast_le.mpr h).trans hc.least
  · intro h
    have := h.trans_lt hc.below
    exact Nat.lt_succ_iff.mp (by exact_mod_cast this)

theorem roundCut_eq (rule : Rule) (neg : Bool) (r : Nat) (c : Cut) :
    roundCut rule neg r c = if roundsUp rule neg r c = true then c.kept + 1 else c.kept := by
  unfold roundCut
  split <;> rfl

/-! ## Tininess -/

/-- R36: tiny after rounding, as `roundIeee` decides it and as the neighbours of the least normal number do. -/
theorem tiny_iff {f : BinaryFormat} {x : Exact} {v : ℝ} {P : Nat → Bool → Prop} (hx : StandsFor x v) (hm : x.m ≠ 0)
    (hfine : Fine f.frac x) (hP : KnownBy f.unit v P) (rm : BitVec 3) {r : Nat} (hr : r < 2 ^ 24) :
    let qFree := floorLog2 x.m x.e - f.frac
    let normal := f.grid (2 ^ f.frac)
    (qFree < f.lsb ∧ ¬ (qFree + 1 = f.lsb ∧ roundCut (ruleOf rm) x.neg r (cutAt x qFree) = 2 ^ (f.frac + 1))) ↔
      (¬ P normal false ∧
        ¬ (P (normal - 2 ^ 24) false ∧ StepsUp rm x.neg r P True (normal - 2 ^ 24) normal)) := by
  intro qFree normal
  have hlo := two_zpow_floorLog2_le hx hm
  have hhi := lt_two_zpow_floorLog2 hx
  have hone : (1 : ℝ) < 2 := by norm_num
  have hnormal : normal = 2 ^ 24 * 2 ^ (f.frac + 1) := by
    have h := grid_split f (j := 0) (k := 2 ^ f.frac) (by rw [pow_succ]; omega) (.inl rfl)
    rw [Nat.zero_mul, Nat.zero_add] at h
    rw [show normal = _ from h]
    ring
  have hprev : normal - 2 ^ 24 = (2 ^ (f.frac + 1) - 1) * (2 ^ 24 * 1) := by
    rw [hnormal, Nat.mul_one, Nat.sub_mul, Nat.one_mul, Nat.mul_comm]
  have hnext : normal = (2 ^ (f.frac + 1) - 1 + 1) * (2 ^ 24 * 1) := by
    rw [hnormal, Nat.sub_add_cancel Nat.one_le_two_pow, Nat.mul_one, Nat.mul_comm]
  have hscale : ((2 ^ 24 * 1 : Nat) : ℝ) * 2 ^ f.unit = 2 ^ (f.lsb - 1) := by
    have h : ((2 ^ 24 * 1 : Nat) : ℝ) = 2 ^ ((24 : Nat) : ℤ) := by
      rw [zpow_natCast]
      norm_num
    rw [h, ← zpow_add₀ (by norm_num), BinaryFormat.unit, show ((24 : Nat) : ℤ) + (f.lsb - 25) = f.lsb - 1 by push_cast; ring]
  have hPnormal : P normal false ↔ f.lsb ≤ qFree := by
    rw [(hP normal).2, hnext, Nat.sub_add_cancel Nat.one_le_two_pow, Nat.cast_mul, mul_assoc, hscale, Nat.cast_pow,
      ← zpow_natCast, Nat.cast_two, ← zpow_add₀ (by norm_num)]
    constructor
    · intro h
      have := (zpow_lt_zpow_iff_right₀ hone).mp (h.trans_lt hhi)
      push_cast at this
      omega
    · intro h
      refine le_trans (zpow_le_zpow_right₀ hone.le ?_) hlo
      push_cast
      omega
  have hPprev : P (normal - 2 ^ 24) false ↔ ((2 ^ (f.frac + 1) - 1 : Nat) : ℝ) ≤ v / 2 ^ (f.lsb - 1) := by
    rw [(hP _).2, hprev, Nat.cast_mul, mul_assoc, hscale, le_div_iff₀ (by positivity)]
  rw [hPnormal, hPprev, not_le]
  refine and_congr_right fun hlt => not_congr ?_
  by_cases hq : qFree + 1 = f.lsb
  · have hdeep : x.sticky = true → x.e + 24 ≤ qFree := fun hs => by
      have := hfine hs
      simp only [qFree, floorLog2]
      omega
    have hc := cutAt_cutOf hx hdeep
    have hq' : f.lsb - 1 = qFree := by omega
    rw [hq']
    have hw : v / 2 ^ qFree < 2 ^ (f.frac + 1) := by
      rw [div_lt_iff₀ (by positivity), ← zpow_natCast, ← zpow_add₀ (by norm_num)]
      refine hhi.trans_le (zpow_le_zpow_right₀ hone.le ?_)
      simp only [qFree]
      push_cast
      omega
    have hkept := kept_lt hc hw
    rw [← le_kept hc, roundCut_eq]
    by_cases hk : 2 ^ (f.frac + 1) - 1 ≤ (cutAt x qFree).kept
    · have hkk : (cutAt x qFree).kept = 2 ^ (f.frac + 1) - 1 := by omega
      have hodd : True ↔ (cutAt x qFree).kept % 2 = 1 := by
        rw [hkk, pow_succ]
        have : 0 < 2 ^ f.frac := by positivity
        simp only [true_iff]
        omega
      have hs := stepsUp_iff (J := 1) hP hc (by rw [hscale, hq']) hodd rm x.neg hr
      rw [hkk, ← hprev, ← hnext] at hs
      rw [hs, hkk]
      simp only [hq, true_and, le_refl]
      split
      · next h => simp only [h, iff_true]; omega
      · next h => simp only [h, Bool.false_eq_true, iff_false]; omega
    · simp only [hk, false_and, iff_false]
      rintro ⟨-, h⟩
      split at h <;> omega
  · simp only [hq, false_and, false_iff]
    rintro ⟨h, -⟩
    have hw : v / 2 ^ (f.lsb - 1) < 2 ^ f.frac := by
      rw [div_lt_iff₀ (by positivity), ← zpow_natCast, ← zpow_add₀ (by norm_num)]
      refine hhi.trans_le (zpow_le_zpow_right₀ hone.le ?_)
      simp only [qFree] at hlt hq
      omega
    have hlt : ((2 ^ (f.frac + 1) - 1 : Nat) : ℝ) < ((2 ^ f.frac : Nat) : ℝ) := by
      push_cast
      exact h.trans_lt hw
    have := Nat.cast_lt.mp hlt
    have : 0 < 2 ^ f.frac := by positivity
    rw [pow_succ] at *
    omega

/-! ## Rounding to a binary format -/

/-- R36, R53, R55: the rounding of a magnitude to a binary format. -/
theorem roundIeee_rounds {f : BinaryFormat} (hf : SpeaksOf f) {x : Exact} {v : ℝ} {P : Nat → Bool → Prop}
    (hx : StandsFor x v) (hm : x.m ≠ 0) (hfine : Fine f.frac x) (hP : KnownBy f.unit v P) (rm : BitVec 3) (sat : Bool)
    {r : Nat} (hr : r < 2 ^ 24) : Rounds f rm sat x.neg r P (roundIeee f.layout rm sat r x) := by
  have hlo := two_zpow_floorLog2_le hx hm
  have hhi := lt_two_zpow_floorLog2 hx
  have hone : (1 : ℝ) < 2 := by norm_num
  have htiny := tiny_iff hx hm hfine hP rm hr
  unfold roundIeee
  rw [hf.frac, hf.lsb, hf.greatest, hf.overflow, hf.sign]
  generalize htop : floorLog2 x.m x.e = top at *
  dsimp only at htiny ⊢
  generalize hq : max (top - (f.frac : ℤ)) f.lsb = q
  obtain ⟨j, hj⟩ : ∃ j : Nat, (q - f.lsb).toNat = j := ⟨_, rfl⟩
  have hqj : q = f.lsb + j := by omega
  have hdeep : x.sticky = true → x.e + 24 ≤ q := fun hs => by
    have := hfine hs
    simp only [floorLog2] at htop
    omega
  have hc := cutAt_cutOf hx hdeep
  have hw : v / 2 ^ q < 2 ^ (f.frac + 1) := by
    rw [div_lt_iff₀ (by positivity), ← zpow_natCast, ← zpow_add₀ (by norm_num)]
    refine hhi.trans_le (zpow_le_zpow_right₀ hone.le ?_)
    push_cast
    omega
  have hkept := kept_lt hc hw
  have hbig : j = 0 ∨ 2 ^ f.frac ≤ (cutAt x q).kept := by
    rcases Nat.eq_zero_or_pos j with h | h
    · exact .inl h
    · refine .inr ((le_kept hc).mpr ?_)
      rw [le_div_iff₀ (by positivity)]
      push_cast
      rw [← zpow_natCast, ← zpow_add₀ (by norm_num)]
      refine le_trans (zpow_le_zpow_right₀ hone.le ?_) hlo
      omega
  have hscale : ((2 ^ 24 * (2 * 2 ^ j) : Nat) : ℝ) * 2 ^ f.unit = 2 ^ q := by rw [unit_scale, hqj]
  have hgrid : f.grid (j * 2 ^ f.frac + (cutAt x q).kept) = (cutAt x q).kept * (2 ^ 24 * (2 * 2 ^ j)) :=
    grid_split f hkept.le hbig
  have hgrid' : f.grid (j * 2 ^ f.frac + (cutAt x q).kept + 1) = ((cutAt x q).kept + 1) * (2 ^ 24 * (2 * 2 ^ j)) := by
    rw [Nat.add_assoc]
    exact grid_split f hkept (hbig.imp_right fun h => by omega)
  have hbelow : ∀ n : Nat, ((n * (2 ^ 24 * (2 * 2 ^ j)) : Nat) : ℝ) * 2 ^ f.unit = n * 2 ^ q := fun n => by
    rw [Nat.cast_mul, mul_assoc, hscale]
  have hqpos : (0 : ℝ) < 2 ^ q := by positivity
  have hparity : (j * 2 ^ f.frac + (cutAt x q).kept) % 2 = 1 ↔ (cutAt x q).kept % 2 = 1 := by
    obtain ⟨n, hn⟩ : ∃ n, f.frac = n + 1 := ⟨_, (Nat.sub_add_cancel hf.frac_pos).symm⟩
    rw [hn, pow_succ, ← Nat.mul_assoc]
    omega
  have hsteps := stepsUp_iff hP hc hscale hparity rm x.neg hr
  have hinexact : P ((cutAt x q).kept * (2 ^ 24 * (2 * 2 ^ j))) true ↔ (cutAt x q).inexact = true := by
    rw [(hP _).1, hbelow, hc.inexact, lt_div_iff₀ hqpos]
  refine ⟨j * 2 ^ f.frac + (cutAt x q).kept, j * 2 ^ f.frac + roundCut (ruleOf rm) x.neg r (cutAt x q), ?_⟩
  rw [hgrid, hgrid', hsteps, hinexact, hj]
  refine ⟨?_, ?_, fun h => ?_, fun h => ?_, fun h => if_pos h, fun h => ?_⟩
  · rw [(hP _).2, hbelow, ← le_div_iff₀ hqpos]
    exact hc.least
  · rw [(hP _).2, hbelow, ← le_div_iff₀ hqpos, not_le]
    push_cast
    exact hc.below
  · rw [roundCut_eq, if_pos h, Nat.add_assoc]
  · rw [roundCut_eq, if_neg h]
  · rw [if_neg (by omega)]
    refine ⟨rfl, fun hi => ?_, fun hi ht => ?_, fun hi ht => ?_⟩
    · simp [hi, raiseIf, noFlags]
    · have hmodel := htiny.mpr ht
      simp only [hi, raiseIf, hmodel.1, decide_true, Bool.true_and, if_true]
      rw [if_pos]
      · decide
      · simpa only [Bool.not_eq_true', Bool.and_eq_false_iff, beq_eq_false_iff_ne, ne_eq, not_and_or] using hmodel.2
    · have hmodel := mt htiny.mp ht
      simp only [hi, raiseIf, Bool.true_and, if_true]
      rw [if_neg]
      · decide
      · rintro hb
        refine hmodel ?_
        simpa only [Bool.and_eq_true, decide_eq_true_eq, Bool.not_eq_true', Bool.and_eq_false_iff, beq_eq_false_iff_ne, ne_eq,
          not_and_or] using hb

/-! ## Rounding to an integer -/

/-- R44: the rounding of a magnitude to an integer. -/
theorem roundInt_rounds {signed : Bool} {w : Nat} {x : Exact} {v : ℝ} {P : Nat → Bool → Prop} (hx : StandsFor x v)
    (hdeep : x.sticky = true → x.e + 24 ≤ 0) (hP : KnownBy (-24) v P) (rm : BitVec 3) {r : Nat} (hr : r < 2 ^ 24) :
    RoundsInt signed w rm x.neg r P (roundInt signed w rm r x) := by
  have hc := cutAt_cutOf hx hdeep
  have hscale : ((2 ^ 24 * 1 : Nat) : ℝ) * 2 ^ (-24 : ℤ) = 2 ^ (0 : ℤ) := by
    push_cast
    rw [zpow_neg]
    norm_num
  have hsteps := stepsUp_iff hP hc hscale Iff.rfl rm x.neg hr
  rw [zpow_zero, div_one] at hc
  rw [zpow_zero] at hscale
  have hbelow : ∀ n : Nat, ((n * 2 ^ 24 : Nat) : ℝ) * 2 ^ (-24 : ℤ) = n := fun n => by
    rw [Nat.cast_mul, mul_assoc, ← Nat.mul_one (2 ^ 24), hscale, mul_one]
  rw [Nat.mul_one] at hsteps
  refine ⟨(cutAt x 0).kept, roundCut (ruleOf rm) x.neg r (cutAt x 0), ?_⟩
  rw [hsteps, (hP _).2, (hP _).2, (hP _).1, hbelow, hbelow, ← hc.inexact]
  refine ⟨hc.least, ?_, fun h => ?_, fun h => ?_, fun h => ?_, fun h => ?_, fun h1 h2 => ?_⟩
  · rw [not_le]
    push_cast
    exact hc.below
  · rw [roundCut_eq, if_pos h]
  · rw [roundCut_eq, if_neg h]
  · exact if_pos h
  · have hle : ¬ (if x.neg = true then -(roundCut (ruleOf rm) x.neg r (cutAt x 0) : ℤ)
        else roundCut (ruleOf rm) x.neg r (cutAt x 0)) < if signed = true then -2 ^ (w - 1) else 0 := by
      refine not_lt.mpr (le_trans ?_ h.le)
      cases signed
      · simp only [Bool.false_eq_true, if_false]
        have : (0 : ℤ) < 2 ^ w := by positivity
        omega
      · simp only [if_true]
        have : (0 : ℤ) < 2 ^ (w - 1) := by positivity
        omega
    exact (if_neg hle).trans (if_pos h)
  · have heq : roundInt signed w rm r x = _ := (if_neg (not_lt.mpr h1)).trans (if_neg (not_lt.mpr h2))
    rw [heq]
    refine ⟨rfl, fun hi => ?_, fun hi => ?_⟩
    · simp [hi, raiseIf, noFlags]
    · simp [hi, raiseIf, flagNX]

end Sys2Proof.Machine
end

section
/-!
The exact values that an operation rounds (R36, R57, R58, R62): how the statements know a fraction and a root, and that the model's
truncated quotients and roots stand for the exact ones.
-/

namespace Sys2Proof.Machine
open Claims (BinaryFormat Fraction Root RootInverse)

/-! ## Fractions and roots -/

/-- Two integers scaled by powers of two compare as their reals do. -/
theorem scaled_le_iff (a b : Nat) (q e : ℤ) :
    a * 2 ^ (q - e).toNat ≤ b * 2 ^ (e - q).toNat ↔ (a : ℝ) * 2 ^ q ≤ b * 2 ^ e := by
  have hq : (2 : ℝ) ^ q = 2 ^ (q - e).toNat * 2 ^ min q e := by
    rw [← zpow_natCast, ← zpow_add₀ (by norm_num)]
    congr 1
    omega
  have he : (2 : ℝ) ^ e = 2 ^ (e - q).toNat * 2 ^ min q e := by
    rw [← zpow_natCast, ← zpow_add₀ (by norm_num)]
    congr 1
    omega
  rw [hq, he, ← mul_assoc, ← mul_assoc, mul_le_mul_iff_left₀ (by positivity)]
  exact_mod_cast Iff.rfl

theorem scaled_lt_iff (a b : Nat) (q e : ℤ) :
    a * 2 ^ (q - e).toNat < b * 2 ^ (e - q).toNat ↔ (a : ℝ) * 2 ^ q < b * 2 ^ e := by
  rw [← not_le, ← not_le, scaled_le_iff b a e q]

theorem knownBy_fraction (q : ℤ) (m : Nat) {d : Nat} (hd : d ≠ 0) (e : ℤ) :
    KnownBy q (m / d * 2 ^ e) (Fraction q m d e) := by
  have hpos : (0 : ℝ) < d := by exact_mod_cast Nat.pos_of_ne_zero hd
  intro u
  have hscale : ∀ z : ℝ, (m : ℝ) / d * z = m * z / d := fun z => by ring
  have hmul : ((u * d : Nat) : ℝ) * 2 ^ q = u * 2 ^ q * d := by
    push_cast
    ring
  rw [hscale, lt_div_iff₀ hpos, le_div_iff₀ hpos, ← hmul, ← scaled_lt_iff, ← scaled_le_iff]
  simp [Fraction]

theorem zpow_two_mul (q : ℤ) : (2 : ℝ) ^ (2 * q) = 2 ^ q * 2 ^ q := by rw [two_mul, zpow_add₀ (by norm_num)]

theorem knownBy_root (q : ℤ) (m : Nat) (e : ℤ) : KnownBy q (√(m * 2 ^ e)) (Root q m e) := by
  intro u
  have hsq : ((u : ℝ) * 2 ^ q) ^ 2 = ((u * u : Nat) : ℝ) * 2 ^ (2 * q) := by
    rw [zpow_two_mul]
    push_cast
    ring
  rw [Real.lt_sqrt (by positivity), Real.le_sqrt (by positivity) (by positivity), hsq, ← scaled_lt_iff, ← scaled_le_iff]
  simp [Root]

theorem knownBy_rootInverse (q : ℤ) {m : Nat} (hm : m ≠ 0) (e : ℤ) :
    KnownBy q (1 / √(m * 2 ^ e)) (RootInverse q m e) := by
  have hpos : (0 : ℝ) < m := by exact_mod_cast Nat.pos_of_ne_zero hm
  have hv : 1 / √((m : ℝ) * 2 ^ e) = √(1 / (m * 2 ^ e)) := by rw [Real.sqrt_div zero_le_one, Real.sqrt_one]
  intro u
  have hsq : ((u : ℝ) * 2 ^ q) ^ 2 * (m * 2 ^ e) = ((u * u * m : Nat) : ℝ) * 2 ^ (2 * q + e) := by
    rw [zpow_add₀ (by norm_num), zpow_two_mul]
    push_cast
    ring
  have hone : (1 : ℝ) = ((1 : Nat) : ℝ) * 2 ^ (0 : ℤ) := by simp
  rw [hv, Real.lt_sqrt (by positivity), Real.le_sqrt (by positivity) (by positivity), lt_div_iff₀ (by positivity),
    le_div_iff₀ (by positivity), hsq, hone, ← scaled_lt_iff, ← scaled_le_iff]
  simp [RootInverse]

/-! ## The magnitudes that the operations form -/

theorem standsFor_exact (neg : Bool) (m : Nat) (e : ℤ) :
    StandsFor { neg := neg, m := m, e := e, sticky := false } (m * 2 ^ e) :=
  ⟨fun _ => rfl, fun h => absurd h Bool.false_ne_true⟩

/-- A real that truncates to an integer stands for it, exactly where nothing is cut off. -/
theorem standsFor_truncated {neg sticky : Bool} {m : Nat} {e : ℤ} {w : ℝ} (h0 : (m : ℝ) ≤ w) (h1 : w < m + 1)
    (hs : sticky = true ↔ w ≠ m) : StandsFor { neg := neg, m := m, e := e, sticky := sticky } (w * 2 ^ e) := by
  have hpos : (0 : ℝ) < 2 ^ e := by positivity
  constructor
  · intro hf
    simp only at hf
    have hw : w = m := not_not.mp fun h => by simp [hs.mpr h] at hf
    rw [hw]
  · intro ht
    have hlt : (m : ℝ) < w := lt_of_le_of_ne h0 (Ne.symm (hs.mp ht))
    exact ⟨(mul_lt_mul_iff_left₀ hpos).mpr hlt, (mul_lt_mul_iff_left₀ hpos).mpr h1⟩

theorem bitLength_of_ne_zero {m : Nat} (h : m ≠ 0) : bitLength m = Nat.log2 m + 1 := if_neg h

theorem two_pow_le_of_bitLength {m : Nat} (h : m ≠ 0) : 2 ^ (bitLength m - 1) ≤ m := by
  rw [bitLength_of_ne_zero h]
  exact Nat.log2_self_le h

/-- A magnitude of more than 76 bits is known to more places than any format keeps. -/
theorem fine_of_le {frac : Nat} (hfrac : frac ≤ 52) {x : Exact} (h : 2 ^ 76 ≤ x.m) : Fine frac x := fun _ => by
  have hm : x.m ≠ 0 := by
    have : 0 < 2 ^ 76 := by positivity
    omega
  have := (Nat.le_log2 hm).mpr h
  omega

/-! ## Quotients -/

theorem divMag_standsFor (neg : Bool) (m : Nat) (e : ℤ) {k : Nat} (hk : k ≠ 0) (g : ℤ) :
    StandsFor (divMag neg m e k g) (m / k * 2 ^ (e - g)) := by
  have hpos : (0 : ℝ) < k := by exact_mod_cast Nat.pos_of_ne_zero hk
  unfold divMag
  generalize workBits + bitLength k - bitLength m = s
  dsimp only
  have hsplit : ((m * 2 ^ s : Nat) : ℝ) = k * (m * 2 ^ s / k : Nat) + (m * 2 ^ s % k : Nat) := by
    exact_mod_cast (Nat.div_add_mod (m * 2 ^ s) k).symm
  have hrest : ((m * 2 ^ s % k : Nat) : ℝ) < k := by exact_mod_cast Nat.mod_lt _ (Nat.pos_of_ne_zero hk)
  have hv : (m : ℝ) / k * 2 ^ (e - g) = ((m * 2 ^ s : Nat) : ℝ) / k * 2 ^ (e - g - s) := by
    rw [zpow_sub₀ (by norm_num) (e - g) s, zpow_natCast]
    push_cast
    field_simp
  rw [hv]
  refine standsFor_truncated ?_ ?_ ?_
  · rw [le_div_iff₀ hpos, hsplit, mul_comm]
    have : (0 : ℝ) ≤ (m * 2 ^ s % k : Nat) := by positivity
    linarith
  · rw [div_lt_iff₀ hpos, hsplit]
    linarith
  · rw [ne_eq, div_eq_iff hpos.ne', hsplit, mul_comm (k : ℝ), bne_iff_ne, ne_eq, add_eq_left, Nat.cast_eq_zero]

theorem le_divMag (neg : Bool) {m : Nat} (hm : m ≠ 0) (e : ℤ) {k : Nat} (hk : k ≠ 0) (g : ℤ) :
    2 ^ 76 ≤ (divMag neg m e k g).m := by
  have hlo := two_pow_le_of_bitLength hm
  have hhi := lt_two_pow_bitLength k
  have hpos : 1 ≤ bitLength m := by rw [bitLength_of_ne_zero hm]; omega
  show 2 ^ 76 ≤ m * 2 ^ (workBits + bitLength k - bitLength m) / k
  rw [Nat.le_div_iff_mul_le (Nat.pos_of_ne_zero hk)]
  calc 2 ^ 76 * k ≤ 2 ^ 76 * 2 ^ bitLength k := Nat.mul_le_mul_left _ hhi.le
    _ = 2 ^ (76 + bitLength k) := (Nat.pow_add ..).symm
    _ ≤ 2 ^ (bitLength m - 1 + (workBits + bitLength k - bitLength m)) :=
      Nat.pow_le_pow_right (by norm_num) (by unfold workBits; omega)
    _ = 2 ^ (bitLength m - 1) * 2 ^ (workBits + bitLength k - bitLength m) := Nat.pow_add ..
    _ ≤ m * 2 ^ (workBits + bitLength k - bitLength m) := Nat.mul_le_mul_right _ hlo

/-! ## Roots -/

/-- The search for a root from its leading bit down keeps it between its bounds. -/
theorem isqrtFrom_spec (k v r : Nat) (hlo : r * r ≤ v) (hhi : v < (r + 2 ^ (k + 1)) * (r + 2 ^ (k + 1))) :
    isqrtFrom k v r * isqrtFrom k v r ≤ v ∧ v < (isqrtFrom k v r + 1) * (isqrtFrom k v r + 1) := by
  induction k generalizing r with
  | zero =>
    unfold isqrtFrom
    split
    · next h => exact ⟨h, hhi⟩
    · next h => exact ⟨hlo, by omega⟩
  | succ k ih =>
    unfold isqrtFrom
    dsimp only
    split
    · next h =>
      refine ih _ h ?_
      rwa [Nat.add_assoc, ← Nat.two_mul, ← Nat.pow_succ']
    · next h => exact ih _ hlo (by omega)

theorem isqrt_eq_sqrt (v : Nat) : isqrt v = Nat.sqrt v := by
  have hv : v < (0 + 2 ^ (bitLength v / 2 + 1 + 1)) * (0 + 2 ^ (bitLength v / 2 + 1 + 1)) := by
    rw [Nat.zero_add, ← Nat.pow_add]
    exact (lt_two_pow_bitLength v).trans_le (Nat.pow_le_pow_right (by norm_num) (by omega))
  obtain ⟨hlo, hhi⟩ := isqrtFrom_spec (bitLength v / 2 + 1) v 0 (Nat.zero_le _) hv
  exact Nat.eq_sqrt.mpr ⟨hlo, hhi⟩

/-- The truncated root of an integer against the root of a real that truncates to it. -/
theorem sqrt_truncates {w : ℝ} {v : Nat} (h0 : (v : ℝ) ≤ w) (h1 : w < v + 1) :
    (Nat.sqrt v : ℝ) ≤ √w ∧ √w < Nat.sqrt v + 1 := by
  have hw : 0 ≤ w := (Nat.cast_nonneg v).trans h0
  have hlo : ((Nat.sqrt v * Nat.sqrt v : Nat) : ℝ) ≤ v := by exact_mod_cast Nat.sqrt_le v
  have hhi : ((v + 1 : Nat) : ℝ) ≤ ((Nat.sqrt v + 1) * (Nat.sqrt v + 1) : Nat) := by
    exact_mod_cast Nat.lt_succ_sqrt v
  push_cast at hlo hhi
  constructor
  · rw [Real.le_sqrt (by positivity) hw]
    nlinarith
  · rw [Real.sqrt_lt' (by positivity)]
    nlinarith

/-- A magnitude's exponent made even. -/
theorem even_exponent (m : Nat) (e : ℤ) :
    ∃ k g, (if (e % 2 != 0) = true then 2 * m else m) = k ∧ (if (e % 2 != 0) = true then e - 1 else e) = 2 * g ∧
      (m : ℝ) * 2 ^ e = k * (2 ^ g * 2 ^ g) ∧ (m ≠ 0 → k ≠ 0) := by
  rcases Int.even_or_odd' e with ⟨g, rfl | rfl⟩
  · refine ⟨m, g, by simp, by simp, by rw [zpow_two_mul], id⟩
  · refine ⟨2 * m, g, by simp, by simp, ?_, by omega⟩
    rw [zpow_add₀ (by norm_num), zpow_two_mul]
    push_cast
    ring

/-- The work bits are more than twice those that `fine_of_le` asks for. -/
theorem work_covers : 2 ^ 76 * 2 ^ 76 ≤ 2 ^ (2 * workBits) := by
  rw [← Nat.pow_add]
  exact Nat.pow_le_pow_right (by norm_num) (by decide)

theorem sqrtMag_spec {m : Nat} (hm : m ≠ 0) (e : ℤ) :
    StandsFor (sqrtMag m e) (√(m * 2 ^ e)) ∧ 2 ^ 76 ≤ (sqrtMag m e).m := by
  obtain ⟨k, g, hk, hg, hv, hk0⟩ := even_exponent m e
  have hpos : 1 ≤ k := Nat.pos_of_ne_zero (hk0 hm)
  unfold sqrtMag
  dsimp only
  rw [hk, hg, Int.mul_ediv_cancel_left _ (by norm_num), isqrt_eq_sqrt]
  constructor
  · have hroot : √((m : ℝ) * 2 ^ e) = √((k * 2 ^ (2 * workBits) : Nat) : ℝ) * 2 ^ (g - workBits) := by
      have hsplit : (m : ℝ) * 2 ^ e = ((k * 2 ^ (2 * workBits) : Nat) : ℝ) * (2 ^ (g - workBits)) ^ 2 := by
        rw [hv, zpow_sub₀ (by norm_num), zpow_natCast, Nat.cast_mul, Nat.cast_pow, Nat.cast_two, mul_comm 2 workBits, pow_mul]
        field_simp
      rw [hsplit, Real.sqrt_mul (Nat.cast_nonneg _), Real.sqrt_sq (by positivity)]
    rw [hroot]
    obtain ⟨h0, h1⟩ := sqrt_truncates (v := k * 2 ^ (2 * workBits)) le_rfl (lt_add_one _)
    refine standsFor_truncated h0 h1 ?_
    rw [bne_iff_ne, ne_eq, ne_eq, Real.sqrt_eq_iff_mul_self_eq (Nat.cast_nonneg _) (Nat.cast_nonneg _), eq_comm]
    exact not_congr (by exact_mod_cast Iff.rfl)
  · rw [Nat.le_sqrt]
    calc 2 ^ 76 * 2 ^ 76 ≤ 1 * 2 ^ (2 * workBits) := (Nat.one_mul _).symm ▸ work_covers
      _ ≤ k * 2 ^ (2 * workBits) := Nat.mul_le_mul_right _ hpos

theorem rsqrtMag_spec {m : Nat} (hm : m ≠ 0) (e : ℤ) :
    StandsFor (rsqrtMag m e) (1 / √(m * 2 ^ e)) ∧ 2 ^ 76 ≤ (rsqrtMag m e).m := by
  obtain ⟨k, g, hk, hg, hv, hk0⟩ := even_exponent m e
  have hpos : 1 ≤ k := Nat.pos_of_ne_zero (hk0 hm)
  have hkr : (0 : ℝ) < k := by exact_mod_cast hpos
  unfold rsqrtMag
  dsimp only
  rw [hk, hg, Int.mul_ediv_cancel_left _ (by norm_num), isqrt_eq_sqrt]
  have hbits := lt_two_pow_bitLength k
  obtain ⟨s, hs⟩ : ∃ s, workBits + bitLength k = s := ⟨_, rfl⟩
  rw [hs]
  have hsplit : ((2 ^ (2 * s) : Nat) : ℝ) = k * (2 ^ (2 * s) / k : Nat) + (2 ^ (2 * s) % k : Nat) := by
    exact_mod_cast (Nat.div_add_mod (2 ^ (2 * s)) k).symm
  have hrest : ((2 ^ (2 * s) % k : Nat) : ℝ) < k := by exact_mod_cast Nat.mod_lt _ hpos
  constructor
  · have hroot : 1 / √((m : ℝ) * 2 ^ e) = √(((2 ^ (2 * s) : Nat) : ℝ) / k) * 2 ^ (-g - s) := by
      have heq : 1 / ((m : ℝ) * 2 ^ e) = ((2 ^ (2 * s) : Nat) : ℝ) / k * (2 ^ (-g - s : ℤ)) ^ 2 := by
        rw [hv, zpow_sub₀ (by norm_num), zpow_neg, zpow_natCast, Nat.cast_pow, Nat.cast_two, mul_comm 2 s, pow_mul]
        field_simp
      rw [← Real.sqrt_one, ← Real.sqrt_div zero_le_one, heq, Real.sqrt_mul (by positivity), Real.sqrt_sq (by positivity)]
    rw [hroot]
    obtain ⟨h0, h1⟩ := sqrt_truncates (w := ((2 ^ (2 * s) : Nat) : ℝ) / k) (v := 2 ^ (2 * s) / k)
      (by
        rw [le_div_iff₀ hkr, hsplit, mul_comm]
        have : (0 : ℝ) ≤ (2 ^ (2 * s) % k : Nat) := by positivity
        linarith)
      (by
        rw [div_lt_iff₀ hkr, hsplit]
        linarith)
    refine standsFor_truncated h0 h1 ?_
    rw [bne_iff_ne, ne_eq, ne_eq, Real.sqrt_eq_iff_mul_self_eq (by positivity) (Nat.cast_nonneg _),
      div_eq_iff hkr.ne', eq_comm]
    exact not_congr (by exact_mod_cast Iff.rfl)
  · rw [Nat.le_sqrt, Nat.le_div_iff_mul_le hpos]
    calc 2 ^ 76 * 2 ^ 76 * k ≤ 2 ^ (2 * workBits) * 2 ^ bitLength k :=
          Nat.mul_le_mul work_covers hbits.le
      _ = 2 ^ (2 * workBits + bitLength k) := (Nat.pow_add ..).symm
      _ ≤ 2 ^ (2 * s) := Nat.pow_le_pow_right (by norm_num) (by omega)

end Sys2Proof.Machine
end

section
/-!
Sums, products, quotients and roots as one rounding of the exact value (R36, R53, R57, R58, R62, R117), and the rules of NaNs
(R35, R57).
-/

namespace Sys2Proof.Machine
open Claims (BinaryFormat Fraction Root Rounds RoundsInt SumRounds inUnits infinite zero invalid)

section formats
variable {f : BinaryFormat} {rm : BitVec 3} {sat : Bool} {r : Nat}

/-! ## One number -/

/-- R53: a finite number that is not zero. -/
theorem roundNum_rounds (hf : SpeaksOf f) (hr : r < 2 ^ 24) (neg : Bool) {m : Nat} (hm : m ≠ 0) (e : ℤ) :
    Rounds f rm sat neg r (Fraction f.unit m 1 e) (roundNum f.layout rm sat r (.fin neg m e)) := by
  have hknown := knownBy_fraction f.unit m one_ne_zero e
  rw [Nat.cast_one, div_one] at hknown
  have h := roundIeee_rounds hf (standsFor_exact neg m e) hm (fine_exact _ neg m e) hknown rm sat hr
  rw [← hf.ieee] at h
  rwa [roundNum, if_neg hm]

theorem roundNum_zero (hf : SpeaksOf f) (neg : Bool) (e : ℤ) : roundNum f.layout rm sat r (.fin neg 0 e) = zero f neg := by
  rw [roundNum, if_pos rfl, hf.zero]
  rfl

/-- R44: a number that is not zero, to an integer. -/
theorem roundNum_roundsInt {signed : Bool} {w : Nat} (hr : r < 2 ^ 24) (neg : Bool) {m : Nat} (hm : m ≠ 0) (e : ℤ) :
    RoundsInt signed w rm neg r (Fraction (-24) m 1 e) (roundNum (.int signed w) rm sat r (.fin neg m e)) := by
  have hknown := knownBy_fraction (-24) m one_ne_zero e
  rw [Nat.cast_one, div_one] at hknown
  have h := roundInt_rounds (signed := signed) (w := w) (standsFor_exact neg m e) (fun h => absurd h Bool.false_ne_true) hknown
    rm hr
  rwa [roundNum, if_neg hm]

/-- R62: a magnitude that an operation truncates. -/
theorem roundMag_rounds (hf : SpeaksOf f) {x : Exact} {v : ℝ} {P : Nat → Bool → Prop} (hx : StandsFor x v)
    (hm : 2 ^ 76 ≤ x.m) (hP : KnownBy f.unit v P) (hr : r < 2 ^ 24) :
    Rounds f rm false x.neg r P (roundMag f.layout rm r x) := by
  have hm0 : x.m ≠ 0 := by
    have : 0 < 2 ^ 76 := by positivity
    omega
  have h := roundIeee_rounds hf hx hm0 (fine_of_le hf.frac_le hm) hP rm false hr
  rw [← hf.ieee] at h
  rwa [roundMag, if_neg (by simp [hm0])]

/-! ## Sums -/

/-- A finite number as a real. -/
noncomputable def realOf (n : Bool) (m : Nat) (e : ℤ) : ℝ := (if n then -1 else 1) * (m * 2 ^ e)

theorem inUnits_mul {k e : ℤ} (h : k ≤ e) (n : Bool) (m : Nat) : (inUnits k n m e : ℝ) * 2 ^ k = realOf n m e := by
  have he : (2 : ℝ) ^ e = 2 ^ (e - k).toNat * 2 ^ k := by
    rw [← zpow_natCast, ← zpow_add₀ (by norm_num)]
    congr 1
    omega
  rw [inUnits, realOf, he]
  cases n <;> push_cast <;> simp <;> ring

theorem scaledInt_mul {base e : ℤ} {m : Nat} (h : base ≤ e ∨ m = 0) (n : Bool) :
    (scaledInt n m e base : ℝ) * 2 ^ base = realOf n m e := by
  rcases h with h | rfl
  · have he : (2 : ℝ) ^ e = 2 ^ (e - base).toNat * 2 ^ base := by
      rw [← zpow_natCast, ← zpow_add₀ (by norm_num)]
      congr 1
      omega
    rw [scaledInt, if_pos h, realOf, he]
    cases n <;> simp <;> ring
  · simp [scaledInt, realOf]

/-- The unit of a sum of two terms lies at or below each of them that is not zero. -/
theorem sumTerms_mul (n : Bool) (m : Nat) (e : ℤ) (n' : Bool) (m' : Nat) (e' : ℤ) :
    let s := sumTerms [(n, m, e), (n', m', e')]
    (s.1 : ℝ) * 2 ^ s.2 = realOf n m e + realOf n' m' e' := by
  simp only [sumTerms, List.foldl_cons, List.foldl_nil, termInt, zero_add]
  generalize hb : (if m' = 0 then (if m = 0 then (0 : ℤ) else min 0 e) else min (if m = 0 then (0 : ℤ) else min 0 e) e') = base
  have h1 : base ≤ e ∨ m = 0 := by
    by_cases h : m = 0
    · exact .inr h
    · rw [if_neg h] at hb
      split at hb <;> omega
  have h2 : base ≤ e' ∨ m' = 0 := by
    by_cases h : m' = 0
    · exact .inr h
    · rw [if_neg h] at hb
      omega
  rw [Int.cast_add, add_mul, scaledInt_mul h1, scaledInt_mul h2]

/-- Two integers in units of powers of two that are one real have one sign and one magnitude. -/
theorem same_real {a b p q : ℤ} (h : (a : ℝ) * 2 ^ p = b * 2 ^ q) :
    (a = 0 ↔ b = 0) ∧ (a < 0 ↔ b < 0) ∧ (a.natAbs : ℝ) * 2 ^ p = b.natAbs * 2 ^ q := by
  have hp : (0 : ℝ) < 2 ^ p := by positivity
  have hq : (0 : ℝ) < 2 ^ q := by positivity
  refine ⟨?_, ?_, ?_⟩
  · rw [← Int.cast_eq_zero (α := ℝ), ← Int.cast_eq_zero (α := ℝ) (n := b), ← mul_eq_zero_iff_right hp.ne', h,
      mul_eq_zero_iff_right hq.ne']
  · have hsign : ∀ (c : ℤ) (z : ℝ), 0 < z → ((c : ℝ) * z < 0 ↔ c < 0) := fun c z hz => by
      simpa using mul_lt_mul_iff_left₀ (b := (c : ℝ)) (c := 0) hz
    rw [← hsign a _ hp, h, hsign b _ hq]
  · have habs := congrArg abs h
    rwa [abs_mul, abs_mul, abs_of_pos hp, abs_of_pos hq, ← Int.cast_abs, ← Int.cast_abs, Int.abs_eq_natAbs,
      Int.abs_eq_natAbs, Int.cast_natCast, Int.cast_natCast] at habs

theorem ruleOf_down (rm : BitVec 3) : (ruleOf rm == .down) = (rm == 3) := by
  revert rm
  decide

/-- R36: the exact sum of two finite numbers, rounded once. -/
theorem roundSum_rounds (hf : SpeaksOf f) {i : RoundIn} (hr : i.r < 2 ^ 24) (n : Bool) (m : Nat) (e : ℤ) (n' : Bool)
    (m' : Nat) (e' : ℤ) : SumRounds f i n m e n' m' e' (roundSum f.layout i [(n, m, e), (n', m', e')]) := by
  have hterms := sumTerms_mul n m e n' m' e'
  unfold roundSum SumRounds
  generalize sumTerms [(n, m, e), (n', m', e')] = s at *
  obtain ⟨S, base⟩ := s
  dsimp only at hterms ⊢
  have hunits : ((inUnits (min e e') n m e + inUnits (min e e') n' m' e' : ℤ) : ℝ) * 2 ^ min e e' =
      realOf n m e + realOf n' m' e' := by
    rw [Int.cast_add, add_mul, inUnits_mul (min_le_left _ _), inUnits_mul (min_le_right _ _)]
  obtain ⟨hzero, hneg, habs⟩ := same_real (hterms.trans hunits.symm)
  constructor
  · intro h
    have hS : S ≠ 0 := mt hzero.mp h
    have hknown := knownBy_fraction f.unit (inUnits (min e e') n m e + inUnits (min e e') n' m' e').natAbs one_ne_zero
      (min e e')
    rw [Nat.cast_one, div_one, ← habs] at hknown
    rw [if_neg hS, hf.ieee, show decide (inUnits (min e e') n m e + inUnits (min e e') n' m' e' < 0) = decide (S < 0) from
      decide_eq_decide.mpr hneg.symm]
    exact roundIeee_rounds hf (standsFor_exact _ _ _) (Int.natAbs_ne_zero.mpr hS) (fine_exact _ _ _ _) hknown i.rm false hr
  · intro h
    rw [if_pos (hzero.mpr h), plainResult, hf.zero, ruleOf_down]
    simp only [List.all_cons, List.all_nil, Bool.and_true]
    have hall : (n && m == 0 && (n' && m' == 0)) = (n && n' && m == 0 && m' == 0) := by
      cases n <;> cases n' <;> simp
    rw [hall]
    rfl

theorem sumNums_fin (l : Layout) (i : RoundIn) (n : Bool) (m : Nat) (e : ℤ) (n' : Bool) (m' : Nat) (e' : ℤ) :
    sumNums l i [.fin n m e, .fin n' m' e'] = roundSum l i [(n, m, e), (n', m', e')] := rfl

/-! ## Infinities -/

theorem convertInf_ieee (hf : IeeeFormat f) (neg : Bool) : convertInf f.layout rm false neg = infinite f neg := by
  obtain ⟨eb, -, hl⟩ := hf.layout
  have h := hf.sign neg
  have hb := hf.beyond
  rw [hl] at h hb ⊢
  simp only [convertInf, infinite, Bool.false_eq_true, if_false, h, hb]
  rfl

theorem poleResult_ieee (hf : IeeeFormat f) (neg : Bool) : poleResult f.layout neg = { infinite f neg with flags := 2 } := by
  obtain ⟨eb, -, hl⟩ := hf.layout
  have h := hf.sign neg
  have hb := hf.beyond
  rw [hl] at h hb ⊢
  simp only [poleResult, infinite, Layout.isTaper, Bool.false_eq_true, if_false, h, hb]
  rfl

theorem plainResult_zero (hf : SpeaksOf f) (neg : Bool) : plainResult (zeroBits f.layout neg) = zero f neg := by
  rw [hf.zero]
  rfl

theorem invalidResult_ieee (hf : IeeeFormat f) : invalidResult f.layout = invalid f := by
  rw [invalidResult, hf.nan]
  rfl

end formats

end Sys2Proof.Machine
end

section
/-!
Patterns of the binary formats with infinities (R35): what each stands for, and the rules of NaN operands (R57).
-/

namespace Sys2Proof.Machine
open Claims (BinaryFormat NanPattern Signals IsQuiet quiet Rounds RoundsInt Fraction StepsUp zero invalid)

/-! ## The fields of a pattern -/

theorem decodeNum_ieee (eb fb a : Nat) :
    decodeNum (.ieee eb fb) a =
      if a / 2 ^ fb % 2 ^ eb = 2 ^ eb - 1 then
        (if a % 2 ^ fb = 0 then .inf (a.testBit (eb + fb))
          else .nan (a.testBit (eb + fb)) (!a.testBit (fb - 1) || fb == 0) (a % 2 ^ fb * 2 ^ (52 - fb)))
      else if a / 2 ^ fb % 2 ^ eb = 0 then .fin (a.testBit (eb + fb)) (a % 2 ^ fb) (Layout.ieee eb fb).minLsb
      else .fin (a.testBit (eb + fb)) (2 ^ fb + a % 2 ^ fb)
        ((Layout.ieee eb fb).minLsb + ((a / 2 ^ fb % 2 ^ eb : Nat) - 1 : Int)) := by
  have h4 : (Layout.ieee eb fb == .e4m3) = false := rfl
  have h2 : (Layout.ieee eb fb == .e2m1) = false := rfl
  have hbit : (a % 2 ^ fb).testBit (fb - 1) = !(!a.testBit (fb - 1) || fb == 0) := by
    rw [Nat.testBit_mod_two_pow]
    cases fb <;> simp
  simp [decodeNum, Layout.fields, natField, Nat.shiftRight_eq_div_pow, h4, h2, bne, hbit]

section formats
variable {f : BinaryFormat}

/-- The exponent and fraction fields make up the pattern without its sign. -/
theorem magnitude_fields (a eb fb : Nat) :
    a % 2 ^ (eb + fb) = a / 2 ^ fb % 2 ^ eb * 2 ^ fb + a % 2 ^ fb := by
  rw [Nat.add_comm eb, Nat.pow_add, Nat.mod_mul, Nat.add_comm, Nat.mul_comm]

theorem ieee_bits {eb : Nat} (hl : f.layout = .ieee eb f.frac) : f.layout.bits - 1 = eb + f.frac := by
  rw [hl, Layout.bits]
  omega

theorem beyond_eq (hf : IeeeFormat f) {eb : Nat} (hl : f.layout = .ieee eb f.frac) :
    f.beyond = (2 ^ eb - 1) * 2 ^ f.frac := by
  rw [← hf.beyond, hl]
  rfl

/-- R35: a pattern above the infinities has all ones in its exponent and a fraction. -/
theorem nanPattern_iff (hf : IeeeFormat f) {eb : Nat} (hl : f.layout = .ieee eb f.frac) (a : Nat) :
    NanPattern f a ↔ a / 2 ^ f.frac % 2 ^ eb = 2 ^ eb - 1 ∧ a % 2 ^ f.frac ≠ 0 := by
  have hex : a / 2 ^ f.frac % 2 ^ eb < 2 ^ eb := Nat.mod_lt _ (by positivity)
  have hfr : a % 2 ^ f.frac < 2 ^ f.frac := Nat.mod_lt _ (by positivity)
  rw [NanPattern, ieee_bits hl, beyond_eq hf hl, magnitude_fields]
  generalize a / 2 ^ f.frac % 2 ^ eb = x at *
  generalize a % 2 ^ f.frac = y at *
  rcases Nat.lt_or_ge x (2 ^ eb - 1) with h | h
  · have : (x + 1) * 2 ^ f.frac ≤ (2 ^ eb - 1) * 2 ^ f.frac := Nat.mul_le_mul_right _ h
    rw [Nat.add_mul] at this
    omega
  · have hx : x = 2 ^ eb - 1 := by omega
    subst hx
    omega

theorem decodeNum_nan (hf : IeeeFormat f) {a : Nat} (h : NanPattern f a) :
    decodeNum f.layout a = .nan (a.testBit (f.layout.bits - 1)) (!a.testBit (f.frac - 1))
      (a % 2 ^ f.frac * 2 ^ (52 - f.frac)) := by
  obtain ⟨eb, -, hl⟩ := hf.layout
  obtain ⟨hex, hfr⟩ := (nanPattern_iff hf hl a).mp h
  have hpos : (f.frac == 0) = false := by have := hf.frac_pos; simp; omega
  rw [ieee_bits hl, hl, decodeNum_ieee, if_pos hex, if_neg hfr, hpos, Bool.or_false]

theorem decodeNum_number (hf : IeeeFormat f) {a : Nat} (h : ¬ NanPattern f a) :
    (∃ n, decodeNum f.layout a = .inf n) ∨ ∃ n m e, decodeNum f.layout a = .fin n m e := by
  obtain ⟨eb, -, hl⟩ := hf.layout
  rw [nanPattern_iff hf hl, not_and_not_right] at h
  rw [hl, decodeNum_ieee]
  split
  · next hex => exact .inl ⟨_, if_pos (h hex)⟩
  · split
    · exact .inr ⟨_, _, _, rfl⟩
    · exact .inr ⟨_, _, _, rfl⟩

theorem decodeNum_ne_nar (hf : IeeeFormat f) (a : Nat) : decodeNum f.layout a ≠ .nar := by
  by_cases h : NanPattern f a
  · rw [decodeNum_nan hf h]
    exact Num.noConfusion
  · rcases decodeNum_number hf h with ⟨n, h⟩ | ⟨n, m, e, h⟩ <;> rw [h] <;> exact Num.noConfusion

theorem isNan_iff (hf : IeeeFormat f) (a : Nat) : (decodeNum f.layout a).isNan = true ↔ NanPattern f a := by
  by_cases h : NanPattern f a
  · simp [decodeNum_nan hf h, Num.isNan, h]
  · rcases decodeNum_number hf h with ⟨n, hd⟩ | ⟨n, m, e, hd⟩ <;> simp [hd, Num.isNan, h]

theorem signals_iff (hf : IeeeFormat f) (a : Nat) : (decodeNum f.layout a).signals = true ↔ Signals f a := by
  by_cases h : NanPattern f a
  · simp [decodeNum_nan hf h, Num.signals, Signals, h]
  · rcases decodeNum_number hf h with ⟨n, hd⟩ | ⟨n, m, e, hd⟩ <;> simp [hd, Num.signals, Signals, h]

theorem not_signals (a : Nat) (h : ¬ NanPattern f a) : ¬ Signals f a := fun hs => h hs.1

/-! ## Quieted NaNs -/

/-- A pattern with a sign is that sign above its magnitude. -/
theorem sign_add_magnitude (hf : IeeeFormat f) {a : Nat} (ha : a < 2 ^ f.layout.bits) :
    f.sign (a.testBit (f.layout.bits - 1)) + a % 2 ^ (f.layout.bits - 1) = a := by
  obtain ⟨eb, -, hl⟩ := hf.layout
  have hbits : f.layout.bits = f.layout.bits - 1 + 1 := by
    rw [hl, Layout.bits]
    omega
  generalize f.layout.bits - 1 = n at *
  rw [hbits, pow_succ] at ha
  have hq : a / 2 ^ n < 2 := Nat.div_lt_of_lt_mul ha
  have hsplit := Nat.div_add_mod a (2 ^ n)
  have hsign : f.sign (a.testBit n) = 2 ^ n * (a / 2 ^ n) := by
    rw [BinaryFormat.sign, hbits, Nat.add_sub_cancel, Nat.testBit_eq_decide_div_mod_eq]
    rcases Nat.le_one_iff_eq_zero_or_eq_one.mp (Nat.lt_succ_iff.mp hq) with h | h <;> simp [h]
  omega

/-- R35, R57: a NaN keeps its sign and its payload and is quieted. -/
theorem nanBits_quiet (hf : IeeeFormat f) {a : Nat} (ha : a < 2 ^ f.layout.bits) (h : NanPattern f a) :
    nanBits f.layout (a.testBit (f.layout.bits - 1)) (a % 2 ^ f.frac * 2 ^ (52 - f.frac)) = quiet f a := by
  obtain ⟨eb, -, hl⟩ := hf.layout
  obtain ⟨hex, -⟩ := (nanPattern_iff hf hl a).mp h
  have hsplit := sign_add_magnitude hf ha
  rw [ieee_bits hl, magnitude_fields, hex] at hsplit
  have hsign := hf.sign (a.testBit (eb + f.frac))
  have hfr : a % 2 ^ f.frac < 2 ^ f.frac := Nat.mod_lt _ (by positivity)
  have hquiet : 2 ^ (f.frac - 1) < 2 ^ f.frac := Nat.pow_lt_pow_right (by norm_num) (by have := hf.frac_pos; omega)
  obtain ⟨c, hc⟩ : ∃ c, f.sign (a.testBit (eb + f.frac)) + (2 ^ eb - 1) * 2 ^ f.frac = 2 ^ f.frac * c := by
    have hs : ∃ c, f.sign (a.testBit (eb + f.frac)) = 2 ^ f.frac * c := by
      rw [BinaryFormat.sign, ieee_bits hl]
      cases a.testBit (eb + f.frac)
      · exact ⟨0, rfl⟩
      · exact ⟨2 ^ eb, by rw [if_pos rfl, Nat.pow_add, Nat.mul_comm]⟩
    obtain ⟨c, hs⟩ := hs
    exact ⟨c + (2 ^ eb - 1), by rw [hs, Nat.mul_add, Nat.mul_comm (2 ^ eb - 1)]⟩
  rw [ieee_bits hl]
  rw [hl] at hsign ⊢
  rw [nanBits, hsign, Nat.mul_div_cancel _ (by positivity), quiet]
  conv_rhs => rw [← hsplit]
  rw [← Nat.add_assoc, hc, Nat.two_pow_add_eq_or_of_lt hfr, Nat.two_pow_add_eq_or_of_lt (Nat.or_lt_two_pow hfr hquiet),
    Nat.or_assoc]

/-! ## NaN operands -/

/-- R57: what a NaN operand gives, with NV where some operand signals. -/
theorem isQuiet_nan (hf : IeeeFormat f) {a : Nat} (ha : a < 2 ^ f.layout.bits) (h : NanPattern f a) {S : Prop} {b : Bool}
    (hS : S ↔ b = true) :
    IsQuiet f a S { bits := nanBits f.layout (a.testBit (f.layout.bits - 1)) (a % 2 ^ f.frac * 2 ^ (52 - f.frac))
                    flags := raiseIf b flagNV } := by
  refine ⟨nanBits_quiet hf ha h, fun hs => ?_, fun hs => ?_⟩
  · rw [hS.mp hs]
    rfl
  · rw [Bool.eq_false_iff.mpr (mt hS.mpr hs)]
    rfl

/-- R57: the first NaN operand, where no operand is NaR. -/
theorem nanOperand_nan {l : Layout} {xs : List Num} {n s : Bool} {p : Nat} (hnar : ∀ x ∈ xs, x ≠ .nar)
    (hfind : xs.find? Num.isNan = some (.nan n s p)) :
    nanOperand l xs = some { bits := nanBits l n p, flags := raiseIf (xs.any Num.signals) flagNV } := by
  have hany : ¬ xs.any (· == .nar) = true := by
    simpa using fun h => hnar _ h rfl
  rw [nanOperand, if_neg hany, hfind]

theorem nanOperand_none {l : Layout} {xs : List Num} (hnar : ∀ x ∈ xs, x ≠ .nar) (hnan : ∀ x ∈ xs, x.isNan = false) :
    nanOperand l xs = none := by
  have hany : ¬ xs.any (· == .nar) = true := by
    simpa using fun h => hnar _ h rfl
  have hfind : xs.find? Num.isNan = none := by
    simpa [List.find?_eq_none] using hnan
  rw [nanOperand, if_neg hany, hfind]

/-- R57: a NaN in the first operand. -/
theorem nanOperand_first (hf : IeeeFormat f) {a : Nat} (h : NanPattern f a) {xs : List Num} (hnar : ∀ x ∈ xs, x ≠ .nar) :
    nanOperand f.layout (decodeNum f.layout a :: xs) = some
      { bits := nanBits f.layout (a.testBit (f.layout.bits - 1)) (a % 2 ^ f.frac * 2 ^ (52 - f.frac))
        flags := raiseIf ((decodeNum f.layout a :: xs).any Num.signals) flagNV } := by
  refine nanOperand_nan (s := !a.testBit (f.frac - 1)) ?_ ?_
  · exact List.forall_mem_cons.mpr ⟨decodeNum_ne_nar hf a, hnar⟩
  · rw [List.find?_cons_of_pos ((isNan_iff hf a).mpr h), decodeNum_nan hf h]

/-- R57: a NaN in the second operand alone. -/
theorem nanOperand_second (hf : IeeeFormat f) {a b : Nat} (ha : ¬ NanPattern f a) (hb : NanPattern f b) :
    nanOperand f.layout [decodeNum f.layout a, decodeNum f.layout b] = some
      { bits := nanBits f.layout (b.testBit (f.layout.bits - 1)) (b % 2 ^ f.frac * 2 ^ (52 - f.frac))
        flags := raiseIf ((decodeNum f.layout b).signals) flagNV } := by
  have hsig : (decodeNum f.layout a).signals = false :=
    Bool.eq_false_iff.mpr fun hs => not_signals a ha ((signals_iff hf a).mp hs)
  rw [nanOperand_nan (n := b.testBit (f.layout.bits - 1)) (s := !b.testBit (f.frac - 1))
    (p := b % 2 ^ f.frac * 2 ^ (52 - f.frac))]
  · simp only [List.any_cons, List.any_nil, Bool.or_false, hsig, Bool.false_or]
  · simp only [List.forall_mem_cons, List.not_mem_nil, false_imp_iff, implies_true, and_true]
    exact ⟨decodeNum_ne_nar hf a, decodeNum_ne_nar hf b⟩
  · rw [List.find?_cons_of_neg (mt (isNan_iff hf a).mp ha), List.find?_cons_of_pos ((isNan_iff hf b).mpr hb),
      decodeNum_nan hf hb]

theorem nanOperand_numbers (hf : IeeeFormat f) {as : List Nat} (h : ∀ a ∈ as, ¬ NanPattern f a) :
    nanOperand f.layout (as.map (decodeNum f.layout)) = none := by
  refine nanOperand_none ?_ ?_
  · simp only [List.mem_map, forall_exists_index, and_imp, forall_apply_eq_imp_iff₂]
    exact fun a _ => decodeNum_ne_nar hf a
  · simp only [List.mem_map, forall_exists_index, and_imp, forall_apply_eq_imp_iff₂]
    exact fun a ha => Bool.eq_false_iff.mpr (mt (isNan_iff hf a).mp (h a ha))

/-! ## Finite patterns are their own rounding -/

/-- R35: what a finite pattern stands for. -/
theorem decodeNum_finite (hf : IeeeFormat f) {a : Nat} (h : (decodeNum f.layout a).isFinite = true) :
    ∃ m e, decodeNum f.layout a = .fin (a.testBit (f.layout.bits - 1)) m e ∧
      a % 2 ^ (f.layout.bits - 1) ≤ f.greatest ∧
      (m : ℝ) * 2 ^ e = f.grid (a % 2 ^ (f.layout.bits - 1)) * 2 ^ f.unit := by
  obtain ⟨eb, heb, hl⟩ := hf.layout
  have hlsb := hf.lsb
  have hex : a / 2 ^ f.frac % 2 ^ eb < 2 ^ eb := Nat.mod_lt _ (by positivity)
  have hfr : a % 2 ^ f.frac < 2 ^ f.frac := Nat.mod_lt _ (by positivity)
  have htwo : 2 ^ eb - 1 ≠ 0 := by
    have : 2 ^ 1 ≤ 2 ^ eb := Nat.pow_le_pow_right (by norm_num) heb
    omega
  have hbeyond := beyond_eq hf hl
  have hnext := hf.next
  rw [ieee_bits hl, magnitude_fields]
  rw [hl] at h hlsb ⊢
  rw [decodeNum_ieee, hlsb] at h ⊢
  generalize a / 2 ^ f.frac % 2 ^ eb = x at *
  generalize a % 2 ^ f.frac = y at *
  have htop : x ≠ 2 ^ eb - 1 := by
    rintro rfl
    rw [if_pos rfl] at h
    split at h <;> exact absurd h Bool.false_ne_true
  rw [if_neg htop]
  have hle : x * 2 ^ f.frac + y ≤ f.greatest := by
    have : (x + 1) * 2 ^ f.frac ≤ (2 ^ eb - 1) * 2 ^ f.frac := Nat.mul_le_mul_right _ (by omega)
    rw [Nat.add_mul] at this
    omega
  by_cases h0 : x = 0
  · subst h0
    refine ⟨y, f.lsb, if_pos rfl, hle, ?_⟩
    rw [grid_split f (j := 0) (k := y) (by rw [pow_succ]; omega) (.inl rfl), Nat.cast_mul, mul_assoc, unit_scale]
    simp
  · obtain ⟨j, rfl⟩ : ∃ j, x = j + 1 := ⟨x - 1, by omega⟩
    refine ⟨2 ^ f.frac + y, f.lsb + j, ?_, hle, ?_⟩
    · rw [if_neg h0]
      push_cast
      congr 2
      omega
    · rw [show (j + 1) * 2 ^ f.frac + y = j * 2 ^ f.frac + (2 ^ f.frac + y) by ring,
        grid_split f (by rw [pow_succ]; omega) (.inr (by omega)), Nat.cast_mul, mul_assoc, unit_scale]

/-- A magnitude on the grid of a format is its own rounding. -/
theorem rounds_on_grid {p : Nat} (hp : p ≤ f.greatest) {v : ℝ} (hv : v = f.grid p * 2 ^ f.unit) {P : Nat → Bool → Prop}
    (hP : KnownBy f.unit v P) {rm : BitVec 3} {sat neg : Bool} {r : Nat} {t : Rounded} (h : Rounds f rm sat neg r P t) :
    t = { bits := f.sign neg + p, flags := 0 } := by
  have hpos : (0 : ℝ) < 2 ^ f.unit := by positivity
  have hle : ∀ u, P u false ↔ u ≤ f.grid p := fun u => by
    rw [(hP u).2, hv, mul_le_mul_iff_left₀ hpos, Nat.cast_le]
  have hlt : ∀ u, P u true ↔ u < f.grid p := fun u => by
    rw [(hP u).1, hv, mul_lt_mul_iff_left₀ hpos, Nat.cast_lt]
  obtain ⟨p', k, hlo, hhi, -, hstay, -, hfin⟩ := h
  rw [hle, (grid_strictMono f).le_iff_le] at hlo
  rw [hle, not_le, (grid_strictMono f).lt_iff_lt] at hhi
  obtain rfl : p' = p := by omega
  have hexact : ¬ P (f.grid p') true := by
    rw [hlt]
    exact lt_irrefl _
  obtain rfl := hstay fun hs => hexact hs.1
  obtain ⟨hbits, hflags, -⟩ := hfin hp
  cases t
  simp_all

/-- R35, R53: a finite pattern is its own rounding. -/
theorem roundNum_decodeNum (hf : IeeeFormat f) {a : Nat} (ha : a < 2 ^ f.layout.bits)
    (h : (decodeNum f.layout a).isFinite = true) (rm : BitVec 3) (sat : Bool) {r : Nat} (hr : r < 2 ^ 24) :
    roundNum f.layout rm sat r (decodeNum f.layout a) = { bits := a, flags := 0 } := by
  obtain ⟨m, e, hd, hle, hv⟩ := decodeNum_finite hf h
  have hsplit := sign_add_magnitude hf ha
  rw [hd]
  by_cases hm : m = 0
  · subst hm
    have hp : a % 2 ^ (f.layout.bits - 1) = 0 := by
      have hz : (f.grid (a % 2 ^ (f.layout.bits - 1)) : ℝ) = 0 := by
        have hpos : (0 : ℝ) < 2 ^ f.unit := by positivity
        rw [Nat.cast_zero, zero_mul] at hv
        exact (mul_eq_zero.mp hv.symm).resolve_right hpos.ne'
      by_contra hne
      have hlt := grid_strictMono f (Nat.pos_of_ne_zero hne)
      rw [Nat.cast_eq_zero.mp hz] at hlt
      omega
    rw [roundNum_zero hf.toSpeaksOf, zero]
    rw [hp, Nat.add_zero] at hsplit
    rw [hsplit]
  · have hknown := knownBy_fraction f.unit m one_ne_zero e
    rw [Nat.cast_one, div_one] at hknown
    rw [rounds_on_grid hle hv hknown (roundNum_rounds hf.toSpeaksOf hr _ hm e), hsplit]

/-! ## Integers are their own rounding -/

theorem wrapTo_eq (n : Nat) (v : ℤ) : wrapTo n v = (BitVec.ofInt n v).toNat := by
  rw [BitVec.toNat_ofInt, wrapTo]
  norm_cast

/-- R44: an integer in range is its own rounding; one outside saturates and raises NV. -/
theorem roundNum_integer (x : ℤ) (rm : BitVec 3) (sat : Bool) (r : Nat) :
    roundNum (.int true 64) rm sat r (.fin (x < 0) x.natAbs 0) =
      if x < -2 ^ 63 then { bits := 2 ^ 63, flags := 1 }
      else if 2 ^ 63 ≤ x then { bits := 2 ^ 63 - 1, flags := 1 }
      else { bits := (BitVec.ofInt 64 x).toNat, flags := 0 } := by
  by_cases h0 : x = 0
  · subst h0
    rfl
  have hcut : cutAt { neg := decide (x < 0), m := x.natAbs, e := 0, sticky := false } 0 =
      { kept := x.natAbs, d := 0, aboveHalf := false, half := false, inexact := false } := by
    simp [cutAt]
  have hkept : ∀ neg, roundCut (ruleOf rm) neg r
      { kept := x.natAbs, d := 0, aboveHalf := false, half := false, inexact := false } = x.natAbs := fun neg => by
    simp [roundCut, roundsUp]
  have hval : (if decide (x < 0) = true then -(x.natAbs : ℤ) else x.natAbs) = x := by
    by_cases hx : x < 0
    · rw [if_pos (decide_eq_true hx)]
      omega
    · rw [if_neg (by simpa using hx)]
      omega
  rw [roundNum, if_neg (by omega), roundExact, roundInt, hcut]
  dsimp only
  rw [hkept, hval, wrapTo_eq, wrapTo_eq, wrapTo_eq]
  norm_num [raiseIf, flagNV, noFlags]
  grind

end formats

end Sys2Proof.Machine
end

section
/-!
The operations of R57, R58, R62 and R117 on numbers and on patterns, and what one rounding does in all.
-/

namespace Sys2Proof.Machine
open Claims (BinaryFormat Fraction Root Rounds SumRounds NanPattern Signals IsQuiet infinite zero invalid formatD formatF formatBf
  formatH formatE5 formatE4 formatE2)

section numbers
variable {f : BinaryFormat} {i : RoundIn}

/-- R57: a finite number or an infinity. -/
def IsNumber (x : Num) : Prop := (∃ n, x = .inf n) ∨ ∃ n m e, x = .fin n m e

theorem isNumber_inf (n : Bool) : IsNumber (.inf n) := .inl ⟨n, rfl⟩
theorem isNumber_fin (n : Bool) (m : Nat) (e : ℤ) : IsNumber (.fin n m e) := .inr ⟨n, m, e, rfl⟩

/-- Two operands that are numbers fix no result. -/
theorem nanOperand_pair (l : Layout) {x z : Num} (hx : IsNumber x) (hz : IsNumber z) : nanOperand l [x, z] = none := by
  rcases hx with ⟨n, rfl⟩ | ⟨n, m, e, rfl⟩ <;> rcases hz with ⟨n', rfl⟩ | ⟨n', m', e', rfl⟩ <;> rfl

/-! ## Sums and differences -/

theorem addOp_rounds (hf : SpeaksOf f) (hr : i.r < 2 ^ 24) (n : Bool) (m : Nat) (e : ℤ) (n' : Bool) (m' : Nat) (e' : ℤ) :
    SumRounds f i n m e n' m' e' (addOp f.layout i (.fin n m e) (.fin n' m' e')) :=
  roundSum_rounds hf hr n m e n' m' e'

theorem subOp_rounds (hf : SpeaksOf f) (hr : i.r < 2 ^ 24) (n : Bool) (m : Nat) (e : ℤ) (n' : Bool) (m' : Nat) (e' : ℤ) :
    SumRounds f i n m e (!n') m' e' (subOp f.layout i (.fin n m e) (.fin n' m' e')) :=
  roundSum_rounds hf hr n m e (!n') m' e'

theorem fmaOp_rounds (hf : SpeaksOf f) (hr : i.r < 2 ^ 24) (n : Bool) (m : Nat) (e : ℤ) (n' : Bool) (m' : Nat) (e' : ℤ)
    (c : Bool) (j : Nat) (g : ℤ) :
    SumRounds f i (n != n') (m * m') (e + e') c j g
      (fmaOp f.layout i false (.fin n m e) (.fin n' m' e') (.fin c j g)) :=
  roundSum_rounds hf hr (n != n') (m * m') (e + e') c j g

/-- R57: sums and differences of infinities and of an infinity with a number. -/
theorem sumOp_infinities (hf : IeeeFormat f) (n n' : Bool) (m : Nat) (e : ℤ) (m' : Nat) (e' : ℤ) :
    addOp f.layout i (.inf n) (.inf n') = (if n = n' then infinite f n else invalid f) ∧
    addOp f.layout i (.inf n) (.fin n' m' e') = infinite f n ∧
    addOp f.layout i (.fin n m e) (.inf n') = infinite f n' ∧
    subOp f.layout i (.inf n) (.inf n') = (if n = n' then invalid f else infinite f n) ∧
    subOp f.layout i (.inf n) (.fin n' m' e') = infinite f n ∧
    subOp f.layout i (.fin n m e) (.inf n') = infinite f (!n') := by
  simp only [← convertInf_ieee (rm := i.rm) hf, ← invalidResult_ieee hf]
  cases n <;> cases n' <;> exact ⟨rfl, rfl, rfl, rfl, rfl, rfl⟩

/-! ## Products -/

theorem mulOp_rounds (hf : SpeaksOf f) (hr : i.r < 2 ^ 24) (n : Bool) {m : Nat} (e : ℤ) (n' : Bool) {m' : Nat} (e' : ℤ)
    (h : m * m' ≠ 0) : Rounds f i.rm false (n != n') i.r (Fraction f.unit (m * m') 1 (e + e'))
      (mulOp f.layout i (.fin n m e) (.fin n' m' e')) :=
  roundNum_rounds hf hr (n != n') h (e + e')

theorem mulOp_zero (hf : SpeaksOf f) (n : Bool) {m : Nat} (e : ℤ) (n' : Bool) {m' : Nat} (e' : ℤ) (h : m * m' = 0) :
    mulOp f.layout i (.fin n m e) (.fin n' m' e') = zero f (n != n') := by
  have hmul : mulOp f.layout i (.fin n m e) (.fin n' m' e') =
      roundNum f.layout i.rm false i.r (.fin (n != n') (m * m') (e + e')) := rfl
  rw [hmul, h, roundNum_zero hf]

theorem mulOp_of_inf {l : Layout} {x z : Num} {k : Bool} (hx : IsNumber x) (hz : IsNumber z) (h : mulNum x z = .inf k) :
    mulOp l i x z = convertInf l i.rm false k := by
  rw [mulOp, nanOperand_pair l hx hz, h]
  rfl

/-- R57: products with an infinity. -/
theorem mulOp_infinities (hf : IeeeFormat f) (n n' : Bool) (m : Nat) (e : ℤ) (m' : Nat) (e' : ℤ) :
    mulOp f.layout i (.inf n) (.inf n') = infinite f (n != n') ∧
    mulOp f.layout i (.inf n) (.fin n' m' e') = (if m' = 0 then invalid f else infinite f (n != n')) ∧
    mulOp f.layout i (.fin n m e) (.inf n') = (if m = 0 then invalid f else infinite f (n != n')) := by
  rw [← convertInf_ieee (rm := i.rm) hf, ← invalidResult_ieee hf]
  refine ⟨rfl, ?_, ?_⟩
  · split
    · next h =>
      subst h
      rfl
    · next h => exact mulOp_of_inf (isNumber_inf n) (isNumber_fin n' m' e') (if_neg h)
  · split
    · next h =>
      subst h
      rfl
    · next h => exact mulOp_of_inf (isNumber_fin n m e) (isNumber_inf n') (if_neg h)

/-! ## Quotients -/

theorem divOp_fin (l : Layout) (n : Bool) (m : Nat) (e : ℤ) (n' : Bool) (m' : Nat) (e' : ℤ) :
    divOp l i (.fin n m e) (.fin n' m' e') =
      if m' = 0 then (if m = 0 then invalidResult l else poleResult l (n != n'))
      else if m = 0 then plainResult (zeroBits l (n != n'))
      else roundMag l i.rm i.r (divMag (n != n') m e m' e') := rfl

theorem divOp_rounds (hf : SpeaksOf f) (hr : i.r < 2 ^ 24) (n : Bool) {m : Nat} (e : ℤ) (n' : Bool) {m' : Nat} (e' : ℤ)
    (hm : m ≠ 0) (hm' : m' ≠ 0) : Rounds f i.rm false (n != n') i.r (Fraction f.unit m m' (e - e'))
      (divOp f.layout i (.fin n m e) (.fin n' m' e')) := by
  rw [divOp_fin, if_neg hm', if_neg hm]
  exact roundMag_rounds hf (divMag_standsFor (n != n') m e hm' e') (le_divMag (n != n') hm e hm' e')
    (knownBy_fraction f.unit m hm' (e - e')) hr

/-- R57, R62: quotients with a zero or an infinity. -/
theorem divOp_specials (hf : IeeeFormat f) (n n' : Bool) (m : Nat) (e : ℤ) (m' : Nat) (e' : ℤ) :
    (m = 0 → m' ≠ 0 → divOp f.layout i (.fin n m e) (.fin n' m' e') = zero f (n != n')) ∧
    (m ≠ 0 → m' = 0 → divOp f.layout i (.fin n m e) (.fin n' m' e') = { infinite f (n != n') with flags := 2 }) ∧
    (m = 0 → m' = 0 → divOp f.layout i (.fin n m e) (.fin n' m' e') = invalid f) ∧
    divOp f.layout i (.inf n) (.inf n') = invalid f ∧
    divOp f.layout i (.inf n) (.fin n' m' e') = infinite f (n != n') ∧
    divOp f.layout i (.fin n m e) (.inf n') = zero f (n != n') := by
  refine ⟨fun h h' => ?_, fun h h' => ?_, fun h h' => ?_, invalidResult_ieee hf, convertInf_ieee hf _,
    plainResult_zero hf.toSpeaksOf _⟩
  · rw [divOp_fin, if_neg h', if_pos h, plainResult_zero hf.toSpeaksOf]
  · rw [divOp_fin, if_pos h', if_neg h, poleResult_ieee hf]
  · rw [divOp_fin, if_pos h', if_pos h, invalidResult_ieee hf]

/-! ## Square roots -/

theorem sqrtOp_fin (l : Layout) (n : Bool) (m : Nat) (e : ℤ) :
    sqrtOp l i (.fin n m e) =
      if m = 0 then plainResult (zeroBits l n) else if n = true then invalidResult l
      else roundMag l i.rm i.r (sqrtMag m e) := rfl

theorem sqrtOp_rounds (hf : SpeaksOf f) (hr : i.r < 2 ^ 24) {n : Bool} {m : Nat} (e : ℤ) (hm : m ≠ 0) (hn : n = false) :
    Rounds f i.rm false false i.r (Root f.unit m e) (sqrtOp f.layout i (.fin n m e)) := by
  obtain ⟨hstands, hfine⟩ := sqrtMag_spec hm e
  rw [sqrtOp_fin, if_neg hm, if_neg (by simp [hn])]
  exact roundMag_rounds hf hstands hfine (knownBy_root f.unit m e) hr

/-- R57, R62: the root of a zero, of a negative number and of an infinity. -/
theorem sqrtOp_specials (hf : IeeeFormat f) (n : Bool) (m : Nat) (e : ℤ) :
    (m = 0 → sqrtOp f.layout i (.fin n m e) = zero f n) ∧
    (m ≠ 0 → n = true → sqrtOp f.layout i (.fin n m e) = invalid f) ∧
    sqrtOp f.layout i (.inf n) = (if n then invalid f else infinite f false) := by
  rw [← convertInf_ieee (rm := i.rm) hf, ← invalidResult_ieee hf, ← plainResult_zero hf.toSpeaksOf, sqrtOp_fin]
  refine ⟨fun h => if_pos h, fun h hn => ?_, ?_⟩
  · rw [if_neg h, if_pos hn]
  · cases n <;> rfl

/-! ## NaN operands -/

/-- R57: each operation of two operands gives what a NaN or NaR operand fixes, where there is one. -/
theorem ops_nanOperand {op : Layout → RoundIn → Num → Num → Rounded} (h : op ∈ [addOp, subOp, mulOp, divOp]) :
    ∃ g : Layout → RoundIn → Num → Num → Rounded, ∀ l i x z, op l i x z = (nanOperand l [x, z]).getD (g l i x z) := by
  simp only [List.mem_cons, List.not_mem_nil, or_false] at h
  rcases h with rfl | rfl | rfl | rfl <;> exact ⟨_, fun _ _ _ _ => rfl⟩

/-- R59: a NaR operand gives NaR. -/
theorem ops_nar {op : Layout → RoundIn → Num → Num → Rounded} (h : op ∈ [addOp, subOp, mulOp, divOp]) (es : Nat)
    (x : Num) :
    op (.taper 32 es) i .nar x = { bits := 0x80000000, flags := 0 } ∧
      op (.taper 32 es) i x .nar = { bits := 0x80000000, flags := 0 } := by
  obtain ⟨g, hg⟩ := ops_nanOperand h
  have hfixed : ∀ xs : List Num, .nar ∈ xs → nanOperand (.taper 32 es) xs = some { bits := 0x80000000, flags := 0 } :=
    fun xs hx => by
      rw [nanOperand, if_pos (by simpa using hx)]
      rfl
  rw [hg, hg, hfixed [.nar, x] (by simp), hfixed [x, .nar] (by simp)]
  exact ⟨rfl, rfl⟩

/-- R57: NaN operands of an operation of two. -/
theorem ops_nan (hf : IeeeFormat f) {op : Layout → RoundIn → Num → Num → Rounded} (h : op ∈ [addOp, subOp, mulOp, divOp])
    {a b : Nat} (ha : a < 2 ^ f.layout.bits) (hb : b < 2 ^ f.layout.bits) :
    let t := op f.layout i (decodeNum f.layout a) (decodeNum f.layout b)
    (NanPattern f a → IsQuiet f a (Signals f a ∨ Signals f b) t) ∧
    (¬ NanPattern f a → NanPattern f b → IsQuiet f b (Signals f b) t) := by
  obtain ⟨g, hg⟩ := ops_nanOperand h
  intro t
  have ht : t = _ := hg f.layout i (decodeNum f.layout a) (decodeNum f.layout b)
  rw [ht]
  constructor
  · intro hna
    rw [nanOperand_first hf hna (by simpa using (decodeNum_ne_nar hf b)), Option.getD_some]
    exact isQuiet_nan hf ha hna (by simp [signals_iff hf])
  · intro hna hnb
    rw [nanOperand_second hf hna hnb, Option.getD_some]
    exact isQuiet_nan hf hb hnb (by simp [signals_iff hf])

theorem sqrtOp_nan (hf : IeeeFormat f) {a : Nat} (ha : a < 2 ^ f.layout.bits) (h : NanPattern f a) :
    IsQuiet f a (Signals f a) (sqrtOp f.layout i (decodeNum f.layout a)) := by
  obtain ⟨g, hg⟩ : ∃ g, sqrtOp f.layout i (decodeNum f.layout a) = (nanOperand f.layout [decodeNum f.layout a]).getD g :=
    ⟨_, rfl⟩
  rw [hg, nanOperand_first hf h (by simp), Option.getD_some]
  exact isQuiet_nan hf ha h (by simp [signals_iff hf])

/-! ## The fused form -/

/-- R57: a product of an infinity and a zero. -/
def Undefined (x z : Num) : Prop := (∃ n k e, x = .inf n ∧ z = .fin k 0 e) ∨ (∃ n k e, z = .inf n ∧ x = .fin k 0 e)

/-- R57: of two numbers, exactly an infinity and a zero have no product. -/
theorem mulNum_cases {x z : Num} (hx : IsNumber x) (hz : IsNumber z) :
    (Undefined x z ∧ mulNum x z = .nan false false 0) ∨ (¬ Undefined x z ∧ IsNumber (mulNum x z)) := by
  rcases hx with ⟨n, rfl⟩ | ⟨n, m, e, rfl⟩ <;> rcases hz with ⟨n', rfl⟩ | ⟨n', m', e', rfl⟩
  · exact .inr ⟨by simp [Undefined], isNumber_inf _⟩
  · by_cases h : m' = 0
    · exact .inl ⟨.inl ⟨n, n', e', rfl, by rw [h]⟩, if_pos h⟩
    · exact .inr ⟨by simp [Undefined, h], .inl ⟨_, if_neg h⟩⟩
  · by_cases h : m = 0
    · exact .inl ⟨.inr ⟨n', n, e, rfl, by rw [h]⟩, if_pos h⟩
    · exact .inr ⟨by simp [Undefined, h], .inl ⟨_, if_neg h⟩⟩
  · exact .inr ⟨by simp [Undefined], isNumber_fin _ _ _⟩

theorem undefined_numbers {x z : Num} (h : Undefined x z) : IsNumber x ∧ IsNumber z := by
  rcases h with ⟨n, k, e, rfl, rfl⟩ | ⟨n, k, e, rfl, rfl⟩
  · exact ⟨isNumber_inf _, isNumber_fin _ _ _⟩
  · exact ⟨isNumber_fin _ _ _, isNumber_inf _⟩

theorem mulNum_undefined {x z : Num} (h : Undefined x z) : mulNum x z = .nan false false 0 := by
  obtain ⟨hx, hz⟩ := undefined_numbers h
  rcases mulNum_cases hx hz with ⟨-, hm⟩ | ⟨hn, -⟩
  · exact hm
  · exact absurd h hn

/-- R57, R58: a factor that is NaN. -/
theorem fmaOp_nan_factor {l : Layout} {x z c : Num} {t : Rounded} (h : nanOperand l [x, z] = some t) :
    fmaOp l i false x z c = { t with flags := t.flags ||| raiseIf c.signals flagNV } := by
  unfold fmaOp
  rw [h]

theorem fmaOp_undefined_nan {l : Layout} {x z : Num} (hxz : Undefined x z) (n s : Bool) (p : Nat) :
    fmaOp l i false x z (.nan n s p) = { bits := nanBits l n p, flags := flagNV } := by
  obtain ⟨hx, hz⟩ := undefined_numbers hxz
  unfold fmaOp
  rw [nanOperand_pair l hx hz, mulNum_undefined hxz]

theorem fmaOp_undefined {l : Layout} {x z c : Num} (hxz : Undefined x z) (hc : IsNumber c) :
    fmaOp l i false x z c = invalidResult l := by
  obtain ⟨hx, hz⟩ := undefined_numbers hxz
  unfold fmaOp
  rw [nanOperand_pair l hx hz, mulNum_undefined hxz]
  rcases hc with ⟨n, rfl⟩ | ⟨n, m, e, rfl⟩ <;> rfl

theorem fmaOp_defined {l : Layout} {x z c : Num} (hx : IsNumber x) (hz : IsNumber z) (hxz : ¬ Undefined x z) :
    fmaOp l i false x z c = (nanOperand l [c]).getD (sumNums l i [mulNum x z, c]) := by
  rcases mulNum_cases hx hz with ⟨h, -⟩ | ⟨-, hm⟩
  · exact absurd h hxz
  · unfold fmaOp
    rw [nanOperand_pair l hx hz]
    rcases hm with ⟨n, h⟩ | ⟨n, m, e, h⟩ <;> rw [h] <;> rfl

theorem raiseIf_or (a b : Bool) : raiseIf a flagNV ||| raiseIf b flagNV = raiseIf (a || b) flagNV := by
  cases a <;> cases b <;> rfl

/-- R57, R58: NaN operands and undefined products of the fused form. -/
theorem fmaOp_nan (hf : IeeeFormat f) {a b c : Nat} (ha : a < 2 ^ f.layout.bits) (hb : b < 2 ^ f.layout.bits)
    (hc : c < 2 ^ f.layout.bits) :
    let x := decodeNum f.layout a
    let z := decodeNum f.layout b
    let t := fmaOp f.layout i false x z (decodeNum f.layout c)
    (NanPattern f a → IsQuiet f a (Signals f a ∨ Signals f b ∨ Signals f c) t) ∧
    (¬ NanPattern f a → NanPattern f b → IsQuiet f b (Signals f b ∨ Signals f c) t) ∧
    (¬ NanPattern f a → ¬ NanPattern f b → NanPattern f c → IsQuiet f c (Undefined x z ∨ Signals f c) t) ∧
    (¬ NanPattern f c → Undefined x z → t = invalid f) := by
  intro x z t
  refine ⟨fun hna => ?_, fun hna hnb => ?_, fun hna hnb hnc => ?_, fun hnc hxz => ?_⟩
  · have ht : t = _ := fmaOp_nan_factor (nanOperand_first hf hna (by simpa using (decodeNum_ne_nar hf b)))
    rw [ht]
    dsimp only
    rw [raiseIf_or]
    exact isQuiet_nan hf ha hna (by simp [z, signals_iff hf, or_assoc])
  · have ht : t = _ := fmaOp_nan_factor (nanOperand_second hf hna hnb)
    rw [ht]
    dsimp only
    rw [raiseIf_or]
    exact isQuiet_nan hf hb hnb (by simp [signals_iff hf])
  · by_cases hxz : Undefined x z
    · have ht : t = fmaOp f.layout i false x z (decodeNum f.layout c) := rfl
      rw [ht, decodeNum_nan hf hnc, fmaOp_undefined_nan hxz]
      exact isQuiet_nan (b := true) hf hc hnc (by simp [hxz])
    · have ht : t = _ := fmaOp_defined (decodeNum_number hf hna) (decodeNum_number hf hnb) hxz
      rw [ht, nanOperand_first hf hnc (by simp), Option.getD_some]
      exact isQuiet_nan hf hc hnc (by simp [hxz, signals_iff hf])
  · exact (fmaOp_undefined hxz (decodeNum_number hf hnc)).trans (invalidResult_ieee hf)

end numbers

/-! ## One rounding -/

/-- R53: an infinity to a binary format. -/
theorem roundNum_inf {f : BinaryFormat} (hf : f ∈ [formatD, formatF, formatBf, formatH, formatE5, formatE4]) (rm : BitVec 3)
    (sat neg : Bool) (r : Nat) :
    (sat = true ∨ (f.layout = .e4m3 ∧ (rm = 6 ∨ rm = 7)) →
      roundNum f.layout rm sat r (.inf neg) = { bits := f.sign neg + f.greatest, flags := 16 }) ∧
    (sat = false → ¬ (f.layout = .e4m3 ∧ (rm = 6 ∨ rm = 7)) →
      roundNum f.layout rm sat r (.inf neg) = infinite f neg) := by
  have hr : roundNum f.layout rm sat r (.inf neg) = convertInf f.layout rm sat neg := rfl
  rw [hr]
  clear hr
  simp only [List.mem_cons, List.not_mem_nil, or_false] at hf
  rcases hf with rfl | rfl | rfl | rfl | rfl | rfl <;> revert rm sat neg <;> decide

/-- Settles O6: each clause is the one rounding of the exact real that the operation forms, or the rule of a NaN, an infinity or
a zero. -/
theorem roundingIsExactWhereItCan : Obligations.RoundingIsExactWhereItCan := by
  unfold Obligations.RoundingIsExactWhereItCan
  refine ⟨fun y bits rm sat r hy hb hfin hr => ?_, fun x rm sat r _ => roundNum_integer x rm sat r,
    fun f hf rm sat neg r m e hr => ?_, fun signed w rm sat neg r m e _ hr hm => roundNum_roundsInt hr neg hm e,
    fun f hf i hr => ?_, fun es i x op hop => ops_nar hop es x⟩
  · rcases hy with rfl | rfl
    · exact roundNum_decodeNum (formats_ieee formatD (by simp)) hb hfin rm sat hr
    · exact roundNum_decodeNum (formats_ieee formatF (by simp)) hb hfin rm sat hr
  · have hs : SpeaksOf f := formats_speak f (by
      simp only [List.mem_cons, List.not_mem_nil, or_false] at hf ⊢
      tauto)
    refine ⟨fun hm => roundNum_rounds hs hr neg hm e, ?_, roundNum_inf hf rm sat neg r⟩
    rintro rfl
    exact roundNum_zero hs neg e
  · have hi : IeeeFormat f := formats_ieee f (by
      simp only [List.mem_cons, List.not_mem_nil, or_false] at hf ⊢
      tauto)
    have hs := hi.toSpeaksOf
    refine ⟨fun n n' m m' e e' => ?_, fun a b c ha hb hc => ?_⟩
    · obtain ⟨hdz, hdp, hdi, hdii, hdif, hdfi⟩ := divOp_specials (i := i) hi n n' m e m' e'
      obtain ⟨hqz, hqn, hqi⟩ := sqrtOp_specials (i := i) hi n m e
      obtain ⟨haii, haif, hafi, hsii, hsif, hsfi⟩ := sumOp_infinities (i := i) hi n n' m e m' e'
      obtain ⟨hmii, hmif, hmfi⟩ := mulOp_infinities (i := i) hi n n' m e m' e'
      exact ⟨addOp_rounds hs hr n m e n' m' e', subOp_rounds hs hr n m e n' m' e', mulOp_rounds hs hr n e n' e',
        mulOp_zero hs n e n' e', divOp_rounds hs hr n e n' e', hdz, hdp, hdi, fmaOp_rounds hs hr n m e n' m' e',
        sqrtOp_rounds hs hr e, hqz, hqn, haii, haif, hafi, hsii, hsif, hsfi, hmii, hmif, hmfi, hdii, hdif, hdfi, hqi⟩
    · obtain ⟨h1, h2, h3, h4⟩ := fmaOp_nan (i := i) hi ha hb hc
      refine ⟨fun op hop => ?_, sqrtOp_nan hi ha, h1, h2, h3, h4⟩
      obtain ⟨g, hg, rfl⟩ : ∃ g ∈ [addOp, subOp, mulOp, divOp], g f.layout i = op := by
        simp only [List.mem_cons, List.not_mem_nil, or_false] at hop
        rcases hop with rfl | rfl | rfl | rfl <;> exact ⟨_, by simp, rfl⟩
      exact ops_nan hi hg ha hb

end Sys2Proof.Machine
end

section
/-!
Vector results (R25, R137 to R141): the lanes, the flags and the poison that a masked lane-wise form lands.
-/

namespace Sys2Proof.Machine
open Claims (Keeps Notes Lands LeavesCore VectorLands RoundedLanes lanesIn laneAt Active maskReg zeroes resultOf slotFault plainly
  baseReg modeOf laneRounds Stochastic vectorLayout floatBits laneNum)

/-! ## Packed lanes -/

theorem packLanes_lane (n : Nat) {xs : List Nat} {i : Nat} (h : i < xs.length) :
    packLanes n xs / 2 ^ (n * i) % 2 ^ n = xs[i] % 2 ^ n := by
  induction xs generalizing i with
  | nil => exact absurd h (Nat.not_lt_zero i)
  | cons x xs ih =>
    have hx : x % 2 ^ n < 2 ^ n := Nat.mod_lt _ (by positivity)
    cases i with
    | zero => simp [packLanes]
    | succ i =>
      have hi : i < xs.length := by simpa using h
      rw [packLanes, Nat.mul_succ, Nat.add_comm (n * i), Nat.pow_add, ← Nat.div_div_eq_div_mul,
        Nat.add_mul_div_left _ _ (by positivity), Nat.div_eq_of_lt hx, Nat.zero_add, ih hi, List.getElem_cons_succ]

theorem getLsbD_allFlags (rs : List Rounded) (k : Nat) :
    (allFlags rs).getLsbD k = true ↔ ∃ r ∈ rs, r.flags.getLsbD k = true := by
  have hfold : ∀ a : Flags, (rs.foldl (fun a r => a ||| r.flags) a).getLsbD k = true ↔
      a.getLsbD k = true ∨ ∃ r ∈ rs, r.flags.getLsbD k = true := by
    induction rs with
    | nil => simp
    | cons r rs ih =>
      intro a
      simp [ih, or_assoc]
  rw [allFlags, hfold]
  simp [noFlags]

theorem lane_eq_laneAt (s : State) (r : BitVec 6) (bits i : Nat) : lane (readV s.before r.toNat) bits i = laneAt s r bits i := by
  rw [lane, natField, Nat.shiftRight_eq_div_pow, laneAt]

theorem laneAt_lt (s : State) (r : BitVec 6) (bits i : Nat) : laneAt s r bits i < 2 ^ bits := Nat.mod_lt _ (by positivity)

theorem laneActive_iff {s : State} {k : MaskUse} {i : Nat} : laneActive s.before k i = true ↔ Active s k.n i := Iff.rfl

/-- R139: a lane of a masked result. -/
theorem laneResults_lane (s : State) (k : MaskUse) (bits count : Nat) (d : BitVec 6) (f : Nat → Rounded) {i : Nat}
    (hi : i < count) :
    (Active s k.n i → packResults bits (laneResults s.before k bits count (readV s.before d.toNat) f) / 2 ^ (bits * i) % 2 ^ bits
      = (f i).bits % 2 ^ bits) ∧
    (¬ Active s k.n i →
      packResults bits (laneResults s.before k bits count (readV s.before d.toNat) f) / 2 ^ (bits * i) % 2 ^ bits =
        if k.zeroing then 0 else laneAt s d bits i) := by
  have hlen : i < ((laneResults s.before k bits count (readV s.before d.toNat) f).map (·.bits)).length := by
    simpa [laneResults] using hi
  rw [packResults, packLanes_lane bits hlen]
  simp only [laneResults, List.getElem_map, List.getElem_range, lane_eq_laneAt]
  constructor
  · intro h
    rw [if_pos (laneActive_iff.mpr h)]
  · intro h
    rw [if_neg (mt laneActive_iff.mp h)]
    dsimp only
    split
    · exact Nat.zero_mod _
    · exact Nat.mod_eq_of_lt (laneAt_lt ..)

/-- R141: the flags of a masked result. -/
theorem laneResults_flags (s : State) (k : MaskUse) (bits count : Nat) (old : VWord) (f : Nat → Rounded) (j : Nat) :
    (allFlags (laneResults s.before k bits count old f)).getLsbD j = true ↔
      ∃ i < count, Active s k.n i ∧ (f i).flags.getLsbD j = true := by
  rw [getLsbD_allFlags]
  simp only [laneResults, List.mem_map, List.mem_range]
  constructor
  · rintro ⟨r, ⟨i, hi, rfl⟩, hr⟩
    split at hr
    · next h => exact ⟨i, hi, h, hr⟩
    · simp [noFlags] at hr
  · rintro ⟨i, hi, ha, hr⟩
    exact ⟨_, ⟨i, hi, rfl⟩, by rwa [if_pos (laneActive_iff.mpr ha)]⟩

/-! ## A masked lane-wise form -/

/-- R25: only reads of v registers count for the banks. -/
theorem bankPenalty_append {earlier more : List (Nat × Reg)} (h : ∀ r ∈ more, ∀ n, r.2 ≠ .v n) (regs : List Nat) :
    bankPenalty (earlier ++ more) regs = bankPenalty earlier regs := by
  rw [bankPenalty, bankPenalty, List.filterMap_append, (List.filterMap_eq_nil_iff (l := more)).mpr, List.append_nil]
  intro r hr
  split
  · next n hn => exact absurd hn (h r hr n)
  · rfl

/-- R138 to R141: what a masked lane-wise form lands after its earlier reads. -/
theorem vectorForm_lands {s u : State} {pre : List Reg} (hnotes : Notes s u pre []) (hcore : u.core = s.core)
    (hbefore : u.before = s.before) (hpre : ∀ r ∈ pre, ∀ n, r ≠ .v n) (w : BitVec 2) (bits : Nat) (k : MaskUse) (d : BitVec 6)
    (srcs : List (BitVec 6)) (readsD extra : Bool) (lat : Nat) (f : Nat → Rounded) :
    VectorLands s (vectorForm w bits k d (srcs.map (·.toNat)) readsD extra lat f u) w bits k.n k.zeroing d srcs readsD lat f pre
      extra := by
  have hmerge : (readsD || mergesDest k) = true ↔ readsD = true ∨ (k.zeroing = false ∧ k.n ≠ 0) := by
    simp [mergesDest]
  have hslot := notesWaits_slot hnotes
  have hreads : u.issue.reads = s.issue.reads ++ pre.map (fun r => (s.issue.slot, r)) := by
    rw [Notes, Claims.NotesWaits] at hnotes
    rw [hnotes]
  have hpenalty : ∀ regs, bankPenalty (noteReads [Reg.m k.n] u).issue.reads regs = bankPenalty s.issue.reads regs := fun regs => by
    rw [noteReads_issue, hreads, List.append_assoc]
    refine bankPenalty_append (fun r hr n => ?_) regs
    simp only [List.mem_append, List.mem_map, List.mem_singleton] at hr
    rcases hr with ⟨r', hr', rfl⟩ | ⟨r', rfl, rfl⟩
    · exact hpre r' hr' n
    · exact Reg.noConfusion
  unfold VectorLands
  intro regs
  have hregs : srcs.map (·.toNat) ++ (if readsD || mergesDest k then [d.toNat] else []) = regs :=
    congrArg (srcs.map (·.toNat) ++ ·) (if_congr hmerge rfl rfl)
  refine ⟨_, _, ?_, ?_, fun i hi => laneResults_lane s k bits _ d f hi, fun j _ => laneResults_flags s k bits _ (readV s.before d.toNat) f j⟩
  · have hall := notes_noteReads (notes_noteReads hnotes [.m k.n]) (regs.map Reg.v)
    simp only [vectorForm, landVector, hregs]
    exact hall
  · simp only [vectorForm, landVector, hregs, hpenalty, hbefore, anyPoisonV]
    exact lands_putLanding (t := noteReads (regs.map Reg.v) (noteReads [.m k.n] u)) hcore hslot ..

theorem keeps_vectorForm {s u : State} (h : Keeps s u) (w : BitVec 2) (bits : Nat) (k : MaskUse) (d : BitVec 6) (srcs : List Nat)
    (readsD extra : Bool) (lat : Nat) (f : Nat → Rounded) : Keeps s (vectorForm w bits k d srcs readsD extra lat f u) := h

/-! ## Types of VF and VS -/

theorem vecType_cases {t : BitVec 3} (ht : t.toNat < 6) : t = 0 ∨ t = 1 ∨ t = 2 ∨ t = 3 ∨ t = 4 ∨ t = 5 := by
  revert t
  decide

theorem vecLayout_eq {t : BitVec 3} (ht : t.toNat < 6) (s : State) : vecLayout s.before t = vectorLayout s t := by
  rcases vecType_cases ht with rfl | rfl | rfl | rfl | rfl | rfl <;> rfl

theorem vectorLayout_bits {t : BitVec 3} (ht : t.toNat < 6) (s : State) : (vectorLayout s t).bits = floatBits t := by
  rcases vecType_cases ht with rfl | rfl | rfl | rfl | rfl | rfl <;> rfl

theorem vectorLayout_bytes {t : BitVec 3} (ht : t.toNat < 6) (s : State) : (vectorLayout s t).bytes = floatBits t / 8 := by
  rw [Layout.bytes, vectorLayout_bits ht]
  rcases vecType_cases ht with rfl | rfl | rfl | rfl | rfl | rfl <;> decide

theorem vecBound_eq {t : BitVec 3} (ht : t.toNat < 6) : vecBound t = if t = 4 ∨ t = 5 then 5 else 4 := by
  rcases vecType_cases ht with rfl | rfl | rfl | rfl | rfl | rfl <;> rfl

theorem numLane_eq {t : BitVec 3} (ht : t.toNat < 6) (s : State) (r : BitVec 6) (i : Nat) :
    numLane (vectorLayout s t) (readV s.before r.toNat) i = laneNum s t r i := by
  rw [numLane, lane_eq_laneAt, vectorLayout_bits ht, laneNum]

theorem laneRound_eq (s : State) (rm : BitVec 3) (l : Lend) (z i : Nat) :
    laneRound s.before rm (srBase (l.getLsbD 8)) z i = laneRounds s rm l z i := by
  simp [laneRound, laneRounds, isStochastic, srBase, baseReg]

/-! ## Rounding vector forms -/

/-- R71, R109, R145: a vector form that rounds. -/
theorem roundedForm_lands {t : BitVec 3} (ht : t.toNat < 6) (s : State) (lat : Nat) (w : BitVec 2) (d : BitVec 6)
    (srcs : List (BitVec 6)) (readsD : Bool) (l : Lend) (f : Layout → RoundIn → Nat → Rounded) :
    Keeps s (roundedForm lat w d (srcs.map (·.toNat)) readsD t l f s) ∧
    RoundedLanes s (roundedForm lat w d (srcs.map (·.toNat)) readsD t l f s) w t l d srcs readsD lat
      (f (vectorLayout s t)) := by
  have hrm : lendMode s.before l = modeOf s l := rfl
  simp only [roundedForm, vecLayout_eq ht, vectorLayout_bits ht, vectorLayout_bytes ht, hrm, laneRound_eq, withBase]
  by_cases hr : isStochastic (modeOf s l) = true
  · have hst := isStochastic_iff.mp hr
    have hread : Notes s (noteReads [.x (srBase (l.getLsbD 8))] s) [.x (baseReg l)] [] := notesWaits_noteReads s _
    have hbase : readX (noteReads [.x (srBase (l.getLsbD 8))] s).before (srBase (l.getLsbD 8)) = readX s.before (baseReg l) := rfl
    rw [if_pos hr, hbase]
    by_cases hp : (readX s.before (baseReg l)).poison = true
    · rw [if_pos hp]
      exact ⟨keeps_raiseFault (keeps_noteReads (keeps_refl s) _) _ _, fun h => absurd hst h,
        fun _ h => Bool.noConfusion (hp.symm.trans h), fun _ _ => ⟨rfl, notes_raiseFault hread _ _⟩⟩
    · rw [if_neg hp]
      refine ⟨keeps_vectorForm (keeps_noteReads (keeps_refl s) _) .., fun h => absurd hst h, fun _ _ => ?_,
        fun _ h => absurd h hp⟩
      exact vectorForm_lands hread rfl rfl (by simp) w (floatBits t) (maskOf l) d srcs readsD false lat _
  · have hns : ¬ Stochastic (modeOf s l) := fun h => hr (isStochastic_iff.mpr h)
    rw [if_neg hr]
    exact ⟨keeps_vectorForm (keeps_refl s) .., fun _ => vectorForm_lands (notesWaits_refl s) rfl rfl (by simp) w (floatBits t)
      (maskOf l) d srcs readsD false lat _, fun h => absurd h hns, fun h => absurd h hns⟩

/-- R147, R148: a vector form on patterns that does not round. -/
theorem patternLanes_lands {t : BitVec 3} (ht : t.toNat < 6) (s : State) (w : BitVec 2) (d : BitVec 6) (srcs : List (BitVec 6))
    (l : Lend) (f : Layout → Nat → Rounded) :
    Keeps s (patternLanes w d (srcs.map (·.toNat)) t l f s) ∧
    VectorLands s (patternLanes w d (srcs.map (·.toNat)) t l f s) w (floatBits t) (maskReg l) (zeroes l) d srcs false 2
      (f (vectorLayout s t)) [] false := by
  simp only [patternLanes, vecLayout_eq ht, vectorLayout_bits ht]
  exact ⟨keeps_vectorForm (keeps_refl s) .., vectorForm_lands (notesWaits_refl s) rfl rfl (by simp) w (floatBits t)
    (maskOf l) d srcs false false 2 _⟩

end Sys2Proof.Machine
end

section
/-!
Patterns as integers (R41, R118, R120, R147, R148): their order, their signs and their classes.
-/

namespace Sys2Proof.Machine
open Claims (picks plainly absPattern negPattern classPattern classBit vectorLayout floatBits)

theorem signedOf_toNat {n : Nat} (b : BitVec n) : signedOf n b.toNat = b.toInt := by
  have h := b.isLt
  rw [signedOf, BitVec.toInt_eq_toNat_cond, Nat.mod_eq_of_lt h]
  push_cast
  by_cases hb : 2 * b.toNat < 2 ^ n
  · rw [if_neg (by omega), if_pos hb, Int.emod_eq_of_lt (by omega) (by exact_mod_cast h)]
  · rw [if_pos (by omega), if_neg hb, Int.emod_eq_of_lt (by omega) (by exact_mod_cast h)]

theorem signedOf_eq_toInt (n v : Nat) : signedOf n v = (BitVec.ofNat n v).toInt := by
  rw [← signedOf_toNat, BitVec.toNat_ofNat, signedOf, signedOf, Nat.mod_mod]
  push_cast
  rw [Int.emod_emod_of_dvd _ dvd_rfl]

theorem testBit_top {n v : Nat} (h : v < 2 ^ (n + 1)) : v.testBit n = true ↔ 2 ^ n ≤ v := by
  constructor
  · exact Nat.ge_two_pow_of_testBit
  · intro hle
    rw [Nat.testBit_eq_decide_div_mod_eq, decide_eq_true_eq]
    have h1 : v / 2 ^ n < 2 := Nat.div_lt_of_lt_mul (by rwa [pow_succ] at h)
    have h2 : 1 ≤ v / 2 ^ n := (Nat.one_le_div_iff (by positivity)).mpr hle
    omega

/-! ## Order -/

/-- R118: the order of patterns is a total one, so the lesser and the greater do not depend on how ties fall. -/
theorem orderKey_injective {y : Layout} (hy : 1 ≤ y.bits) {a b : Nat} (ha : a < 2 ^ y.bits) (hb : b < 2 ^ y.bits)
    (h : orderKey y a = orderKey y b) : a = b := by
  obtain ⟨n, hn⟩ : ∃ n, y.bits = n + 1 := ⟨_, (Nat.sub_add_cancel hy).symm⟩
  unfold orderKey at h
  rw [hn] at ha hb h
  split at h
  · have hinj := (signedOf_eq_toInt (n + 1) a).symm.trans (h.trans (signedOf_eq_toInt (n + 1) b))
    have hnat := congrArg BitVec.toNat (BitVec.eq_of_toInt_eq hinj)
    rwa [BitVec.toNat_ofNat, BitVec.toNat_ofNat, Nat.mod_eq_of_lt ha, Nat.mod_eq_of_lt hb] at hnat
  · simp only [Nat.add_sub_cancel, testBit_top ha, testBit_top hb] at h
    have hsplit : ∀ v < 2 ^ (n + 1), v % 2 ^ n = if 2 ^ n ≤ v then v - 2 ^ n else v := fun v hv => by
      rw [pow_succ] at hv
      split
      · rw [Nat.mod_eq_sub_mod (by assumption), Nat.mod_eq_of_lt (by omega)]
      · exact Nat.mod_eq_of_lt (by omega)
    rw [hsplit a ha, hsplit b hb] at h
    generalize 2 ^ n = c at *
    split_ifs at h <;> omega

/-- R118: the minimum and the maximum. -/
theorem minMaxOp_picks {y : Layout} (hy : 1 ≤ y.bits) (least : Bool) {a b : Nat} (ha : a < 2 ^ y.bits) (hb : b < 2 ^ y.bits) :
    minMaxOp y least a b = picks least y a b := by
  unfold minMaxOp picks
  cases nanOperand y [decodeNum y a, decodeNum y b] with
  | some r => rfl
  | none =>
    rcases lt_trichotomy (orderKey y a) (orderKey y b) with h | h | h
    · cases least <;> simp [plainResult, noFlags, h, h.le]
    · rw [orderKey_injective hy ha hb h]
      simp [plainResult, noFlags]
    · cases least <;> simp [plainResult, noFlags, h, h.le]

/-! ## Signs -/

theorem floatBits_pos (t : BitVec 3) : ∃ n, floatBits t = n + 1 := by
  unfold floatBits
  split_ifs <;> exact ⟨_, rfl⟩

theorem vectorLayout_isTaper {t : BitVec 3} (ht : t.toNat < 6) (s : State) :
    (vectorLayout s t).isTaper = true ↔ t = 4 ∨ t = 5 := by
  rcases vecType_cases ht with rfl | rfl | rfl | rfl | rfl | rfl <;> simp [vectorLayout, Layout.isTaper]

theorem absOp_eq {t : BitVec 3} (ht : t.toNat < 6) (s : State) {a : Nat} (ha : a < 2 ^ floatBits t) :
    absOp (vectorLayout s t) a = absPattern t a := by
  obtain ⟨n, hn⟩ := floatBits_pos t
  rw [hn] at ha
  simp only [absOp, absPattern, vectorLayout_isTaper ht, vectorLayout_bits ht, hn, Nat.add_sub_cancel, testBit_top ha]
  split
  · split
    · next h =>
      have : 0 < 2 ^ n := by positivity
      exact Nat.mod_eq_of_lt (by omega)
    · rfl
  · rfl

/-- The top bit inverted is the top bit added, in as many bits. -/
theorem xor_top {n a : Nat} (ha : a < 2 ^ (n + 1)) : a ^^^ 2 ^ n = (a + 2 ^ n) % 2 ^ (n + 1) := by
  refine Nat.eq_of_testBit_eq fun j => ?_
  rw [Nat.testBit_xor, Nat.testBit_two_pow, Nat.testBit_mod_two_pow, Nat.add_comm a]
  rcases lt_trichotomy j n with h | rfl | h
  · rw [Nat.testBit_two_pow_add_gt h, decide_eq_false (by omega), decide_eq_true (by omega), Bool.xor_false, Bool.true_and]
  · rw [Nat.testBit_two_pow_add_eq, decide_eq_true rfl, decide_eq_true (by omega), Bool.xor_true, Bool.true_and]
  · rw [Nat.testBit_lt_two_pow (ha.trans_le (Nat.pow_le_pow_right (by norm_num) h)), decide_eq_false (by omega),
      decide_eq_false (by omega), Bool.false_and, Bool.xor_false]

theorem negOp_eq {t : BitVec 3} (ht : t.toNat < 6) (s : State) {a : Nat} (ha : a < 2 ^ floatBits t) :
    negOp (vectorLayout s t) a = negPattern t a := by
  obtain ⟨n, hn⟩ := floatBits_pos t
  rw [hn] at ha
  simp only [negOp, negPattern, vectorLayout_isTaper ht, vectorLayout_bits ht, hn, Nat.add_sub_cancel]
  split
  · rfl
  · exact xor_top ha

/-! ## Classes -/

theorem classOp_taper {n es : Nat} (hn : 1 ≤ n) {a : Nat} (ha : a < 2 ^ n) :
    classOp (.taper n es) a =
      2 ^ (if a = 2 ^ (n - 1) then 9 else if a = 0 then 4 else if 2 ^ (n - 1) ≤ a then 1 else 6) := by
  obtain ⟨k, rfl⟩ : ∃ k, n = k + 1 := ⟨_, (Nat.sub_add_cancel hn).symm⟩
  have hpos : 0 < 2 ^ k := by positivity
  have hleading : ∀ x y : Nat, 2 ^ x + y ≠ 0 := fun x y => by
    have : 0 < 2 ^ x := by positivity
    omega
  unfold classOp decodeNum
  dsimp only
  rw [Nat.mod_eq_of_lt ha, Nat.add_sub_cancel]
  unfold decodeTaper
  by_cases h0 : a = 0
  · subst h0
    simp only [if_true, Layout.isTaper, hpos.ne, if_false]
  rw [if_neg h0, Nat.add_sub_cancel]
  by_cases htop : a = 2 ^ k
  · rw [if_pos htop, if_pos htop]
  · rw [if_neg htop, if_neg htop, if_neg h0]
    simp only [Layout.isTaper, if_true, testBit_top ha]
    rw [if_neg (hleading _ _)]
    split <;> rfl

theorem classOp_ieee {eb fb : Nat} (hfb : 1 ≤ fb) {a : Nat} (ha : a < 2 ^ (eb + fb + 1)) :
    classOp (.ieee eb fb) a = 2 ^ classBit eb fb (2 ^ (eb + fb) ≤ a) (a / 2 ^ fb % 2 ^ eb) (a % 2 ^ fb) := by
  have hquiet : (a % 2 ^ fb < 2 ^ (fb - 1)) ↔ a.testBit (fb - 1) = false := by
    obtain ⟨k, rfl⟩ : ∃ k, fb = k + 1 := ⟨_, (Nat.sub_add_cancel hfb).symm⟩
    have hlt : a % 2 ^ (k + 1) < 2 ^ (k + 1) := Nat.mod_lt _ (by positivity)
    have hbit : (a % 2 ^ (k + 1)).testBit k = a.testBit k := by simp [Nat.testBit_mod_two_pow]
    rw [Nat.add_sub_cancel, ← hbit, ← not_le, ← testBit_top hlt, Bool.not_eq_true]
  have hfield : natField a fb eb = a / 2 ^ fb % 2 ^ eb := by rw [natField, Nat.shiftRight_eq_div_pow]
  have hneg : decide (2 ^ (eb + fb) ≤ a) = a.testBit (eb + fb) :=
    Bool.eq_iff_iff.mpr (by rw [decide_eq_true_eq, testBit_top ha])
  have hfb0 : (fb == 0) = false := by simp; omega
  unfold classOp classBit
  rw [decodeNum_ieee, hneg, hfb0, Bool.or_false]
  simp only [Layout.isTaper, Layout.fields, hfield, hquiet]
  by_cases htop : a / 2 ^ fb % 2 ^ eb = 2 ^ eb - 1
  · rw [if_pos htop, if_pos htop]
    by_cases h0 : a % 2 ^ fb = 0
    · rw [if_pos h0, if_pos h0]
      cases a.testBit (eb + fb) <;> rfl
    · rw [if_neg h0, if_neg h0]
      cases a.testBit (fb - 1) <;> rfl
  · rw [if_neg htop, if_neg htop]
    by_cases hz : a / 2 ^ fb % 2 ^ eb = 0
    · rw [if_pos hz, if_pos hz]
      by_cases h0 : a % 2 ^ fb = 0
      · cases a.testBit (eb + fb) <;> simp [h0]
      · cases a.testBit (eb + fb) <;> simp [h0, hz]
    · rw [if_neg hz, if_neg hz]
      cases a.testBit (eb + fb) <;> simp [hz]

theorem classOp_eq {t : BitVec 3} (ht : t.toNat < 6) (s : State) {a : Nat} (ha : a < 2 ^ floatBits t) :
    classOp (vectorLayout s t) a = classPattern t a := by
  rcases vecType_cases ht with rfl | rfl | rfl | rfl | rfl | rfl
  · exact classOp_ieee (eb := 11) (fb := 52) (by norm_num) ha
  · exact classOp_ieee (eb := 8) (fb := 23) (by norm_num) ha
  · exact classOp_ieee (eb := 8) (fb := 7) (by norm_num) ha
  · exact classOp_ieee (eb := 5) (fb := 10) (by norm_num) ha
  · exact classOp_taper (n := 32) (by norm_num) ha
  · exact classOp_taper (n := 16) (by norm_num) ha

end Sys2Proof.Machine
end

section
/-!
The vector floating-point forms and the special functions (R62, R145 to R149, R157).
-/

namespace Sys2Proof.Machine
open Claims (BinaryFormat Keeps VectorLands RoundedLanes maskReg zeroes plainly vectorLayout floatBits laneAt laneNum laneRounds
  picks absPattern negPattern classPattern vecFloatTable vecSpecialTable infinite zero invalid Rounds Fraction RootInverse
  formatD formatF formatBf formatH formatE5 NotesWaits)

/-! ## Lane-wise forms -/

section lanes
variable {t : BitVec 3} (ht : t.toNat < 6) (s : State) (w : BitVec 2) (d a b : BitVec 6) (l : Lend)
include ht

/-- R146: a form of two rounded operands. -/
theorem floatLanes_lands (op : Layout → RoundIn → Num → Num → Rounded) (lat : Nat) :
    Keeps s (floatLanes op lat w d a b t l s) ∧
    RoundedLanes s (floatLanes op lat w d a b t l s) w t l d [a, b] false lat
      (fun r i => op (vectorLayout s t) r (laneNum s t a i) (laneNum s t b i)) := by
  have h := roundedForm_lands ht s lat w d [a, b] false l
    (fun y i k => op y i (numLane y (readV s.before a.toNat) k) (numLane y (readV s.before b.toNat) k))
  simp only [numLane_eq ht] at h
  exact h

/-- R58, R146: the fused forms, whose addend is the destination. -/
theorem fusedLanes_lands (negate : Bool) :
    Keeps s (fusedLanes negate w d a b t l s) ∧
    RoundedLanes s (fusedLanes negate w d a b t l s) w t l d [a, b] true (vecBound t)
      (fun r i => fmaOp (vectorLayout s t) r negate (laneNum s t a i) (laneNum s t b i) (laneNum s t d i)) := by
  have h := roundedForm_lands ht s (vecBound t) w d [a, b] true l
    (fun y i k => fmaOp y i negate (numLane y (readV s.before a.toNat) k) (numLane y (readV s.before b.toNat) k)
      (numLane y (readV s.before d.toNat) k))
  simp only [numLane_eq ht] at h
  exact h

/-- R146: scaling by a power of two. -/
theorem vfscl_lands :
    ∃ u, exec (.vfscl w d a b t l) s = .next u ∧ Keeps s u ∧
      RoundedLanes s u w t l d [a, b] false (vecBound t)
        (fun r i => scaleOp (vectorLayout s t) r (laneNum s t a i)
          (BitVec.ofNat (floatBits t) (laneAt s b (floatBits t) i)).toInt) := by
  have h := roundedForm_lands ht s (vecBound t) w d [a, b] false l
    (fun y i k => scaleOp y i (numLane y (readV s.before a.toNat) k) (signedOf y.bits (lane (readV s.before b.toNat) y.bits k)))
  simp only [numLane_eq ht, vectorLayout_bits ht, lane_eq_laneAt, signedOf_eq_toInt] at h
  refine ⟨_, rfl, ?_⟩
  simp only [lane_eq_laneAt, signedOf_eq_toInt]
  exact h

/-- R157: a special function of one operand. -/
theorem specialLanes_lands (op : Layout → RoundIn → Num → Rounded) :
    Keeps s (specialLanes op w d a t l s) ∧
    RoundedLanes s (specialLanes op w d a t l s) w t l d [a] false (specialBound t)
      (fun r i => op (vectorLayout s t) r (laneNum s t a i)) := by
  have h := roundedForm_lands ht s (specialBound t) w d [a] false l
    (fun y i k => op y i (numLane y (readV s.before a.toNat) k))
  simp only [numLane_eq ht] at h
  exact h

/-- R147: the minimum and the maximum of two lanes. -/
theorem minMaxLanes_lands (least : Bool) :
    let u := patternLanes w d [a.toNat, b.toNat] t l
      (fun y i => minMaxOp y least (lane (readV s.before a.toNat) y.bits i) (lane (readV s.before b.toNat) y.bits i)) s
    Keeps s u ∧ VectorLands s u w (floatBits t) (maskReg l) (zeroes l) d [a, b] false 2
      (fun i => picks least (vectorLayout s t) (laneAt s a (floatBits t) i) (laneAt s b (floatBits t) i)) [] false := by
  have hbits : 1 ≤ (vectorLayout s t).bits := by
    obtain ⟨n, hn⟩ := floatBits_pos t
    rw [vectorLayout_bits ht, hn]
    omega
  have hpick : ∀ i, minMaxOp (vectorLayout s t) least (laneAt s a (floatBits t) i) (laneAt s b (floatBits t) i) =
      picks least (vectorLayout s t) (laneAt s a (floatBits t) i) (laneAt s b (floatBits t) i) := fun i =>
    minMaxOp_picks hbits least (vectorLayout_bits ht s ▸ laneAt_lt s a (floatBits t) i)
      (vectorLayout_bits ht s ▸ laneAt_lt s b (floatBits t) i)
  have h := patternLanes_lands ht s w d [a, b] l
    (fun y i => minMaxOp y least (lane (readV s.before a.toNat) y.bits i) (lane (readV s.before b.toNat) y.bits i))
  simp only [lane_eq_laneAt, vectorLayout_bits ht, hpick] at h
  simp only [lane_eq_laneAt]
  exact h

/-- R147, R148: a form of one pattern. -/
theorem patternLanes_of {op : Layout → Nat → Nat} {g : BitVec 3 → Nat → Nat}
    (hop : ∀ v < 2 ^ floatBits t, op (vectorLayout s t) v = g t v) :
    let u := patternLanes w d [a.toNat] t l (fun y i => plainResult (op y (lane (readV s.before a.toNat) y.bits i))) s
    Keeps s u ∧ VectorLands s u w (floatBits t) (maskReg l) (zeroes l) d [a] false 2
      (fun i => plainly (g t (laneAt s a (floatBits t) i))) [] false := by
  have hlane : ∀ i, op (vectorLayout s t) (laneAt s a (floatBits t) i) = g t (laneAt s a (floatBits t) i) := fun i =>
    hop _ (laneAt_lt s a (floatBits t) i)
  have h := patternLanes_lands ht s w d [a] l (fun y i => plainResult (op y (lane (readV s.before a.toNat) y.bits i)))
  simp only [lane_eq_laneAt, vectorLayout_bits ht, hlane] at h
  simp only [lane_eq_laneAt]
  exact h

/-- R149: the lanes chosen by a mask. -/
theorem vfsel_lands :
    ∃ u, exec (.vfsel w d a b t l) s = .next u ∧ Keeps s u ∧
      VectorLands s u w (floatBits t) 0 false d [a, b] false 2
        (fun i => plainly (if (readM s.before (maskReg l)).getLsbD i then laneAt s a (floatBits t) i
          else laneAt s b (floatBits t) i)) [.m (maskReg l)] false := by
  have hexec : exec (.vfsel w d a b t l) s = .next (vectorForm w (floatBits t) { n := 0, zeroing := false } d
      ([a, b].map (·.toNat)) false false 2
      (fun i => plainly (if (readM s.before (maskReg l)).getLsbD i then laneAt s a (floatBits t) i
          else laneAt s b (floatBits t) i)) (noteReads [.m (maskReg l)] s)) := by
    have h : exec (.vfsel w d a b t l) s = execVfsel w d a b t l s := rfl
    rw [h, execVfsel, vecLayout_eq ht, vectorLayout_bits ht]
    simp only [lane_eq_laneAt]
    rfl
  exact ⟨_, hexec, keeps_vectorForm (keeps_noteReads (keeps_refl s) _) _ _ _ _ _ _ _ _ _,
    vectorForm_lands (notesWaits_noteReads s _) rfl rfl (by simp) w (floatBits t) { n := 0, zeroing := false } d [a, b] false
      false 2 _⟩

end lanes

/-! ## Special functions -/

section specials
variable {f : BinaryFormat} {i : RoundIn}

theorem recipOp_fin (l : Layout) (n : Bool) (m : Nat) (e : ℤ) :
    recipOp l i (.fin n m e) = if m = 0 then poleResult l n else roundMag l i.rm i.r (divMag n 1 0 m e) := rfl

theorem rsqrtOp_fin (l : Layout) (n : Bool) (m : Nat) (e : ℤ) :
    rsqrtOp l i (.fin n m e) =
      if m = 0 then poleResult l n else if n = true then invalidResult l else roundMag l i.rm i.r (rsqrtMag m e) := rfl

theorem recipOp_rounds (hf : SpeaksOf f) (hr : i.r < 2 ^ 24) (n : Bool) {m : Nat} (e : ℤ) (hm : m ≠ 0) :
    Rounds f i.rm false n i.r (Fraction f.unit 1 m (-e)) (recipOp f.layout i (.fin n m e)) := by
  have hstands := divMag_standsFor n 1 0 hm e
  rw [zero_sub] at hstands
  rw [recipOp_fin, if_neg hm]
  exact roundMag_rounds hf hstands (le_divMag n one_ne_zero 0 hm e) (knownBy_fraction f.unit 1 hm (-e)) hr

theorem rsqrtOp_rounds (hf : SpeaksOf f) (hr : i.r < 2 ^ 24) {n : Bool} {m : Nat} (e : ℤ) (hm : m ≠ 0) (hn : n = false) :
    Rounds f i.rm false false i.r (RootInverse f.unit m e) (rsqrtOp f.layout i (.fin n m e)) := by
  obtain ⟨hstands, hfine⟩ := rsqrtMag_spec hm e
  rw [rsqrtOp_fin, if_neg hm, if_neg (by simp [hn])]
  exact roundMag_rounds hf hstands hfine (knownBy_rootInverse f.unit hm e) hr

theorem log2Op_fin (l : Layout) (n : Bool) (m : Nat) (e : ℤ) :
    log2Op l i (.fin n m e) =
      if m = 0 then { bits := signBit l true + l.infBits, flags := flagDZ }
      else if n = true then invalidResult l
      else if m = 2 ^ Nat.log2 m then
        (if floorLog2 m e = 0 then plainResult (zeroBits l false)
          else roundNum l i.rm false i.r (.fin (floorLog2 m e < 0) (floorLog2 m e).natAbs 0))
      else settled l i (fun p => log2Bracket p m e) doublings firstPrecision := rfl

/-- R62: the special functions of a negative number. -/
theorem specials_negative (hf : IeeeFormat f) {n : Bool} {m : Nat} (e : ℤ) (hm : m ≠ 0) (hn : n = true) :
    rsqrtOp f.layout i (.fin n m e) = invalid f ∧ log2Op f.layout i (.fin n m e) = invalid f := by
  rw [rsqrtOp_fin, log2Op_fin, if_neg hm, if_neg hm, if_pos hn, if_pos hn, invalidResult_ieee hf]
  exact ⟨rfl, rfl⟩

/-- R62: the special functions of a zero. -/
theorem specials_zero (hf : IeeeFormat f) (n : Bool) {m : Nat} (e : ℤ) (hm : m = 0) :
    recipOp f.layout i (.fin n m e) = { infinite f n with flags := 2 } ∧
    rsqrtOp f.layout i (.fin n m e) = { infinite f n with flags := 2 } ∧
    exp2Op f.layout i (.fin n m e) = roundNum f.layout i.rm false i.r (.fin false 1 0) ∧
    expOp f.layout i (.fin n m e) = roundNum f.layout i.rm false i.r (.fin false 1 0) ∧
    log2Op f.layout i (.fin n m e) = { infinite f true with flags := 2 } := by
  subst hm
  refine ⟨poleResult_ieee hf n, poleResult_ieee hf n, rfl, rfl, ?_⟩
  rw [log2Op_fin, if_pos rfl, hf.sign, hf.beyond]
  rfl

/-- R62: the special functions of an infinity. -/
theorem specials_infinity (hf : IeeeFormat f) (n : Bool) :
    recipOp f.layout i (.inf n) = zero f n ∧
    rsqrtOp f.layout i (.inf n) = (if n then invalid f else zero f false) ∧
    exp2Op f.layout i (.inf n) = (if n then zero f false else infinite f false) ∧
    expOp f.layout i (.inf n) = (if n then zero f false else infinite f false) ∧
    log2Op f.layout i (.inf n) = (if n then invalid f else infinite f false) := by
  rw [← convertInf_ieee (rm := i.rm) hf, ← invalidResult_ieee hf, ← plainResult_zero hf.toSpeaksOf,
    ← plainResult_zero hf.toSpeaksOf]
  cases n <;> exact ⟨rfl, rfl, rfl, rfl, rfl⟩

/-- R157: 2^x of an integer that is not zero is the one rounding of that power. -/
theorem exp2Op_integer (l : Layout) {k : ℤ} (h0 : k ≠ 0) (hk : k.natAbs < 2 ^ 13) :
    exp2Op l i (.fin (decide (k < 0)) k.natAbs 0) = roundNum l i.rm false i.r (.fin false 1 k) := by
  have hm : k.natAbs ≠ 0 := Int.natAbs_ne_zero.mpr h0
  have hlog : Nat.log2 k.natAbs < 13 := (Nat.log2_lt hm).mpr hk
  have hvalue : scaledInt (decide (k < 0)) k.natAbs 0 0 = k := by
    simp only [scaledInt, le_refl, if_true, sub_zero, Int.toNat_zero, pow_zero, mul_one, decide_eq_true_eq]
    split <;> omega
  have hfin : exp2Op l i (.fin (decide (k < 0)) k.natAbs 0) = _ := if_neg hm
  rw [hfin, if_neg (by unfold floorLog2; omega), if_neg (by unfold floorLog2; omega), if_pos (by simp), hvalue]

/-- R157: log2 of a power of two is its exponent. -/
theorem log2Op_power (hf : SpeaksOf f) (j : Nat) (e : ℤ) :
    log2Op f.layout i (.fin false (2 ^ j) e) =
      if j + e = 0 then zero f false
      else roundNum f.layout i.rm false i.r (.fin (decide (j + e < 0)) (j + e).natAbs 0) := by
  have hpos : (2 : Nat) ^ j ≠ 0 := by positivity
  rw [log2Op_fin, if_neg hpos, if_neg Bool.false_ne_true, Nat.log2_two_pow, if_pos rfl, floorLog2, Nat.log2_two_pow,
    plainResult_zero hf]

end specials

/-- Settles O22: each form is a lane-wise form of its operation on the lanes' numbers or patterns, and the special functions round
the exact value or follow their rules. -/
theorem vectorFloatAndSpecialResults : Obligations.VectorFloatAndSpecialResults := by
  unfold Obligations.VectorFloatAndSpecialResults
  refine ⟨fun s w d a b t l _ ht => ⟨fun row hrow => ?_, fun row hrow => ?_, ?_, fun row hrow => ?_, fun row hrow => ?_,
    vfsel_lands ht s w d a b l⟩, fun s w d a t l _ ht4 row hrow => ?_, fun f hf i hr => ?_⟩
  · have hlands := fun op lat => floatLanes_lands ht s w d a b l op lat
    simp only [vecFloatTable, List.mem_cons, List.not_mem_nil, or_false] at hrow
    rcases hrow with rfl | rfl | rfl | rfl
    · exact ⟨_, rfl, vecBound_eq ht ▸ hlands addOp (vecBound t)⟩
    · exact ⟨_, rfl, vecBound_eq ht ▸ hlands subOp (vecBound t)⟩
    · exact ⟨_, rfl, vecBound_eq ht ▸ hlands mulOp (vecBound t)⟩
    · exact ⟨_, rfl, hlands divOp (specialBound t)⟩
  · have hlands := fun negate => fusedLanes_lands ht s w d a b l negate
    simp only [List.mem_cons, List.not_mem_nil, or_false] at hrow
    rcases hrow with rfl | rfl
    · exact ⟨_, rfl, vecBound_eq ht ▸ hlands false⟩
    · exact ⟨_, rfl, vecBound_eq ht ▸ hlands true⟩
  · exact vecBound_eq ht ▸ vfscl_lands ht s w d a b l
  · simp only [List.mem_cons, List.not_mem_nil, or_false] at hrow
    rcases hrow with rfl | rfl
    · exact ⟨_, rfl, minMaxLanes_lands ht s w d a b l true⟩
    · exact ⟨_, rfl, minMaxLanes_lands ht s w d a b l false⟩
  · simp only [List.mem_cons, List.not_mem_nil, or_false] at hrow
    rcases hrow with rfl | rfl | rfl
    · exact ⟨_, rfl, patternLanes_of ht s w d a l (op := absOp) fun v hv => absOp_eq ht s hv⟩
    · exact ⟨_, rfl, patternLanes_of ht s w d a l (op := negOp) fun v hv => negOp_eq ht s hv⟩
    · exact ⟨_, rfl, patternLanes_of ht s w d a l (op := classOp) fun v hv => classOp_eq ht s hv⟩
  · have hlands := fun op => specialLanes_lands (t := t) (by omega) s w d a l op
    simp only [vecSpecialTable, List.mem_cons, List.not_mem_nil, or_false] at hrow
    rcases hrow with rfl | rfl | rfl | rfl | rfl | rfl
    · exact ⟨_, rfl, hlands recipOp⟩
    · exact ⟨_, rfl, hlands rsqrtOp⟩
    · exact ⟨_, rfl, hlands sqrtOp⟩
    · exact ⟨_, rfl, hlands exp2Op⟩
    · exact ⟨_, rfl, hlands log2Op⟩
    · exact ⟨_, rfl, hlands expOp⟩
  · have hi : IeeeFormat f := formats_ieee f (by
      simp only [List.mem_cons, List.not_mem_nil, or_false] at hf ⊢
      tauto)
    have hs := hi.toSpeaksOf
    refine ⟨fun n m e => ?_, fun k h0 hk => exp2Op_integer f.layout h0 hk, fun j e => log2Op_power hs j e⟩
    exact ⟨recipOp_rounds hs hr n e, rsqrtOp_rounds hs hr e, specials_negative hi e, specials_zero hi n e,
      specials_infinity hi n⟩

end Sys2Proof.Machine
end

section
/-!
The slots of a bank in every view (R46, R47, R48, R50): a slot written reads back and the others stay, a value accumulates
exactly, and a slot rounds out by its status.
-/

namespace Sys2Proof.Machine
open Claims (View aliased slotSettled accumulated exactFloor roundedOut plainly)

/-! ## Fields packed -/

/-- The consecutive fields of a number, packed, are its low part. -/
theorem packLanes_fields (n v k : Nat) :
    packLanes n ((List.range k).map fun i => natField v (n * i) n) = v % 2 ^ (n * k) := by
  induction k generalizing v with
  | zero => simp [packLanes, Nat.mod_one]
  | succ k ih =>
    have hshift : ∀ i, natField v (n * (i + 1)) n = natField (v / 2 ^ n) (n * i) n := fun i => by
      rw [natField, natField, Nat.shiftRight_eq_div_pow, Nat.shiftRight_eq_div_pow, Nat.mul_succ, Nat.add_comm, Nat.pow_add,
        Nat.div_div_eq_div_mul]
    have hfirst : natField v 0 n = v % 2 ^ n := by rw [natField, Nat.shiftRight_zero]
    rw [List.range_succ_eq_map, List.map_cons, List.map_map, packLanes, Nat.mul_zero, hfirst, Nat.mod_mod]
    simp only [Function.comp_def, Nat.succ_eq_add_one, hshift, ih]
    rw [Nat.mul_succ, Nat.add_comm (n * k), Nat.pow_add, Nat.mod_mul]

/-! ## Granules -/

theorem view_cases {g : Nat} (hg : View g) : 1 ≤ g ∧ g ∣ 256 := by
  rcases hg with rfl | rfl | rfl | rfl <;> decide

/-- A run of elements of a vector replaced, one by one. -/
theorem vget_foldl_vset {α : Type} {n : Nat} (f : Nat → α) (v : Vector α n) (lo k : Nat) (d : α) {j : Nat} (hj : j < n) :
    vget ((List.range k).foldl (fun u i => vset u (lo + i) (f i)) v) j d =
      if lo ≤ j ∧ j < lo + k then f (j - lo) else vget v j d := by
  induction k with
  | zero => rw [if_neg (by omega)]; rfl
  | succ k ih =>
    rw [List.range_succ, List.foldl_append, List.foldl_cons, List.foldl_nil]
    by_cases h : lo + k = j
    · rw [h, vget_vset_same hj, if_pos (by omega)]
      congr 1
      omega
    · rw [vget_vset_ne h, ih]
      exact if_congr (by omega) rfl rfl

/-- Granule `k` of a slot of `g` granules that holds `x`. -/
def slotGranule (g : Nat) (x : Slot) (k : Nat) : Granule :=
  { q := BitVec.ofNat 272 (natField (wrapTo (284 * g) x.x) (272 * k) 272), status := if k = 0 then x.status else 0
    wrap := BitVec.ofNat 12 (natField (wrapTo (284 * g) x.x) (272 * g + 12 * k) 12) }

theorem granule_slotPut (b : Bank) (g i : Nat) (x : Slot) {n : Nat} (hn : n < 256) :
    granule (slotPut b g i x) n = if g * i ≤ n ∧ n < g * i + g then slotGranule g x (n - g * i) else granule b n :=
  vget_foldl_vset (slotGranule g x) b.granules (g * i) g _ hn

theorem slotPut_tag (b : Bank) (g i : Nat) (x : Slot) : (slotPut b g i x).tag = b.tag := rfl

/-! ## A slot from its granules -/

/-- A slot is what its granules say. -/
theorem slotGet_congr {b c : Bank} {g i : Nat} (h : ∀ k < g, granule b (g * i + k) = granule c (g * i + k)) :
    slotGet b g i = slotGet c g i := by
  have hmap : (List.range g).map (fun k => granule b (g * i + k)) = (List.range g).map fun k => granule c (g * i + k) :=
    List.map_congr_left fun k hk => h k (List.mem_range.mp hk)
  rw [slotGet, slotGet, hmap]

theorem toNat_ofNat_natField (v lo n : Nat) : (BitVec.ofNat n (natField v lo n)).toNat = natField v lo n := by
  rw [BitVec.toNat_ofNat, natField, Nat.mod_mod]

/-- Only the lowest granule of a slot has a status. -/
theorem foldl_status {g : Nat} (hg : 1 ≤ g) (x : Slot) :
    ((List.range g).map (slotGranule g x)).foldl (fun a r => a ||| r.status) 0 = x.status := by
  have hrest : ∀ (l : List Nat) (a : BitVec 4), (∀ k ∈ l, k ≠ 0) →
      (l.map (slotGranule g x)).foldl (fun a r => a ||| r.status) a = a := by
    intro l
    induction l with
    | nil => exact fun a _ => rfl
    | cons k l ih =>
      intro a h
      have hk : (slotGranule g x k).status = 0 := if_neg (h k List.mem_cons_self)
      have hor : a ||| (0 : BitVec 4) = a := BitVec.or_zero
      rw [List.map_cons, List.foldl_cons, hk, hor, ih a fun j hj => h j (List.mem_cons_of_mem _ hj)]
  obtain ⟨n, rfl⟩ : ∃ n, g = n + 1 := ⟨_, (Nat.sub_add_cancel hg).symm⟩
  rw [List.range_succ_eq_map, List.map_cons, List.foldl_cons, hrest _ _ (by simp)]
  exact BitVec.zero_or

theorem aliased_eq (g : Nat) (x : ℤ) : aliased g x = signedOf (284 * g) (wrapTo (284 * g) x) := by
  rw [wrapTo_eq, signedOf_toNat, aliased]

theorem aliased_aliased (g : Nat) (x : ℤ) : aliased g (aliased g x) = aliased g x := by
  rw [aliased, aliased, BitVec.ofInt_toInt]

theorem aliased_slotGet (b : Bank) (g i : Nat) : aliased g (slotGet b g i).x = (slotGet b g i).x := by
  rw [slotGet]
  dsimp only
  rw [signedOf_eq_toInt, aliased, BitVec.ofInt_toInt]

/-- R47: the granules of a slot that has been written say what it holds, reduced to the extended range. -/
theorem slot_of_granules {b : Bank} {g i : Nat} {x : Slot} (hg : 1 ≤ g)
    (h : ∀ k < g, granule b (g * i + k) = slotGranule g x k) :
    slotGet b g i = { x := aliased g x.x, status := x.status } := by
  have hmap : (List.range g).map (fun k => granule b (g * i + k)) = (List.range g).map (slotGranule g x) :=
    List.map_congr_left fun k hk => h k (List.mem_range.mp hk)
  have hlow : packLanes 272 (((List.range g).map (slotGranule g x)).map (·.q.toNat)) =
      wrapTo (284 * g) x.x % 2 ^ (272 * g) := by
    rw [List.map_map, ← packLanes_fields]
    simp only [Function.comp_def, slotGranule, toNat_ofNat_natField]
  have hhigh : packLanes 12 (((List.range g).map (slotGranule g x)).map (·.wrap.toNat)) =
      wrapTo (284 * g) x.x / 2 ^ (272 * g) % 2 ^ (12 * g) := by
    rw [List.map_map, ← packLanes_fields]
    simp only [Function.comp_def, slotGranule, toNat_ofNat_natField]
    congr 1
    refine List.map_congr_left fun k _ => ?_
    rw [natField, natField, Nat.shiftRight_eq_div_pow, Nat.shiftRight_eq_div_pow, Nat.pow_add, Nat.div_div_eq_div_mul]
  have hwhole : wrapTo (284 * g) x.x % 2 ^ (272 * g) + wrapTo (284 * g) x.x / 2 ^ (272 * g) % 2 ^ (12 * g) * 2 ^ (272 * g) =
      wrapTo (284 * g) x.x := by
    have hlt : wrapTo (284 * g) x.x < 2 ^ (272 * g + 12 * g) := by
      rw [wrapTo_eq, ← Nat.add_mul]
      exact (BitVec.ofInt (284 * g) x.x).isLt
    rw [Nat.mul_comm _ (2 ^ (272 * g)), ← Nat.mod_mul, ← Nat.pow_add, Nat.mod_eq_of_lt hlt]
  rw [slotGet, hmap]
  rw [hlow, hhigh, hwhole, foldl_status hg, aliased_eq]

/-- R46, R47: a slot written reads back, with its value in the extended range, and every other slot stays. -/
theorem slotGet_slotPut {g : Nat} (hg : View g) (b : Bank) (i : Nat) (x : Slot) {j : Nat} (hj : j < 256 / g) :
    slotGet (slotPut b g i x) g j = if j = i then { x := aliased g x.x, status := x.status } else slotGet b g j := by
  obtain ⟨hpos, -⟩ := view_cases hg
  have hbound : ∀ k < g, g * j + k < 256 := fun k hk => by
    have : g * (j + 1) ≤ 256 := (Nat.mul_le_mul_left g hj).trans (Nat.mul_div_le 256 g)
    rw [Nat.mul_succ] at this
    omega
  split
  · next h =>
    subst h
    refine slot_of_granules hpos fun k hk => ?_
    rw [granule_slotPut b g j x (hbound k hk), if_pos (by omega), Nat.add_sub_cancel_left]
  · next h =>
    refine slotGet_congr fun k hk => ?_
    rw [granule_slotPut b g i x (hbound k hk), if_neg]
    rintro ⟨hlo, hhi⟩
    rcases Nat.lt_or_gt_of_ne h with hlt | hgt
    · have : g * (j + 1) ≤ g * i := Nat.mul_le_mul_left g hlt
      rw [Nat.mul_succ] at this
      omega
    · have : g * (i + 1) ≤ g * j := Nat.mul_le_mul_left g hgt
      rw [Nat.mul_succ] at this
      omega

/-! ## Accumulation -/

theorem setBit_overflow (a : BitVec 4) (c : Bool) : setBit a 3 c = (a &&& 7) ||| (if c then 8 else 0) := by
  revert a c
  decide

/-- R48: a slot whose value is replaced holds it, and OVF says whether it lies outside the range. -/
theorem withX_eq (g : Nat) (s : Slot) (x : ℤ) : s.withX g x = slotSettled g s.status x := by
  have hwrap : wrapSlot g x = aliased g x := (aliased_eq g x).symm
  rw [Slot.withX, hwrap, setBit_overflow, slotSettled]
  simp only [overflows, Bool.or_eq_true, decide_eq_true_eq]

theorem setBit_or (a : BitVec 4) : setBit a 0 true = a ||| 1 ∧ setBit a 1 true = a ||| 2 ∧ setBit a 2 true = a ||| 4 := by
  revert a
  decide

/-- R48: what an exact value leaves in a slot. -/
theorem quireAdd_eq (g : Nat) (s : Slot) (v : Num) : quireAdd g s v = accumulated g s v := by
  obtain ⟨hnan, hpos, hneg⟩ := setBit_or s.status
  cases v with
  | nan n sg p => rw [quireAdd, withX_eq, hnan, accumulated]
  | nar => rw [quireAdd, withX_eq, hnan, accumulated]
  | inf n =>
    cases n
    · rw [quireAdd, withX_eq, hpos, accumulated, if_neg Bool.false_ne_true]
    · rw [quireAdd, withX_eq, hneg, accumulated, if_pos rfl]
  | fin n m e =>
    rw [quireAdd, withX_eq, accumulated, quireFraction, exactFloor, quireAdd.floorScaled]
    push_cast
    rfl

/-- What is settled in a slot reads back as it is. -/
theorem aliased_settled (g : Nat) (st : BitVec 4) (x : ℤ) :
    ({ x := aliased g (slotSettled g st x).x, status := (slotSettled g st x).status } : Slot) = slotSettled g st x := by
  have h : (slotSettled g st x).x = aliased g x := rfl
  rw [h, aliased_aliased]
  rfl

theorem aliased_accumulated (g : Nat) (s : Slot) (v : Num) :
    ({ x := aliased g (accumulated g s v).x, status := (accumulated g s v).status } : Slot) = accumulated g s v := by
  cases v <;> exact aliased_settled _ _ _

/-- R48: accumulation into one slot of a bank. -/
theorem slotGet_bankAdd {g : Nat} (hg : View g) (b : Bank) (i : Nat) (v : Num) {j : Nat} (hj : j < 256 / g) :
    slotGet (bankAdd b g i v) g j = if j = i then accumulated g (slotGet b g j) v else slotGet b g j := by
  rw [bankAdd, slotGet_slotPut hg b i _ hj, quireAdd_eq, aliased_accumulated]
  split
  · next h => rw [h]
  · rfl

/-! ## Rounding out -/

theorem status_bits (a : BitVec 4) :
    ((a.getLsbD 0 || (a.getLsbD 1 && a.getLsbD 2)) = true ↔ a &&& 1 ≠ 0 ∨ a &&& 6 = 6) ∧
    (a.getLsbD 1 = true ↔ a &&& 2 ≠ 0) ∧ (a.getLsbD 2 = true ↔ a &&& 4 ≠ 0) ∧ (a.getLsbD 3 = true ↔ a &&& 8 ≠ 0) := by
  revert a
  decide

/-- R50: a slot rounds out by the first case that applies. -/
theorem roundSlot_eq (l : Layout) (rm : BitVec 3) (sat : Bool) (r g : Nat) (s : Slot) :
    roundSlot l rm sat r g s = roundedOut l rm sat r g s := by
  obtain ⟨hnan, hpos, hneg, hovf⟩ := status_bits s.status
  have hvalue : signedOf (272 * g) (wrapTo (272 * g) s.x) = (BitVec.ofInt (272 * g) s.x).toInt := by
    rw [wrapTo_eq, signedOf_toNat]
  rw [roundSlot, roundedOut, hvalue]
  simp only [hnan, hpos, hneg, hovf]
  rfl

end Sys2Proof.Machine
end

section
/-!
Matrix syllables (R174, R175, R180): the resources they wait for, the operation they start, and the check that turns one away.
-/

namespace Sys2Proof.Machine
open Claims (Keeps Notes NotesWaits LeavesCore slotFault Marred Starts BankTakes TurnedAway resourceWaits Blocks Valid geometry
  rows columns width bank formatLayout geometryReads tileLayout tileNumber element)

/-! ## Waiting for resources -/

theorem blocks_iff {reads writes : List Resource} {b : BusyOp} :
    (reads.any (writeBusy · b) || writes.any (anyBusy · b)) = Blocks reads writes b := by
  rw [Blocks, Bool.eq_iff_iff]
  simp [writeBusy, anyBusy]

theorem busyOp_rows_iff {b : BusyOp} : b.rows = true ↔ Resource.rowStats ∈ b.writes := by simp [BusyOp.rows]

/-- R175, R307: what a matrix syllable waits for. -/
theorem notesWaits_noteResources (s : State) (reads writes : List Resource) :
    NotesWaits s (noteResources reads writes s) [] [] (resourceWaits s reads writes) := by
  rw [noteResources, resourceWaits]
  simp only [blocks_iff, List.isEmpty_iff, List.filter_eq_nil_iff, List.all_eq_true, List.mem_filter, busyOp_rows_iff, and_imp]
  by_cases h : ∃ b ∈ s.before.busy, Blocks reads writes b = true
  · rw [if_neg (by simpa using h), if_pos h]
    split
    · exact notesWaits_noteWait s _
    · exact notesWaits_noteWait s _
  · rw [if_pos (by simpa using h), if_neg h]
    exact notesWaits_refl s

theorem noteResources_core (s : State) (reads writes : List Resource) : (noteResources reads writes s).core = s.core := by
  unfold noteResources
  dsimp only
  split <;> rfl

theorem keeps_noteResources (s : State) (reads writes : List Resource) : Keeps s (noteResources reads writes s) := by
  unfold noteResources
  dsimp only
  split
  · exact keeps_refl s
  · exact keeps_noteWait (keeps_refl s) _

/-- What a matrix syllable has noted, before its checks: registers that it reads and reasons to wait, and no fault. -/
structure Quiet (s u : State) (regs : List Reg) (waits : List Wait) : Prop where
  keeps : Keeps s u
  notes : NotesWaits s u regs [] waits
  core : u.core = s.core

theorem quiet_refl (s : State) : Quiet s s [] [] := ⟨keeps_refl s, notesWaits_refl s, rfl⟩

theorem quiet_noteReads (s : State) (rs : List Reg) : Quiet s (noteReads rs s) rs [] :=
  ⟨keeps_noteReads (keeps_refl s) rs, notesWaits_noteReads s rs, rfl⟩

theorem quiet_noteResources {s u : State} {regs : List Reg} (h : Quiet s u regs []) (reads writes : List Resource) :
    Quiet s (noteResources reads writes u) regs (resourceWaits s reads writes) := by
  have hbefore : u.before = s.before := h.keeps.1
  have hwaits : resourceWaits u reads writes = resourceWaits s reads writes := by rw [resourceWaits, resourceWaits, hbefore]
  have hnotes := notesWaits_trans h.notes (notesWaits_noteResources u reads writes)
  rw [hwaits, List.append_nil] at hnotes
  exact ⟨keeps_trans h.keeps (keeps_noteResources u reads writes), hnotes, (noteResources_core u reads writes).trans h.core⟩

/-! ## Starting -/

theorem marred_iff {s : State} {r : Resource} : resourceBad s.before r = true ↔ Marred s r := by
  cases r <;> simp [resourceBad, Marred]

theorem anyMarred_iff {s : State} {rs : List Resource} : rs.any (resourceBad s.before) = true ↔ ∃ r ∈ rs, Marred s r := by
  simp only [List.any_eq_true, marred_iff]

theorem startBusy_core (b : BusyOp) (u : State) : (startBusy b u).core =
    { u.core with
      busy := u.core.busy ++ [if b.reads.any (resourceBad u.before) then { b with fault := codePoison } else b] } := rfl

/-- R175, R355: an operation that starts. -/
theorem starts_startBusy {s u : State} (hkeeps : Keeps s u) (hcore : u.core = s.core) (count : Nat) {b : BusyOp}
    (hpc : b.pc = s.before.pc) (hends : b.endsAt = s.before.mclk + count) :
    Starts s (startBusy b u) count b.reads b.writes b.effects b.flags b.fault (b.combLo, b.combLen, b.combWrites) := by
  obtain ⟨hbefore, -⟩ := hkeeps
  have hstart := startBusy_core b u
  rw [hcore, hbefore] at hstart
  by_cases hbad : b.reads.any (resourceBad s.before) = true
  · rw [if_pos hbad] at hstart
    refine ⟨_, hstart, hpc, rfl, rfl, hends, rfl, rfl, rfl, fun hnone => ?_, fun _ => rfl⟩
    obtain ⟨r, hr, hm⟩ := anyMarred_iff.mp hbad
    exact absurd hm (hnone r hr)
  · rw [if_neg hbad] at hstart
    exact ⟨_, hstart, hpc, rfl, rfl, hends, rfl, rfl, rfl, fun _ => rfl, fun hsome => absurd (anyMarred_iff.mpr hsome) hbad⟩

/-! ## The checks of R180 -/

theorem checked_pass {cs : List (Bool × BitVec 8)} (h : ∀ c ∈ cs, c.1 = false) (k : State → State) (s : State) :
    checked cs k s = k s := by
  have hnone : cs.find? (·.1) = none := List.find?_eq_none.mpr fun c hc => by simp [h c hc]
  rw [checked, hnone]

theorem checked_fail {cs : List (Bool × BitVec 8)} {c : Bool × BitVec 8} (h : cs.find? (·.1) = some c) (k : State → State)
    (s : State) : checked cs k s = raiseFault c.2 0 s := by
  rw [checked, h]

/-- R180: a matrix syllable turned away by its first failing check. -/
theorem turnedAway_of_checked {s u : State} {i : Instr} {regs : List Reg} {waits : List Wait} {cs : List (Bool × BitVec 8)}
    {k : State → State} (hexec : exec i s = .next (checked cs k u)) (hu : Quiet s u regs waits) {c : Bool × BitVec 8}
    (h : cs.find? (·.1) = some c) : TurnedAway s i c.2 := by
  have hnotes := notesWaits_trans hu.notes (notesWaits_raiseFault u c.2 0)
  refine ⟨_, hexec.trans (congrArg _ (checked_fail h k u)), keeps_raiseFault hu.keeps _ _, hu.core, ?_⟩
  rw [NotesWaits] at hnotes
  rw [hnotes, slotFault, slotFault, notesWaits_slot hu.notes]
  rfl

/-- R174, R180: a bank operation whose checks all pass. -/
theorem bankTakes_of_checked {s u : State} {i : Instr} {q : BitVec 1} {count : Nat} {reads : List Resource} {regs : List Reg}
    {cs : List (Bool × BitVec 8)} {b : Bank} {tag : Option (BitVec 3)} {P : Bank → Prop}
    (hexec : exec i s = .next (checked cs (bankOperation q.toNat count reads b tag) u))
    (hu : Quiet s u regs (resourceWaits s reads [.bank q.toNat])) (hpass : ∀ c ∈ cs, c.1 = false) (hP : P b) :
    BankTakes s i q count reads regs tag P := by
  have hbefore : u.before = s.before := hu.keeps.1
  refine ⟨_, b, hexec.trans (congrArg _ (checked_pass hpass _ u)), ?_, ?_, hP, ?_⟩
  · rw [bankOperation, startBusy]
    exact keeps_onCore hu.keeps _
  · rw [bankOperation, startBusy]
    exact hu.notes
  · rw [bankOperation]
    exact starts_startBusy hu.keeps hu.core count (congrArg Core.pc hbefore) (congrArg (fun c : Core => c.mclk + count) hbefore)

end Sys2Proof.Machine
end

section
/-!
The banks that quire operations leave (R186, R188, R189, R193, R194), slot by slot.
-/

namespace Sys2Proof.Machine
open Claims (View viewOf aliased slotSettled accumulated Active Valid geometry rows columns width bank formatLayout tileLayout
  tileNumber element laneAt maskReg)

/-! ## Shapes -/

theorem shape_view (f : BitVec 5) : View (shapeOf f).g ∧ (shapeOf f).m * (shapeOf f).n = 256 / (shapeOf f).g := by
  revert f
  unfold View
  decide

theorem shapeOfTag_view (t : BitVec 3) :
    View (shapeOfTag t).g ∧ (shapeOfTag t).m * (shapeOfTag t).n = 256 / (shapeOfTag t).g ∧ (shapeOfTag t).g = viewOf t := by
  revert t
  unfold View
  decide

theorem granule_cleared (tag : BitVec 3) (i : Nat) : granule (Bank.cleared tag) i = { q := 0, status := 0, wrap := 0 } := by
  by_cases h : i < 256 <;> simp [granule, vget, Bank.cleared, Bank.reset, h]

theorem slotGranule_zero (g k : Nat) : slotGranule g { x := 0, status := 0 } k = { q := 0, status := 0, wrap := 0 } := by
  have hwrap : wrapTo (284 * g) 0 = 0 := by rw [wrapTo_eq]; exact BitVec.toNat_zero
  rw [slotGranule, hwrap]
  simp only [natField, Nat.zero_shiftRight, Nat.zero_mod, ite_self]
  rfl

theorem slotGet_cleared (tag : BitVec 3) {g : Nat} (hg : View g) (i : Nat) :
    slotGet (Bank.cleared tag) g i = { x := 0, status := 0 } := by
  have hzero : aliased g 0 = 0 := BitVec.toInt_zero
  rw [slot_of_granules (x := { x := 0, status := 0 }) (view_cases hg).1 fun k _ => by
    rw [granule_cleared, slotGranule_zero], hzero]

/-! ## One slot after another -/

/-- A pass over a bank whose steps each touch one slot, and no slot twice. -/
theorem slotGet_foldl {α : Type} {g : Nat} (step : Bank → α → Bank) (at' : α → Nat) (new : α → Slot → Slot)
    (hstep : ∀ b a j, j < 256 / g → slotGet (step b a) g j = if j = at' a then new a (slotGet b g j) else slotGet b g j)
    (l : List α) (hl : (l.map at').Nodup) (b : Bank) {j : Nat} (hj : j < 256 / g) :
    (∀ a ∈ l, at' a = j → slotGet (l.foldl step b) g j = new a (slotGet b g j)) ∧
    ((∀ a ∈ l, at' a ≠ j) → slotGet (l.foldl step b) g j = slotGet b g j) := by
  induction l generalizing b with
  | nil => exact ⟨fun a ha => absurd ha List.not_mem_nil, fun _ => rfl⟩
  | cons a l ih =>
    obtain ⟨hfirst, hrest⟩ := List.nodup_cons.mp hl
    obtain ⟨ihmem, ihout⟩ := ih hrest (step b a)
    have hstay : at' a ≠ j → slotGet (step b a) g j = slotGet b g j := fun h => by rw [hstep b a j hj, if_neg (Ne.symm h)]
    rw [List.foldl_cons]
    refine ⟨fun c hc hcj => ?_, fun hnone => ?_⟩
    · rcases List.mem_cons.mp hc with rfl | hc
      · rw [ihout fun d hd hdj => hfirst (List.mem_map.mpr ⟨d, hd, hdj.trans hcj.symm⟩), hstep b c j hj, if_pos hcj.symm]
      · rw [ihmem c hc hcj, hstay fun h => hfirst (List.mem_map.mpr ⟨c, hc, hcj.trans h.symm⟩)]
    · rw [ihout fun d hd => hnone d (List.mem_cons_of_mem _ hd), hstay (hnone a List.mem_cons_self)]

/-- R186: every slot of a bank replaced. -/
theorem slotGet_mapSlots {sh : Shape} (hg : View sh.g) (f : Nat → Slot → Slot) (b : Bank) {j : Nat} (hj : j < 256 / sh.g) :
    slotGet (mapSlots sh f b) sh.g j =
      { x := aliased sh.g (f j (slotGet b sh.g j)).x, status := (f j (slotGet b sh.g j)).status } :=
  (slotGet_foldl (fun b i => slotPut b sh.g i (f i (slotGet b sh.g i))) id
    (fun i x => { x := aliased sh.g (f i x).x, status := (f i x).status })
    (fun b i k hk => by
      rw [slotGet_slotPut hg b i _ hk]
      refine if_ctx_congr Iff.rfl (fun h => ?_) fun _ => rfl
      rw [h]
      rfl)
    (viewSlots sh) (by rw [List.map_id]; exact List.nodup_range) b hj).1 j (List.mem_range.mpr hj) rfl

theorem slotSettled_or_overflow (g : Nat) (x y : BitVec 4) (v : ℤ) :
    slotSettled g (x ||| (y &&& 7)) v = slotSettled g (x ||| y) v := by
  have h : (x ||| (y &&& 7)) &&& 7 = (x ||| y) &&& 7 := by
    revert x y
    decide
  rw [slotSettled, slotSettled, h]

/-! ## Tiles into banks -/

theorem place_injective {n a b c d : Nat} (hb : b < n) (hd : d < n) (h : a * n + b = c * n + d) : a = c ∧ b = d := by
  have hdiv := congrArg (· / n) h
  have hmod := congrArg (· % n) h
  rw [Nat.mul_comm a, Nat.mul_comm c] at hdiv hmod
  simp only [Nat.mul_add_div (Nat.zero_lt_of_lt hb), Nat.div_eq_of_lt hb, Nat.div_eq_of_lt hd, Nat.mul_add_mod,
    Nat.mod_eq_of_lt hb, Nat.mod_eq_of_lt hd] at hdiv hmod
  exact ⟨hdiv, hmod⟩

/-- The positions of a grid, row by row, by their numbers. -/
theorem grid_eq (m n : Nat) : ((List.range m).flatMap fun r => (List.range n).map fun c => (r, c)) =
    (List.range (m * n)).map fun k => (k / n, k % n) := by
  induction m with
  | zero => rw [Nat.zero_mul]; rfl
  | succ m ih =>
    have hrow : ∀ c ∈ List.range n, (m, c) = ((m * n + c) / n, (m * n + c) % n) := fun c hc => by
      have hc := List.mem_range.mp hc
      rw [Nat.mul_comm, Nat.mul_add_div (Nat.zero_lt_of_lt hc), Nat.mul_add_mod, Nat.div_eq_of_lt hc, Nat.mod_eq_of_lt hc]
      rfl
    rw [List.range_succ, List.flatMap_append, ih, List.flatMap_singleton, Nat.succ_mul, List.range_add, List.map_append,
      List.map_map, List.map_congr_left hrow]
    rfl

theorem mem_positions {g : Geometry} {p : Nat × Nat} : p ∈ positions g ↔ p.1 < g.rowCount ∧ p.2 < g.colCount :=
  (List.mem_product (l₁ := List.range g.rowCount) (l₂ := List.range g.colCount)).trans
    (and_congr List.mem_range List.mem_range)

/-- R169: the elements of a tile are numbered in row-major order. -/
theorem mem_positions_zipIdx {g : Geometry} {r c k : Nat} : ((r, c), k) ∈ (positions g).zipIdx ↔
    r < g.rowCount ∧ c < g.colCount ∧ k = r * g.colCount + c := by
  rw [List.mk_mem_zipIdx_iff_getElem?, positions, grid_eq, List.getElem?_map]
  constructor
  · intro h
    obtain ⟨i, hi, hrc⟩ := Option.map_eq_some_iff.mp h
    obtain ⟨hlt, rfl⟩ := List.getElem?_eq_some_iff.mp hi
    rw [List.length_range] at hlt
    rw [List.getElem_range] at hrc
    obtain ⟨rfl, rfl⟩ := Prod.mk.inj hrc
    have hpos : 0 < g.colCount := Nat.succ_pos _
    exact ⟨Nat.div_lt_of_lt_mul (by rwa [Nat.mul_comm]), Nat.mod_lt _ hpos, by rw [Nat.mul_comm, Nat.div_add_mod]⟩
  · rintro ⟨hr, hc, rfl⟩
    have hlt : r * g.colCount + c < g.rowCount * g.colCount := by
      have := Nat.mul_le_mul_right g.colCount hr
      rw [Nat.succ_mul] at this
      omega
    rw [List.getElem?_range hlt, Option.map_some, Nat.mul_comm, Nat.mul_add_div (Nat.zero_lt_of_lt hc), Nat.mul_add_mod,
      Nat.div_eq_of_lt hc, Nat.mod_eq_of_lt hc]
    rfl

/-- Each element of a tile within a shape has a slot of its own. -/
theorem positions_places_nodup {g : Geometry} {n : Nat} (h : g.colCount ≤ n) :
    ((positions g).zipIdx.map fun p => p.1.1 * n + p.1.2).Nodup := by
  have hpos : (positions g).Nodup := List.Nodup.product List.nodup_range List.nodup_range
  have hmap : ((positions g).zipIdx.map fun p => p.1.1 * n + p.1.2) = (positions g).map fun p => p.1 * n + p.2 := by
    rw [← List.zipIdx_map_fst 0 (positions g), List.map_map]
    simp only [Function.comp_def, List.zipIdx_map_fst]
  rw [hmap]
  refine hpos.map_on fun p hp q hq hpq => ?_
  obtain ⟨-, hp⟩ := mem_positions.mp hp
  obtain ⟨-, hq⟩ := mem_positions.mp hq
  obtain ⟨h1, h2⟩ := place_injective (hp.trans_le h) (hq.trans_le h) hpq
  exact Prod.ext h1 h2

end Sys2Proof.Machine
end

section
/-!
Quire forms (R186, R188, R189, R193, R194): the bank each leaves, and the checks of R180.
-/

namespace Sys2Proof.Machine
open Claims (View viewOf aliased slotSettled accumulated Active Valid geometry rows columns width bank formatLayout tileLayout
  tileNumber element laneAt maskReg BankTakes TurnedAway geometryReads)

/-! ## Addition and scaling -/

theorem otherBank_eq (s : State) (q : BitVec 1) : bankOf s.before (1 - q.toNat) = bank s (q + 1) := by
  have h : 1 - q.toNat = (q + 1).toNat := by
    revert q
    decide
  rw [h, bank]

/-- R186: what `qadd` leaves in a slot. -/
theorem addSlot_settled (g : Nat) (x y : Slot) (v : ℤ) :
    (({ x with status := x.status ||| (y.status &&& 7) } : Slot).withX g v) = slotSettled g (x.status ||| y.status) v := by
  rw [withX_eq, slotSettled_or_overflow]

theorem toInt_magnitude (e : BitVec 10) : (0 ≤ e.toInt → e.toInt.toNat = e.toNat) ∧
    (¬ 0 ≤ e.toInt → (-e.toInt).toNat = (-e).toNat) := by
  have hlt := e.isLt
  rw [BitVec.toInt_eq_toNat_cond, BitVec.toNat_neg]
  constructor <;> intro h <;> split at h <;> omega

section forms
variable {s : State} {q : BitVec 1}

theorem qzero_takes :
    BankTakes s (.qzero q) q 2 [] [] none fun k => ∀ i < 256, granule k i = { q := 0, status := 0, wrap := 0 } :=
  bankTakes_of_checked (cs := []) rfl (quiet_noteResources (quiet_refl s) [] [.bank q.toNat])
    (fun _ h => absurd h List.not_mem_nil) fun i _ => granule_cleared 0 i

theorem qadd_takes (h : (bank s q).tag = (bank s (q + 1)).tag) :
    let g := viewOf (bank s q).tag
    BankTakes s (.qadd q) q 4 [.bank 0, .bank 1] [] none fun k => ∀ i < 256 / g,
      slotGet k g i = slotSettled g ((slotGet (bank s q) g i).status ||| (slotGet (bank s (q + 1)) g i).status)
        ((slotGet (bank s q) g i).x + (slotGet (bank s (q + 1)) g i).x) := by
  obtain ⟨hview, -, hg⟩ := shapeOfTag_view (bank s q).tag
  refine bankTakes_of_checked (i := .qadd q) rfl (quiet_noteResources (quiet_refl s) [.bank 0, .bank 1] [.bank q.toNat]) ?_ ?_
  · rw [otherBank_eq]
    simpa [bank] using h
  · rw [← hg]
    intro i hi
    refine (slotGet_mapSlots hview _ _ hi).trans ?_
    rw [otherBank_eq]
    dsimp only
    rw [addSlot_settled]
    exact aliased_settled _ _ _

theorem qadd_turnedAway (h : (bank s q).tag ≠ (bank s (q + 1)).tag) : TurnedAway s (.qadd q) 0x12 := by
  refine turnedAway_of_checked (i := .qadd q) rfl (quiet_noteResources (quiet_refl s) [.bank 0, .bank 1] [.bank q.toNat])
    (c := (true, codeQuireView)) ?_
  rw [otherBank_eq]
  have hne : ((bankOf s.before q.toNat).tag != (bank s (q + 1)).tag) = true := bne_iff_ne.mpr h
  rw [hne]
  rfl

theorem qscl_takes (e : BitVec 10) :
    let g := viewOf (bank s q).tag
    BankTakes s (.qscl q e) q 4 [.bank q.toNat] [] none fun k => ∀ i < 256 / g,
      slotGet k g i = slotSettled g (slotGet (bank s q) g i).status
        (if 0 ≤ e.toInt then (slotGet (bank s q) g i).x * 2 ^ e.toNat else (slotGet (bank s q) g i).x / 2 ^ (-e).toNat) := by
  obtain ⟨hview, -, hg⟩ := shapeOfTag_view (bank s q).tag
  refine bankTakes_of_checked (i := .qscl q e) (cs := []) rfl (quiet_noteResources (quiet_refl s) [.bank q.toNat] [.bank q.toNat])
    (fun _ h => absurd h List.not_mem_nil) ?_
  rw [← hg]
  intro i hi
  refine (slotGet_mapSlots hview _ _ hi).trans ?_
  obtain ⟨hpos, hneg⟩ := toInt_magnitude e
  rw [withX_eq]
  refine (aliased_settled _ _ _).trans (congrArg _ (if_ctx_congr Iff.rfl (fun h => ?_) fun h => ?_))
  · rw [hpos h]
    rfl
  · rw [hneg h]
    rfl

/-! ## A tile into a bank -/

theorem valid_iff {n : BitVec 4} : (geometry s n).valid = true ↔ Valid s n := by
  simp only [Geometry.valid, Valid, rows, columns, width, Geometry.rowCount, Geometry.colCount, Geometry.width, Bool.and_eq_true,
    Bool.or_eq_true, decide_eq_true_eq, beq_iff_eq, bne_iff_ne, and_assoc, ← imp_iff_not_or]
  exact and_congr_right fun _ => and_congr_right fun _ => and_congr_left fun _ => decide_eq_true_iff

theorem tileElements_getD (n : BitVec 4) {r c : Nat} (hr : r < rows s n) (hc : c < columns s n) :
    (tileElements (geometry s n) (tileOf s.before n.toNat)).getD (r * columns s n + c) 0 = element s n r c := by
  have hlt : r * columns s n + c < (geometry s n).rowCount * (geometry s n).colCount := by
    have : (r + 1) * columns s n ≤ rows s n * columns s n := Nat.mul_le_mul_right _ hr
    rw [Nat.succ_mul] at this
    exact lt_of_lt_of_le (by omega) this
  rw [tileElements, lanesOf, List.getD_eq_getElem?_getD, List.getElem?_map, List.getElem?_range hlt, Option.map_some,
    Option.getD_some, natField, Nat.shiftRight_eq_div_pow]
  rfl

theorem slotPlace_lt {m n i j k : Nat} (h : m * n = k) (hi : i < m) (hj : j < n) : i * n + j < k := by
  have := Nat.mul_le_mul_right n hi
  rw [Nat.succ_mul] at this
  omega

/-- R188: the elements of a tile accumulated into a clear bank, each into the slot of its place. -/
theorem slotGet_tileBank {n : BitVec 4} {sh : Shape} (hview : View sh.g) (hsize : sh.m * sh.n = 256 / sh.g)
    (hrows : rows s n ≤ sh.m) (hcols : columns s n ≤ sh.n) (k : Bank)
    (hk : k = (positions (geometry s n)).zipIdx.foldl
      (fun b p => bankAdd b sh.g (p.1.1 * sh.n + p.1.2)
        (decodeNum (geometry s n).layout ((tileElements (geometry s n) (tileOf s.before n.toNat)).getD p.2 0)))
      (Bank.cleared sh.code)) :
    (∀ i < rows s n, ∀ j < columns s n, slotGet k sh.g (i * sh.n + j) =
      accumulated sh.g { x := 0, status := 0 } (decodeNum (tileLayout s n) (element s n i j))) ∧
    (∀ i < sh.m, ∀ j < sh.n, rows s n ≤ i ∨ columns s n ≤ j → slotGet k sh.g (i * sh.n + j) = { x := 0, status := 0 }) := by
  subst hk
  have hpass := fun {j : Nat} (hj : j < 256 / sh.g) => slotGet_foldl
    (fun b (p : (Nat × Nat) × Nat) => bankAdd b sh.g (p.1.1 * sh.n + p.1.2)
      (decodeNum (geometry s n).layout ((tileElements (geometry s n) (tileOf s.before n.toNat)).getD p.2 0)))
    (fun p => p.1.1 * sh.n + p.1.2)
    (fun p x => accumulated sh.g x
      (decodeNum (geometry s n).layout ((tileElements (geometry s n) (tileOf s.before n.toNat)).getD p.2 0)))
    (fun b p _ hk => slotGet_bankAdd hview b _ _ hk) (positions (geometry s n)).zipIdx (positions_places_nodup hcols)
    (Bank.cleared sh.code) hj
  constructor
  · intro i hi j hj
    have hplace := slotPlace_lt hsize (hi.trans_le hrows) (hj.trans_le hcols)
    rw [(hpass hplace).1 ((i, j), i * columns s n + j) (mem_positions_zipIdx.mpr ⟨hi, hj, rfl⟩) rfl,
      slotGet_cleared _ hview]
    dsimp only
    rw [tileElements_getD n hi hj]
    rfl
  · intro i hi j hj hout
    rw [(hpass (slotPlace_lt hsize hi hj)).2, slotGet_cleared _ hview]
    rintro ⟨⟨r, c⟩, k⟩ hmem heq
    obtain ⟨hr, hc, -⟩ := mem_positions_zipIdx.mp hmem
    obtain ⟨rfl, rfl⟩ := place_injective (lt_of_lt_of_le hc hcols) hj heq
    exact hout.elim (fun h => absurd hr (Nat.not_lt.mpr h)) fun h => absurd hc (Nat.not_lt.mpr h)

/-- R180, R187, R188: a geometry that does not fit a shape. -/
theorem misfit_iff {n : BitVec 4} {f : BitVec 5} {a b : Nat} :
    (!(geometry s n).valid || (geometry s n).fmt != f || decide (a < (geometry s n).rowCount) ||
      decide (b < (geometry s n).colCount)) = false ↔
    Valid s n ∧ (geometry s n).fmt = f ∧ rows s n ≤ a ∧ columns s n ≤ b := by
  simp only [Bool.or_eq_false_iff, Bool.not_eq_false', valid_iff, bne_eq_false_iff_eq, decide_eq_false_iff_not, Nat.not_lt, and_assoc]
  rfl

theorem qtl_takes {n : BitVec 4} {f : BitVec 5}
    (h : Valid s n ∧ (geometry s n).fmt = f ∧ rows s n ≤ (shapeOf f).m ∧ columns s n ≤ (shapeOf f).n) :
    let sh := shapeOf f
    BankTakes s (.qtl q n f) q 8 [.tile n.toNat] (geometryReads [n]) (some sh.code) fun k =>
      (∀ i < rows s n, ∀ j < columns s n, slotGet k sh.g (i * sh.n + j) =
        accumulated sh.g { x := 0, status := 0 } (decodeNum (tileLayout s n) (element s n i j))) ∧
      (∀ i < sh.m, ∀ j < sh.n, rows s n ≤ i ∨ columns s n ≤ j → slotGet k sh.g (i * sh.n + j) = { x := 0, status := 0 }) := by
  obtain ⟨hview, hsize⟩ := shape_view f
  obtain ⟨hvalid, hfmt, hrows, hcols⟩ := h
  refine bankTakes_of_checked (i := .qtl q n f) rfl
    (quiet_noteResources (quiet_noteReads s (geometryReads [n])) [.tile n.toNat] [.bank q.toNat]) ?_
    (slotGet_tileBank hview hsize hrows hcols _ rfl)
  intro c hc
  rw [List.mem_singleton.mp hc]
  exact misfit_iff.mpr ⟨hvalid, hfmt, hrows, hcols⟩

theorem qtl_turnedAway {n : BitVec 4} {f : BitVec 5}
    (h : ¬ (Valid s n ∧ (geometry s n).fmt = f ∧ rows s n ≤ (shapeOf f).m ∧ columns s n ≤ (shapeOf f).n)) :
    TurnedAway s (.qtl q n f) 0x11 := by
  rw [← misfit_iff, Bool.not_eq_false] at h
  exact turnedAway_of_checked (i := .qtl q n f) rfl
    (quiet_noteResources (quiet_noteReads s (geometryReads [n])) [.tile n.toNat] [.bank q.toNat])
    (c := (_, codeTileGeometry)) (List.find?_cons_of_pos h)

/-! ## Masks -/

/-- Granules replaced at multiples of `g`, where no bit of a mask stands. -/
theorem vget_foldl_stride {α : Type} {n g : Nat} (hg : 1 ≤ g) (p : Nat → Bool) (f : Nat → α) (v : Vector α n) (k : Nat) (d : α)
    {i t : Nat} (ht : t < g) (hj : g * i + t < n) :
    vget ((List.range k).foldl (fun u i => if p i then u else vset u (g * i) (f i)) v) (g * i + t) d =
      if t = 0 ∧ i < k ∧ p i = false then f i else vget v (g * i + t) d := by
  induction k with
  | zero => rw [if_neg (by omega)]; rfl
  | succ k ih =>
    rw [List.range_succ, List.foldl_append, List.foldl_cons, List.foldl_nil]
    by_cases hp : p k = true
    · rw [if_pos hp, ih]
      refine if_congr ?_ rfl rfl
      grind
    · rw [if_neg hp]
      by_cases hk : g * k = g * i + t
      · have heq : k * g + 0 = i * g + t := by rw [Nat.mul_comm k, Nat.mul_comm i, Nat.add_zero, hk]
        obtain ⟨rfl, rfl⟩ := place_injective (by omega) ht heq
        rw [Nat.add_zero] at hj ⊢
        rw [vget_vset_same hj, if_pos ⟨rfl, Nat.lt_succ_self k, by simpa using hp⟩]
      · rw [vget_vset_ne hk, ih]
        refine if_congr ?_ rfl rfl
        grind

/-- R46: a slot whose lowest granule has further status bits. -/
theorem slotGet_status {b c : Bank} {g i : Nat} (hg : 1 ≤ g) (m : BitVec 4)
    (hlow : granule c (g * i) = { granule b (g * i) with status := (granule b (g * i)).status ||| m })
    (hrest : ∀ k < g, k ≠ 0 → granule c (g * i + k) = granule b (g * i + k)) :
    slotGet c g i = { slotGet b g i with status := (slotGet b g i).status ||| m } := by
  obtain ⟨n, rfl⟩ : ∃ n, g = n + 1 := ⟨_, (Nat.sub_add_cancel hg).symm⟩
  have htail : (List.range n).map (fun k => granule c ((n + 1) * i + (k + 1))) =
      (List.range n).map fun k => granule b ((n + 1) * i + (k + 1)) :=
    List.map_congr_left fun k hk => hrest (k + 1) (Nat.succ_lt_succ (List.mem_range.mp hk)) (Nat.succ_ne_zero k)
  have hor : ∀ (l : List Granule) (a : BitVec 4),
      l.foldl (fun a r => a ||| r.status) (a ||| m) = l.foldl (fun a r => a ||| r.status) a ||| m := by
    intro l
    induction l with
    | nil => exact fun _ => rfl
    | cons r l ih =>
      intro a
      rw [List.foldl_cons, List.foldl_cons, ← ih, BitVec.or_assoc, BitVec.or_comm m, ← BitVec.or_assoc]
  simp only [slotGet, List.range_succ_eq_map, List.map_cons, List.map_map, Function.comp_def, Nat.succ_eq_add_one, Nat.add_zero,
    htail, hlow, List.foldl_cons, ← BitVec.or_assoc, hor]

/-- R189: the slots of a masked bank. -/
theorem slotGet_masked {sh : Shape} (hview : View sh.g) (hsize : sh.m * sh.n = 256 / sh.g) (b : Bank) (bits : Nat) (k : Bank)
    (hk : k = Bank.mk ((shapeSlots sh).foldl
      (fun gs i => if natBit bits i then gs
        else vset gs (sh.g * i) { granule b (sh.g * i) with status := setBit (granule b (sh.g * i)).status 2 true }) b.granules)
      b.tag)
    {i : Nat} (hi : i < 256 / sh.g) :
    slotGet k sh.g i =
      { slotGet b sh.g i with status := (slotGet b sh.g i).status ||| (if bits.testBit i then 0 else 4) } := by
  subst hk
  obtain ⟨hpos, -⟩ := view_cases hview
  have hget := fun {t : Nat} (ht : t < sh.g) => vget_foldl_stride hpos (natBit bits)
    (fun i => { granule b (sh.g * i) with status := setBit (granule b (sh.g * i)).status 2 true }) b.granules (sh.m * sh.n)
    { q := 0, status := 0, wrap := 0 } (i := i) ht
    (by
      have := Nat.mul_le_mul_left sh.g hi
      have := Nat.mul_div_le 256 sh.g
      rw [Nat.mul_succ] at *
      omega)
  refine slotGet_status hpos _ ((hget hpos).trans ?_) fun t ht h0 => (hget ht).trans (if_neg fun h => h0 h.1)
  obtain ⟨-, -, hninf⟩ := setBit_or (granule b (sh.g * i)).status
  by_cases hbit : bits.testBit i = true
  · rw [if_neg (by simp [natBit, hbit]), if_pos hbit]
    exact congrArg (fun a => ({ granule b (sh.g * i) with status := a } : Granule)) BitVec.or_zero.symm
  · rw [if_pos ⟨rfl, hsize ▸ hi, by simpa [natBit] using hbit⟩, if_neg hbit, hninf]

section masks
variable {n : BitVec 4}

theorem badMask_iff {k : Nat} : (!(geometry s n).valid || (geometry s n).fmt != 13 ||
      decide ((geometry s n).rowCount * (geometry s n).colCount < ceilDiv k 8)) = false ↔
    Valid s n ∧ (geometry s n).fmt = 13 ∧ (k + 7) / 8 ≤ rows s n * columns s n := by
  simp only [Bool.or_eq_false_iff, Bool.not_eq_false', valid_iff, bne_eq_false_iff_eq, decide_eq_false_iff_not, Nat.not_lt, and_assoc]
  rfl

theorem qmsk_takes (h : Valid s n ∧ (geometry s n).fmt = 13 ∧
      ((shapeOfTag (bank s q).tag).m * (shapeOfTag (bank s q).tag).n + 7) / 8 ≤ rows s n * columns s n) :
    let g := viewOf (bank s q).tag
    BankTakes s (.qmsk q n) q 4 [.tile n.toNat, .bank q.toNat] (geometryReads [n]) none fun k =>
      ∀ i < 256 / g, slotGet k g i = { slotGet (bank s q) g i with
        status := (slotGet (bank s q) g i).status ||| (if (tileNumber s n).testBit i then 0 else 4) } := by
  obtain ⟨hview, hsize, hg⟩ := shapeOfTag_view (bank s q).tag
  refine bankTakes_of_checked (i := .qmsk q n) rfl
    (quiet_noteResources (quiet_noteReads s (geometryReads [n])) [.tile n.toNat, .bank q.toNat] [.bank q.toNat]) ?_ ?_
  · intro c hc
    rw [List.mem_singleton.mp hc]
    exact badMask_iff.mpr h
  · rw [← hg]
    exact fun i hi => slotGet_masked hview hsize (bank s q) (tileNumber s n) _ rfl hi

theorem qmsk_turnedAway (h : ¬ (Valid s n ∧ (geometry s n).fmt = 13 ∧
      ((shapeOfTag (bank s q).tag).m * (shapeOfTag (bank s q).tag).n + 7) / 8 ≤ rows s n * columns s n)) :
    TurnedAway s (.qmsk q n) 0x11 := by
  rw [← badMask_iff, Bool.not_eq_false] at h
  exact turnedAway_of_checked (i := .qmsk q n) rfl
    (quiet_noteResources (quiet_noteReads s (geometryReads [n])) [.tile n.toNat, .bank q.toNat] [.bank q.toNat])
    (c := (_, codeTileGeometry)) (List.find?_cons_of_pos h)

end masks

/-! ## Rows -/

theorem systemLayout_eq (s : State) (f : BitVec 5) : systemLayout s.before f = formatLayout s f := by
  rw [systemLayout, formatLayout]
  congr 1
  unfold systemEs
  split
  · next h => rw [if_pos (BitVec.eq_of_toNat_eq h)]
  · next h => rw [if_neg (by bv_omega), if_pos (BitVec.eq_of_toNat_eq h)]
  · next h => rw [if_neg (by bv_omega), if_neg (by bv_omega), if_pos (BitVec.eq_of_toNat_eq h)]
  · next h9 h10 h11 =>
    rw [if_neg (mt (congrArg BitVec.toNat) h9), if_neg (mt (congrArg BitVec.toNat) h10), if_neg (mt (congrArg BitVec.toNat) h11)]

section rows
variable {r v : BitVec 6} {f : BitVec 5} {l : Lend}

theorem rowFault_iff :
    rowFault s.before q.toNat r.toNat f = true ↔ (bank s q).tag ≠ (shapeOf f).code ∨ (shapeOf f).m ≤ r.toNat := by
  rw [rowFault, Bool.or_eq_true, bne_iff_ne, decide_eq_true_iff]
  rfl

/-- R193: a row of a bank with the active lanes of a register accumulated into its slots. -/
theorem slotGet_rowAdd (hr : r.toNat < (shapeOf f).m) (b k : Bank)
    (hk : k = (List.range (shapeOf f).n).foldl
      (fun b j => if laneActive s.before (maskOf l) j
        then bankAdd b (shapeOf f).g (r.toNat * (shapeOf f).n + j) (numLane (systemLayout s.before f) (readV s.before v.toNat) j)
        else b) b) :
    let sh := shapeOf f
    let y := formatLayout s f
    (∀ j < sh.n,
      (Active s (maskReg l) j → slotGet k sh.g (r.toNat * sh.n + j) =
        accumulated sh.g (slotGet b sh.g (r.toNat * sh.n + j)) (decodeNum y (laneAt s v y.bits j))) ∧
      (¬ Active s (maskReg l) j → slotGet k sh.g (r.toNat * sh.n + j) = slotGet b sh.g (r.toNat * sh.n + j))) ∧
    (∀ i < 256 / sh.g, i < r.toNat * sh.n ∨ (r.toNat + 1) * sh.n ≤ i → slotGet k sh.g i = slotGet b sh.g i) := by
  intro sh y
  obtain ⟨hview, hsize⟩ := shape_view f
  have hpass := fun {i : Nat} (hi : i < 256 / sh.g) => slotGet_foldl
    (fun b j => if laneActive s.before (maskOf l) j
      then bankAdd b sh.g (r.toNat * sh.n + j) (numLane (systemLayout s.before f) (readV s.before v.toNat) j) else b)
    (fun j => r.toNat * sh.n + j)
    (fun j x => if laneActive s.before (maskOf l) j then accumulated sh.g x (decodeNum y (laneAt s v y.bits j)) else x)
    (fun b j i hi => by
      rw [numLane, systemLayout_eq, lane_eq_laneAt]
      split
      · exact slotGet_bankAdd hview b _ _ hi
      · exact (ite_self _).symm)
    (List.range sh.n) (List.nodup_range.map fun a c h => Nat.add_left_cancel h) b hi
  subst hk
  constructor
  · intro j hj
    have hnew := (hpass (slotPlace_lt hsize hr hj)).1 j (List.mem_range.mpr hj) rfl
    exact ⟨fun h => hnew.trans (if_pos (laneActive_iff.mpr h)), fun h => hnew.trans (if_neg (mt laneActive_iff.mp h))⟩
  · intro i hi hout
    refine (hpass hi).2 fun j hj => ?_
    have hj := List.mem_range.mp hj
    rw [Nat.succ_mul] at hout
    omega

theorem vqadd_takes (hpoison : poisonV s.before v.toNat = false) (htag : (bank s q).tag = (shapeOf f).code)
    (hr : r.toNat < (shapeOf f).m) :
    let b := bank s q
    let sh := shapeOf f
    let y := formatLayout s f
    BankTakes s (.vqadd q r v f l) q 4 [.bank q.toNat] [.v v.toNat, .m (maskReg l)] none fun k =>
      (∀ j < sh.n,
        (Active s (maskReg l) j → slotGet k sh.g (r.toNat * sh.n + j) =
          accumulated sh.g (slotGet b sh.g (r.toNat * sh.n + j)) (decodeNum y (laneAt s v y.bits j))) ∧
        (¬ Active s (maskReg l) j → slotGet k sh.g (r.toNat * sh.n + j) = slotGet b sh.g (r.toNat * sh.n + j))) ∧
      (∀ i < 256 / sh.g, i < r.toNat * sh.n ∨ (r.toNat + 1) * sh.n ≤ i → slotGet k sh.g i = slotGet b sh.g i) := by
  refine bankTakes_of_checked (i := .vqadd q r v f l) rfl
    (quiet_noteResources (quiet_noteReads s [.v v.toNat, .m (maskReg l)]) [.bank q.toNat] [.bank q.toNat]) ?_
    (slotGet_rowAdd hr (bank s q) _ rfl)
  have hrow : rowFault s.before q.toNat r.toNat f = false :=
    Bool.eq_false_iff.mpr fun h => (rowFault_iff.mp h).elim (absurd htag) fun h => absurd hr (Nat.not_lt.mpr h)
  rw [hpoison, hrow]
  simp

theorem vqadd_poisoned (h : poisonV s.before v.toNat = true) : TurnedAway s (.vqadd q r v f l) 0x16 :=
  turnedAway_of_checked (i := .vqadd q r v f l) rfl
    (quiet_noteResources (quiet_noteReads s [.v v.toNat, .m (maskReg l)]) [.bank q.toNat] [.bank q.toNat])
    (c := (_, codePoison)) (List.find?_cons_of_pos h)

theorem vqadd_turnedAway (hpoison : poisonV s.before v.toNat = false)
    (h : (bank s q).tag ≠ (shapeOf f).code ∨ (shapeOf f).m ≤ r.toNat) : TurnedAway s (.vqadd q r v f l) 0x12 :=
  turnedAway_of_checked (i := .vqadd q r v f l) rfl
    (quiet_noteResources (quiet_noteReads s [.v v.toNat, .m (maskReg l)]) [.bank q.toNat] [.bank q.toNat])
    (c := (_, codeQuireView))
    ((List.find?_cons_of_neg (by simp [hpoison])).trans (List.find?_cons_of_pos (rowFault_iff.mpr h)))

theorem vqz_takes (h : r.toNat < 8) :
    BankTakes s (.vqz q r l) q 4 [] [] none fun k => ∀ i < 256,
      granule k i = if 32 * r.toNat ≤ i ∧ i < 32 * (r.toNat + 1) then { q := 0, status := 0, wrap := 0 } else granule (bank s q) i :=
  bankTakes_of_checked (i := .vqz q r l) rfl (quiet_noteResources (quiet_refl s) [] [.bank q.toNat])
    (fun c hc => by
      rw [List.mem_singleton.mp hc]
      exact decide_eq_false (Nat.not_lt.mpr (Nat.le_of_lt_succ h)))
    fun i hi => vget_foldl_vset (fun _ => { q := 0, status := 0, wrap := 0 }) (bank s q).granules (32 * r.toNat) 32
      { q := 0, status := 0, wrap := 0 } hi

theorem vqz_turnedAway (h : 8 ≤ r.toNat) : TurnedAway s (.vqz q r l) 0x12 :=
  turnedAway_of_checked (i := .vqz q r l) rfl (quiet_noteResources (quiet_refl s) [] [.bank q.toNat])
    (c := (_, codeQuireView)) (List.find?_cons_of_pos (decide_eq_true h))

end rows

end forms

/-- Settles O28: each form leaves its slots as the rules say, or its first failing check turns it away. -/
theorem quireFormResults : Obligations.QuireFormResults := by
  unfold Obligations.QuireFormResults
  refine ⟨fun b g i x v hview hi => ?_, fun s q n f r v e l => ?_⟩
  · refine ⟨?_, aliased_slotGet b g i, ?_, fun j hj hne => ⟨?_, ?_⟩, slotPut_tag b g i x,
      fun l rm sat r => roundSlot_eq l rm sat r g x⟩
    · rw [slotGet_slotPut hview b i x hi, if_pos rfl]
    · rw [slotGet_bankAdd hview b i v hi, if_pos rfl]
    · rw [slotGet_slotPut hview b i x hj, if_neg hne]
    · rw [slotGet_bankAdd hview b i v hj, if_neg hne]
  · exact ⟨qzero_takes, qadd_takes, qadd_turnedAway, qscl_takes e, qtl_takes, qtl_turnedAway,
      fun hvalid hfmt hsize => qmsk_takes ⟨hvalid, hfmt, hsize⟩, qmsk_turnedAway, vqadd_takes, vqadd_poisoned, vqadd_turnedAway,
      vqz_takes, vqz_turnedAway⟩

end Sys2Proof.Machine
end

section
/-!
Busy states that end and the steps of the MAC array (R60, R61, R174, R175, R177, R183, R185, R311, R349).
-/

namespace Sys2Proof.Machine
open Claims (CoreBecomes withCore OneEnds Untrapped BytesBecome LatchLeads matrixStop symbolsTaken Supplied bankEnds)

/-! ## Steps of one core -/

theorem onCoreAt_eq (n : Nat) (f : Core → Core) (s : State) : onCoreAt n f s = withCore s n (f (coreState s n)) := by
  rw [onCoreAt, withCore]
  refine if_ctx_congr Iff.rfl (fun h => ?_) fun _ => rfl
  rw [coreState, if_pos h]

/-- A step that changes one core makes it what its function gives. -/
theorem coreBecomes_onCoreAt {s : State} {i : Instr} {n : Nat} {f : Core → Core} (hexec : exec i s = .next (onCoreAt n f s))
    {c : Core} (h : f (coreState s n) = c) : CoreBecomes s i n c := by
  rw [CoreBecomes, hexec, onCoreAt_eq, h]

/-! ## What ends, ends alone -/

/-- R175: where one operation ends, it alone has its effect. -/
theorem endBusyStates_one {c : Core} {b : BusyOp} {rest : List BusyOp} (h : OneEnds c b rest) :
    endBusyStates c = endBusy b { c with busy := rest } := by
  obtain ⟨hmode, hbusy, hends, hlater⟩ := h
  have hsteps : c.mode.steps = true := by
    rcases hmode with hm | ⟨st, hm⟩ <;> rw [hm] <;> rfl
  have hended : c.busy.filter (fun b => decide (b.endsAt ≤ c.mclk)) = [b] := by
    rw [hbusy, List.filter_cons_of_pos (by simpa using hends),
      List.filter_eq_nil_iff.mpr fun x hx => by simpa using hlater x hx]
  have hrest : c.busy.filter (fun b => decide (c.mclk < b.endsAt)) = rest := by
    rw [hbusy, List.filter_cons_of_neg (by simpa using hends),
      List.filter_eq_self.mpr fun x hx => decide_eq_true (hlater x hx)]
  rw [endBusyStates, hsteps]
  simp only [Bool.not_true, Bool.false_eq_true, if_false, hended, hrest, List.foldl_cons, List.foldl_nil]

theorem trapping_iff {c : Core} {f : Flags} : trapping c f = false ↔ Untrapped c f := by
  rw [trapping, Bool.or_eq_false_iff, ← Bool.not_eq_true, ← Bool.not_eq_true, Bool.and_eq_true, Bool.and_eq_true, Untrapped]

theorem applyEffect_traps (b : BusyOp) (c : Core) (e : BusyEffect) (f : Flags) :
    trapping (applyEffect b c e) f = trapping c f := by
  cases e
  case latches =>
    simp only [applyEffect]
    split <;> rfl
  all_goals rfl

theorem applyEffects_traps (b : BusyOp) (l : List BusyEffect) (c : Core) (f : Flags) :
    trapping (l.foldl (applyEffect b) c) f = trapping c f := by
  induction l generalizing c with
  | nil => rfl
  | cons e l ih => rw [List.foldl_cons, ih, applyEffect_traps]

/-- R60, R175: an operation without a fault or a trap has its effects and joins its flags. -/
theorem endBusy_quiet {c : Core} {b : BusyOp} (hfault : b.fault = 0) (htrap : Untrapped c b.flags) :
    endBusy b c = { b.effects.foldl (applyEffect b) c with
      fflags := (b.effects.foldl (applyEffect b) c).fflags ||| b.flags } := by
  have hnone := (applyEffects_traps b b.effects c b.flags).trans (trapping_iff.mpr htrap)
  rw [endBusy, if_neg (not_not_intro hfault)]
  exact if_neg (ne_true_of_eq_false hnone)

theorem matrixFault_retiring {c : Core} (h : retiresFaulty c = true) (code : BitVec 8) (b : BusyOp) : matrixFault code b c = c := by
  rw [matrixFault]
  exact if_pos h

/-- R311: a fault or a trap of the matrix unit where no stop stands. -/
theorem matrixFault_running {c : Core} (hmode : c.mode = .running) (hstop : c.stop = none) (code : BitVec 8) (b : BusyOp) :
    matrixFault code b c = { c with stop := some (matrixStop b code) } := by
  have hretires : retiresFaulty c = false := by rw [retiresFaulty, hmode]
  rw [matrixFault, hretires]
  simp only [Bool.false_eq_true, if_false, joinStop, hstop]
  rfl

section ends
variable {s : State} {n : Nat} {b : BusyOp} {rest : List BusyOp}

/-- R175: the core that an operation which ends alone leaves. -/
theorem busyStateEnd_one (h : OneEnds (coreState s n) b rest) {c : Core} (hc : endBusy b { coreState s n with busy := rest } = c) :
    CoreBecomes s (.busyStateEnd n) n c :=
  coreBecomes_onCoreAt (i := .busyStateEnd n) rfl ((endBusyStates_one h).trans hc)

/-- R349: a task that retires after a fatal fault goes on. -/
theorem busyStateEnd_retiring (h : OneEnds (coreState s n) b rest) {st : BitVec 8}
    (hmode : (coreState s n).mode = .ending st) (hst : st ≠ 0) (he : b.effects = []) :
    CoreBecomes s (.busyStateEnd n) n { coreState s n with busy := rest, fflags := (coreState s n).fflags ||| b.flags } := by
  refine busyStateEnd_one h ?_
  have hretires : retiresFaulty { coreState s n with busy := rest, fflags := (coreState s n).fflags ||| b.flags } = true := by
    simp only [retiresFaulty, hmode]
    exact bne_iff_ne.mpr hst
  rw [endBusy, he]
  simp only [List.foldl_nil, matrixFault_retiring hretires, ite_self]

/-- R311: a fault that an operation ends with stops a running core. -/
theorem busyStateEnd_faulty (h : OneEnds (coreState s n) b rest) (hmode : (coreState s n).mode = .running)
    (hstop : (coreState s n).stop = none) (hfault : b.fault ≠ 0) (he : b.effects = []) :
    CoreBecomes s (.busyStateEnd n) n { coreState s n with
      busy := rest, fflags := (coreState s n).fflags ||| b.flags, stop := some (matrixStop b b.fault) } := by
  refine busyStateEnd_one h ?_
  rw [endBusy, he, if_pos hfault]
  exact matrixFault_running (by exact hmode) (by exact hstop) _ _

/-- R61, R311: flags that trap stop a running core. -/
theorem busyStateEnd_trapped (h : OneEnds (coreState s n) b rest) (hmode : (coreState s n).mode = .running)
    (hstop : (coreState s n).stop = none) (hfault : b.fault = 0) (htrap : ¬ Untrapped (coreState s n) b.flags)
    (he : b.effects = []) :
    CoreBecomes s (.busyStateEnd n) n { coreState s n with
      busy := rest, fflags := (coreState s n).fflags ||| b.flags, stop := some (matrixStop b 0x15) } := by
  rw [← trapping_iff, Bool.not_eq_false] at htrap
  refine busyStateEnd_one h ?_
  rw [endBusy, he, if_neg (not_not_intro hfault)]
  exact (if_pos htrap).trans (matrixFault_running (by exact hmode) (by exact hstop) _ _)

/-- R175: an operation that ends quietly has its effects in turn. -/
theorem busyStateEnd_quiet (h : OneEnds (coreState s n) b rest) (hfault : b.fault = 0) (htrap : Untrapped (coreState s n) b.flags)
    {es : List BusyEffect} (he : b.effects = es) {c : Core}
    (hc : es.foldl (applyEffect b) { coreState s n with busy := rest } = c) :
    CoreBecomes s (.busyStateEnd n) n { c with fflags := c.fflags ||| b.flags } := by
  refine busyStateEnd_one h ((endBusy_quiet hfault (by exact htrap)).trans ?_)
  rw [he, hc]

end ends

/-! ## Comb bytes and latches -/

theorem mem_wordsWithin {lo len w : Nat} : w ∈ wordsWithin lo len ↔ lo ≤ 8 * w ∧ 8 * w + 8 ≤ lo + len := by
  rw [wordsWithin, List.mem_map]
  constructor
  · rintro ⟨k, hk, rfl⟩
    have := List.mem_range.mp hk
    omega
  · intro h
    exact ⟨w - (lo + 7) / 8, List.mem_range.mpr (by omega), by omega⟩

theorem bytesBecome_setBytes (m : List Host.Cell) (lo : Nat) (bs : List Byte) : BytesBecome m (setBytes m lo bs) lo bs :=
  fun h => ⟨setBytes_wf h, memByte_setBytes h⟩

theorem testBit_replaceField_low (v n x i : Nat) :
    (replaceField v 0 n x).testBit i = if i < n then x.testBit i else v.testBit i := by
  have hsum : replaceField v 0 n x = 2 ^ n * (v / 2 ^ n) + x % 2 ^ n := by
    rw [replaceField, Nat.zero_add, Nat.pow_zero, Nat.mod_one, Nat.mul_one, Nat.add_zero, Nat.mul_comm]
  rw [hsum, Nat.testBit_two_pow_mul_add _ (Nat.mod_lt _ (by positivity))]
  split
  · next h => rw [Nat.testBit_mod_two_pow, decide_eq_true h, Bool.true_and]
  · next h => rw [Nat.testBit_div_two_pow, Nat.sub_add_cancel (Nat.le_of_not_lt h)]

/-- R183: the bits of a latch that a load brings rows to. -/
theorem getLsbD_mergeLatch (old new : Latch) (ra rb : Nat) :
    (∀ r < 128, (mergeLatch old new ra rb).a.getLsbD r = if r < 8 * ra then new.a.getLsbD r else old.a.getLsbD r) ∧
    (∀ r < 64, (mergeLatch old new ra rb).b.getLsbD r = if r < 8 * rb then new.b.getLsbD r else old.b.getLsbD r) := by
  constructor <;>
  · intro r hr
    rw [mergeLatch, BitVec.getLsbD_ofNat, decide_eq_true hr, Bool.true_and, testBit_replaceField_low]
    rfl

/-- A pass over a vector whose steps each replace the next element by a function of itself. -/
theorem vget_foldl_zipIdx {α β : Type} {n : Nat} (f : α → β → α) (xs : List β) (first k : Nat) (v : Vector α n) (d : α) (e : β)
    {j : Nat} (hj : j < n) :
    vget ((xs.zipIdx k).foldl (fun u x => vset u (first + x.2) (f (vget u (first + x.2) d) x.1)) v) j d =
      if first + k ≤ j ∧ j < first + k + xs.length then f (vget v j d) (xs.getD (j - (first + k)) e) else vget v j d := by
  induction xs generalizing k v with
  | nil => rw [if_neg (by simp)]; rfl
  | cons x xs ih =>
    rw [List.zipIdx_cons, List.foldl_cons, ih (k + 1), List.length_cons]
    rcases Nat.lt_trichotomy (first + k) j with hlt | heq | hgt
    · have hnext : j - (first + k) = j - (first + (k + 1)) + 1 := by omega
      rw [vget_vset_ne (by omega), hnext, List.getD_cons_succ]
      exact if_congr (by omega) rfl rfl
    · subst heq
      rw [if_neg (by omega), if_pos (by omega), vget_vset_same hj, Nat.sub_self, List.getD_cons_zero]
    · rw [vget_vset_ne (by omega), if_neg (by omega), if_neg (by omega)]

theorem vget_fin {α : Type} {n : Nat} (v : Vector α n) (i : Fin n) (d : α) : vget v i.val d = v[i.val] := dif_pos i.isLt

theorem blockFormat_iff {f : BitVec 5} : isBlockFormat f = true ↔ f = 6 ∨ f = 7 ∨ f = 8 := by
  simp only [isBlockFormat, Bool.or_eq_true, beq_iff_eq, or_assoc]

theorem latchTimed_iff {c : Core} {page first run now : Nat} :
    latchTimed c page first run now = true ↔ LatchLeads c page first run now := by
  have hboundary : ∀ (m : MacOp) (b : Nat),
      blockBoundary m b = m.start + (if m.form = .mms then 8 else 16) * b / (shapeOf m.fmt).k := by
    intro m b
    unfold blockBoundary
    split <;> rfl
  simp only [latchTimed, List.any_eq_true, Bool.and_eq_true, blockFormat_iff, hboundary, beq_iff_eq, decide_eq_true_eq, and_assoc]
  rfl

/-! ## The array -/

theorem settleMac_eq (m : MacOp) : settleMac m = bankEnds m := by
  funext b
  rw [settleMac, bankEnds]
  exact if_congr (by rw [MacOp.owns, Bool.and_eq_true, beq_iff_eq]) rfl rfl

theorem macStarved_iff {s : State} {c : Core} {m : MacOp} : macStarved c s.pkg.cycle m = false ↔ Supplied s c m := by
  rw [macStarved, Bool.and_eq_false_iff, decide_eq_false_iff_not, Nat.not_lt, beq_eq_false_iff_ne, ← imp_iff_not_or]
  rfl

/-- R185: the first `k` symbols of a decode stream taken. -/
def symbolsDrawn (c : Core) (stream k : Nat) : Core :=
  { c with streams := vset c.streams stream { streamOf c stream with ready := (streamOf c stream).ready.drop k } }

section steps
variable {s : State} {n : Nat} {m : MacOp} {rest : List MacOp}

/-- R177: a step that is not due, or has not its symbols, waits. -/
theorem matrixStep_waits (hmacs : (coreState s n).macs = m :: rest)
    (h : (coreState s n).mclk ≤ m.start + m.step ∨ ¬ Supplied s (coreState s n) m) :
    CoreBecomes s (.matrixStep n) n (coreState s n) := by
  refine coreBecomes_onCoreAt (i := .matrixStep n) rfl ?_
  rw [← macStarved_iff, Bool.not_eq_false] at h
  rw [matrixAdvance, hmacs]
  exact if_pos (Bool.or_eq_true_iff.mpr (h.imp decide_eq_true id))

/-- R177: what a step that is due and supplied leaves: the operation goes on, or its bank is what its busy state leaves. -/
theorem matrixStep_taken (hmacs : (coreState s n).macs = m :: rest) (hdue : m.start + m.step < (coreState s n).mclk)
    (hsupplied : Supplied s (coreState s n) m) {k : Nat} (hk : (if m.form = .mmz then stepSymbols m else 0) = k) {d : Core}
    (hd : (if m.form = .mmz then symbolsDrawn (coreState s n) m.stream k else coreState s n) = d) {m' : MacOp}
    (hm : macAdvance (coreState s n) m (((streamOf (coreState s n) m.stream).ready.take k).map (·.1)) = m') :
    (m.step + 1 < m.steps → CoreBecomes s (.matrixStep n) n { d with macs := m' :: rest }) ∧
    (m.steps ≤ m.step + 1 → CoreBecomes s (.matrixStep n) n { d with macs := rest, busy := d.busy.map (bankEnds m') }) := by
  have hgoes : matrixAdvance (coreState s n) s.pkg.cycle = if m'.step < m'.steps then { d with macs := m' :: rest }
      else { d with macs := rest, busy := d.busy.map (settleMac m') } := by
    subst hk hd hm
    unfold matrixAdvance
    split
    next h => rw [hmacs] at h; contradiction
    next m₁ rest₁ h =>
    obtain ⟨rfl, rfl⟩ := List.cons.inj (hmacs.symm.trans h)
    refine if_neg ?_
    rw [macStarved_iff.mpr hsupplied, Bool.or_false, decide_eq_true_iff]
    exact Nat.not_le.mpr hdue
  have hnext : m'.step = m.step + 1 := hm ▸ rfl
  have hsteps : m'.steps = m.steps := hm ▸ rfl
  rw [hnext, hsteps, settleMac_eq] at hgoes
  exact ⟨fun h => coreBecomes_onCoreAt (i := .matrixStep n) rfl (hgoes.trans (if_pos h)),
    fun h => coreBecomes_onCoreAt (i := .matrixStep n) rfl (hgoes.trans (if_neg (Nat.not_lt.mpr h)))⟩

end steps

end Sys2Proof.Machine
end

section
/-!
The effects with which busy states end, one by one, and the settled statement about them (R175, R183, R349).
-/

namespace Sys2Proof.Machine
open Claims (CoreBecomes OneEnds Untrapped BytesBecome LatchLeads symbolsTaken Supplied bankEnds)

section effects
variable {s : State} {n : Nat} {b : BusyOp} {rest : List BusyOp}

theorem getLsbD_cleared {k : Nat} (v : BitVec k) (i : Nat) : ∀ j < k, (setBit v i false).getLsbD j = (j != i && v.getLsbD j) := by
  intro j hj
  rw [getLsbD_setBit v false hj]
  by_cases h : j = i
  · subst h
    simp
  · rw [if_neg h, bne_iff_ne.mpr h, Bool.true_and]

theorem mem_unmarked {ws : List Nat} {lo len w : Nat} : w ∈ ws.filter (fun w => !(wordsWithin lo len).contains w) ↔
    w ∈ ws ∧ ¬ (lo ≤ 8 * w ∧ 8 * w + 8 ≤ lo + len) := by
  rw [List.mem_filter, Bool.not_eq_true', List.contains_eq_mem, decide_eq_false_iff_not, mem_wordsWithin]

/-- R183: latches land; a load that leads no operation as it should is noted. -/
theorem busyStateEnd_latches (h : OneEnds (coreState s n) b rest) (hfault : b.fault = 0) (htrap : Untrapped (coreState s n) b.flags)
    {page first ra rb : Nat} {vals : List Latch} (he : b.effects = [.latches page first vals ra rb]) :
    let c := coreState s n
    let d := { c with busy := rest, fflags := c.fflags ||| b.flags }
    ∃ ls : Vector Latch 32,
      (LatchLeads c page first vals.length b.endsAt → CoreBecomes s (.busyStateEnd n) n { d with latches := ls }) ∧
      (¬ LatchLeads c page first vals.length b.endsAt →
        CoreBecomes s (.busyStateEnd n) n { d with latches := ls, mistimed := c.mistimed ++ [b.pc] }) ∧
      ∀ i : Fin 32,
        (first ≤ i.val → i.val < first + vals.length →
          let x := vals.getD (i.val - first) { a := 0, b := 0 }
          (∀ r < 128, (ls[i.val]).a.getLsbD r = if r < 8 * ra then x.a.getLsbD r else (c.latches[i.val]).a.getLsbD r) ∧
          (∀ r < 64, (ls[i.val]).b.getLsbD r = if r < 8 * rb then x.b.getLsbD r else (c.latches[i.val]).b.getLsbD r)) ∧
        (¬ (first ≤ i.val ∧ i.val < first + vals.length) → ls[i.val] = c.latches[i.val]) := by
  intro c d
  refine ⟨vals.zipIdx.foldl (fun l v => vset l (first + v.2)
    (mergeLatch (vget l (first + v.2) { a := 0, b := 0 }) v.1 ra rb)) c.latches, fun hlead => ?_, fun hlead => ?_, fun i => ?_⟩
  · exact busyStateEnd_quiet h hfault htrap he (if_pos (latchTimed_iff.mpr hlead))
  · exact busyStateEnd_quiet h hfault htrap he (if_neg (mt latchTimed_iff.mp hlead))
  · have hget := vget_foldl_zipIdx (fun old new => mergeLatch old new ra rb) vals first 0 c.latches { a := 0, b := 0 }
      { a := 0, b := 0 } i.isLt
    rw [vget_fin, vget_fin, Nat.add_zero] at hget
    rw [hget]
    refine ⟨fun hlo hhi => ?_, fun hout => if_neg hout⟩
    rw [if_pos ⟨hlo, hhi⟩]
    exact getLsbD_mergeLatch _ _ ra rb

end effects

/-- Settles O37: an operation that ends alone has its effects, its flags, its fault or its trap; the array takes a step that
is due and supplied, and waits otherwise. -/
theorem busyOperationsEndAndTheArraySteps : Obligations.BusyOperationsEndAndTheArraySteps := by
  unfold Obligations.BusyOperationsEndAndTheArraySteps
  refine ⟨fun s n b rest => ?_, fun s n m rest => ?_⟩
  · intro c d hends
    refine ⟨fun st => busyStateEnd_retiring hends, fun hfault htrap => ?_, busyStateEnd_faulty hends,
      busyStateEnd_trapped hends⟩
    refine ⟨fun he => ?_, fun i w he _ => ?_, fun i k he _ => ?_, fun i t he _ => ?_, fun lo bs he => ?_,
      fun page first vals ra rb he _ _ => busyStateEnd_latches hends hfault htrap he⟩
    · exact busyStateEnd_quiet hends hfault htrap he rfl
    · exact ⟨setBit c.tileBad i false, busyStateEnd_quiet hends hfault htrap he rfl, getLsbD_cleared _ i⟩
    · exact ⟨setBit c.bankBad i false, busyStateEnd_quiet hends hfault htrap he rfl, getLsbD_cleared _ i⟩
    · exact busyStateEnd_quiet hends hfault htrap he rfl
    · exact ⟨_, _, busyStateEnd_quiet hends hfault htrap he rfl, bytesBecome_setBytes c.comb lo bs, fun w => mem_unmarked⟩
  · intro c st hmacs
    refine ⟨fun hdue hform => ?_, fun hdue hform hsupplied => ?_, matrixStep_waits hmacs⟩
    · exact matrixStep_taken hmacs hdue (fun h => absurd h hform) (if_neg hform) (if_neg hform) rfl
    · exact matrixStep_taken hmacs hdue hsupplied (if_pos hform) (if_pos hform) rfl

end Sys2Proof.Machine
end

section
/-!
The fields of a syllable (R65 to R69): what a field reads of a word that fields are placed in, and the bits of a
word in the place of a field.
-/

namespace Sys2Proof

/-! ## Placing a field and reading it -/

/-- The bits of the field of `n` bits at `lo`. -/
def fieldMask (lo n : Nat) : Syllable := put (BitVec.allOnes n) lo

theorem getLsbD_put {n : Nat} (v : BitVec n) (lo i : Nat) :
    (put v lo).getLsbD i = (decide (i < 32) && !decide (i < lo) && v.getLsbD (i - lo)) := by
  rw [put, BitVec.getLsbD_shiftLeft, BitVec.getLsbD_setWidth]
  by_cases h : i < 32
  · simp [h, show i - lo < 32 by omega]
  · simp [h]

theorem getLsbD_fld (w : Syllable) (lo n i : Nat) : (fld w lo n).getLsbD i = (decide (i < n) && w.getLsbD (lo + i)) :=
  BitVec.getLsbD_extractLsb' ..

/-- A field read and placed again is the word's bits in the field's place. -/
theorem put_fld (w : Syllable) (lo n : Nat) : put (fld w lo n) lo = w &&& fieldMask lo n := by
  ext i hi
  rw [← BitVec.getLsbD_eq_getElem, ← BitVec.getLsbD_eq_getElem, BitVec.getLsbD_and, fieldMask, getLsbD_put, getLsbD_put,
    getLsbD_fld, BitVec.getLsbD_allOnes]
  by_cases hlo : i < lo
  · simp [hlo]
  · simp [hi, hlo, Nat.add_sub_cancel' (not_lt.mp hlo), Bool.and_comm]

/-- A field misses a mask that has none of its bits. -/
theorem or_put_and {n : Nat} (x : Syllable) (v : BitVec n) {lo : Nat} {m : Syllable} (h : fieldMask lo n &&& m = 0) :
    (x ||| put v lo) &&& m = x &&& m := by
  ext i hi
  have hbit : (fieldMask lo n &&& m).getLsbD i = false := by simp [h]
  rw [BitVec.getLsbD_and, fieldMask, getLsbD_put, BitVec.getLsbD_allOnes] at hbit
  rw [← BitVec.getLsbD_eq_getElem, ← BitVec.getLsbD_eq_getElem, BitVec.getLsbD_and, BitVec.getLsbD_and, BitVec.getLsbD_or,
    getLsbD_put]
  by_cases hm : m.getLsbD i = true
  · have hv : v.getLsbD (i - lo) = true → i - lo < n := BitVec.lt_of_getLsbD
    grind
  · simp [hm]

theorem fld_and (x y : Syllable) (lo n : Nat) : fld (x &&& y) lo n = fld x lo n &&& fld y lo n :=
  BitVec.extractLsb'_and ..

theorem fld_ofNat (c lo n : Nat) : fld (BitVec.ofNat 32 c) lo n = (BitVec.ofNat 32 c).extractLsb' lo n := rfl

/-- A field that was placed reads back, over what the word had there. -/
theorem fld_or_put_same {n : Nat} (x : Syllable) (v : BitVec n) {lo : Nat} (h : lo + n ≤ 32) :
    fld (x ||| put v lo) lo n = fld x lo n ||| v := by
  ext i hi
  rw [← BitVec.getLsbD_eq_getElem, ← BitVec.getLsbD_eq_getElem, BitVec.getLsbD_or, getLsbD_fld, getLsbD_fld,
    BitVec.getLsbD_or, getLsbD_put]
  simp [hi, show lo + i < 32 by omega]

/-- A field reads nothing of one placed beside it. -/
theorem fld_or_put_apart {m : Nat} (x : Syllable) (v : BitVec m) {lo n k : Nat} (h : k + m ≤ lo ∨ lo + n ≤ k) :
    fld (x ||| put v k) lo n = fld x lo n := by
  ext i hi
  rw [← BitVec.getLsbD_eq_getElem, ← BitVec.getLsbD_eq_getElem, getLsbD_fld, getLsbD_fld, BitVec.getLsbD_or, getLsbD_put]
  rcases h with h | h
  · simp [BitVec.getLsbD_of_ge v (lo + i - k) (by omega)]
  · simp [show lo + i < k by omega]

/-! ## Fields of one bit -/

theorem bit_eq_fld (w : Syllable) (lo : Nat) : bit w lo = (fld w lo 1).getLsbD 0 := by
  simp only [bit, getLsbD_fld, Nat.add_zero, Nat.zero_lt_one, decide_true, Bool.true_and]

theorem ofBool_bit (w : Syllable) (lo : Nat) : BitVec.ofBool (bit w lo) = fld w lo 1 := by
  ext i hi
  obtain rfl : i = 0 := by omega
  simp [← BitVec.getLsbD_eq_getElem, getLsbD_fld, bit]

theorem putBit_bit (w : Syllable) (lo : Nat) : putBit (bit w lo) lo = w &&& fieldMask lo 1 := by
  rw [putBit, ofBool_bit, put_fld]

theorem or_putBit_and (x : Syllable) (b : Bool) {lo : Nat} {m : Syllable} (h : fieldMask lo 1 &&& m = 0) :
    (x ||| putBit b lo) &&& m = x &&& m := or_put_and x _ h

theorem fld_or_putBit_apart (x : Syllable) (b : Bool) {lo n k : Nat} (h : k + 1 ≤ lo ∨ lo + n ≤ k) :
    fld (x ||| putBit b k) lo n = fld x lo n := fld_or_put_apart x _ h

theorem bit_ofNat (c lo : Nat) : bit (BitVec.ofNat 32 c) lo = ((BitVec.ofNat 32 c).extractLsb' lo 1).getLsbD 0 :=
  bit_eq_fld ..

theorem bit_or_putBit_same (x : Syllable) (b : Bool) {lo : Nat} (h : lo < 32) :
    bit (x ||| putBit b lo) lo = (bit x lo || b) := by
  rw [bit_eq_fld, putBit, fld_or_put_same x _ (by omega), BitVec.getLsbD_or, ← bit_eq_fld]
  cases b <;> rfl

theorem bit_or_put_apart {m : Nat} (x : Syllable) (v : BitVec m) {lo k : Nat} (h : k + m ≤ lo ∨ lo < k) :
    bit (x ||| put v k) lo = bit x lo := by
  rw [bit_eq_fld, bit_eq_fld, fld_or_put_apart x v (by omega)]

theorem bit_or_putBit_apart (x : Syllable) (b : Bool) {lo k : Nat} (h : k + 1 ≤ lo ∨ lo < k) :
    bit (x ||| putBit b k) lo = bit x lo := bit_or_put_apart x _ h

/-! ## The lend of an encoding -/

theorem lendOr0_some (l : Lend) : lendOr0 (some l) = l := rfl
theorem lendOrF_some (l : Lend) : lendOrF (some l) = l := rfl

end Sys2Proof
end

section
/-!
The rows of the decoder (R65 to R100): no two fit one word, and none fits a header.
-/

namespace Sys2Proof

theorem FormRow.fits_iff (r : FormRow) (w : Syllable) : r.fits w = true ↔ w &&& r.mask = r.pat := beq_iff_eq

/-- The rows by their major (R65). -/
def majorRows : List (BitVec 5 × List FormRow) := [
  (0x01, rowsSXA ++ rowsSXB), (0x02, rowsSI), (0x03, rowsSL), (0x04, rowsSF), (0x05, rowsSB), (0x06, rowsSC),
  (0x07, rowsSM), (0x08, rowsSA), (0x09, rowsSS), (0x0A, rowsSCM), (0x0C, rowsVI), (0x0D, rowsVF), (0x0E, rowsVX),
  (0x0F, rowsVS), (0x10, rowsVP), (0x11, rowsVM), (0x12, rowsVQ), (0x14, rowsMM), (0x15, rowsMQ), (0x16, rowsMT),
  (0x17, rowsML), (0x19, rowsCG), (0x1A, rowsCR), (0x1B, rowsCD), (0x1C, rowsCO)]

theorem formRows_eq_flatMap : formRows = majorRows.flatMap (·.2) := by
  delta formRows majorRows
  simp only [List.flatMap_cons, List.flatMap_nil, List.append_assoc, List.append_nil]

theorem mem_formRows {r : FormRow} : r ∈ formRows ↔ ∃ g ∈ majorRows, r ∈ g.2 := by
  rw [formRows_eq_flatMap, List.mem_flatMap]

theorem majorRows_major : ∀ g ∈ majorRows, ∀ r ∈ g.2, fld r.mask 27 5 = BitVec.allOnes 5 ∧ fld r.pat 27 5 = g.1 := by
  decide +kernel

theorem majorRows_ne_header : ∀ g ∈ majorRows, g.1 ≠ 0x1F#5 := by decide

theorem majorRows_nodup : (majorRows.map (·.1)).Nodup := by decide

/-- The rows of a major differ in bits that both of a pair fix. -/
theorem majorRows_apart : ∀ g ∈ majorRows, g.2.Pairwise fun r s => r.pat &&& s.mask ≠ s.pat &&& r.mask := by
  decide +kernel

/-- What two rows that fit one word fix in common is the same. -/
theorem pat_and_mask_of_fits {r s : FormRow} {w : Syllable} (hr : r.fits w = true) (hs : s.fits w = true) :
    r.pat &&& s.mask = s.pat &&& r.mask := by
  rw [← (r.fits_iff w).mp hr, ← (s.fits_iff w).mp hs, BitVec.and_assoc, BitVec.and_assoc, BitVec.and_comm r.mask]

theorem major_of_fits {g : BitVec 5 × List FormRow} {r : FormRow} {w : Syllable} (hg : g ∈ majorRows) (hr : r ∈ g.2)
    (hfits : r.fits w = true) : fld w 27 5 = g.1 := by
  obtain ⟨hmask, hpat⟩ := majorRows_major g hg r hr
  rwa [← (r.fits_iff w).mp hfits, fld_and, hmask, BitVec.and_allOnes] at hpat

/-- No two rows fit one word. -/
theorem eq_of_fits {r s : FormRow} {w : Syllable} (hr : r ∈ formRows) (hs : s ∈ formRows) (hrw : r.fits w = true)
    (hsw : s.fits w = true) : r = s := by
  obtain ⟨g, hg, hrg⟩ := mem_formRows.mp hr
  obtain ⟨g', hg', hsg'⟩ := mem_formRows.mp hs
  have hmajor : g.1 = g'.1 := (major_of_fits hg hrg hrw).symm.trans (major_of_fits hg' hsg' hsw)
  obtain rfl : g = g' := List.inj_on_of_nodup_map majorRows_nodup hg hg' hmajor
  have : Std.Symm fun r s : FormRow => r.pat &&& s.mask ≠ s.pat &&& r.mask := ⟨fun _ _ h => h.symm⟩
  by_contra hne
  exact (majorRows_apart g hg).forall hrg hsg' hne (pat_and_mask_of_fits hrw hsw)

/-- A row is found by any word that fits it. -/
theorem find?_fits_eq_some {r : FormRow} {w : Syllable} :
    formRows.find? (fun x => x.fits w) = some r ↔ r ∈ formRows ∧ r.fits w = true := by
  refine ⟨fun h => ⟨List.mem_of_find?_eq_some h, List.find?_some (p := fun x : FormRow => x.fits w) h⟩, ?_⟩
  rintro ⟨hr, hfits⟩
  obtain ⟨s, hs⟩ := Option.isSome_iff_exists.mp (List.find?_isSome (p := fun x : FormRow => x.fits w).mpr ⟨r, hr, hfits⟩)
  rw [hs, eq_of_fits (List.mem_of_find?_eq_some hs) hr (List.find?_some (p := fun x : FormRow => x.fits w) hs) hfits]

/-- A word decodes to what the row that it fits builds, where its lend may be there and no check of R100 refuses. -/
theorem decode_ok_iff {w : Syllable} {l : Option Lend} {i : Instr} :
    decode w l = .ok i ↔
      ∃ r ∈ formRows, r.fits w = true ∧ (r.plain = true → lendOr0 l = 0) ∧ r.build w l = i ∧ i.wf = true := by
  constructor
  · intro h
    simp only [decode] at h
    split at h
    · cases h
    · split at h
      · cases h
      · next r hr =>
        split at h
        · cases h
        · next hlend =>
          split at h
          · cases h
          · next hwf =>
            cases h
            obtain ⟨hmem, hfits⟩ := find?_fits_eq_some.mp hr
            refine ⟨r, hmem, hfits, fun hp => ?_, rfl, ?_⟩
            · simpa [hp] using hlend
            · rw [Instr.wf, hwf, Option.isNone_none]
  · rintro ⟨r, hr, hfits, hlend, rfl, hwf⟩
    obtain ⟨g, hg, hrg⟩ := mem_formRows.mp hr
    have hmajor : (fld w 27 5 == 0x1F#5) = false := by
      rw [major_of_fits hg hrg hfits]
      exact beq_false_of_ne (majorRows_ne_header g hg)
    have hplain : (r.plain && lendOr0 l != 0) = false := by
      cases hp : r.plain
      · rfl
      · simp [hlend hp]
    have hproblem : (r.build w l).problem = none := Option.isNone_iff_eq_none.mp hwf
    simp only [decode, hmajor, find?_fits_eq_some.mpr ⟨hr, hfits⟩, hplain, hproblem, Bool.false_eq_true, if_false]

end Sys2Proof
end

section
/-!
The words of the rows (R65 to R100): what a row builds from a word has that word, and the word of an instruction fits the row that
builds the instruction from it.
-/

namespace Sys2Proof

/-! ## The word of what a row builds -/

/-- R68, R87: the lend `m` of an encoding stands for the lend `l` that a bundle gives. -/
def LendAgrees (l m : Option Lend) : Prop :=
  m = l ∨ (l = none ∧ (m = some 0 ∨ m = some 1)) ∨ (l = some 0 ∧ m = none)

theorem lendAgrees_self (l : Option Lend) : LendAgrees l l := .inl rfl

theorem lendAgrees_lendOr0 (l : Option Lend) : LendAgrees l (some (lendOr0 l)) := by
  cases l <;> simp [LendAgrees, lendOr0]

theorem lendAgrees_lendOrF (l : Option Lend) : LendAgrees l (some (lendOrF l)) := by
  cases l <;> simp [LendAgrees, lendOrF]

theorem lendAgrees_none {l : Option Lend} : LendAgrees l none ↔ lendOr0 l = 0 := by
  cases l <;> simp [LendAgrees, lendOr0]

/-- An instruction has the word `w`, and a lend that stands for `l`. -/
def Spells (i : Instr) (w : Syllable) (l : Option Lend) : Prop := ∃ m, encode i = some (w, m) ∧ LendAgrees l m

theorem spells_of_encode {i : Instr} {x w : Syllable} {l m : Option Lend} (he : encode i = some (x, m)) (hx : x = w)
    (hm : LendAgrees l m) : Spells i w l := ⟨m, hx ▸ he, hm⟩

/-- What a row builds from a word that fits it has that word. -/
def FormRow.Respells (r : FormRow) : Prop :=
  ∀ w l, r.fits w = true → (r.plain = true → lendOr0 l = 0) → Spells (r.build w l) w l

theorem respells_mk {mask pat : Syllable} {plain : Bool} {build : Syllable → Option Lend → Instr} :
    (FormRow.mk mask pat plain build).Respells ↔
      ∀ w l, w &&& mask = pat → (plain = true → lendOr0 l = 0) → Spells (build w l) w l := by
  simp only [FormRow.Respells, FormRow.fits_iff]

/-- A word under fixed bits and fields that together are all its bits is the word. -/
theorem and_eq_self_of_full {w m : Syllable} (h : m = BitVec.allOnes 32) : w &&& m = w := by rw [h, BitVec.and_allOnes]

/-- R78: `br` has the word of the SB form with p = 0 and n = 0. -/
theorem encode_buildBranch (w : Syllable) :
    encode (buildBranch w) =
      some (0x28000000#32 ||| put (fld w 24 3) 24 ||| putBit (bit w 23) 23 ||| put (fld w 0 23) 0, none) := by
  unfold buildBranch
  split
  · next h =>
    simp only [Bool.and_eq_true, beq_iff_eq, Bool.not_eq_true'] at h
    obtain ⟨hp, hn⟩ := h
    rw [hp, hn]
    rfl
  · rfl

theorem rowsSB_respell : ∀ r ∈ rowsSB, r.Respells := by
  simp only [rowsSB, List.forall_mem_singleton, respells_mk]
  intro w l hfit hplain
  refine spells_of_encode (encode_buildBranch w) ?_ (lendAgrees_none.mpr (hplain trivial))
  simp only [put_fld, putBit_bit, ← hfit, ← BitVec.and_or_distrib_left]
  exact and_eq_self_of_full rfl

/-- A row's word is put together from the bits that the row fixes and the fields that it reads. -/
theorem formRows_respell : ∀ r ∈ formRows, r.Respells := by
  delta formRows
  simp only [List.forall_mem_append, iff_true_intro rowsSB_respell, and_true]
  and_intros
  all_goals
    simp only [rowsSXA, rowsSXB, rowsSI, rowsSL, rowsSF, rowsSC, rowsSM, rowsSA, rowsSS, rowsSCM, rowsVI, rowsVF, rowsVX,
      rowsVS, rowsVP, rowsVM, rowsVQ, rowsMM, rowsMQ, rowsMT, rowsML, rowsCG, rowsCR, rowsCD, rowsCO, List.forall_mem_cons,
      List.not_mem_nil, false_implies, implies_true, and_true, respells_mk]
    and_intros
    all_goals
      intro w l hfit hplain
      refine spells_of_encode rfl ?_ ?_
      · simp only [put_fld, putBit_bit, ← hfit, ← BitVec.and_or_distrib_left]
        exact and_eq_self_of_full rfl
      · simp only [lendAgrees_self, lendAgrees_lendOr0, lendAgrees_lendOrF, lendAgrees_none, hplain]

/-! ## The row of an instruction -/

/-- Where the row of an instruction stands: the rows follow the constructors, `br` and `brc` sharing one. -/
def Instr.rowIndex (i : Instr) : Nat := if i.ctorIdx ≤ (Instr.br 0).ctorIdx then i.ctorIdx else i.ctorIdx - 1

/-- Some row has the fixed bits of a word and builds the instruction from it. -/
def ReadsBack (i : Instr) (w : Syllable) (l : Option Lend) : Prop :=
  ∃ r ∈ formRows, w &&& r.mask = r.pat ∧ r.build w l = i ∧ (r.plain = true → l = none)

theorem readsBack_of_row {i : Instr} {w mask pat : Syllable} {l : Option Lend} {plain : Bool}
    {build : Syllable → Option Lend → Instr}
    (hrow : (majorRows.flatMap (·.2))[i.rowIndex]? = some ⟨mask, pat, plain, build⟩) (hfit : w &&& mask = pat)
    (hbuild : build w l = i) (hplain : plain = true → l = none) : ReadsBack i w l := by
  have hmem := List.mem_of_getElem? hrow
  rw [← formRows_eq_flatMap] at hmem
  exact ⟨_, hmem, hfit, hbuild, hplain⟩

/-- R78: the SB form with p = 0 and n = 0 is no `brc`. -/
theorem wf_brc {p : BitVec 3} {n : Bool} {o : BitVec 23} : (Instr.brc p n o).wf = true ↔ ¬ (p = 0 ∧ n = false) := by
  have hwf : (Instr.brc p n o).wf = (brcOk p n).isNone := rfl
  rw [hwf]
  cases n <;> simp [brcOk, Problem.unless]

theorem buildBranch_br (o : BitVec 23) : buildBranch (0x28000000#32 ||| put o 0) = .br o := by
  simp (disch := omega) [buildBranch, fld_or_put_apart, fld_ofNat, fld_or_put_same, bit_or_put_apart, bit_ofNat]

theorem buildBranch_brc {p : BitVec 3} {n : Bool} {o : BitVec 23} (h : (Instr.brc p n o).wf = true) :
    buildBranch (0x28000000#32 ||| put p 24 ||| putBit n 23 ||| put o 0) = .brc p n o := by
  simpa (disch := omega) [buildBranch, fld_or_put_apart, fld_or_putBit_apart, fld_ofNat, fld_or_put_same, bit_or_put_apart,
    bit_ofNat, bit_or_putBit_same] using wf_brc.mp h

/-- The row of an instruction reads back the fields that the encoder placed. -/
theorem readsBack_of_encode {i : Instr} {w : Syllable} {l : Option Lend} (hwf : i.wf = true) (h : encode i = some (w, l)) :
    ReadsBack i w l := by
  cases i
  case br o =>
    cases h
    exact readsBack_of_row rfl (or_put_and _ o (by decide)) (buildBranch_br o) fun _ => rfl
  case brc p n o =>
    cases h
    refine readsBack_of_row rfl ?_ (buildBranch_brc hwf) fun _ => rfl
    simp (disch := decide) only [or_put_and, or_putBit_and, BitVec.reduceAnd]
  -- A device step has no words, and every other form's are its fixed bits and its fields.
  all_goals cases h
  all_goals
    refine readsBack_of_row rfl ?_ ?_ ?_
    · simp (disch := decide) only [or_put_and, or_putBit_and, BitVec.reduceAnd]
    · simp (disch := omega) only [fld_or_put_apart, fld_or_putBit_apart, fld_or_put_same, fld_ofNat, bit_or_put_apart,
        bit_or_putBit_apart, bit_or_putBit_same, bit_ofNat, BitVec.reduceExtractLsb', BitVec.zero_or, BitVec.getLsbD_zero,
        Bool.false_or, lendOr0_some, lendOrF_some]
    · simp

end Sys2Proof
end

section
/-!
Decode and encode agree (R65 to R100).
-/

namespace Sys2Proof

/-- The words of a well-formed instruction decode to it. -/
theorem decode_encode {i : Instr} {w : Syllable} {l : Option Lend} (hwf : i.wf = true) (h : encode i = some (w, l)) :
    decode w l = .ok i := by
  obtain ⟨r, hr, hfit, hbuild, hplain⟩ := readsBack_of_encode hwf h
  have hlend : r.plain = true → lendOr0 l = 0 := fun hp => by
    rw [hplain hp]
    rfl
  exact decode_ok_iff.mpr ⟨r, hr, (r.fits_iff w).mpr hfit, hlend, hbuild, hwf⟩

/-- A word that decodes is the word of the well-formed instruction that it gives. -/
theorem spells_of_decode {w : Syllable} {l : Option Lend} {i : Instr} (h : decode w l = .ok i) :
    i.wf = true ∧ Spells i w l := by
  obtain ⟨r, hr, hfits, hlend, rfl, hwf⟩ := decode_ok_iff.mp h
  exact ⟨hwf, formRows_respell r hr w l hfits hlend⟩

/-- Settles O57: an instruction's row reads back the fields that the encoder placed, and the fields that a row reads make up
its word again. -/
theorem decodeAndEncodeAgree : Obligations.DecodeAndEncodeAgree := by
  unfold Obligations.DecodeAndEncodeAgree
  exact ⟨fun _ _ _ => decode_encode, fun _ _ _ => spells_of_decode⟩

/-- Settles O58: the decoder finds the row of each word. -/
theorem exampleWordsDecode : Obligations.ExampleWordsDecode := by
  unfold Obligations.ExampleWordsDecode
  and_intros <;> rfl

end Sys2Proof
end

section
/-!
A false guard and an illegal operand (R70, R72, R100, R108): what a guarded and an unguarded form do then, and which forms are of
these shapes.
-/

namespace Sys2Proof.Machine
open Claims (Keeps Notes Source Destination ReadDestination GuardTrue Suppresses RefusesOperand Assigned guardedForms
  guardedFloats guardedFloats2 intTable shiftTable compareTable unaryTable immediateTable floatTable floatCompareTable signTable)

/-! ## Legal operands -/

theorem legal_one_source {d a : BitVec 6} : (dstOk d && srcOk a) = true ↔ Destination d ∧ Source a := by
  rw [Bool.and_eq_true, dstOk_iff, srcOk_iff]

theorem legal_two_sources {d a b : BitVec 6} :
    (dstOk d && srcOk a && srcOk b) = true ↔ Destination d ∧ Source a ∧ Source b := by
  rw [Bool.and_eq_true, legal_one_source, srcOk_iff, and_assoc]

theorem legal_read_destination {d a b : BitVec 6} :
    (readDstOk d && srcOk a && srcOk b) = true ↔ ReadDestination d ∧ Source a ∧ Source b := by
  rw [Bool.and_eq_true, Bool.and_eq_true, readDstOk_iff, srcOk_iff, srcOk_iff, and_assoc]

theorem legal_sources {r x : BitVec 6} : (srcOk r && srcOk x) = true ↔ Source r ∧ Source x := by
  rw [Bool.and_eq_true, srcOk_iff, srcOk_iff]

theorem legal_float {legal : Bool} {srcs : List (BitVec 6)} :
    (legal && srcs.all srcOk) = true ↔ legal = true ∧ ∀ c ∈ srcs, Source c := by
  simp only [Bool.and_eq_true, List.all_eq_true, srcOk_iff]

theorem sysAssigned_of_assigned {s : State} {n : Nat} (h : Assigned s n) : sysAssigned (s.here == queenCore) n = true := by
  simp only [sysAssigned, queenCore, Bool.or_eq_true, Bool.and_eq_true, decide_eq_true_eq, beq_iff_eq]
  simp only [Assigned] at h
  tauto

/-- R108: a destination that the form reads is no push. -/
theorem readDestination_ne_push {d : BitVec 6} (h : ReadDestination d) : decide (d = 32) = false := by
  refine decide_eq_false ?_
  rintro rfl
  exact absurd h (by unfold ReadDestination; decide)

theorem source_of_readDestination {d : BitVec 6} (h : ReadDestination d) : Source d := by
  simp only [Source, ReadDestination] at *
  omega

/-! ## Guarded and unguarded forms -/

theorem suppressed_of_ne {d : BitVec 6} (h : d ≠ 32) (lat : Nat) (s : State) : suppressed d lat s = s := if_neg h

section forms
variable {s : State} {i : Instr} {l : Lend} {legal : Bool} {d a b : BitVec 6} {lat : Nat} {body : State → State}

/-- R70: a guarded form of legal operands whose guard is false is suppressed. -/
theorem guarded_false (hl : legal = true) (hg : ¬ GuardTrue s l) :
    guarded l legal d lat body s = suppressed d lat (noteReads [guardReg l] s) := by
  have hguard : ¬ guardHolds (noteReads [guardReg l] s).before l = true := mt guardHolds_iff.mp hg
  simp only [guarded, hl, Bool.not_true, Bool.false_eq_true, if_false, if_neg hguard]

/-- R70: under a false guard a form shifts its chain if it pushes, and does nothing else. -/
theorem suppresses_guarded (hx : exec i s = .next (guarded l legal d lat body s)) (hl : legal = true) (hg : ¬ GuardTrue s l) :
    Suppresses s i l (d = 32) lat := by
  have hnotes : Notes s (noteReads [guardReg l] s) [guardReg l] [] := notesWaits_noteReads s [guardReg l]
  refine ⟨_, hx, ?_⟩
  rw [guarded_false hl hg]
  by_cases hd : d = 32
  · subst hd
    exact ⟨keeps_pushResult (keeps_refl s) 0 false noFlags lat none, (pushResult_issue ..).trans hnotes,
      pushes_pushResult rfl rfl 0 false noFlags lat none⟩
  · rw [suppressed_of_ne hd, if_neg (by simpa using hd)]
    exact ⟨keeps_refl s, hnotes, rfl⟩

/-- R70: a form that does not push is suppressed the same way whatever its bound. -/
theorem suppresses_any_bound (h : Suppresses s i l false lat) (lat' : Nat) : Suppresses s i l false lat' := h

/-- R100: a form that has noted some reads when its operands are found illegal. -/
theorem refuses_noteReads {rs : List Reg} (hx : exec i s = .next (raiseFault codeIllegalOperand 0 (noteReads rs s))) :
    RefusesOperand s i rs :=
  ⟨_, hx, keeps_refl s, rfl, notes_raiseFault (notesWaits_noteReads s rs) codeIllegalOperand 0⟩

/-- R70, R100: a guarded form of illegal operands faults, whatever its guard. -/
theorem refuses_guarded (hx : exec i s = .next (guarded l legal d lat body s)) (hl : ¬ legal = true) :
    RefusesOperand s i [guardReg l] := by
  refine refuses_noteReads (hx.trans ?_)
  simp only [guarded, hl, Bool.not_false, if_true]

/-- R100: an unguarded form of illegal operands faults. -/
theorem refuses_unguarded (hx : exec i s = .next (unguarded legal body s)) (hl : ¬ legal = true) : RefusesOperand s i [] := by
  refine ⟨_, hx, ?_⟩
  rw [unguarded, if_neg hl]
  exact ⟨keeps_refl s, rfl, notes_raiseFault (notesWaits_refl s) codeIllegalOperand 0⟩

/-- R70, R100: `sel` reads its guard, which selects, and faults on illegal operands. -/
theorem refuses_sel (hl : ¬ (dstOk d && srcOk a && srcOk b) = true) : RefusesOperand s (.sel d a b l) [guardReg l] :=
  refuses_noteReads (congrArg Host.Outcome.next (if_neg hl))

/-- R70: a suppressed form of SF. -/
theorem suppresses_floatForm {srcs : List (BitVec 6)} {mode : Option (State → BitVec 3)}
    {f : Core → RoundIn → List Val → Rounded}
    (hx : exec i s = .next (floatForm d legal srcs mode lat f l s)) (hl : legal = true) (hsrcs : ∀ c ∈ srcs, Source c)
    (hg : ¬ GuardTrue s l) : Suppresses s i l (d = 32) lat :=
  suppresses_guarded hx (legal_float.mpr ⟨hl, hsrcs⟩) hg

/-- R100: a form of SF with illegal operands. -/
theorem refuses_floatForm {srcs : List (BitVec 6)} {mode : Option (State → BitVec 3)}
    {f : Core → RoundIn → List Val → Rounded}
    (hx : exec i s = .next (floatForm d legal srcs mode lat f l s)) (hl : ¬ (legal = true ∧ ∀ c ∈ srcs, Source c)) :
    RefusesOperand s i [guardReg l] :=
  refuses_guarded hx (mt legal_float.mp hl)

end forms

/-! ## The forms of the tables -/

theorem guardedForms_binary : ∀ row ∈ guardedForms, ∃ f, ∀ d a b l s,
    exec (row.1 d a b l) s = .next (binaryForm f row.2 d a b l s) := by
  simp only [guardedForms, intTable, shiftTable, compareTable, List.map_cons, List.map_nil, List.forall_mem_append,
    List.forall_mem_cons, List.not_mem_nil, false_implies, implies_true, and_true]
  and_intros <;> exact ⟨_, fun _ _ _ _ _ => rfl⟩

theorem unaryTable_unary : ∀ row ∈ unaryTable, ∃ f, ∀ d a l s, exec (row.1 d a l) s = .next (unaryForm f 1 d a l s) := by
  simp only [unaryTable, List.forall_mem_cons, List.not_mem_nil, false_implies, implies_true, and_true]
  and_intros <;> exact ⟨_, fun _ _ _ _ => rfl⟩

theorem immediateTable_immediate : ∀ row ∈ immediateTable, ∃ f lat, ∀ d a i k s,
    exec (row.1 d a i k) s = .next (immediateForm f lat d a i k s) := by
  simp only [immediateTable, List.forall_mem_cons, List.not_mem_nil, false_implies, implies_true, and_true]
  and_intros <;> exact ⟨_, _, fun _ _ _ _ _ => rfl⟩

theorem guardedFloats_float : ∀ row ∈ guardedFloats, ∀ t, ∃ mode f, ∀ d a b l s,
    exec (row.1 d a b t l) s = .next (floatForm d (dstOk d) [a, b] mode (row.2 t) f l s) := by
  simp only [guardedFloats, floatTable, floatCompareTable, List.map_cons, List.map_nil, List.forall_mem_append,
    List.forall_mem_cons, List.not_mem_nil, false_implies, implies_true, and_true]
  and_intros <;> exact fun _ => ⟨_, _, fun _ _ _ _ _ => rfl⟩

theorem guardedFloats2_float : ∀ row ∈ guardedFloats2, ∀ t, ∃ mode f, ∀ d a l s,
    exec (row.1 d a t l) s = .next (floatForm d (dstOk d) [a] mode row.2 f l s) := by
  simp only [guardedFloats2, signTable, List.map_cons, List.map_nil, List.forall_mem_append, List.forall_mem_cons,
    List.not_mem_nil, false_implies, implies_true, and_true]
  and_intros <;> exact fun _ => ⟨_, _, fun _ _ _ _ => rfl⟩

end Sys2Proof.Machine
end

section
/-!
The forms that a false guard suppresses, and those that an illegal operand turns away (R70, R72, R100, R108).
-/

namespace Sys2Proof.Machine
open Claims (Source Destination ReadDestination GuardTrue Suppresses RefusesOperand Assigned guardedForms guardedFloats
  guardedFloats2 unaryTable immediateTable)

/-! ## Suppressed forms -/

section suppressed
variable {s : State} {l : Lend} (hg : ¬ GuardTrue s l)
include hg

/-- R70: the integer forms of SX. -/
theorem integer_suppressed :
    (∀ d a b, Destination d → Source a → Source b → ∀ row ∈ guardedForms,
      Suppresses s (row.1 d a b l) l (d = 32) row.2) ∧
    (∀ d a, Destination d → Source a → ∀ row ∈ unaryTable, Suppresses s (row.1 d a l) l (d = 32) 1) ∧
    (∀ d a w, Destination d → Source a → Suppresses s (.sext d a w l) l (d = 32) 1) ∧
    (∀ d a b, ReadDestination d → Source a → Source b → Suppresses s (.bins d a b l) l false 1) := by
  refine ⟨fun d a b hd ha hb row hrow => ?_, fun d a hd ha row hrow => ?_, fun d a w hd ha => ?_, fun d a b hd ha hb => ?_⟩
  · obtain ⟨f, hx⟩ := guardedForms_binary row hrow
    exact suppresses_guarded (hx d a b l s) (legal_two_sources.mpr ⟨hd, ha, hb⟩) hg
  · obtain ⟨f, hx⟩ := unaryTable_unary row hrow
    exact suppresses_guarded (hx d a l s) (legal_one_source.mpr ⟨hd, ha⟩) hg
  · exact suppresses_guarded rfl (legal_one_source.mpr ⟨hd, ha⟩) hg
  · rw [← readDestination_ne_push hd]
    exact suppresses_guarded rfl (legal_read_destination.mpr ⟨hd, ha, hb⟩) hg

/-- R70: the forms of SF. -/
theorem float_suppressed :
    (∀ d a b t, Destination d → Source a → Source b → ∀ row ∈ guardedFloats,
      Suppresses s (row.1 d a b t l) l (d = 32) (row.2 t)) ∧
    (∀ d a t, Destination d → Source a → ∀ row ∈ guardedFloats2, Suppresses s (row.1 d a t l) l (d = 32) row.2) ∧
    (∀ d a u t, Destination d → Source a → Suppresses s (.fcvt d a u t l) l (d = 32) 3 ∧
      Suppresses s (.fcvti d a u t l) l (d = 32) 3) ∧
    (∀ d a b t, ReadDestination d → Source a → Source b → Suppresses s (.fma d a b t l) l false 5) := by
  refine ⟨fun d a b t hd ha hb row hrow => ?_, fun d a t hd ha row hrow => ?_, fun d a u t hd ha => ⟨?_, ?_⟩,
    fun d a b t hd ha hb => ?_⟩
  · obtain ⟨mode, f, hx⟩ := guardedFloats_float row hrow t
    exact suppresses_floatForm (hx d a b l s) (dstOk_iff.mpr hd) (by simp [ha, hb]) hg
  · obtain ⟨mode, f, hx⟩ := guardedFloats2_float row hrow t
    exact suppresses_floatForm (hx d a l s) (dstOk_iff.mpr hd) (by simp [ha]) hg
  · exact suppresses_floatForm (srcs := [a]) rfl (dstOk_iff.mpr hd) (by simp [ha]) hg
  · exact suppresses_floatForm (srcs := [a]) rfl (dstOk_iff.mpr hd) (by simp [ha]) hg
  · have hpush := suppresses_floatForm (i := .fma d a b t l) (srcs := [a, b, d]) rfl (readDstOk_iff.mpr hd)
      (by simp [ha, hb, source_of_readDestination hd]) hg
    rw [readDestination_ne_push hd] at hpush
    exact suppresses_any_bound hpush 5

/-- R70: the loads and stores with an index register. -/
theorem indexed_suppressed :
    (∀ r c z x i, Destination r → Source x → Suppresses s (.ldcIndexed r c z x i l) l (r = 32) 3 ∧
      Suppresses s (.ldcxIndexed r c z x i l) l (r = 32) 3) ∧
    (∀ r c z x i, Source r → Source x → Suppresses s (.stcIndexed r c z x i l) l false 1) ∧
    (∀ r h z x i, Destination r → Source x → Suppresses s (.ldIndexed r h z x i l) l (r = 32) 64 ∧
      Suppresses s (.ldxIndexed r h z x i l) l (r = 32) 64 ∧ Suppresses s (.ldSIndexed r h z x i l) l (r = 32) 64) ∧
    (∀ r h z x i, Source r → Source x → Suppresses s (.stIndexed r h z x i l) l false 1) := by
  refine ⟨fun r c z x i hr hx => ?_, fun r c z x i hr hx => ?_, fun r h z x i hr hx => ?_, fun r h z x i hr hx => ?_⟩
  · have hl := legal_one_source.mpr ⟨hr, hx⟩
    exact ⟨suppresses_guarded rfl hl hg, suppresses_guarded rfl hl hg⟩
  · exact suppresses_guarded (d := 0) rfl (legal_sources.mpr ⟨hr, hx⟩) hg
  · have hl := legal_one_source.mpr ⟨hr, hx⟩
    exact ⟨suppresses_guarded rfl hl hg, suppresses_guarded rfl hl hg, suppresses_guarded rfl hl hg⟩
  · exact suppresses_guarded (d := 0) rfl (legal_sources.mpr ⟨hr, hx⟩) hg

/-- R70: the control forms and the accesses to system registers. -/
theorem control_suppressed :
    (∀ a y x k, Source a → Suppresses s (.post a y x k l) l true 4) ∧
    (∀ g c k, Suppresses s (.endTask l) l false 1 ∧ Suppresses s (.gbar g l) l false 1 ∧
      Suppresses s (.wait c l) l false 1 ∧ Suppresses s (.trap k l) l false 1 ∧ Suppresses s (.brk k l) l false 1) ∧
    (∀ r n, Assigned s n.toNat → (Destination r → Suppresses s (.mfsr r n l) l (r = 32) 2) ∧
      (Source r → Suppresses s (.mtsr r n l) l false 1)) := by
  refine ⟨fun a y x k ha => suppresses_guarded (d := 32) rfl (srcOk_iff.mpr ha) hg, fun g c k => ⟨?_, ?_, ?_, ?_, ?_⟩,
    fun r n hn => ⟨fun hr => ?_, fun hr => ?_⟩⟩
  · exact suppresses_guarded (d := 0) rfl rfl hg
  · exact suppresses_guarded (d := 0) rfl rfl hg
  · exact suppresses_guarded (d := 0) rfl rfl hg
  · exact suppresses_guarded (d := 0) rfl rfl hg
  · exact suppresses_guarded (d := 0) rfl rfl hg
  · exact suppresses_guarded rfl (Bool.and_eq_true_iff.mpr ⟨dstOk_iff.mpr hr, sysAssigned_of_assigned hn⟩) hg
  · exact suppresses_guarded (d := 0) rfl (Bool.and_eq_true_iff.mpr ⟨srcOk_iff.mpr hr, sysAssigned_of_assigned hn⟩) hg

end suppressed

/-! ## Refused operands -/

section refused
variable {s : State} {d a b : BitVec 6}

theorem two_sources_refused (h : ¬ (Destination d ∧ Source a ∧ Source b)) (l : Lend) :
    (∀ row ∈ guardedForms, RefusesOperand s (row.1 d a b l) [guardReg l]) ∧
    (∀ t, ∀ row ∈ guardedFloats, RefusesOperand s (row.1 d a b t l) [guardReg l]) ∧
    RefusesOperand s (.sel d a b l) [guardReg l] := by
  refine ⟨fun row hrow => ?_, fun t row hrow => ?_, ?_⟩
  · obtain ⟨f, hx⟩ := guardedForms_binary row hrow
    exact refuses_guarded (hx d a b l s) (mt legal_two_sources.mp h)
  · obtain ⟨mode, f, hx⟩ := guardedFloats_float row hrow t
    refine refuses_floatForm (hx d a b l s) ?_
    simpa [dstOk_iff] using h
  · exact refuses_sel (mt legal_two_sources.mp h)

theorem one_source_refused (h : ¬ (Destination d ∧ Source a)) (l : Lend) :
    (∀ row ∈ unaryTable, RefusesOperand s (row.1 d a l) [guardReg l]) ∧
    (∀ t, ∀ row ∈ guardedFloats2, RefusesOperand s (row.1 d a t l) [guardReg l]) ∧
    (∀ i k, ∀ row ∈ immediateTable, RefusesOperand s (row.1 d a i k) []) := by
  refine ⟨fun row hrow => ?_, fun t row hrow => ?_, fun i k row hrow => ?_⟩
  · obtain ⟨f, hx⟩ := unaryTable_unary row hrow
    exact refuses_guarded (hx d a l s) (mt legal_one_source.mp h)
  · obtain ⟨mode, f, hx⟩ := guardedFloats2_float row hrow t
    refine refuses_floatForm (hx d a l s) ?_
    simpa [dstOk_iff] using h
  · obtain ⟨f, lat, hx⟩ := immediateTable_immediate row hrow
    exact refuses_unguarded (hx d a i k s) (mt legal_one_source.mp h)

theorem read_destination_refused (h : ¬ (ReadDestination d ∧ Source a ∧ Source b)) (t : BitVec 4) (l : Lend) :
    RefusesOperand s (.bins d a b l) [guardReg l] ∧ RefusesOperand s (.fma d a b t l) [guardReg l] := by
  refine ⟨refuses_guarded rfl (mt legal_read_destination.mp h), refuses_floatForm (srcs := [a, b, d]) rfl fun hl => h ?_⟩
  simp only [readDstOk_iff, List.forall_mem_cons] at hl
  exact ⟨hl.1, hl.2.1, hl.2.2.1⟩

theorem constant_refused (i : BitVec 20) (k : Option Lend) :
    (¬ Destination d → RefusesOperand s (.li d i k) []) ∧ (¬ ReadDestination d → RefusesOperand s (.lic d i k) []) :=
  ⟨fun h => refuses_unguarded rfl (mt dstOk_iff.mp h), fun h => refuses_unguarded rfl (mt readDstOk_iff.mp h)⟩

theorem system_register_refused {n : BitVec 12} (h : sysAssigned (s.here == queenCore) n.toNat = false) (r : BitVec 6)
    (l : Lend) : RefusesOperand s (.mfsr r n l) [guardReg l] ∧ RefusesOperand s (.mtsr r n l) [guardReg l] :=
  ⟨refuses_guarded rfl (by simp [h]), refuses_guarded rfl (by simp [h])⟩

end refused

/-- Settles O7: each form is guarded or unguarded, and a false guard or an illegal operand decides before its body. -/
theorem guardsAndIllegalOperands : Obligations.GuardsAndIllegalOperands := by
  unfold Obligations.GuardsAndIllegalOperands
  refine ⟨fun s l hg => ?_, fun s d a b l h => two_sources_refused h l,
    fun s d a b t l h => read_destination_refused h t l, fun s d a l h => one_source_refused h l,
    fun s d i k => constant_refused i k, fun s r n l h => system_register_refused h r l⟩
  obtain ⟨h1, h2, h3, h4⟩ := integer_suppressed hg
  obtain ⟨h5, h6, h7, h8⟩ := float_suppressed hg
  obtain ⟨h9, h10, h11, h12⟩ := indexed_suppressed hg
  exact ⟨h1, h2, h3, h4, h5, h6, h7, h8, h9, h10, h11, h12, control_suppressed hg⟩

end Sys2Proof.Machine
end

section
/-!
Bytes and immediates (R4, R69): the bytes of a number, and the immediate of an I-kind form with its lend above it.
-/

namespace Sys2Proof.Machine
open Claims (immediate11)

/-! ## Bytes -/

theorem toBytes_eq (n v : Nat) : toBytes n v = (List.range n).map fun k => BitVec.ofNat 8 (v >>> (8 * k)) := by
  induction n generalizing v with
  | zero => rfl
  | succ n ih =>
    rw [toBytes, ih, List.range_succ_eq_map, List.map_cons, List.map_map]
    refine congrArg₂ _ rfl (List.map_congr_left fun k _ => ?_)
    rw [Function.comp_apply, show 256 = 2 ^ 8 by rfl, ← Nat.shiftRight_eq_div_pow, ← Nat.shiftRight_add, Nat.mul_succ,
      Nat.add_comm]

theorem toBytes_extract {w : Nat} (v : BitVec w) (n : Nat) :
    toBytes n v.toNat = (List.range n).map fun k => v.extractLsb' (8 * k) 8 := toBytes_eq n v.toNat

theorem ofBytes_lt (bs : List Byte) : ofBytes bs < 2 ^ (8 * bs.length) := by
  induction bs with
  | nil => exact Nat.one_pos
  | cons b bs ih =>
    rw [ofBytes, List.length_cons, Nat.mul_succ, pow_add]
    have := b.isLt
    omega

/-- A byte of the number that some bytes make up. -/
theorem byte_ofBytes (bs : List Byte) (i : Nat) : BitVec.ofNat 8 (ofBytes bs >>> (8 * i)) = bs.getD i 0 := by
  induction bs generalizing i with
  | nil => simp [ofBytes]
  | cons b bs ih =>
    have hb := b.isLt
    cases i with
    | zero =>
      refine BitVec.eq_of_toNat_eq ?_
      simp only [ofBytes, BitVec.toNat_ofNat, Nat.mul_zero, Nat.shiftRight_zero, List.getD_cons_zero]
      omega
    | succ i =>
      have hrest : ofBytes (b :: bs) >>> 8 = ofBytes bs := by
        rw [ofBytes, Nat.shiftRight_eq_div_pow]
        omega
      rw [List.getD_cons_succ, ← ih, Nat.mul_succ, Nat.add_comm (8 * i), Nat.shiftRight_add, hrest]

/-! ## Immediates -/

theorem immBits_none {n : Nat} (i : BitVec n) : immBits i none = i.toNat := rfl

theorem immBits_some {n : Nat} (i : BitVec n) (h : Lend) : immBits i (some h) = (h ++ i).toNat := by
  rw [immBits, BitVec.toNat_append, ← Nat.shiftLeft_add_eq_or_of_lt i.isLt, Nat.shiftLeft_eq]

theorem immSigned_none {n : Nat} (i : BitVec n) : immSigned i none = i.toInt := by simp [immSigned, immWidth, immBits]

theorem immSigned_some {n : Nat} (i : BitVec n) (h : Lend) : immSigned i (some h) = (h ++ i).toInt := by
  rw [immSigned, immBits_some, BitVec.toInt_ofNat', BitVec.toInt_eq_toNat_bmod, immWidth, Option.isSome_some, if_pos rfl,
    Nat.add_comm n]

theorem immediate11_eq (i : BitVec 11) (l : Option Lend) : BitVec.ofInt 64 (immSigned i l) = immediate11 i l := by
  cases l with
  | none =>
    rw [immSigned_none]
    rfl
  | some h =>
    rw [immSigned_some]
    rfl

end Sys2Proof.Machine
end

section
/-!
The values of the integer forms (R110 to R114): what the model computes, in the words of the rules.
-/

namespace Sys2Proof.Machine

/-! ## Products and quotients -/

theorem highHalf_ofInt (x : ℤ) : (BitVec.ofInt 128 x).extractLsb' 64 64 = BitVec.ofInt 64 (x / 2 ^ 64) := by
  refine BitVec.eq_of_toNat_eq ?_
  rw [BitVec.extractLsb'_toNat, BitVec.toNat_ofInt, BitVec.toNat_ofInt, Nat.shiftRight_eq_div_pow]
  norm_num
  omega

theorem highSigned_eq (a b : XWord) : highSigned a b = (a.signExtend 128 * b.signExtend 128).extractLsb' 64 64 := by
  rw [BitVec.signExtend, BitVec.signExtend, ← BitVec.ofInt_mul, highHalf_ofInt, highSigned]

theorem highUnsigned_eq (a b : XWord) : highUnsigned a b = (a.setWidth 128 * b.setWidth 128).extractLsb' 64 64 := by
  rw [← BitVec.ofNat_toNat, ← BitVec.ofNat_toNat, ← BitVec.ofNat_mul, ← BitVec.ofInt_natCast, highHalf_ofInt, highUnsigned,
    ← BitVec.ofInt_natCast]
  push_cast
  rfl

theorem quotSigned_eq (a b : XWord) : quotSigned a b = if b = 0 then -1 else a.sdiv b := by
  unfold quotSigned
  split
  · rfl
  · exact BitVec.eq_of_toInt_eq (by rw [BitVec.toInt_ofInt, BitVec.toInt_sdiv])

theorem quotUnsigned_eq (a b : XWord) : quotUnsigned a b = if b = 0 then -1 else a / b := by
  unfold quotUnsigned
  split
  · rfl
  · refine BitVec.eq_of_toNat_eq ?_
    rw [BitVec.toNat_ofNat, BitVec.toNat_udiv, Nat.mod_eq_of_lt ((Nat.div_le_self _ _).trans_lt a.isLt)]

theorem remSigned_eq (a b : XWord) : remSigned a b = if b = 0 then a else a.srem b := by
  rw [remSigned, ← BitVec.toInt_srem, BitVec.ofInt_toInt]

theorem remUnsigned_eq (a b : XWord) : remUnsigned a b = if b = 0 then a else a % b := by
  unfold remUnsigned
  split
  · rfl
  · refine BitVec.eq_of_toNat_eq ?_
    rw [BitVec.toNat_ofNat, BitVec.toNat_umod, Nat.mod_eq_of_lt ((Nat.mod_le _ _).trans_lt a.isLt)]

/-! ## Minimum and maximum -/

theorem minSigned_eq (a b : XWord) : (if b.slt a then b else a) = if a.toInt ≤ b.toInt then a else b := by
  simp only [BitVec.slt_eq_decide, decide_eq_true_eq, ← not_le, ite_not]

theorem minUnsigned_eq (a b : XWord) : (if b < a then b else a) = if a.toNat ≤ b.toNat then a else b := by
  simp only [BitVec.lt_def, ← not_le, ite_not]

theorem maxSigned_eq (a b : XWord) : (if a.slt b then b else a) = if a.toInt ≤ b.toInt then b else a := by
  simp only [BitVec.slt_eq_decide, decide_eq_true_eq]
  rcases lt_trichotomy a.toInt b.toInt with h | h | h
  · rw [if_pos h, if_pos h.le]
  · rw [BitVec.eq_of_toInt_eq h, ite_self, ite_self]
  · rw [if_neg h.not_gt, if_neg h.not_ge]

theorem maxUnsigned_eq (a b : XWord) : (if a < b then b else a) = if a.toNat ≤ b.toNat then b else a := by
  simp only [BitVec.lt_def]
  rcases lt_trichotomy a.toNat b.toNat with h | h | h
  · rw [if_pos h, if_pos h.le]
  · rw [BitVec.eq_of_toNat_eq h, ite_self, ite_self]
  · rw [if_neg h.not_gt, if_neg h.not_ge]

/-! ## Words of 32 bits -/

theorem low32_eq (a : XWord) : a.setWidth 32 = a.extractLsb' 0 32 := BitVec.setWidth_eq_extractLsb' (by norm_num)

theorem signExtend32_add (a b : XWord) :
    signExtend32 (a + b) = (a.extractLsb' 0 32 + b.extractLsb' 0 32).signExtend 64 := by
  rw [signExtend32, BitVec.setWidth_add _ _ (by norm_num), low32_eq, low32_eq]

theorem signExtend32_sub (a b : XWord) :
    signExtend32 (a - b) = (a.extractLsb' 0 32 - b.extractLsb' 0 32).signExtend 64 := by
  rw [signExtend32, BitVec.sub_eq_add_neg, BitVec.setWidth_add _ _ (by norm_num), BitVec.setWidth_neg_of_le (by norm_num),
    ← BitVec.sub_eq_add_neg, low32_eq, low32_eq]

theorem signExtend32_mul (a b : XWord) :
    signExtend32 (a * b) = (a.extractLsb' 0 32 * b.extractLsb' 0 32).signExtend 64 := by
  rw [signExtend32, BitVec.setWidth_mul _ _ (by norm_num), low32_eq, low32_eq]

/-- R110: `sext` repeats the top bit of the width of its literal. -/
theorem getLsbD_signExtendBy {w : BitVec 6} (hw : w.toNat ≤ 2) (a : XWord) {i : Nat} (hi : i < 64) :
    (signExtendBy w a).getLsbD i = a.getLsbD (min i (8 * 2 ^ w.toNat - 1)) := by
  have hext : ∀ n, n < 64 → ((a.setWidth (n + 1)).signExtend 64).getLsbD i = a.getLsbD (min i n) := fun n hn => by
    rw [BitVec.getLsbD_signExtend, BitVec.msb_eq_getLsbD_last, BitVec.getLsbD_setWidth, BitVec.getLsbD_setWidth]
    grind
  unfold signExtendBy
  generalize w.toNat = k at *
  interval_cases k
  · exact hext 7 (by norm_num)
  · exact hext 15 (by norm_num)
  · exact hext 31 (by norm_num)

/-! ## Shifts and fields -/

theorem rotateLeft_shiftAmount (a b : XWord) : a.rotateLeft (shiftAmount b) =
    a <<< (b.extractLsb' 0 6).toNat ||| a >>> (64 - (b.extractLsb' 0 6).toNat) :=
  BitVec.rotateLeft_eq_rotateLeftAux_of_lt (b.extractLsb' 0 6).isLt

theorem rotateRight_shiftAmount (a b : XWord) : a.rotateRight (shiftAmount b) =
    a >>> (b.extractLsb' 0 6).toNat ||| a <<< (64 - (b.extractLsb' 0 6).toNat) :=
  BitVec.rotateRight_eq_rotateRightAux_of_lt (b.extractLsb' 0 6).isLt

theorem fieldPos_eq (b : XWord) : fieldPos b = (b.extractLsb' 0 6).toNat := rfl

theorem fieldLen_eq (b : XWord) : fieldLen b = min (b.extractLsb' 8 7).toNat (64 - (b.extractLsb' 0 6).toNat) := by
  rw [fieldLen, natField, BitVec.extractLsb'_toNat, BitVec.extractLsb'_toNat]
  rfl

theorem extractField_eq (a b : XWord) : extractField a b = (a >>> (b.extractLsb' 0 6).toNat) &&&
    (BitVec.allOnes 64 >>> (64 - min (b.extractLsb' 8 7).toNat (64 - (b.extractLsb' 0 6).toNat))) := by
  rw [extractField, fieldLen_eq, fieldPos_eq]
  generalize (b.extractLsb' 0 6).toNat = pos
  generalize hn : min (b.extractLsb' 8 7).toNat (64 - pos) = n
  refine BitVec.eq_of_getLsbD_eq fun i hi => ?_
  have hfield : i < n ↔ 64 - n + i < 64 := by omega
  simp only [natField, BitVec.getLsbD_ofNat, Nat.testBit_mod_two_pow, Nat.testBit_shiftRight, BitVec.getLsbD_and,
    BitVec.getLsbD_ushiftRight, BitVec.getLsbD_allOnes, BitVec.testBit_toNat, hi, hfield, decide_true, Bool.true_and,
    Bool.and_comm]

theorem getLsbD_insertField (old a b : XWord) {i : Nat} (hi : i < 64) :
    let pos := (b.extractLsb' 0 6).toNat
    let n := min (b.extractLsb' 8 7).toNat (64 - pos)
    (insertField old a b).getLsbD i = if pos ≤ i ∧ i < pos + n then a.getLsbD (i - pos) else old.getLsbD i := by
  dsimp only
  rw [insertField, fieldLen_eq, fieldPos_eq]
  generalize (b.extractLsb' 0 6).toNat = pos
  generalize min (b.extractLsb' 8 7).toNat (64 - pos) = n
  simp only [BitVec.getLsbD_or, BitVec.getLsbD_and, BitVec.getLsbD_not, BitVec.getLsbD_shiftLeft, BitVec.getLsbD_ofNat,
    Nat.testBit_mul_two_pow, Nat.testBit_two_pow_sub_one, hi]
  grind

/-! ## Counts and bytes -/

theorem toNat_leadingZeros (a : XWord) : (leadingZeros a).toNat = 64 - bitLength a.toNat := by
  rw [leadingZeros, BitVec.toNat_ofNat, Nat.mod_eq_of_lt (by omega)]

theorem bitLength_le_of_lt {v n : Nat} (h : v < 2 ^ n) : bitLength v ≤ n := by
  unfold bitLength
  split
  · exact Nat.zero_le n
  · next hv => exact (Nat.log2_lt hv).mpr h

theorem leadingZeros_spec (a : XWord) : (leadingZeros a).toNat ≤ 64 ∧ a.toNat < 2 ^ (64 - (leadingZeros a).toNat) ∧
    ((leadingZeros a).toNat < 64 → 2 ^ (63 - (leadingZeros a).toNat) ≤ a.toNat) := by
  have hle := bitLength_le_of_lt a.isLt
  rw [toNat_leadingZeros]
  refine ⟨Nat.sub_le _ _, ?_, fun hlt => ?_⟩
  · rw [Nat.sub_sub_self hle]
    exact lt_two_pow_bitLength a.toNat
  · have hne : a.toNat ≠ 0 := fun h0 => by simp [h0, bitLength] at hlt
    rw [show 63 - (64 - bitLength a.toNat) = bitLength a.toNat - 1 by omega]
    exact two_pow_le_of_bitLength hne

theorem trailingZerosFrom_spec (n v : Nat) : trailingZerosFrom n v ≤ n ∧ 2 ^ trailingZerosFrom n v ∣ v ∧
    (trailingZerosFrom n v < n → v.testBit (trailingZerosFrom n v) = true) := by
  induction n generalizing v with
  | zero => simp [trailingZerosFrom]
  | succ n ih =>
    rw [trailingZerosFrom]
    split
    · next h => simp [h]
    · next h =>
      obtain ⟨hle, hdvd, hbit⟩ := ih (v / 2)
      refine ⟨by omega, ?_, fun hlt => ?_⟩
      · rw [pow_succ']
        calc 2 * 2 ^ trailingZerosFrom n (v / 2) ∣ 2 * (v / 2) := Nat.mul_dvd_mul_left 2 hdvd
          _ = v := by omega
      · rw [Nat.testBit_succ]
        exact hbit (by omega)

theorem trailingZeros_spec (a : XWord) : (trailingZeros a).toNat ≤ 64 ∧
    2 ^ (trailingZeros a).toNat ∣ a.toNat + (if a = 0 then 2 ^ 64 else 0) ∧
    ((trailingZeros a).toNat < 64 → a.getLsbD (trailingZeros a).toNat = true) := by
  obtain ⟨hle, hdvd, hbit⟩ := trailingZerosFrom_spec 64 a.toNat
  have hz : (trailingZeros a).toNat = trailingZerosFrom 64 a.toNat := by
    rw [trailingZeros, BitVec.toNat_ofNat, Nat.mod_eq_of_lt (by omega)]
  rw [hz]
  refine ⟨hle, hdvd.add ?_, hbit⟩
  split
  · exact pow_dvd_pow 2 hle
  · exact dvd_zero _

theorem onesOf_eq (n v : Nat) : onesOf n v = (List.range n).countP (fun i => v.testBit i) := by
  induction n generalizing v with
  | zero => rfl
  | succ n ih =>
    have hbit : v % 2 = if v.testBit 0 = true then 1 else 0 := by
      simp only [Nat.testBit_zero, decide_eq_true_eq]
      split_ifs <;> omega
    rw [onesOf, ih, List.range_succ_eq_map, List.countP_cons, List.countP_map, hbit, Nat.add_comm]
    simp only [Function.comp_def, Nat.testBit_succ]

theorem toNat_onesCount (a : XWord) : (onesCount a).toNat = (List.range 64).countP (fun i => a.getLsbD i) := by
  have hle := List.countP_le_length (p := fun i => a.toNat.testBit i) (l := List.range 64)
  rw [List.length_range] at hle
  rw [onesCount, onesOf_eq, BitVec.toNat_ofNat, Nat.mod_eq_of_lt (by omega)]
  rfl

theorem reverseBytes_byte (a : XWord) {i : Nat} (hi : i < 8) :
    (reverseBytes a).extractLsb' (8 * i) 8 = a.extractLsb' (56 - 8 * i) 8 := by
  have hlen : (toBytes 8 a.toNat).length = 8 := by rw [toBytes_eq, List.length_map, List.length_range]
  have hlt := ofBytes_lt (toBytes 8 a.toNat).reverse
  rw [List.length_reverse, hlen] at hlt
  rw [reverseBytes, BitVec.extractLsb', BitVec.toNat_ofNat, Nat.mod_eq_of_lt hlt, byte_ofBytes, List.getD_eq_getElem?_getD,
    List.getElem?_reverse (by omega), hlen, toBytes_extract, List.getElem?_map, List.getElem?_range (by omega),
    Option.map_some, Option.getD_some]
  congr 1
  omega

end Sys2Proof.Machine
end

section
/-!
What a syllable has noted when its result lands or its fault is raised (R15, R108, R109).
-/

namespace Sys2Proof.Machine
open Claims (Keeps ScalarAwaits Faults)

section quiet
variable {s u : State} {regs : List Reg} {waits : List Wait}

theorem Quiet.noteReads (h : Quiet s u regs []) (rs : List Reg) : Quiet s (noteReads rs u) (regs ++ rs) [] :=
  ⟨keeps_noteReads h.keeps rs, notes_noteReads h.notes rs, h.core⟩

/-- R108, R109: a scalar result that lands once the registers and the waits are noted. -/
theorem Quiet.lands (h : Quiet s u regs waits) (d : BitVec 6) (v : XWord) (p : Bool) (f : Flags) (lat : Nat)
    (w : Option Nat) :
    Keeps s (landScalar d { bits := v, poison := p } f lat w u) ∧
      ScalarAwaits s (landScalar d { bits := v, poison := p } f lat w u) d v p f lat w regs waits :=
  ⟨keeps_landScalar h.keeps .., scalarAwaits_landScalar h.notes h.core ..⟩

/-- R100: a fault raised once the registers are noted. -/
theorem Quiet.faults (h : Quiet s u regs []) {i : Instr} {code : BitVec 8} {a : BitVec 64}
    (hx : exec i s = .next (raiseFault code a u)) : Faults s i code a regs :=
  ⟨_, hx, keeps_raiseFault h.keeps code a, h.core, notes_raiseFault h.notes code a⟩

end quiet

end Sys2Proof.Machine
end

section
/-!
The integer forms of SX, SI and SL (R110 to R115): each runs as one of a few shapes, whose result lands.
-/

namespace Sys2Proof.Machine
open Claims (Keeps ScalarLands Source Destination ReadDestination GuardTrue value poisoned intTable shiftTable compareTable
  unaryTable immediateTable immediate11)

/-! ## What each shape lands -/

section shapes
variable {s : State} {d a b : BitVec 6} {l : Lend}

theorem unguarded_true {legal : Bool} (hl : legal = true) (body : State → State) : unguarded legal body s = body s := if_pos hl

theorem binaryForm_lands (hd : Destination d) (ha : Source a) (hb : Source b) (hg : GuardTrue s l)
    (f : XWord → XWord → XWord) (lat : Nat) :
    Keeps s (binaryForm f lat d a b l s) ∧
    ScalarLands s (binaryForm f lat d a b l s) d (f (value s a) (value s b)) (poisoned s a || poisoned s b) 0 lat
      [guardReg l, sourceReg a, sourceReg b] := by
  rw [binaryForm, guarded_true (legal_two_sources.mpr ⟨hd, ha, hb⟩) hg]
  exact ((quiet_noteReads s [guardReg l]).noteReads [sourceReg a, sourceReg b]).lands ..

theorem unaryForm_lands (hd : Destination d) (ha : Source a) (hg : GuardTrue s l) (f : XWord → XWord) (lat : Nat) :
    Keeps s (unaryForm f lat d a l s) ∧
    ScalarLands s (unaryForm f lat d a l s) d (f (value s a)) (poisoned s a) 0 lat [guardReg l, sourceReg a] := by
  rw [unaryForm, guarded_true (legal_one_source.mpr ⟨hd, ha⟩) hg]
  exact ((quiet_noteReads s [guardReg l]).noteReads [sourceReg a]).lands ..

theorem immediateForm_lands (hd : Destination d) (ha : Source a) (f : XWord → XWord → XWord) (lat : Nat) (i : BitVec 11)
    (k : Option Lend) :
    Keeps s (immediateForm f lat d a i k s) ∧
    ScalarLands s (immediateForm f lat d a i k s) d (f (value s a) (immediate11 i k)) (poisoned s a) 0 lat [sourceReg a] := by
  rw [immediateForm, unguarded_true (legal_one_source.mpr ⟨hd, ha⟩), immediate11_eq]
  exact (quiet_noteReads s [sourceReg a]).lands ..

/-- R108, R112: `bins` reads its destination as well. -/
theorem insertForm_lands (hd : ReadDestination d) (ha : Source a) (hb : Source b) (hg : GuardTrue s l) :
    Keeps s (insertForm d a b l s) ∧
    ScalarLands s (insertForm d a b l s) d (insertField (value s d) (value s a) (value s b))
      (poisoned s d || poisoned s a || poisoned s b) 0 1 [guardReg l, sourceReg a, sourceReg b, sourceReg d] := by
  rw [insertForm, guarded_true (legal_read_destination.mpr ⟨hd, ha, hb⟩) hg]
  exact ((quiet_noteReads s [guardReg l]).noteReads [sourceReg a, sourceReg b, sourceReg d]).lands ..

/-- R70: `sel` reads and writes the operand that its guard selects. -/
theorem selectForm_lands (hd : Destination d) (ha : Source a) (hb : Source b) {c : BitVec 6} (hc : GuardTrue s l → c = a)
    (hc' : ¬ GuardTrue s l → c = b) :
    Keeps s (selectForm d a b l s) ∧
    ScalarLands s (selectForm d a b l s) d (value s c) (poisoned s c) 0 1 [guardReg l, sourceReg c] := by
  have hsel : (if guardHolds s.before l = true then a else b) = c := by
    by_cases hg : GuardTrue s l
    · rw [if_pos (guardHolds_iff.mpr hg), hc hg]
    · rw [if_neg (mt guardHolds_iff.mp hg), hc' hg]
  rw [selectForm, unguarded_true (legal_two_sources.mpr ⟨hd, ha, hb⟩), noteReads_before, hsel]
  exact ((quiet_noteReads s [guardReg l]).noteReads [sourceReg c]).lands ..

/-- R115: `li`. -/
theorem loadImmediate_lands (hd : Destination d) (i : BitVec 20) (k : Option Lend) {v : XWord}
    (hv : BitVec.ofInt 64 (immSigned i k) = v) :
    ∃ t, exec (.li d i k) s = .next t ∧ Keeps s t ∧ ScalarLands s t d v false 0 1 [] := by
  subst hv
  refine ⟨loadImmediate d i k s, rfl, ?_⟩
  rw [loadImmediate, unguarded_true (dstOk_iff.mpr hd)]
  exact (quiet_refl s).lands ..

/-- R115: `lic`. -/
theorem insertImmediate_lands (hd : ReadDestination d) (i : BitVec 20) (k : Option Lend) {v : XWord}
    (hv : (value s d <<< immWidth 20 k) ||| BitVec.ofNat 64 (immBits i k) = v) :
    ∃ t, exec (.lic d i k) s = .next t ∧ Keeps s t ∧ ScalarLands s t d v (poisoned s d) 0 1 [sourceReg d] := by
  subst hv
  refine ⟨insertImmediate d i k s, rfl, ?_⟩
  rw [insertImmediate, unguarded_true (readDstOk_iff.mpr hd)]
  exact (quiet_noteReads s [sourceReg d]).lands ..

end shapes

/-! ## The shape of each form -/

/-- The form of two sources computes `f`. -/
def RunsBinary (form : BitVec 6 → BitVec 6 → BitVec 6 → Lend → Instr) (f : XWord → XWord → XWord) (lat : Nat) : Prop :=
  ∀ d a b l s, exec (form d a b l) s = .next (binaryForm f lat d a b l s)

/-- The form with an immediate computes `f`. -/
def RunsImmediate (form : BitVec 6 → BitVec 6 → BitVec 11 → Option Lend → Instr) (f : XWord → XWord → XWord) (lat : Nat) :
    Prop :=
  ∀ d a i k s, exec (form d a i k) s = .next (immediateForm f lat d a i k s)

/-- The form of one source computes `f`. -/
def RunsUnary (form : BitVec 6 → BitVec 6 → Lend → Instr) (f : XWord → XWord) : Prop :=
  ∀ d a l s, exec (form d a l) s = .next (unaryForm f 1 d a l s)

section runs
variable {s : State} {d a b : BitVec 6} {l : Lend} {f g : XWord → XWord → XWord} {lat : Nat}
  {form : BitVec 6 → BitVec 6 → BitVec 6 → Lend → Instr}

theorem RunsBinary.congr (h : RunsBinary form f lat) (hfg : ∀ a b, f a b = g a b) : RunsBinary form g lat :=
  (funext₂ hfg : f = g) ▸ h

theorem RunsBinary.lands (h : RunsBinary form f lat) (hd : Destination d) (ha : Source a) (hb : Source b)
    (hg : GuardTrue s l) :
    ∃ t, exec (form d a b l) s = .next t ∧ Keeps s t ∧
      ScalarLands s t d (f (value s a) (value s b)) (poisoned s a || poisoned s b) 0 lat
        [guardReg l, sourceReg a, sourceReg b] :=
  ⟨_, h d a b l s, binaryForm_lands hd ha hb hg f lat⟩

end runs

/-- R110, R111: the values and the bounds of the forms of two sources. -/
theorem intTable_runs : ∀ row ∈ intTable, RunsBinary row.1 row.2.1 row.2.2 := by
  simp only [intTable, List.forall_mem_cons, List.not_mem_nil, false_implies, implies_true, and_true]
  refine ⟨?add, ?sub, ?mul, ?mulh, ?mulhn, ?div, ?divn, ?rem, ?remn, ?and, ?or, ?xor, ?andn, ?orn, ?min, ?max, ?minn, ?maxn,
    ?addw, ?subw, ?mulw⟩
  case mulh => exact RunsBinary.congr (fun _ _ _ _ _ => rfl) highSigned_eq
  case mulhn => exact RunsBinary.congr (fun _ _ _ _ _ => rfl) highUnsigned_eq
  case div => exact RunsBinary.congr (fun _ _ _ _ _ => rfl) quotSigned_eq
  case divn => exact RunsBinary.congr (fun _ _ _ _ _ => rfl) quotUnsigned_eq
  case rem => exact RunsBinary.congr (fun _ _ _ _ _ => rfl) remSigned_eq
  case remn => exact RunsBinary.congr (fun _ _ _ _ _ => rfl) remUnsigned_eq
  case min => exact RunsBinary.congr (fun _ _ _ _ _ => rfl) minSigned_eq
  case max => exact RunsBinary.congr (fun _ _ _ _ _ => rfl) maxSigned_eq
  case minn => exact RunsBinary.congr (fun _ _ _ _ _ => rfl) minUnsigned_eq
  case maxn => exact RunsBinary.congr (fun _ _ _ _ _ => rfl) maxUnsigned_eq
  case addw => exact RunsBinary.congr (fun _ _ _ _ _ => rfl) signExtend32_add
  case subw => exact RunsBinary.congr (fun _ _ _ _ _ => rfl) signExtend32_sub
  case mulw => exact RunsBinary.congr (fun _ _ _ _ _ => rfl) signExtend32_mul
  -- The other forms have the table's own function.
  all_goals exact fun _ _ _ _ _ => rfl

/-- R112: the shifts, the rotates and `bext`. -/
theorem shiftTable_runs : ∀ row ∈ shiftTable, RunsBinary row.1 row.2 1 := by
  simp only [shiftTable, List.forall_mem_cons, List.not_mem_nil, false_implies, implies_true, and_true]
  refine ⟨fun _ _ _ _ _ => rfl, fun _ _ _ _ _ => rfl, fun _ _ _ _ _ => rfl, ?rol, ?ror, ?bext⟩
  case rol => exact RunsBinary.congr (fun _ _ _ _ _ => rfl) rotateLeft_shiftAmount
  case ror => exact RunsBinary.congr (fun _ _ _ _ _ => rfl) rotateRight_shiftAmount
  case bext => exact RunsBinary.congr (fun _ _ _ _ _ => rfl) extractField_eq

theorem exists_common_bit (a b : XWord) : (a &&& b != 0) = true ↔ ∃ i < 64, a.getLsbD i = true ∧ b.getLsbD i = true := by
  rw [bne_iff_ne, ← not_iff_not, not_not]
  simp only [not_exists, not_and]
  constructor
  · intro h i _ ha hb
    have := congrArg (BitVec.getLsbD · i) h
    simp [ha, hb] at this
  · intro h
    refine BitVec.eq_of_getLsbD_eq fun i hi => ?_
    have := h i hi
    rw [BitVec.getLsbD_and]
    grind

/-- R113: each compare is the truth value of its condition. -/
theorem compareTable_runs : ∀ row ∈ compareTable, ∃ c : XWord → XWord → Bool,
    RunsBinary row.1 (fun a b => ofBool (c a b)) 1 ∧ ∀ a b, c a b = true ↔ row.2 a b := by
  simp only [compareTable, List.forall_mem_cons, List.not_mem_nil, false_implies, implies_true, and_true]
  refine ⟨⟨_, fun _ _ _ _ _ => rfl, fun a b => ?eq⟩, ⟨_, fun _ _ _ _ _ => rfl, fun a b => ?ne⟩,
    ⟨_, fun _ _ _ _ _ => rfl, fun a b => ?lt⟩, ⟨_, fun _ _ _ _ _ => rfl, fun a b => ?ge⟩,
    ⟨_, fun _ _ _ _ _ => rfl, fun a b => ?ltn⟩, ⟨_, fun _ _ _ _ _ => rfl, fun a b => ?gen⟩,
    ⟨_, fun _ _ _ _ _ => rfl, fun a b => ?tst⟩⟩
  case eq => exact beq_iff_eq
  case ne => exact bne_iff_ne
  case lt => exact BitVec.slt_iff_toInt_lt
  case ge => exact BitVec.sle_iff_toInt_le
  case ltn => exact decide_eq_true_iff
  case gen => exact decide_eq_true_iff
  case tst => exact exists_common_bit a b

/-- R110: the forms of one source. -/
theorem unaryTable_runs : ∀ row ∈ unaryTable, ∃ f, RunsUnary row.1 f ∧ ∀ a, row.2 a (f a) := by
  simp only [unaryTable, List.forall_mem_cons, List.not_mem_nil, false_implies, implies_true, and_true]
  exact ⟨⟨_, fun _ _ _ _ => rfl, leadingZeros_spec⟩, ⟨_, fun _ _ _ _ => rfl, trailingZeros_spec⟩,
    ⟨_, fun _ _ _ _ => rfl, toNat_onesCount⟩, ⟨_, fun _ _ _ _ => rfl, fun a _ hi => reverseBytes_byte a hi⟩⟩

theorem RunsImmediate.congr {form : BitVec 6 → BitVec 6 → BitVec 11 → Option Lend → Instr} {f g : XWord → XWord → XWord}
    {lat : Nat} (h : RunsImmediate form f lat) (hfg : ∀ a b, f a b = g a b) : RunsImmediate form g lat :=
  (funext₂ hfg : f = g) ▸ h

theorem ofBool_eq_ite {b : Bool} {p : Prop} [Decidable p] (h : b = true ↔ p) : ofBool b = if p then 1 else 0 :=
  if_congr h rfl rfl

/-- R114: the forms with an immediate. -/
theorem immediateTable_runs : ∀ row ∈ immediateTable, RunsImmediate row.1 row.2.1 row.2.2 := by
  simp only [immediateTable, List.forall_mem_cons, List.not_mem_nil, false_implies, implies_true, and_true]
  refine ⟨?addi, ?andi, ?ori, ?xori, ?shli, ?shri, ?srai, ?muli, ?eq, ?ne, ?lt, ?ltn⟩
  case eq => exact RunsImmediate.congr (fun _ _ _ _ _ => rfl) fun a i => ofBool_eq_ite beq_iff_eq
  case ne => exact RunsImmediate.congr (fun _ _ _ _ _ => rfl) fun a i => (ofBool_eq_ite bne_iff_ne).trans (ite_not ..)
  case lt => exact RunsImmediate.congr (fun _ _ _ _ _ => rfl) fun a i => ofBool_eq_ite BitVec.slt_iff_toInt_lt
  case ltn => exact RunsImmediate.congr (fun _ _ _ _ _ => rfl) fun a i => ofBool_eq_ite decide_eq_true_iff
  -- The other forms have the table's own function.
  all_goals exact fun _ _ _ _ _ => rfl

/-! ## The obligations -/

/-- Settles O1: each row of the table runs as the shape of two sources or of an immediate, whose result lands. -/
theorem integerAndImmediateResults : Obligations.IntegerAndImmediateResults := by
  unfold Obligations.IntegerAndImmediateResults
  refine ⟨fun s d a b l hd ha hb hg row hrow => (intTable_runs row hrow).lands hd ha hb hg,
    fun s d a i k hd ha row hrow _ => ?_, fun s d i hd => ?_, fun s d i h hd => ?_, fun s d i hd => ?_, fun s d i h hd => ?_⟩
  · exact ⟨_, immediateTable_runs row hrow d a i k s, immediateForm_lands hd ha _ _ i k⟩
  · exact loadImmediate_lands hd i none (congrArg _ (immSigned_none i))
  · exact loadImmediate_lands hd i (some h) (congrArg _ (immSigned_some i h))
  · exact insertImmediate_lands hd i none (by rw [immBits_none, BitVec.ofNat_toNat]; rfl)
  · exact insertImmediate_lands hd i (some h) (by rw [immBits_some, BitVec.ofNat_toNat]; rfl)

/-- Settles O2: each form runs as a shape of one or two sources, and its result has the bits that the rules give. -/
theorem shiftFieldAndUnaryResults : Obligations.ShiftFieldAndUnaryResults := by
  unfold Obligations.ShiftFieldAndUnaryResults
  refine ⟨⟨fun s d a b l hd ha hb hg row hrow => (shiftTable_runs row hrow).lands hd ha hb hg,
    fun s d a b l hd ha hb hg => ?_⟩, fun s d a l hd ha hg row hrow => ?_, fun s d a w l hd ha hw hg => ?_,
    fun s d a b l hd ha hb c hc hc' => ⟨_, rfl, selectForm_lands hd ha hb hc hc'⟩⟩
  · obtain ⟨hkeeps, hlands⟩ := insertForm_lands hd ha hb hg
    exact ⟨_, _, rfl, hkeeps, hlands, fun i hi => getLsbD_insertField _ _ _ hi⟩
  · obtain ⟨f, hruns, hf⟩ := unaryTable_runs row hrow
    obtain ⟨hkeeps, hlands⟩ := unaryForm_lands hd ha hg f 1
    exact ⟨_, _, hruns d a l s, hkeeps, hlands, hf (value s a)⟩
  · obtain ⟨hkeeps, hlands⟩ := unaryForm_lands hd ha hg (signExtendBy w) 1
    exact ⟨_, _, rfl, hkeeps, hlands, fun i hi => getLsbD_signExtendBy hw _ hi⟩

/-- Settles O3: each compare is the truth value of its condition. -/
theorem compareResults : Obligations.CompareResults := by
  unfold Obligations.CompareResults
  intro s d a b l hd ha hb hg row hrow
  obtain ⟨c, hruns, hc⟩ := compareTable_runs row hrow
  obtain ⟨t, hx, hkeeps, hlands⟩ := hruns.lands hd ha hb hg
  exact ⟨t, _, hx, hkeeps, hlands, fun h => if_pos ((hc _ _).mpr h), fun h => if_neg (mt (hc _ _).mp h)⟩

end Sys2Proof.Machine
end

section
/-!
Patterns of SF as bit vectors (R116, R118 to R121): their signs, classes and conversions.
-/

namespace Sys2Proof.Machine
open Claims (FloatType floatLayout pattern number value classBit quiet floatCompareTable signTable roundsBy
  formatD formatF NanPattern BinaryFormat)

/-! ## Patterns -/

/-- R116: the pattern of a source, in as many bits as its type has. -/
theorem pattern_d (s : State) (a : BitVec 6) : pattern s 0 a = (value s a).toNat := Nat.mod_eq_of_lt (value s a).isLt

theorem pattern_word {t : BitVec 4} (ht : t ≠ 0) (s : State) (a : BitVec 6) :
    pattern s t a = ((value s a).setWidth 32).toNat := by
  rw [pattern, if_neg ht, BitVec.toNat_setWidth]

theorem floatLayout_bits {t : BitVec 4} (ht : FloatType t) (s : State) : (floatLayout s t).bits = if t = 0 then 64 else 32 := by
  rcases ht with rfl | rfl | rfl <;> rfl

theorem pattern_lt {t : BitVec 4} (ht : FloatType t) (s : State) (a : BitVec 6) : pattern s t a < 2 ^ (floatLayout s t).bits := by
  rw [floatLayout_bits ht]
  exact Nat.mod_lt _ (by positivity)

theorem floatLayout_injective {t u : BitVec 4} (ht : FloatType t) (hu : FloatType u) {s : State}
    (h : floatLayout s u = floatLayout s t) : u = t := by
  rcases ht with rfl | rfl | rfl <;> rcases hu with rfl | rfl | rfl <;> simp_all [floatLayout]

/-- R116: operand `k` of a form is the pattern that its source holds. -/
theorem operandBits_map {t : BitVec 4} (ht : FloatType t) (s : State) (srcs : List (BitVec 6)) {k : Nat} {c : BitVec 6}
    (hk : srcs[k]? = some c) : operandBits (floatLayout s t) (srcs.map (readSource s.before)) k = pattern s t c := by
  rw [operandBits, scalarBits, floatLayout_bits ht, List.getD_eq_getElem?_getD, List.getElem?_map, hk]
  rfl

/-! ## Signs -/

theorem and_lowMask {n : Nat} (x m : BitVec n) (k : Nat) (h : m.toNat = 2 ^ k - 1) : x.toNat % 2 ^ k = (x &&& m).toNat := by
  rw [BitVec.toNat_and, h, Nat.and_two_pow_sub_one_eq_mod]

theorem absOp_taper (es : Nat) (x : BitVec 32) :
    absOp (.taper 32 es) x.toNat = (if x.toInt < 0 then -x else x).toNat := by
  have hneg : x.toNat.testBit 31 = true ↔ x.toInt < 0 := by
    rw [testBit_top x.isLt, BitVec.toInt_neg_iff]
    omega
  simp only [absOp, Layout.isTaper, if_true, Layout.bits, hneg]
  rw [apply_ite BitVec.toNat, BitVec.toNat_neg]

theorem negOp_taper (es : Nat) (x : BitVec 32) : negOp (.taper 32 es) x.toNat = (-x).toNat := (BitVec.toNat_neg x).symm

/-- R118: what a sign form does to the pattern of each type. -/
def SignOp (op : Layout → Nat → Nat) (d : BitVec 64 → BitVec 64) (f t : BitVec 32 → BitVec 32) : Prop :=
  (∀ x : BitVec 64, op (.ieee 11 52) x.toNat = (d x).toNat) ∧ (∀ x : BitVec 32, op (.ieee 8 23) x.toNat = (f x).toNat) ∧
    ∀ es, ∀ x : BitVec 32, op (.taper 32 es) x.toNat = (t x).toNat

theorem signTable_runs : ∀ row ∈ signTable, ∃ op,
    (∀ d a t l s, exec (row.1 d a t l) s = .next (floatSign op d a t l s)) ∧ SignOp op row.2.1 row.2.2.1 row.2.2.2 := by
  simp only [signTable, List.forall_mem_cons, List.not_mem_nil, false_implies, implies_true, and_true]
  refine ⟨⟨absOp, fun _ _ _ _ _ => rfl, fun x => ?_, fun x => ?_, absOp_taper⟩,
    ⟨negOp, fun _ _ _ _ _ => rfl, fun x => ?_, fun x => ?_, negOp_taper⟩⟩
  · exact and_lowMask x _ 63 rfl
  · exact and_lowMask x _ 31 rfl
  · rw [BitVec.toNat_xor]
    rfl
  · rw [BitVec.toNat_xor]
    rfl

theorem SignOp.value {op : Layout → Nat → Nat} {d : BitVec 64 → BitVec 64} {f w : BitVec 32 → BitVec 32}
    (h : SignOp op d f w) {t : BitVec 4} (ht : FloatType t) (s : State) (a : BitVec 6) :
    BitVec.ofNat 64 (op (floatLayout s t) (pattern s t a)) =
      if t = 0 then d (value s a) else if t = 1 then (f ((value s a).setWidth 32)).setWidth 64
        else (w ((value s a).setWidth 32)).setWidth 64 := by
  obtain ⟨hd, hf, hw⟩ := h
  rcases ht with rfl | rfl | rfl
  · rw [pattern_d]
    exact (congrArg _ (hd _)).trans ((BitVec.ofNat_toNat ..).trans (BitVec.setWidth_eq _))
  · rw [pattern_word (by decide)]
    exact (congrArg _ (hf _)).trans (BitVec.ofNat_toNat ..)
  · rw [pattern_word (by decide)]
    exact (congrArg _ (hw _ _)).trans (BitVec.ofNat_toNat ..)

/-! ## Compares -/

/-- R119: what a condition says of two numbers, when it raises NV, and what it says of two tapered patterns. -/
def CompareOp (k : FCond) (holds nv : Num → Num → Bool) (words : BitVec 32 → BitVec 32 → Bool) : Prop :=
  (∀ y a b, y.isTaper = false →
    compareOp y k a b = (holds (decodeNum y a) (decodeNum y b), raiseIf (nv (decodeNum y a) (decodeNum y b)) flagNV)) ∧
  ∀ es, ∀ a b : BitVec 32, compareOp (.taper 32 es) k a.toNat b.toNat = (words a b, noFlags)

theorem floatCompareTable_runs : ∀ row ∈ floatCompareTable, ∃ k,
    (∀ d a b t l s, exec (row.1 d a b t l) s = .next (floatCompare k d a b t l s)) ∧
      CompareOp k row.2.1 row.2.2.1 row.2.2.2 := by
  simp only [floatCompareTable, List.forall_mem_cons, List.not_mem_nil, false_implies, implies_true, and_true]
  have words (a b : BitVec 32) : (a.toNat == b.toNat) = (a == b) := by
    rw [Bool.eq_iff_iff, beq_iff_eq, beq_iff_eq, BitVec.toNat_inj]
  refine ⟨⟨.eq, fun _ _ _ _ _ _ => rfl, fun y a b hy => ?_, fun es a b => ?_⟩,
    ⟨.lt, fun _ _ _ _ _ _ => rfl, fun y a b hy => ?_, fun es a b => ?_⟩,
    ⟨.le, fun _ _ _ _ _ _ => rfl, fun y a b hy => ?_, fun es a b => ?_⟩,
    ⟨.un, fun _ _ _ _ _ _ => rfl, fun y a b hy => ?_, fun es a b => rfl⟩⟩
  · simp only [compareOp, hy, Bool.false_eq_true, if_false, Bool.not_or]
  · simp only [compareOp, Layout.isTaper, if_true, words]
  · simp only [compareOp, hy, Bool.false_eq_true, if_false, Bool.not_or]
  · simp only [compareOp, Layout.isTaper, if_true, Layout.bits, signedOf_toNat]
  · simp only [compareOp, hy, Bool.false_eq_true, if_false, Bool.not_or]
  · simp only [compareOp, Layout.isTaper, if_true, Layout.bits, signedOf_toNat]
  · simp only [compareOp, hy, Bool.false_eq_true, if_false]

theorem raiseIf_invalid {p : Prop} [Decidable p] (hp : p) (c : Bool) : raiseIf c flagNV = if p ∧ c = true then 1 else 0 :=
  if_congr (and_iff_right hp).symm rfl rfl

theorem CompareOp.value {k : FCond} {holds nv : Num → Num → Bool} {words : BitVec 32 → BitVec 32 → Bool}
    (h : CompareOp k holds nv words) {t : BitVec 4} (ht : FloatType t) (s : State) (a b : BitVec 6) :
    compareOp (floatLayout s t) k (pattern s t a) (pattern s t b) =
      (if t = 9 then words ((value s a).setWidth 32) ((value s b).setWidth 32) else holds (number s t a) (number s t b),
        if t ≠ 9 ∧ nv (number s t a) (number s t b) = true then 1 else 0) := by
  obtain ⟨hnum, hwords⟩ := h
  rcases ht with rfl | rfl | rfl
  · exact (hnum _ _ _ rfl).trans (congrArg _ (raiseIf_invalid (by decide) _))
  · exact (hnum _ _ _ rfl).trans (congrArg _ (raiseIf_invalid (by decide) _))
  · rw [pattern_word (by decide), pattern_word (by decide)]
    exact hwords _ _ _

/-! ## Classes -/

theorem classOp_fields {eb fb : Nat} (hfb : 1 ≤ fb) (x : BitVec (eb + fb + 1)) :
    classOp (.ieee eb fb) x.toNat = 2 ^ classBit eb fb x.msb (x.extractLsb' fb eb).toNat (x.extractLsb' 0 fb).toNat := by
  rw [classOp_ieee hfb x.isLt, BitVec.msb_eq_decide, BitVec.extractLsb'_toNat, BitVec.extractLsb'_toNat,
    Nat.shiftRight_eq_div_pow]
  rfl

theorem classOp_value {t : BitVec 4} (ht : FloatType t) (s : State) (a : BitVec 6) :
    let v := value s a
    let k :=
      if t = 0 then classBit 11 52 v.msb (v.extractLsb' 52 11).toNat (v.extractLsb' 0 52).toNat
      else if t = 1 then classBit 8 23 (v.getLsbD 31) (v.extractLsb' 23 8).toNat (v.extractLsb' 0 23).toNat
      else if v.setWidth 32 = (0x80000000#32) then 9 else if v.setWidth 32 = (0#32) then 4
      else if v.getLsbD 31 then 1 else 6
    classOp (floatLayout s t) (pattern s t a) = 2 ^ k := by
  dsimp only
  have htop : (value s a).getLsbD 31 = ((value s a).setWidth 32).msb := by
    rw [BitVec.msb_eq_getLsbD_last, BitVec.getLsbD_setWidth]
    rfl
  rw [htop]
  rcases ht with rfl | rfl | rfl
  · rw [pattern_d]
    exact classOp_fields (eb := 11) (fb := 52) (by norm_num) (value s a)
  · rw [pattern_word (by decide)]
    have h := classOp_fields (eb := 8) (fb := 23) (by norm_num) ((value s a).setWidth 32)
    rwa [BitVec.extractLsb'_setWidth_of_le (by norm_num), BitVec.extractLsb'_setWidth_of_le (by norm_num)] at h
  · rw [pattern_word (by decide), if_neg (by decide), if_neg (by decide), BitVec.msb_eq_decide]
    simp only [decide_eq_true_eq, ← BitVec.toNat_inj]
    exact classOp_taper (n := 32) (by norm_num) ((value s a).setWidth 32).isLt

/-! ## Conversions -/

theorem or_two_pow_of_set {a k : Nat} (h : a.testBit k = true) : a ||| 2 ^ k = a := by
  refine Nat.eq_of_testBit_eq fun i => ?_
  rw [Nat.testBit_or, Nat.testBit_two_pow]
  grind

theorem or_two_pow_of_clear {a k : Nat} (h : a.testBit k = false) : a ||| 2 ^ k = a + 2 ^ k := by
  have hlt : a % 2 ^ (k + 1) < 2 ^ (k + 1) := Nat.mod_lt _ (by positivity)
  have hlow : a % 2 ^ (k + 1) < 2 ^ k := by
    rw [← not_le, ← testBit_top hlt, Nat.testBit_mod_two_pow, h]
    simp
  have hsum : a % 2 ^ (k + 1) + 2 ^ k < 2 ^ (k + 1) := by
    rw [pow_succ]
    rw [pow_succ] at hlow
    omega
  calc a ||| 2 ^ k = 2 ^ (k + 1) * (a / 2 ^ (k + 1)) ||| (a % 2 ^ (k + 1) ||| 2 ^ k) := by
        rw [← Nat.or_assoc, ← Nat.two_pow_add_eq_or_of_lt hlt, Nat.div_add_mod]
    _ = a + 2 ^ k := by
        rw [Nat.or_two_pow_eq_add_of_lt hlow, ← Nat.two_pow_add_eq_or_of_lt hsum, ← Nat.add_assoc, Nat.div_add_mod]

theorem convertOp_same_ieee {f : BinaryFormat} (hf : IeeeFormat f) {a : Nat} (ha : a < 2 ^ f.layout.bits) (i : RoundIn) :
    convertOp f.layout f.layout i false a =
      if (decodeNum f.layout a).signals then { bits := a + 2 ^ (f.frac - 1), flags := 1 } else { bits := a, flags := 0 } := by
  rw [convertOp, if_pos (beq_self_eq_true _)]
  by_cases h : NanPattern f a
  · rw [decodeNum_nan hf h]
    dsimp only
    rw [nanBits_quiet hf ha h, quiet, Num.signals]
    cases hb : a.testBit (f.frac - 1)
    · rw [or_two_pow_of_clear hb]
      rfl
    · rw [or_two_pow_of_set hb]
      rfl
  · rcases decodeNum_number hf h with ⟨n, hd⟩ | ⟨n, m, e, hd⟩
    · rw [hd]
      exact congrArg plainResult (Nat.mod_eq_of_lt ha)
    · rw [hd]
      exact congrArg plainResult (Nat.mod_eq_of_lt ha)

theorem decodeNum_taper (n es a : Nat) :
    decodeNum (.taper n es) a = .nar ∨ ∃ k m e, decodeNum (.taper n es) a = .fin k m e := by
  rw [decodeNum, decodeTaper]
  split
  · exact .inr ⟨_, _, _, rfl⟩
  · split
    · exact .inl rfl
    · exact .inr ⟨_, _, _, rfl⟩

theorem convertOp_same_taper {n es a : Nat} (ha : a < 2 ^ n) (i : RoundIn) :
    convertOp (.taper n es) (.taper n es) i false a = { bits := a, flags := 0 } ∧
      (decodeNum (.taper n es) a).signals = false := by
  rw [convertOp, if_pos (beq_self_eq_true _)]
  rcases decodeNum_taper n es a with hd | ⟨k, m, e, hd⟩
  · rw [hd]
    exact ⟨congrArg plainResult (Nat.mod_eq_of_lt ha), rfl⟩
  · rw [hd]
    exact ⟨congrArg plainResult (Nat.mod_eq_of_lt ha), rfl⟩

theorem decodeNum_int64 (v : XWord) : decodeNum (.int true 64) v.toNat = .fin (v.toInt < 0) v.toInt.natAbs 0 := by
  have hlt := v.isLt
  have htop : v.toNat.testBit 63 = true ↔ v.toInt < 0 := by
    rw [testBit_top hlt, BitVec.toInt_neg_iff]
    omega
  simp only [decodeNum, Nat.mod_eq_of_lt hlt, Bool.true_and, Nat.add_one_sub_one, htop]
  by_cases hneg : v.toInt < 0
  · have h := BitVec.toInt_neg_iff.mp hneg
    rw [if_pos hneg, decide_eq_true hneg, BitVec.toInt_eq_toNat_cond, if_neg (by omega)]
    congr 1
    omega
  · have h := mt BitVec.toInt_neg_iff.mpr hneg
    rw [if_neg hneg, decide_eq_false hneg, BitVec.toInt_eq_toNat_cond, if_pos (by omega)]
    rfl

theorem convertOp_other {y z : Layout} (h : y ≠ z) (i : RoundIn) (a : Nat) :
    convertOp y z i false a = roundNum y i.rm false i.r (decodeNum z a) := by
  rw [convertOp, if_neg (by simpa using h)]

/-- R121: a conversion to the format of the source copies, and quiets a signalling NaN. -/
theorem convertOp_same {t : BitVec 4} (ht : FloatType t) (s : State) (a : BitVec 6) (i : RoundIn) :
    convertOp (floatLayout s t) (floatLayout s t) i false (pattern s t a) =
      if (number s t a).signals then { bits := pattern s t a + (if t = 0 then 2 ^ 51 else 2 ^ 22), flags := 1 }
      else { bits := pattern s t a, flags := 0 } := by
  have hlt := pattern_lt ht s a
  rcases ht with rfl | rfl | rfl
  · exact convertOp_same_ieee (formats_ieee formatD (by simp)) hlt i
  · exact convertOp_same_ieee (formats_ieee formatF (by simp)) hlt i
  · obtain ⟨hcopy, hquiet⟩ := convertOp_same_taper hlt i
    exact hcopy.trans (if_neg (ne_true_of_eq_false hquiet)).symm

theorem convertOp_value {t u : BitVec 4} (ht : FloatType t) (hu : FloatType u) (s : State) (a : BitVec 6) :
    convertOp (floatLayout s u) (floatLayout s t) (roundsBy s) false (pattern s t a) =
      if u ≠ t then roundNum (floatLayout s u) s.before.rm false (roundsBy s).r (number s t a)
      else if (number s t a).signals then { bits := pattern s t a + (if t = 0 then 2 ^ 51 else 2 ^ 22), flags := 1 }
      else { bits := pattern s t a, flags := 0 } := by
  by_cases h : u = t
  · subst h
    rw [if_neg (not_not.mpr rfl), convertOp_same ht]
  · rw [if_pos h]
    exact convertOp_other (mt (floatLayout_injective ht hu) h) _ _

end Sys2Proof.Machine
end

section
/-!
The forms of SF that do not round, and its conversions (R118 to R122).
-/

namespace Sys2Proof.Machine
open Claims (Keeps ScalarLands FloatLands Source Destination GuardTrue FloatType floatLayout pattern number roundsBy Stochastic value
  poisoned picks signTable floatCompareTable)

section forms
variable {s : State} {d a b : BitVec 6} {t : BitVec 4} {l : Lend}

/-! ## What a form lands -/

/-- R116: a form of SF under a mode that is not stochastic, or one that does not round, reads its sources alone. -/
theorem floatForm_lands_sources {srcs : List (BitVec 6)} (hd : Destination d) (hsrcs : ∀ c ∈ srcs, Source c)
    (hg : GuardTrue s l) (mode : Option (BitVec 3)) (hmode : ∀ m ∈ mode, ¬ Stochastic m) (lat : Nat)
    (f : Core → RoundIn → List Val → Rounded) :
    let u := floatForm d (dstOk d) srcs (mode.map fun m _ => m) lat f l s
    let r := f s.before { rm := mode.getD 0, r := 0 } (srcs.map (readSource s.before))
    Keeps s u ∧ ScalarLands s u d (BitVec.ofNat 64 r.bits) (srcs.any (poisoned s)) r.flags lat
      (guardReg l :: srcs.map sourceReg) := by
  have hquiet := (quiet_noteReads s [guardReg l]).noteReads (srcs.map sourceReg)
  have hpoison : (srcs.map (readSource s.before)).any (·.poison) = srcs.any (poisoned s) := List.any_map
  dsimp only
  rw [floatForm, guarded_true (legal_float.mpr ⟨dstOk_iff.mpr hd, hsrcs⟩) hg]
  cases mode with
  | none =>
    simp only [Option.map_none, Option.isSome_none, Bool.false_and, Bool.false_eq_true, if_false, noteReads_before, hpoison]
    exact hquiet.lands ..
  | some m =>
    have hns : isStochastic m = false := Bool.eq_false_iff.mpr (mt isStochastic_iff.mp (hmode m rfl))
    simp only [Option.map_some, hns, Bool.and_false, Bool.false_eq_true, if_false, noteReads_before, hpoison]
    exact hquiet.lands ..

/-- R54, R116: a form of SF under a stochastic mode reads x17 as well. -/
theorem floatForm_lands_x17 {srcs : List (BitVec 6)} (hd : Destination d) (hsrcs : ∀ c ∈ srcs, Source c)
    (hg : GuardTrue s l) {m : BitVec 3} (hm : Stochastic m) (hx : (readX s.before 17).poison = false) (lat : Nat)
    (f : Core → RoundIn → List Val → Rounded) :
    let u := floatForm d (dstOk d) srcs (some fun _ => m) lat f l s
    let r := f s.before (scalarRound s.before m) (srcs.map (readSource s.before))
    Keeps s u ∧ ScalarLands s u d (BitVec.ofNat 64 r.bits) (srcs.any (poisoned s)) r.flags lat
      (guardReg l :: srcs.map sourceReg ++ [.x 17]) := by
  have hquiet := ((quiet_noteReads s [guardReg l]).noteReads (srcs.map sourceReg)).noteReads [.x 17]
  have hpoison : (srcs.map (readSource s.before)).any (·.poison) = srcs.any (poisoned s) := List.any_map
  dsimp only
  rw [floatForm, guarded_true (legal_float.mpr ⟨dstOk_iff.mpr hd, hsrcs⟩) hg]
  simp only [Option.isSome_some, isStochastic_iff.mpr hm, Bool.true_and, if_true, noteReads_before, hx, Bool.false_eq_true,
    if_false, hpoison]
  exact hquiet.lands ..

/-! ## The forms that do not round -/

theorem floatPick_lands (ht : FloatType t) (hd : Destination d) (ha : Source a) (hb : Source b) (hg : GuardTrue s l)
    (least : Bool) :
    let u := floatPick least d a b t l s
    let r := picks least (floatLayout s t) (pattern s t a) (pattern s t b)
    Keeps s u ∧ ScalarLands s u d (BitVec.ofNat 64 r.bits) (poisoned s a || poisoned s b) r.flags 2
      [guardReg l, sourceReg a, sourceReg b] := by
  have hbits : 1 ≤ (floatLayout s t).bits := by
    rw [floatLayout_bits ht]
    split <;> norm_num
  have h := floatForm_lands_sources (s := s) (srcs := [a, b]) hd (by simp [ha, hb]) hg none (by simp) 2
    (fun c _ vs => minMaxOp (scalarLayout c t) least (operandBits (scalarLayout c t) vs 0) (operandBits (scalarLayout c t) vs 1))
  simp only [scalarLayout_eq ht, operandBits_map ht s [a, b] (k := 0) rfl, operandBits_map ht s [a, b] (k := 1) rfl,
    List.any_cons, List.any_nil, Bool.or_false, minMaxOp_picks hbits least (pattern_lt ht s a) (pattern_lt ht s b)] at h
  exact h

theorem floatSign_lands (ht : FloatType t) (hd : Destination d) (ha : Source a) (hg : GuardTrue s l)
    (op : Layout → Nat → Nat) :
    let u := floatSign op d a t l s
    Keeps s u ∧ ScalarLands s u d (BitVec.ofNat 64 (op (floatLayout s t) (pattern s t a))) (poisoned s a) 0 2
      [guardReg l, sourceReg a] := by
  have h := floatForm_lands_sources (s := s) (srcs := [a]) hd (by simp [ha]) hg none (by simp) 2
    (fun c _ vs => plainResult (op (scalarLayout c t) (operandBits (scalarLayout c t) vs 0)))
  simp only [scalarLayout_eq ht, operandBits_map ht s [a] (k := 0) rfl, List.any_cons, List.any_nil, Bool.or_false] at h
  exact h

theorem floatCompare_lands (ht : FloatType t) (hd : Destination d) (ha : Source a) (hb : Source b) (hg : GuardTrue s l)
    (k : FCond) :
    let u := floatCompare k d a b t l s
    let r := compareOp (floatLayout s t) k (pattern s t a) (pattern s t b)
    Keeps s u ∧ ScalarLands s u d (if r.1 then 1 else 0) (poisoned s a || poisoned s b) r.2 2
      [guardReg l, sourceReg a, sourceReg b] := by
  have h := floatForm_lands_sources (s := s) (srcs := [a, b]) hd (by simp [ha, hb]) hg none (by simp) 2
    (fun c _ vs =>
      let r := compareOp (scalarLayout c t) k (operandBits (scalarLayout c t) vs 0) (operandBits (scalarLayout c t) vs 1)
      { bits := if r.1 then 1 else 0, flags := r.2 })
  simp only [scalarLayout_eq ht, operandBits_map ht s [a, b] (k := 0) rfl, operandBits_map ht s [a, b] (k := 1) rfl,
    List.any_cons, List.any_nil, Bool.or_false, apply_ite (BitVec.ofNat 64)] at h
  exact h

/-! ## Conversions -/

/-- R121: `fcvt`. -/
theorem fcvt_lands {v : BitVec 6} (ht : FloatType t) (hv : FloatType (v.setWidth 4)) (hd : Destination d) (ha : Source a)
    (hg : GuardTrue s l) :
    ∃ u, exec (.fcvt d a v t l) s = .next u ∧ Keeps s u ∧
      FloatLands s u d (convertOp (floatLayout s (v.setWidth 4)) (floatLayout s t) (roundsBy s) false (pattern s t a))
        (poisoned s a) 3 [guardReg l, sourceReg a] := by
  have h := floatForm_lands (s := s) (d := d) (dstOk_iff.mpr hd) (srcs := [a]) (by simp [ha]) hg 3
    (fun c i vs => convertOp (scalarLayout c (v.setWidth 4)) (scalarLayout c t) i false (operandBits (scalarLayout c t) vs 0))
  simp only [scalarLayout_eq ht, scalarLayout_eq hv, operandBits_map ht s [a] (k := 0) rfl, List.any_cons, List.any_nil,
    Bool.or_false] at h
  exact ⟨_, rfl, h⟩

/-- R121: `fcvtf`. -/
theorem fcvtf_lands (ht : FloatType t) (hd : Destination d) (ha : Source a) (hg : GuardTrue s l) :
    ∃ u, exec (.fcvtf d a t l) s = .next u ∧ Keeps s u ∧
      FloatLands s u d (roundNum (floatLayout s t) s.before.rm false (roundsBy s).r
        (.fin ((value s a).toInt < 0) (value s a).toInt.natAbs 0)) (poisoned s a) 3 [guardReg l, sourceReg a] := by
  have hoperand : operand (.int true 64) ([a].map (readSource s.before)) 0 = decodeNum (.int true 64) (value s a).toNat :=
    congrArg (decodeNum (.int true 64)) (Nat.mod_eq_of_lt (value s a).isLt)
  have h := floatForm_lands (s := s) (d := d) (dstOk_iff.mpr hd) (srcs := [a]) (by simp [ha]) hg 3
    (fun c i vs => roundNum (scalarLayout c t) i.rm false i.r (operand (.int true 64) vs 0))
  simp only [scalarLayout_eq ht, hoperand, decodeNum_int64, List.any_cons, List.any_nil, Bool.or_false] at h
  exact ⟨_, rfl, h⟩

/-- R121: `fcvti` under a mode of its literal that is not stochastic. -/
theorem fcvti_lands (ht : FloatType t) {m : BitVec 6} (hm : ¬ Stochastic (m.setWidth 3)) (hd : Destination d) (ha : Source a)
    (hg : GuardTrue s l) :
    ∃ u, exec (.fcvti d a m t l) s = .next u ∧ Keeps s u ∧
      let r := roundNum (.int true 64) (m.setWidth 3) false 0 (number s t a)
      ScalarLands s u d (BitVec.ofNat 64 r.bits) (poisoned s a) r.flags 3 [guardReg l, sourceReg a] := by
  have h := floatForm_lands_sources (s := s) (srcs := [a]) hd (by simp [ha]) hg (some (m.setWidth 3)) (by simpa using hm) 3
    (fun c i vs => roundNum (.int true 64) i.rm false i.r (operand (scalarLayout c t) vs 0))
  simp only [scalarLayout_eq ht, operand_map ht s [a] (k := 0) rfl, List.any_cons, List.any_nil, Bool.or_false] at h
  exact ⟨_, rfl, h⟩

/-- R56, R121: `fcvti` under a stochastic mode of its literal. -/
theorem fcvti_lands_stochastic (ht : FloatType t) {m : BitVec 6} (hm : Stochastic (m.setWidth 3))
    (hx : (readX s.before 17).poison = false) (hd : Destination d) (ha : Source a) (hg : GuardTrue s l) :
    ∃ u, exec (.fcvti d a m t l) s = .next u ∧ Keeps s u ∧
      let r := roundNum (.int true 64) (m.setWidth 3) false
        (gen s.before.srkey s.before.srstep (readX s.before 17).bits) (number s t a)
      ScalarLands s u d (BitVec.ofNat 64 r.bits) (poisoned s a) r.flags 3 [guardReg l, sourceReg a, .x 17] := by
  have h := floatForm_lands_x17 (s := s) (srcs := [a]) hd (by simp [ha]) hg hm hx 3
    (fun c i vs => roundNum (.int true 64) i.rm false i.r (operand (scalarLayout c t) vs 0))
  simp only [scalarLayout_eq ht, operand_map ht s [a] (k := 0) rfl, List.any_cons, List.any_nil, Bool.or_false, scalarRound,
    isStochastic_iff.mpr hm, if_true] at h
  exact ⟨_, rfl, h⟩

end forms

/-- Settles O5: each form runs as a form of SF, and its operation on patterns is the one that the rules give. -/
theorem floatPickCompareAndConversion : Obligations.FloatPickCompareAndConversion := by
  unfold Obligations.FloatPickCompareAndConversion
  refine ⟨fun s d a b t l ht hd ha hb hg => ⟨fun row hrow => ?pick, fun row hrow => ?sign, fun row hrow => ?compare, ?classes⟩,
    fun s d a u t l ht hu _ hd ha hg => ?_, fun s d a t l ht hd ha hg => fcvtf_lands ht hd ha hg,
    fun s d a m t l ht _ hm hd ha hg => fcvti_lands ht hm hd ha hg,
    fun s d a m t l ht _ hm hx hd ha hg => fcvti_lands_stochastic ht hm hx hd ha hg⟩
  case pick =>
    simp only [List.mem_cons, List.not_mem_nil, or_false] at hrow
    rcases hrow with rfl | rfl
    · exact ⟨_, rfl, floatPick_lands ht hd ha hb hg true⟩
    · exact ⟨_, rfl, floatPick_lands ht hd ha hb hg false⟩
  case sign =>
    obtain ⟨op, hruns, hop⟩ := signTable_runs row hrow
    have h := floatSign_lands ht hd ha hg op
    rw [hop.value ht] at h
    exact ⟨_, hruns d a t l s, h⟩
  case compare =>
    obtain ⟨k, hruns, hk⟩ := floatCompareTable_runs row hrow
    have h := floatCompare_lands ht hd ha hb hg k
    rw [hk.value ht] at h
    exact ⟨_, hruns d a b t l s, h⟩
  case classes =>
    have h := floatSign_lands ht hd ha hg classOp
    rw [classOp_value ht] at h
    exact ⟨_, rfl, h⟩
  · obtain ⟨v, hx, hkeeps, hlands⟩ := fcvt_lands ht hu hd ha hg
    rw [convertOp_value ht hu] at hlands
    exact ⟨v, hx, hkeeps, hlands⟩

end Sys2Proof.Machine
end

section
/-!
Branches, calls, returns and the loop (R28, R123 to R127).
-/

namespace Sys2Proof.Machine
open Claims (Keeps Notes Transfers Faults OnlyNotes readNoted Source GuardTrue value poisoned resultOf slotFault)

section transfers
variable {s : State} {i : Instr} {l : Lend} {legal : Bool} {a : BitVec 6} {body : State → State}

/-! ## The pending transfer -/

/-- R125: the last transfer that a syllable sets is the pending one. -/
theorem transfers_setTransfer {t : State} (h : t.core = { s.core with transfer := t.core.transfer }) (taken : Bool)
    (target : BitVec 12) : Transfers s (setTransfer taken target t) taken target [] := by
  refine ⟨?_, rfl, rfl, fun ht => if_pos ht⟩
  rw [List.append_nil, setTransfer, State.onCore_core, h]

/-- R123, R127: a form that sets the pending transfer once it has noted its reads. -/
theorem Quiet.transfers {u : State} {rs : List Reg} (hu : Quiet s u rs []) {taken : Bool} {target : BitVec 12}
    (hx : exec i s = .next (setTransfer taken target u)) :
    ∃ t, exec i s = .next t ∧ Keeps s t ∧ Transfers s t taken target [] ∧ Notes s t rs [] :=
  ⟨_, hx, keeps_onCore hu.keeps _, transfers_setTransfer (by rw [hu.core]) taken target, hu.notes⟩

theorem relativeTarget_eq {n : Nat} (hn : 12 ≤ n) (o : BitVec n) :
    relativeTarget s (o.setWidth 12) = s.before.pc + o.extractLsb' 0 12 := by
  rw [relativeTarget, BitVec.setWidth_eq_extractLsb' hn]

/-! ## Guarded transfers -/

/-- What a guarded transfer has done when its guard is read: the delay bundles are counted (R125). -/
theorem guardedTransfer_true (hl : legal = true) (hg : GuardTrue s l) :
    guardedTransfer l legal body s = body (noteReads [guardReg l] (setTransfer false 0 s)) :=
  guarded_true (s := setTransfer false 0 s) hl hg 0 1 body

theorem guardedTransfer_false (hl : legal = true) (hg : ¬ GuardTrue s l) :
    guardedTransfer l legal body s = noteReads [guardReg l] (setTransfer false 0 s) :=
  (guarded_false (s := setTransfer false 0 s) hl hg).trans (suppressed_of_ne (by decide) 1 _)

/-- R125: a transfer that its guard suppresses. -/
theorem guardedTransfer_suppressed (hx : exec i s = .next (guardedTransfer l legal body s)) (hl : legal = true)
    (hg : ¬ GuardTrue s l) :
    ∃ t, exec i s = .next t ∧ Keeps s t ∧ Transfers s t false 0 [] ∧ Notes s t [guardReg l] [] := by
  refine ⟨_, hx, ?_⟩
  rw [guardedTransfer_false hl hg]
  exact ⟨keeps_refl s, transfers_setTransfer rfl false 0, notesWaits_noteReads s [guardReg l]⟩

theorem guardedRegisterTransfer_eq (hl : legal = true) (hg : GuardTrue s l) :
    guardedTransfer l legal (registerTransfer a) s =
      if poisoned s a = true then
        raiseFault codePoison 0 (noteReads [sourceReg a] (noteReads [guardReg l] (setTransfer false 0 s)))
      else setTransfer true ((value s a).setWidth 12)
        (noteReads [sourceReg a] (noteReads [guardReg l] (setTransfer false 0 s))) := guardedTransfer_true hl hg

/-- R124: a transfer to the low bits of a register. -/
theorem registerTransfer_taken (hx : exec i s = .next (guardedTransfer l legal (registerTransfer a) s)) (hl : legal = true)
    (hg : GuardTrue s l) (hp : poisoned s a = false) :
    ∃ t, exec i s = .next t ∧ Keeps s t ∧ Transfers s t true ((value s a).extractLsb' 0 12) [] ∧
      Notes s t [guardReg l, sourceReg a] [] := by
  refine ⟨_, hx, ?_⟩
  rw [guardedRegisterTransfer_eq hl hg, if_neg (ne_true_of_eq_false hp), ← BitVec.setWidth_eq_extractLsb' (by norm_num)]
  exact ⟨keeps_refl s, transfers_setTransfer rfl true _, notes_noteReads (notesWaits_noteReads s [guardReg l]) [sourceReg a]⟩

/-- R109, R124: a poisoned target is consumed. -/
theorem registerTransfer_poisoned (hx : exec i s = .next (guardedTransfer l legal (registerTransfer a) s)) (hl : legal = true)
    (hg : GuardTrue s l) (hp : poisoned s a = true) :
    ∃ t, exec i s = .next t ∧ Keeps s t ∧ Notes s t [guardReg l, sourceReg a] [slotFault s 0x16 0] := by
  refine ⟨_, hx, ?_⟩
  rw [guardedRegisterTransfer_eq hl hg, if_pos hp]
  exact ⟨keeps_refl s, notes_raiseFault (notes_noteReads (notesWaits_noteReads s [guardReg l]) [sourceReg a]) codePoison 0⟩

/-- R124: the link of a call is the bundle after its delay bundles. -/
theorem call_links (k : BitVec 12) (hg : GuardTrue s l) : ∃ t, exec (.call k l) s = .next t ∧ Keeps s t ∧
    Transfers s t true k [resultOf s (.x 31) (s.before.pc + 4).toNat false 0 1 none] ∧ Notes s t [guardReg l] [] := by
  have hlink : ((s.before.pc + 4).setWidth 64).toNat = (s.before.pc + 4).toNat := BitVec.toNat_setWidth_of_le (by norm_num)
  refine ⟨_, rfl, ?_⟩
  rw [guardedTransfer_true rfl hg, ← hlink]
  exact ⟨keeps_refl s, ⟨rfl, rfl, rfl, fun _ => rfl⟩, notesWaits_noteReads s [guardReg l]⟩

theorem jr_illegal (h : ¬ Source a) :
    ∃ t, exec (.jr a l) s = .next t ∧ Keeps s t ∧ Notes s t [guardReg l] [slotFault s 0x03 0] := by
  have hl : srcOk a = false := Bool.eq_false_iff.mpr (mt srcOk_iff.mp h)
  have hx : exec (.jr a l) s = .next (raiseFault codeIllegalOperand 0 (noteReads [guardReg l] (setTransfer false 0 s))) :=
    congrArg Host.Outcome.next (if_pos (by rw [hl]; rfl))
  exact ⟨_, hx, keeps_refl s, notes_raiseFault (notesWaits_noteReads s [guardReg l]) codeIllegalOperand 0⟩

end transfers

/-! ## The loop -/

theorem loopIllFormed_iff {c : Core} {e : BitVec 12} : loopIllFormed c e = true ↔ c.lc ≠ 0 ∨ e = 0 := by
  simp [loopIllFormed]

section loops
variable {s : State} {a : BitVec 6} {e : BitVec 12}

theorem loop_eq (ha : Source a) : exec (.loop a e) s =
    .next (if loopIllFormed s.before e = true then raiseFault codeBundleForm (s.before.pc.setWidth 64) (noteReads [sourceReg a] s)
      else if poisoned s a = true then raiseFault codePoison 0 (noteReads [sourceReg a] s)
      else if value s a = 0 then
        (noteReads [sourceReg a] s).onIssue fun i => { i with nextPc := some (s.before.pc + e + 1) }
      else (noteReads [sourceReg a] s).onCore fun c =>
        { c with lc := value s a, lps := s.before.pc + 1, lpe := s.before.pc + e }) :=
  congrArg Host.Outcome.next (unguarded_true (srcOk_iff.mpr ha) _)

/-- R28: a loop is active, or the end offset is 0. -/
theorem loop_illFormed (ha : Source a) (h : s.before.lc ≠ 0 ∨ e = 0) :
    Faults s (.loop a e) 0x02 (s.before.pc.setWidth 64) [sourceReg a] :=
  (quiet_noteReads s [sourceReg a]).faults ((loop_eq ha).trans (congrArg _ (if_pos (loopIllFormed_iff.mpr h))))

section wellFormed
variable (ha : Source a) (hlc : s.before.lc = 0) (he : e ≠ 0)
include ha hlc he

theorem loop_poisoned (hp : poisoned s a = true) : Faults s (.loop a e) 0x16 0 [sourceReg a] := by
  refine (quiet_noteReads s [sourceReg a]).faults ((loop_eq ha).trans ?_)
  rw [if_neg (mt loopIllFormed_iff.mp (not_or.mpr ⟨not_not.mpr hlc, he⟩)), if_pos hp]
  rfl

theorem loop_skips (hp : poisoned s a = false) (hz : value s a = 0) :
    OnlyNotes s (.loop a e) { readNoted s [sourceReg a] with nextPc := some (s.before.pc + e + 1) } := by
  refine (loop_eq ha).trans ?_
  rw [if_neg (mt loopIllFormed_iff.mp (not_or.mpr ⟨not_not.mpr hlc, he⟩)), if_neg (ne_true_of_eq_false hp), if_pos hz]
  rfl

theorem loop_starts (hp : poisoned s a = false) (hz : value s a ≠ 0) : exec (.loop a e) s = .next { s with
    issue := readNoted s [sourceReg a]
    core := { s.core with lc := value s a, lps := s.before.pc + 1, lpe := s.before.pc + e } } := by
  refine (loop_eq ha).trans ?_
  rw [if_neg (mt loopIllFormed_iff.mp (not_or.mpr ⟨not_not.mpr hlc, he⟩)), if_neg (ne_true_of_eq_false hp), if_neg hz]
  rfl

end wellFormed

end loops

/-- Settles O8: each form sets the pending transfer once, under its guard, and `loop` sets its registers where it may start. -/
theorem transferAndLoopResults : Obligations.TransferAndLoopResults := by
  unfold Obligations.TransferAndLoopResults
  refine ⟨⟨fun s o => ?br, fun s p n o => ?brc, fun s k l hg => call_links k hg, fun s a l ha hp hg => ⟨?jr, ?ret⟩,
    fun s a l hg => ⟨fun ha hp => ⟨?jrPoisoned, ?retPoisoned⟩, fun ha => jr_illegal ha⟩, fun s a k l ha hg => ?suppressed,
    fun s a o ha => ?chk, fun s v o => ?chkv⟩, fun s a e ha => ?loop⟩
  case br =>
    rw [← relativeTarget_eq (by norm_num)]
    exact (quiet_refl s).transfers rfl
  case brc =>
    rw [← relativeTarget_eq (by norm_num)]
    obtain ⟨t, hx, hkeeps, htransfers, hnotes⟩ := (quiet_noteReads s [.pred p.toNat]).transfers (i := .brc p n o) rfl
    exact ⟨t, _, hx, hkeeps, bne_iff_ne, htransfers, hnotes⟩
  case jr => exact registerTransfer_taken rfl (srcOk_iff.mpr ha) hg hp
  case ret =>
    rintro rfl
    exact registerTransfer_taken rfl rfl hg hp
  case jrPoisoned => exact registerTransfer_poisoned rfl (srcOk_iff.mpr ha) hg hp
  case retPoisoned =>
    rintro rfl
    exact registerTransfer_poisoned rfl rfl hg hp
  case suppressed =>
    simp only [List.forall_mem_cons, List.not_mem_nil, false_implies, implies_true, and_true]
    exact ⟨guardedTransfer_suppressed rfl rfl hg, guardedTransfer_suppressed rfl rfl hg,
      guardedTransfer_suppressed rfl (srcOk_iff.mpr ha) hg⟩
  case chk =>
    rw [← relativeTarget_eq (by norm_num)]
    exact (quiet_noteReads s [sourceReg a]).transfers (congrArg Host.Outcome.next (unguarded_true (srcOk_iff.mpr ha) _))
  case chkv =>
    rw [← relativeTarget_eq (by norm_num)]
    exact (quiet_noteReads s [.v v.toNat]).transfers rfl
  case loop =>
    exact ⟨loop_illFormed ha, loop_poisoned ha, loop_skips ha, loop_starts ha⟩

end Sys2Proof.Machine
end

section
/-!
The comb under a local access (R134, R178, R226, R230, R232): its bytes, its checks, its waits and its stores.
-/

namespace Sys2Proof.Machine
open Claims (Keeps NotesWaits Faults ScalarAwaits littleEndian combBytes CombBad cell combWaits TagPasses MayLoad MayStore checkCleared
  CellUntouched CombStored OutOfCell LoadTurnedAway StoreTurnedAway CombLoads CombStores extended value
  poisoned)

/-! ## Bytes -/

theorem littleEndian_eq (bs : List Byte) : littleEndian bs = ofBytes bs := by
  induction bs with
  | nil => rfl
  | cons b bs ih => rw [littleEndian, ofBytes, ih]

theorem length_combBytes (s : State) (lo n : Nat) : (combBytes s lo n).length = n := memBytes_length _ lo n

/-- R135: what a load of some bytes gives a register. -/
theorem extendBytes_eq (signed : Bool) (z : BitVec 2) {bs : List Byte} (h : bs.length = 2 ^ z.toNat) :
    extendBytes signed bs = extended signed z bs := by
  rw [extendBytes, extended, littleEndian_eq]
  split
  · rw [signedOf_eq_toInt, h]
    rfl
  · rfl

/-- R226, R355: a range that is not empty is poisoned where it touches a bad word. -/
theorem combPoison_iff {s : State} {lo n : Nat} (hn : 0 < n) : combPoison s lo n = true ↔ CombBad s lo n := by
  have hn' : (n != 0) = true := by simpa using hn.ne'
  simp only [combPoison, anyMarked, hn', Bool.true_and, List.any_eq_true, Bool.and_eq_true, decide_eq_true_eq, CombBad]
  constructor
  · rintro ⟨k, hk, hlo, hhi⟩
    refine ⟨max lo (8 * k) - lo, by omega, ?_⟩
    rwa [show (lo + (max lo (8 * k) - lo)) / 8 = k by omega]
  · rintro ⟨i, hi, hbad⟩
    exact ⟨_, hbad, by omega, by omega⟩

/-! ## Checks -/

theorem loadable_iff {st : CellState} : loadable st = true ↔ st = .full ∨ st = .draining := by simp [loadable]
theorem storable_iff {st : CellState} : storable st = true ↔ st = .empty ∨ st = .full := by simp [storable]

theorem cellAddr_toNat (c : BitVec 6) : cellAddr c.toNat = c.setWidth 64 := BitVec.ofNat_toNat 64 c

theorem tagMismatch_iff {s : State} {n : Nat} :
    (tagMismatch (cell s n) && s.before.relief != codeSchedule) = true ↔ ¬ TagPasses s n := by
  simp only [tagMismatch, TagPasses, codeSchedule, Bool.and_eq_true, bne_iff_ne]
  tauto

section checks
variable {s : State} {c : BitVec 6} {z : BitVec 2} {off : Int} {store : Bool}

theorem cellCheck_eq : cellCheck s.before c.toNat off (sizeBytes z) (sizeBytes z) store =
    if (!(if store then storable (cell s c.toNat).state else loadable (cell s c.toNat).state)) = true then some codeCellState
    else if (decide (off < 0) || decide (((cell s c.toNat).size : Int) < off + (2 ^ z.toNat : Nat)) ||
      off % ((2 ^ z.toNat : Nat) : Int) != 0) = true then some codeCellBounds
    else if (!store && tagMismatch (cell s c.toNat) && s.before.relief != codeSchedule) = true then some codeSchedule
    else none := rfl

theorem outOfCell_iff : (decide (off < 0) || decide (((cell s c.toNat).size : Int) < off + (2 ^ z.toNat : Nat)) ||
    off % ((2 ^ z.toNat : Nat) : Int) != 0) = true ↔ OutOfCell s c z off := by
  simp [OutOfCell, or_assoc]

theorem not_outOfCell (h0 : 0 ≤ off) (h1 : off + (2 ^ z.toNat : Nat) ≤ (cell s c.toNat).size)
    (h2 : off % ((2 ^ z.toNat : Nat) : Int) = 0) : ¬ OutOfCell s c z off := by
  push_cast at h1 h2
  rintro (h | h | h)
  · exact absurd h0 h.not_ge
  · exact absurd h1 h.not_ge
  · exact h h2

/-! ### Loads -/

theorem loadCheck_state (h : ¬ loadable (cell s c.toNat).state = true) :
    cellCheck s.before c.toNat off (sizeBytes z) (sizeBytes z) false = some codeCellState := by
  rw [cellCheck_eq, if_pos (by simpa using h)]

theorem loadCheck_bounds (h : loadable (cell s c.toNat).state = true) (hout : OutOfCell s c z off) :
    cellCheck s.before c.toNat off (sizeBytes z) (sizeBytes z) false = some codeCellBounds := by
  rw [cellCheck_eq, if_neg (by simpa using h), if_pos (outOfCell_iff.mpr hout)]

theorem loadCheck_tag (h : loadable (cell s c.toNat).state = true) (hin : ¬ OutOfCell s c z off)
    (htag : ¬ TagPasses s c.toNat) :
    cellCheck s.before c.toNat off (sizeBytes z) (sizeBytes z) false = some codeSchedule := by
  rw [cellCheck_eq, if_neg (by simpa using h), if_neg (mt outOfCell_iff.mp hin), Bool.not_false, Bool.true_and,
    if_pos (tagMismatch_iff.mpr htag)]

theorem loadCheck_none (h : MayLoad s c.toNat off (2 ^ z.toNat) (2 ^ z.toNat)) :
    cellCheck s.before c.toNat off (sizeBytes z) (sizeBytes z) false = none := by
  obtain ⟨hready, h0, h1, h2, htag⟩ := h
  have hload := loadable_iff.mpr hready
  rw [cellCheck_eq, if_neg (by simpa using hload), if_neg (mt outOfCell_iff.mp (not_outOfCell h0 h1 h2)), Bool.not_false,
    Bool.true_and, if_neg (mt tagMismatch_iff.mp (not_not.mpr htag))]

/-! ### Stores -/

theorem storeCheck_state (h : ¬ storable (cell s c.toNat).state = true) :
    cellCheck s.before c.toNat off (sizeBytes z) (sizeBytes z) true = some codeCellState := by
  rw [cellCheck_eq, if_pos (by simpa using h)]

theorem storeCheck_bounds (h : storable (cell s c.toNat).state = true) (hout : OutOfCell s c z off) :
    cellCheck s.before c.toNat off (sizeBytes z) (sizeBytes z) true = some codeCellBounds := by
  rw [cellCheck_eq, if_neg (by simpa using h), if_pos (outOfCell_iff.mpr hout)]

theorem storeCheck_none (h : MayStore s c.toNat off (2 ^ z.toNat) (2 ^ z.toNat)) :
    cellCheck s.before c.toNat off (sizeBytes z) (sizeBytes z) true = none := by
  obtain ⟨hready, h0, h1, h2⟩ := h
  have hstore := storable_iff.mpr hready
  rw [cellCheck_eq, if_neg (by simpa using hstore), if_neg (mt outOfCell_iff.mp (not_outOfCell h0 h1 h2))]
  rfl

end checks

/-! ## Waits and the tag check -/

theorem noteCombWaits_eq (s : State) (lo n : Nat) (writes : Bool) :
    noteCombWaits lo n writes s = s.onIssue fun i => { i with waits := i.waits ++ combWaits s lo n writes } := by
  unfold noteCombWaits combWaits
  cases combHazard s.before lo n writes <;> cases h : combBusy s.before lo n writes <;>
    simp [State.onIssue, noteWait, h]

section quiet
variable {s u : State} {regs : List Reg} {waits : List Wait}

/-- R178, R306: what a comb access waits for. -/
theorem quiet_noteCombWaits (h : Quiet s u regs []) (lo n : Nat) (writes : Bool) :
    Quiet s (noteCombWaits lo n writes u) regs (combWaits s lo n writes) := by
  have hbefore : u.before = s.before := h.keeps.1
  have hwaits : combWaits u lo n writes = combWaits s lo n writes := by rw [combWaits, combWaits, hbefore]
  have hnotes : NotesWaits u (noteCombWaits lo n writes u) [] [] (combWaits s lo n writes) := by
    rw [noteCombWaits_eq, hwaits]
    simp [NotesWaits]
  have hall := notesWaits_trans h.notes hnotes
  rw [List.append_nil] at hall
  rw [noteCombWaits_eq] at hall ⊢
  exact ⟨keeps_onIssue h.keeps _, hall, h.core⟩

/-- R232: the first local load of a cell clears its check. -/
theorem quiet_clearCheck (h : Quiet s u regs waits) {n : Nat} (hclean : CellUntouched s n) :
    Quiet (checkCleared s n) (clearCheck n u) regs waits := by
  have hbefore : u.before = s.before := h.keeps.1
  have hsame : cellOf u.core n = cellOf u.before n := by rw [h.core, hbefore, hclean]
  have hcell : cellOf s.core n = cell s n := hclean
  rw [clearCheck, if_pos hsame]
  refine ⟨keeps_onCore h.keeps _, h.notes, ?_⟩
  rw [State.onCore_core, h.core, hcell]
  rfl

end quiet

/-! ## Loads and stores -/

section accesses
variable {s u : State} {regs : List Reg} {i : Instr} {r c : BitVec 6} {z : BitVec 2} {off : Int} {signed : Bool}

theorem cellAccess_fault {n len align : Nat} {store : Bool} {effect : Nat → State → State} {code : BitVec 8}
    (h : cellCheck u.before n off len align store = some code) :
    cellAccess n off len align store effect u = raiseFault code (cellAddr n) u := by
  rw [cellAccess, h]

theorem cellAccess_passes {n len align : Nat} {store : Bool} {effect : Nat → State → State}
    (h : cellCheck u.before n off len align store = none) :
    cellAccess n off len align store effect u =
      let lo := (cellOf u.before n).base + off.toNat
      effect lo (if store then noteCombWaits lo len store u else clearCheck n (noteCombWaits lo len store u)) := by
  rw [cellAccess, h]

theorem combLoad_eq (hu : Quiet s u regs []) (hclean : CellUntouched s c.toNat)
    (hmay : MayLoad s c.toNat off (2 ^ z.toNat) (2 ^ z.toNat)) {lo : Nat} (hlo : lo = (cell s c.toNat).base + off.toNat) :
    combLoad signed r c z off u =
      landScalar r { bits := extended signed z (combBytes s lo (2 ^ z.toNat)), poison := combPoison s lo (2 ^ z.toNat) }
        noFlags 3 none (clearCheck c.toNat (noteCombWaits lo (2 ^ z.toNat) false u)) := by
  have hbefore : u.before = s.before := hu.keeps.1
  have hafter : (clearCheck c.toNat (noteCombWaits lo (2 ^ z.toNat) false u)).before = s.before :=
    (quiet_clearCheck (quiet_noteCombWaits hu lo (2 ^ z.toNat) false) hclean).keeps.1
  have hbits : extendBytes signed (memBytes s.before.comb lo (2 ^ z.toNat)) =
      extended signed z (combBytes s lo (2 ^ z.toNat)) := extendBytes_eq signed z (length_combBytes s lo _)
  have hbase : (cellOf s.before c.toNat).base + off.toNat = lo := hlo.symm
  rw [combLoad, cellAccess_passes (by rw [hbefore]; exact loadCheck_none hmay), hbefore]
  simp only [Bool.false_eq_true, if_false, hbase, combRead, combPoison, sizeBytes, hafter, hbits]

/-- R135: a load that passes its checks. -/
theorem combLoads_of_runs (hx : exec i s = .next (combLoad signed r c z off u)) (hu : Quiet s u regs [])
    (hclean : CellUntouched s c.toNat) (hmay : MayLoad s c.toNat off (2 ^ z.toNat) (2 ^ z.toNat)) :
    CombLoads s i signed r c z off regs := by
  obtain ⟨lo, hlo⟩ : ∃ lo, lo = (cell s c.toNat).base + off.toNat := ⟨_, rfl⟩
  have hq := quiet_clearCheck (quiet_noteCombWaits hu lo (2 ^ z.toNat) false) hclean
  obtain ⟨hkeeps, hlands⟩ := hq.lands r (extended signed z (combBytes s lo (2 ^ z.toNat))) (combPoison s lo (2 ^ z.toNat))
    noFlags 3 none
  rw [combLoad_eq hu hclean hmay hlo] at hx
  subst hlo
  exact ⟨_, _, hx, hkeeps, combPoison_iff (by positivity), hlands⟩

theorem combStore_clean (hu : Quiet s u regs []) (hp : poisoned s r = false) : combStore r c z off u =
    cellAccess c.toNat off (sizeBytes z) (sizeBytes z) true
      (fun lo t => combWrite lo (toBytes (sizeBytes z) (value s r).toNat) t) (noteReads [sourceReg r] u) := by
  have hbefore : u.before = s.before := hu.keeps.1
  rw [combStore, hbefore]
  exact if_neg (ne_true_of_eq_false hp)

theorem combStore_eq (hu : Quiet s u regs []) (hp : poisoned s r = false)
    (hmay : MayStore s c.toNat off (2 ^ z.toNat) (2 ^ z.toNat)) {lo : Nat} (hlo : lo = (cell s c.toNat).base + off.toNat) :
    combStore r c z off u =
      combWrite lo ((List.range (2 ^ z.toNat)).map fun k => (value s r).extractLsb' (8 * k) 8)
        (noteCombWaits lo (2 ^ z.toNat) true (noteReads [sourceReg r] u)) := by
  have hbefore : (noteReads [sourceReg r] u).before = s.before := hu.keeps.1
  have hbase : (cellOf s.before c.toNat).base + off.toNat = lo := hlo.symm
  rw [combStore_clean hu hp, cellAccess_passes (by rw [hbefore]; exact storeCheck_none hmay), hbefore]
  simp only [if_true, hbase, toBytes_extract, sizeBytes]

/-- R136, R226: the bytes stored, and the words whose error they clear. -/
theorem combStored_combWrite {t : State} (hcore : t.core = s.core) (hwf : Memory.wf s.core.comb = true) (lo : Nat)
    (bs : List Byte) : CombStored s (combWrite lo bs t) lo bs := by
  rw [CombStored, combWrite, State.onCore_core, hcore]
  refine ⟨memByte_setBytes hwf, fun w => ?_, setBytes_wf hwf, rfl⟩
  rw [mem_unmarked]

/-- R136: a store that passes its checks. -/
theorem combStores_of_runs (hx : exec i s = .next (combStore r c z off u)) (hu : Quiet s u regs [])
    (hp : poisoned s r = false) (hwf : Memory.wf s.core.comb = true)
    (hmay : MayStore s c.toNat off (2 ^ z.toNat) (2 ^ z.toNat)) :
    CombStores s i r c z off (regs ++ [sourceReg r]) := by
  have hq := quiet_noteCombWaits (hu.noteReads [sourceReg r]) ((cell s c.toNat).base + off.toNat) (2 ^ z.toNat) true
  rw [combStore_eq hu hp hmay rfl] at hx
  exact ⟨_, hx, keeps_onCore hq.keeps _, combStored_combWrite hq.core hwf _ _, hq.notes⟩

/-! ## Accesses turned away -/

/-- A fault of a cell's checks, with the cell's number as its address (R351). -/
theorem cellFaults (hu : Quiet s u regs []) {store : Bool} {effect : Nat → State → State} {code : BitVec 8}
    (hx : exec i s = .next (cellAccess c.toNat off (sizeBytes z) (sizeBytes z) store effect u))
    (h : cellCheck s.before c.toNat off (sizeBytes z) (sizeBytes z) store = some code) :
    Faults s i code (c.setWidth 64) regs := by
  have hbefore : u.before = s.before := hu.keeps.1
  rw [cellAccess_fault (by rw [hbefore]; exact h), cellAddr_toNat] at hx
  exact hu.faults hx

theorem loadTurnedAway_of_runs (hx : exec i s = .next (combLoad signed r c z off u)) (hu : Quiet s u regs []) :
    LoadTurnedAway s i c z off regs :=
  ⟨fun h => cellFaults hu hx (loadCheck_state (mt loadable_iff.mp h)),
    fun h hout => cellFaults hu hx (loadCheck_bounds (loadable_iff.mpr h) hout),
    fun h hin htag => cellFaults hu hx (loadCheck_tag (loadable_iff.mpr h) hin htag)⟩

theorem storeTurnedAway_of_runs (hx : exec i s = .next (combStore r c z off u)) (hu : Quiet s u regs [])
    (hp : poisoned s r = false) : StoreTurnedAway s i c z off (regs ++ [sourceReg r]) := by
  rw [combStore_clean hu hp] at hx
  exact ⟨fun h => cellFaults (hu.noteReads _) hx (storeCheck_state (mt storable_iff.mp h)),
    fun h hout => cellFaults (hu.noteReads _) hx (storeCheck_bounds (storable_iff.mpr h) hout)⟩

/-- R134: poisoned data is consumed. -/
theorem storePoisoned_of_runs (hx : exec i s = .next (combStore r c z off u)) (hu : Quiet s u regs [])
    (hp : poisoned s r = true) : Faults s i 0x16 0 (regs ++ [sourceReg r]) := by
  have hbefore : u.before = s.before := hu.keeps.1
  refine (hu.noteReads [sourceReg r]).faults (hx.trans ?_)
  rw [combStore, hbefore]
  exact congrArg Host.Outcome.next (if_pos hp)

end accesses

end Sys2Proof.Machine
end

section
/-!
The loads and stores of SCM (R133 to R136): each runs as one access to a cell, whose effect or whose first failing check decides.
-/

namespace Sys2Proof.Machine
open Claims (Keeps Faults MayLoad MayStore CellUntouched CombLoads CombStores LoadTurnedAway StoreTurnedAway immediateOffset indexedAt
  Source Destination GuardTrue value poisoned)

section forms
variable {s : State} {r c x : BitVec 6} {z : BitVec 2} {i : BitVec 10} {j : BitVec 4} {k : Option Lend} {l : Lend}

/-! ## Offsets -/

theorem immediateOffset_eq : (immBits i k * sizeBytes z : Int) = immediateOffset i k z := by
  cases k with
  | none => simp [immediateOffset, sizeBytes, immBits_none]
  | some h => simp [immediateOffset, sizeBytes, immBits_some]

theorem indexedOffset_eq : indexedOffset s.before x j z = indexedAt s x j z := by
  rw [indexedOffset, indexedAt, sizeBytes, Nat.cast_pow]
  rfl

/-! ## Index registers -/

/-- What an access through an index register has noted before its checks. -/
def indexNoted (s : State) (x : BitVec 6) (l : Lend) : State := noteReads [sourceReg x] (noteReads [guardReg l] s)

/-- R134: what an index register and its poison make of an access. -/
def indexed (s : State) (x : BitVec 6) (l : Lend) (access : State → State) : State :=
  if poisoned s x = true then raiseFault codePoison 0 (indexNoted s x l) else access (indexNoted s x l)

theorem quiet_indexNoted (s : State) (x : BitVec 6) (l : Lend) : Quiet s (indexNoted s x l) [guardReg l, sourceReg x] [] :=
  (quiet_noteReads s [guardReg l]).noteReads [sourceReg x]

theorem indexed_clean (hp : poisoned s x = false) (access : State → State) :
    indexed s x l access = access (indexNoted s x l) := if_neg (ne_true_of_eq_false hp)

theorem indexed_poisoned {form : Instr} {access : State → State} (hx : exec form s = .next (indexed s x l access))
    (hp : poisoned s x = true) : Faults s form 0x16 0 [guardReg l, sourceReg x] :=
  (quiet_indexNoted s x l).faults (hx.trans (congrArg Host.Outcome.next (if_pos hp)))

/-! ## How each form runs -/

theorem load_runs (hr : Destination r) :
    exec (.ldcImm r c z i k) s = .next (combLoad false r c z (immediateOffset i k z) s) ∧
    exec (.ldcxImm r c z i k) s = .next (combLoad true r c z (immediateOffset i k z) s) := by
  rw [← immediateOffset_eq]
  exact ⟨congrArg Host.Outcome.next (unguarded_true (dstOk_iff.mpr hr) _),
    congrArg Host.Outcome.next (unguarded_true (dstOk_iff.mpr hr) _)⟩

theorem store_runs (hr : Source r) : exec (.stcImm r c z i k) s = .next (combStore r c z (immediateOffset i k z) s) := by
  rw [← immediateOffset_eq]
  exact congrArg Host.Outcome.next (unguarded_true (srcOk_iff.mpr hr) _)

theorem indexedLoad_runs (hr : Destination r) (hx : Source x) (hg : GuardTrue s l) :
    exec (.ldcIndexed r c z x j l) s = .next (indexed s x l (combLoad false r c z (indexedAt s x j z))) ∧
    exec (.ldcxIndexed r c z x j l) s = .next (indexed s x l (combLoad true r c z (indexedAt s x j z))) := by
  rw [← indexedOffset_eq]
  exact ⟨congrArg Host.Outcome.next (guarded_true (legal_one_source.mpr ⟨hr, hx⟩) hg r 3 _),
    congrArg Host.Outcome.next (guarded_true (legal_one_source.mpr ⟨hr, hx⟩) hg r 3 _)⟩

theorem indexedStore_runs (hr : Source r) (hx : Source x) (hg : GuardTrue s l) :
    exec (.stcIndexed r c z x j l) s = .next (indexed s x l (combStore r c z (indexedAt s x j z))) := by
  rw [← indexedOffset_eq]
  exact congrArg Host.Outcome.next (guarded_true (legal_sources.mpr ⟨hr, hx⟩) hg 0 1 _)

theorem indexedLoad_loads {form : Instr} {signed : Bool}
    (hx : exec form s = .next (indexed s x l (combLoad signed r c z (indexedAt s x j z)))) (hp : poisoned s x = false)
    (hclean : CellUntouched s c.toNat) (hmay : MayLoad s c.toNat (indexedAt s x j z) (2 ^ z.toNat) (2 ^ z.toNat)) :
    CombLoads s form signed r c z (indexedAt s x j z) [guardReg l, sourceReg x] :=
  combLoads_of_runs (hx.trans (congrArg _ (indexed_clean hp _))) (quiet_indexNoted s x l) hclean hmay

/-- R134: the poison of the index register comes before the checks of the cell. -/
theorem indexedLoad_turnedAway {form : Instr} {signed : Bool}
    (hx : exec form s = .next (indexed s x l (combLoad signed r c z (indexedAt s x j z)))) :
    (poisoned s x = true → Faults s form 0x16 0 [guardReg l, sourceReg x]) ∧
    (poisoned s x = false → LoadTurnedAway s form c z (indexedAt s x j z) [guardReg l, sourceReg x]) :=
  ⟨indexed_poisoned hx, fun hp =>
    loadTurnedAway_of_runs (hx.trans (congrArg _ (indexed_clean hp _))) (quiet_indexNoted s x l)⟩

/-- R134: the poison of the index register, then that of the data, then the checks of the cell. -/
theorem indexedStore_turnedAway {form : Instr}
    (hx : exec form s = .next (indexed s x l (combStore r c z (indexedAt s x j z)))) :
    (poisoned s x = true → Faults s form 0x16 0 [guardReg l, sourceReg x]) ∧
    (poisoned s x = false → poisoned s r = true → Faults s form 0x16 0 [guardReg l, sourceReg x, sourceReg r]) ∧
    (poisoned s x = false → poisoned s r = false →
      StoreTurnedAway s form c z (indexedAt s x j z) [guardReg l, sourceReg x, sourceReg r]) :=
  ⟨indexed_poisoned hx,
    fun hp hr => storePoisoned_of_runs (hx.trans (congrArg _ (indexed_clean hp _))) (quiet_indexNoted s x l) hr,
    fun hp hr => storeTurnedAway_of_runs (hx.trans (congrArg _ (indexed_clean hp _))) (quiet_indexNoted s x l) hr⟩

end forms

/-- Settles O10: each form runs as one access to its cell, after the poison of its index register. -/
theorem combAccessResults : Obligations.CombAccessResults := by
  unfold Obligations.CombAccessResults
  refine ⟨fun s r c z hr hclean => ⟨fun i k hmay => ?_, fun x j l hx hg hp hmay => ?_⟩,
    fun s r c z hr hpr hwf => ⟨fun i k hmay => ?_, fun x j l hx hg hp hmay => ?_⟩,
    fun s r c z => ⟨fun i k hr => ?_, fun x j l hr hx hg => ?_, fun i k hr => ?_, fun x j l hr hx hg => ?_⟩⟩
  · obtain ⟨hldc, hldcx⟩ := load_runs hr
    exact ⟨combLoads_of_runs hldc (quiet_refl s) hclean hmay, combLoads_of_runs hldcx (quiet_refl s) hclean hmay⟩
  · obtain ⟨hldc, hldcx⟩ := indexedLoad_runs hr hx hg
    exact ⟨indexedLoad_loads hldc hp hclean hmay, indexedLoad_loads hldcx hp hclean hmay⟩
  · exact combStores_of_runs (store_runs hr) (quiet_refl s) hpr hwf hmay
  · exact combStores_of_runs ((indexedStore_runs hr hx hg).trans (congrArg _ (indexed_clean hp _))) (quiet_indexNoted s x l)
      hpr hwf hmay
  · simp only [List.forall_mem_cons, List.not_mem_nil, false_implies, implies_true, and_true]
    obtain ⟨hldc, hldcx⟩ := load_runs hr
    exact ⟨loadTurnedAway_of_runs hldc (quiet_refl s), loadTurnedAway_of_runs hldcx (quiet_refl s)⟩
  · simp only [List.forall_mem_cons, List.not_mem_nil, false_implies, implies_true, and_true]
    obtain ⟨hldc, hldcx⟩ := indexedLoad_runs hr hx hg
    exact ⟨indexedLoad_turnedAway hldc, indexedLoad_turnedAway hldcx⟩
  · exact ⟨storePoisoned_of_runs (store_runs hr) (quiet_refl s), storeTurnedAway_of_runs (store_runs hr) (quiet_refl s)⟩
  · exact indexedStore_turnedAway (indexedStore_runs hr hx hg)

end Sys2Proof.Machine
end

section
/-!
The task forms of SC and `post` (R128 to R130, R204, R215, R219, R220, R291, R366).
-/

namespace Sys2Proof.Machine
open Claims (Keeps NotesWaits Pushes Faults OnlyNotes readNoted Source GuardTrue value poisoned cell combWaits combBytes CombBad TagPasses
  checkCleared CellUntouched littleEndian)

/-! ## Guarded forms without operands -/

section tasks
variable {s : State} {l : Lend}

theorem endTask_ends (hg : GuardTrue s l) : OnlyNotes s (.endTask l) { readNoted s [guardReg l] with ends := true } :=
  congrArg Host.Outcome.next (guarded_true rfl hg 0 1 _)

/-! ### Barriers -/

theorem gbar_runs (hg : GuardTrue s l) (g : BitVec 2) : exec (.gbar g l) s = .next
    (if cardGroup (taskCard s.before) g.toNat = 0 then raiseFault codeGroup 0 (noteReads [guardReg l] s)
    else notePost (.arrival (cardGroup (taskCard s.before) g.toNat)) ((noteReads [guardReg l] s).onIssue fun i =>
      { i with hold := i.hold ++ [.barrier (cardGroup (taskCard s.before) g.toNat)] })) :=
  congrArg Host.Outcome.next (guarded_true rfl hg 0 1 _)

/-- R219: an empty group slot faults. -/
theorem gbar_faults (hg : GuardTrue s l) {g : BitVec 2} (h : cardGroup (taskCard s.before) g.toNat = 0) :
    Faults s (.gbar g l) 0x1A 0 [guardReg l] :=
  (quiet_noteReads s [guardReg l]).faults ((gbar_runs hg g).trans (congrArg _ (if_pos h)))

theorem gbar_arrives (hg : GuardTrue s l) {g : BitVec 2} (h : cardGroup (taskCard s.before) g.toNat ≠ 0) :
    OnlyNotes s (.gbar g l) { readNoted s [guardReg l] with
      hold := s.issue.hold ++ [.barrier (cardGroup (taskCard s.before) g.toNat)]
      posts := s.issue.posts ++ [.arrival (cardGroup (taskCard s.before) g.toNat)] } :=
  (gbar_runs hg g).trans (congrArg _ (if_neg h))

/-! ### Waits for a cell -/

theorem wait_runs (hg : GuardTrue s l) (c : BitVec 6) : exec (.wait c l) s = .next
    (if (cell s c.toNat).state = .absent then raiseFault codeCellState (cellAddr c.toNat) (noteReads [guardReg l] s)
    else (noteReads [guardReg l] s).onIssue fun i => { i with hold := i.hold ++ [.cell c.toNat s.before.pc] }) :=
  congrArg Host.Outcome.next (guarded_true rfl hg 0 1 _)

/-- R291: an absent cell faults. -/
theorem wait_faults (hg : GuardTrue s l) {c : BitVec 6} (h : (cell s c.toNat).state = .absent) :
    Faults s (.wait c l) 0x06 (c.setWidth 64) [guardReg l] := by
  rw [← cellAddr_toNat]
  exact (quiet_noteReads s [guardReg l]).faults ((wait_runs hg c).trans (congrArg _ (if_pos h)))

theorem wait_holds (hg : GuardTrue s l) {c : BitVec 6} (h : (cell s c.toNat).state ≠ .absent) :
    OnlyNotes s (.wait c l) { readNoted s [guardReg l] with hold := s.issue.hold ++ [.cell c.toNat s.before.pc] } :=
  (wait_runs hg c).trans (congrArg _ (if_neg h))

/-! ### Traps and breakpoints -/

theorem trap_faults (hg : GuardTrue s l) (k : BitVec 15) : Faults s (.trap k l) 0x13 (k.setWidth 64) [guardReg l] :=
  (quiet_noteReads s [guardReg l]).faults (congrArg Host.Outcome.next (guarded_true rfl hg 0 1 _))

theorem brk_runs (hg : GuardTrue s l) (k : BitVec 15) : exec (.brk k l) s = .next
    (if s.before.reliefSlots.getLsbD s.issue.slot then noteReads [guardReg l] s
    else raiseFault codeBreakpoint (k.setWidth 64) (noteReads [guardReg l] s)) :=
  congrArg Host.Outcome.next (guarded_true rfl hg 0 1 _)

/-- R129: a breakpoint stops its slot, but for the issue after the resumption. -/
theorem brk_faults (hg : GuardTrue s l) (k : BitVec 15) (h : s.before.reliefSlots.getLsbD s.issue.slot = false) :
    Faults s (.brk k l) 0x14 (k.setWidth 64) [guardReg l] :=
  (quiet_noteReads s [guardReg l]).faults ((brk_runs hg k).trans (congrArg _ (if_neg (ne_true_of_eq_false h))))

theorem brk_passes (hg : GuardTrue s l) (k : BitVec 15) (h : s.before.reliefSlots.getLsbD s.issue.slot = true) :
    OnlyNotes s (.brk k l) (readNoted s [guardReg l]) :=
  (brk_runs hg k).trans (congrArg _ (if_pos h))

end tasks

/-! ## Posts -/

theorem cardPackage_eq (w : List XWord) : cardPackage w = (w.getD 1 0).getLsbD 14 := by
  rw [cardPackage, cardField, cardWord, natField, BitVec.getLsbD, Nat.testBit_eq_decide_div_mod_eq, Nat.shiftRight_eq_div_pow]
  rfl

/-- R204: the card that a `post` reads. -/
theorem combCard_eq (s : State) (off : Nat) : combCard s off =
    (List.range 32).map fun i => BitVec.ofNat 64 (littleEndian (combBytes s (off + 8 * i) 8)) := by
  simp only [littleEndian_eq]
  rfl

/-- R204, R366: the status that a `post` pushes. -/
theorem toNat_postStatus (s : State) (o : Option Origin) (card : List XWord) : (postStatus s o card).toNat =
    let p := partOf s.pkg (taskPart s.before)
    if p.draining ∨ p.stopped then 1
    else match o with
      | none => 2
      | some q => if (card.getD 1 0).getLsbD 14 then 2 else if queueFull p q then 1 else 0 := by
  simp only [postStatus, Bool.or_eq_true, cardPackage_eq]
  split
  · rfl
  · cases o with
    | none => rfl
    | some q => simp only [apply_ite BitVec.toNat]; rfl

/-- R204: what a `post` of a card with this status sends. -/
def postsOf (o : Option Origin) (card : List XWord) (st : XWord) : List Post :=
  match o with
  | some q => if st = 0 then [.card card q] else []
  | none => []

/-- The bundle sends these when it commits. -/
def notePosts (ps : List Post) (s : State) : State := s.onIssue fun i => { i with posts := i.posts ++ ps }

section posts
variable {s : State} {a : BitVec 6} {off n : Nat}

theorem notePosts_postsOf (o : Option Origin) (card : List XWord) (st : XWord) (s : State) :
    notePosts (postsOf o card st) s =
      match o with
      | some q => if st = 0 then notePost (.card card q) s else s
      | none => s := by
  cases o with
  | none => simp [notePosts, postsOf, State.onIssue]
  | some q => by_cases h : st = 0#64 <;> simp [notePosts, postsOf, notePost, State.onIssue, h]

/-- R204: a `post` that passes its checks. -/
theorem postCard_passes (k : BitVec 2) (dx dy : BitVec 6) (hp : poisoned s a = false) (hoff : off = (value s a).toNat)
    (halign : off % 64 = 0) (hle : off ≤ 0x3FF00) (hcell : cellHolding s.before off 256 = some n)
    (hready : (cell s n).state = .full ∨ (cell s n).state = .draining) (htag : TagPasses s n) (hgood : ¬ CombBad s off 256) :
    let o := postQueue s k dx.toInt dy.toInt
    let st := postStatus s o (combCard s off)
    postCard a k dx dy s = pushResult st.toNat false noFlags 4 none (notePosts (postsOf o (combCard s off) st)
      (clearCheck n (noteCombWaits off 256 false (noteReads [sourceReg a] s)))) := by
  subst hoff
  have hpoison : ¬ (readSource s.before a).poison = true := ne_true_of_eq_false hp
  have hplace : ¬ (decide ((value s a).toNat % 64 ≠ 0) || decide (0x3FF00 < (value s a).toNat)) = true := by
    simp [halign, hle]
  have hload : ¬ (!loadable (cell s n).state) = true := by simp [loadable_iff.mpr hready]
  have hsame : ¬ (tagMismatch (cell s n) && s.before.relief != codeSchedule) = true := mt tagMismatch_iff.mp (not_not.mpr htag)
  have hclean : ¬ combPoison s (value s a).toNat 256 = true := mt (combPoison_iff (by decide)).mp hgood
  have hholds : cellHolding s.before (readSource s.before a).bits.toNat 256 = some n := hcell
  intro o st
  refine (if_neg hpoison).trans ((if_neg hplace).trans ?_)
  simp only [noteReads_before, hholds]
  refine (if_neg hload).trans ((if_neg hsame).trans ((if_neg hclean).trans ?_))
  rw [notePosts_postsOf]
  rfl

theorem postsOf_eq (o : Option Origin) (card : List XWord) (st : XWord) :
    postsOf o card st = match o with | some q => if st.toNat = 0 then [.card card q] else [] | none => [] := by
  have hzero : st = 0 ↔ st.toNat = 0 := (BitVec.toNat_inj (y := 0#64)).symm
  simp only [postsOf, hzero]

/-- A status pushed and a card sent, once the registers and the waits are noted. -/
theorem Quiet.posts {v u : State} {regs : List Reg} {waits : List Wait} (h : Quiet v u regs waits) (st : Nat) (ps : List Post) :
    let t := pushResult st false noFlags 4 none (notePosts ps u)
    Keeps v t ∧ Pushes v t st false 0 4 none ∧
      t.issue = { readNoted v regs with waits := v.issue.waits ++ waits, posts := v.issue.posts ++ ps } := by
  refine ⟨keeps_pushResult (keeps_onIssue h.keeps _) .., pushes_pushResult h.core (notesWaits_slot h.notes) .., ?_⟩
  have hnotes := h.notes
  rw [NotesWaits] at hnotes
  rw [pushResult_issue, notePosts, State.onIssue_issue, hnotes, List.append_nil]
  rfl

end posts

/-- Settles O9: each form by the equation of its body under a true guard; a `post` by its checks, passed in order, and the
notes, the push and the sending that remain. -/
theorem taskAndPostResults : Obligations.TaskAndPostResults := by
  unfold Obligations.TaskAndPostResults
  refine ⟨⟨fun s => rfl, fun s m => ⟨rfl, rfl⟩, fun s l g c k hg => ⟨endTask_ends hg, gbar_faults hg, gbar_arrives hg,
    wait_faults hg, wait_holds hg, trap_faults hg k, brk_faults hg k, brk_passes hg k⟩⟩, ?_⟩
  intro s a y x k l ha hg hp off n hoff halign hle hcell huntouched hready htag hgood
  have hx : exec (.post a y x k l) s = .next (postCard a k x y (noteReads [guardReg l] s)) :=
    congrArg Host.Outcome.next (guarded_true (srcOk_iff.mpr ha) hg 32 4 _)
  have hq := quiet_clearCheck (quiet_noteCombWaits ((quiet_noteReads s [guardReg l]).noteReads [sourceReg a]) off 256 false)
    huntouched
  have hrun := hx.trans (congrArg Host.Outcome.next
    (postCard_passes (s := noteReads [guardReg l] s) k x y hp hoff halign hle hcell hready htag hgood))
  obtain ⟨hkeeps, hpushes, hissue⟩ := hq.posts (postStatus s (postQueue s k x.toInt y.toInt) (combCard s off)).toNat
    (postsOf (postQueue s k x.toInt y.toInt) (combCard s off) (postStatus s (postQueue s k x.toInt y.toInt) (combCard s off)))
  refine ⟨_, _, hrun, hkeeps, hpushes, ?_, hissue.trans ?_⟩
  · rw [toNat_postStatus, combCard_eq]
    rfl
  · rw [postsOf_eq, combCard_eq]
    rfl

end Sys2Proof.Machine
end
